-- ==== Sys2Proof/Word.lean ====
section
/-! DEFINITION. The words the GM-8032 is described in (spec/00, R12 to R15). -/

namespace Sys2Proof

/-- One byte of memory, of a message or of a flit. -/
abbrev Byte := BitVec 8
/-- A 16-bit word. -/
abbrev W16 := BitVec 16
/-- A 32-bit word. -/
abbrev W32 := BitVec 32
/-- A 64-bit word. -/
abbrev W64 := BitVec 64
/-- A binary32 value by its code (R53). -/
abbrev F32 := BitVec 32
/-- An accumulator value by its code (R53, R56). -/
abbrev A34 := BitVec 34

end Sys2Proof
end

