-- ==== Sys2Proof/Syntax.lean ====
section
/-! DEFINITION. The commands of the GM-8032: one constructor for each row of spec/opcode_table.json, with the operands the
command brings from outside (INVENTORY.md, Instructions; notes/assumptions/2.md). -/

namespace Sys2Proof

/-- The 64 bytes of a descriptor, as the eight little-endian words fetched from a submission ring (R531, R539). -/
structure Desc where
  w0 : W64
  w1 : W64
  w2 : W64
  w3 : W64
  w4 : W64
  w5 : W64
  w6 : W64
  w7 : W64
  deriving DecidableEq, Repr, Inhabited

/-- The two paths to the object dictionary (spec/16). -/
inductive Path where
  | carard
  | field
  deriving DecidableEq, Repr, Inhabited

/-- Where an object-dictionary request comes from: its path and, on the Carard link, the TAG of its OD_REQ (R583, R618). -/
inductive Asker where
  | carard (tag : BitVec 12)
  | field
  deriving DecidableEq, Repr, Inhabited

/-- A link: the Carard link or an avenue (spec/15). -/
inductive LinkId where
  | cl
  | av (n : Fin 8)
  deriving DecidableEq, Repr, Inhabited

/-- A block that can be reset, disabled and enabled alone (R690). -/
inductive UnitId where
  | district (n : Fin 8)
  | plaza (n : Fin 64)
  | kiosk (n : Fin 256)
  | stack (n : Fin 32)
  | avenue (n : Fin 8)
  deriving DecidableEq, Repr, Inhabited

/-- A weight version slot or an adapter slot (R264, R277). -/
inductive SlotId where
  | version (n : Fin 4)
  | adapter (n : Fin 256)
  deriving DecidableEq, Repr, Inhabited

/-- Why a received flit is discarded: its CRC fails, its TYPE is reserved, or it is a sequenced flit out of order (R572, R574). -/
inductive BadFlit where
  | crc
  | reservedType
  | outOfOrder
  deriving DecidableEq, Repr, Inhabited

/-- The payload of an INIT flit (R578). -/
structure InitMsg where
  proto : W32
  role : Byte
  pos : Byte
  board : Byte
  seen : Bool
  incarnation : W64
  grants : List W32
  cbytes : W64
  deriving DecidableEq, Repr, Inhabited

/-- An avenue packet with its header fields (R594). -/
structure Packet where
  srcBoard : Byte
  srcPos : BitVec 5
  dstBoard : Byte
  dstPos : BitVec 5
  hop : Bool
  vl : BitVec 3
  ptype : Byte
  groupId : W32
  epoch : W32
  obj : W32
  offset : W64
  payload : List Byte
  deriving DecidableEq, Repr, Inhabited

/-- Shape and formats of one bucket entry, as members compare them (R415). -/
structure EntryShape where
  inFmt : Nat
  outFmt : Nat
  rows : Nat
  cols : Nat
  rank : Nat
  deriving DecidableEq, Repr, Inhabited

/-- What members of a group compare before an exchange (R415 for REDUCE, R462 for GATHER). -/
inductive PeerFields where
  | reduce (op mode trigger : Nat) (epoch stream bucketId : W32) (nent bytes : Nat) (entry : Nat)
      (entries : List EntryShape)
  | gather (epoch : W32) (blocks fmt : Nat) (cscale : Option F32)
  deriving DecidableEq, Repr, Inhabited

/-- Where a packet of the reduction engine or the roundabout belongs: its group and plan step, the logical rank (or board) it
comes from, the bucket or block count it names, the round of a thinned entry, and its first element; `hop` and `bytes` are its HOP and LEN
(R594, R595; the payload formats are not in the manual, notes/assumptions/17.md). -/
structure PeerMsg where
  hop : Bool
  bytes : Nat
  groupId : W32
  epoch : W32
  obj : W32
  rank : Nat
  round : Nat
  entry : Nat
  first : Nat
  deriving DecidableEq, Repr, Inhabited

/-- A frame of the field segment: addresses, EtherType and the bytes after it (R620, R621). -/
structure FieldFrame where
  dst : BitVec 48
  src : BitVec 48
  etherType : W16
  bytes : List Byte
  deriving DecidableEq, Repr, Inhabited

/-- The commands, one for each row of spec/opcode_table.json, in its order. -/
inductive Instr where
  /-- TURN (R39): A TURN descriptor starts: it is authenticated, its sequence and transition are checked, and if accepted the drain of
  the current turn begins. -/
  | turn (qp : Fin 64) (d : Desc)
  /-- TURN_WAIT_RESUME (R38): A TURN that waited behind another TURN in transition is checked for its sequence and transition once that
  one completes. -/
  | turnWaitResume
  /-- TURN_ENTRY (R40): The drain ends and the module enters the target turn state, updates 2200, completes the TURN and releases the
  descriptors it held. -/
  | turnEntry (slowCycles : W64)
  /-- TURN_DRAIN_TIMEOUT (R36): The drain timeout of an accepted TURN expires; the TURN completes TIMEOUT, the turn is unchanged, held
  descriptors are released and suspended sequences resume. -/
  | turnDrainTimeout
  /-- TILE (R98): A plain-mode TILE starts, is checked, and forms its products over panels and the fixed junction tree before draining
  into Y. -/
  | tile (qp : Fin 64) (d : Desc)
  /-- TERRACE_OPEN (R108): A terrace-mode TILE with PANEL_BASE 0 opens a terrace tile and adds its panels. -/
  | terraceOpen (qp : Fin 64) (d : Desc)
  /-- TERRACE_CONTRIBUTE (R109): A terrace-mode TILE with PANEL_BASE above 0 adds its panels to the open terrace tile at T_ROW. -/
  | terraceContribute (qp : Fin 64) (d : Desc)
  /-- TERRACE_CLOSE (R112): A terrace-mode TILE with LAST or DRAIN_NOW closes the tile, flushes its level groups and drains the sum
  into Y. -/
  | terraceClose (qp : Fin 64) (d : Desc)
  /-- FUSED_PAIR (R728): Two adjacent descriptors forming a PRE or POST pair are checked together and started as one, once TAIL covers
  both. -/
  | fusedPair (qp : Fin 64) (d1 d2 : Desc)
  /-- CONVERT (R152): KERNEL 0x0101 converts each element into the output format. -/
  | convert (qp : Fin 64) (d : Desc)
  /-- AMAX (R152): KERNEL 0x0102 writes the largest magnitude of each row. -/
  | amax (qp : Fin 64) (d : Desc)
  /-- RESIDUAL_ADD (R152): KERNEL 0x0103 adds two operands element by element. -/
  | residualAdd (qp : Fin 64) (d : Desc)
  /-- RMSNORM_FWD (R153): KERNEL 0x0201 computes RMS normalisation forward and writes y and r. -/
  | rmsnormFwd (qp : Fin 64) (d : Desc)
  /-- RMSNORM_BWD (R154): KERNEL 0x0202 computes dx and adds into the dγ accumulator. -/
  | rmsnormBwd (qp : Fin 64) (d : Desc)
  /-- LAYERNORM_FWD (R153): KERNEL 0x0203 computes layer normalisation forward and writes y, μ and r. -/
  | layernormFwd (qp : Fin 64) (d : Desc)
  /-- LAYERNORM_BWD (R154): KERNEL 0x0204 computes dx and adds into the dγ and dβ accumulators. -/
  | layernormBwd (qp : Fin 64) (d : Desc)
  /-- SOFTMAX_FWD (R155): KERNEL 0x0301 computes the soft-maximum and lse of each row. -/
  | softmaxFwd (qp : Fin 64) (d : Desc)
  /-- SOFTMAX_BWD (R155): KERNEL 0x0302 computes the soft-maximum backward. -/
  | softmaxBwd (qp : Fin 64) (d : Desc)
  /-- TOKEN_LOGPROB (R155): KERNEL 0x0303 writes the log-probability and lse of each row's token. -/
  | tokenLogprob (qp : Fin 64) (d : Desc)
  /-- TOKEN_LOGPROB_BWD (R155): KERNEL 0x0304 writes the logit gradient of the token log-probability. -/
  | tokenLogprobBwd (qp : Fin 64) (d : Desc)
  /-- SWIGLU_FWD (R157): KERNEL 0x0401 computes the SwiGLU activation. -/
  | swigluFwd (qp : Fin 64) (d : Desc)
  /-- SWIGLU_BWD (R157): KERNEL 0x0402 computes the SwiGLU backward. -/
  | swigluBwd (qp : Fin 64) (d : Desc)
  /-- GELU_FWD (R157): KERNEL 0x0403 computes the GELU activation. -/
  | geluFwd (qp : Fin 64) (d : Desc)
  /-- GELU_BWD (R157): KERNEL 0x0404 computes the GELU backward. -/
  | geluBwd (qp : Fin 64) (d : Desc)
  /-- ROPE (R158): KERNEL 0x0501 applies the rotary encoding to each head row. -/
  | rope (qp : Fin 64) (d : Desc)
  /-- DROPOUT (R159): KERNEL 0x0601 keeps or zeroes each element by a position-addressed Bernoulli draw. -/
  | dropout (qp : Fin 64) (d : Desc)
  /-- FILL_UNIFORM (R160): KERNEL 0x0602 fills the output with uniform draws between lo and hi. -/
  | fillUniform (qp : Fin 64) (d : Desc)
  /-- FILL_NORMAL (R160): KERNEL 0x0603 fills the output with normal draws. -/
  | fillNormal (qp : Fin 64) (d : Desc)
  /-- ORTHONORM (R161): KERNEL 0x0701 orthonormalises the r columns of P by modified Gram-Schmidt. -/
  | orthonorm (qp : Fin 64) (d : Desc)
  /-- ATTN_FORWARD (R187): An ATTN with PASS 0 appends if asked and computes the attention output and LSE with the online soft-maximum. -/
  | attnForward (qp : Fin 64) (d : Desc)
  /-- ATTN_BACKWARD (R201): An ATTN with PASS 1 recomputes scores and writes dQ and adds dK and dV into gradient pages. -/
  | attnBackward (qp : Fin 64) (d : Desc)
  /-- APPEND_ONLY (R197): An ATTN with PASS 2 writes the K and V rows of its query tokens into the pages. -/
  | appendOnly (qp : Fin 64) (d : Desc)
  /-- PROBE_WINDOW (R242): A read of 2500:04 or 2500:05 computes the filtered or raw window at the probe stream and index under the
  current seed. -/
  | probeWindow (p : Asker) (req : List Byte)
  /-- SCHEDULER_STEP (R259): In GENERATE, once the record ring has room, the scheduler runs one step: admissions, version boundary,
  pages, drafting, main plan, ends and the step batch record. -/
  | schedulerStep
  /-- SCHEDULER_RESUME (R257): A write of TRUE to 2800:02 leaves the paused state. -/
  | schedulerResume (p : Asker) (req : List Byte)
  /-- PUBLISH (R265): A VERSION PUBLISH makes a FREE version slot LIVE with its serial and view table. -/
  | publish (qp : Fin 64) (d : Desc)
  /-- RETIRE (R265): A VERSION RETIRE makes a LIVE slot RETIRING, forcing its sequences to end if FORCE is set. -/
  | retire (qp : Fin 64) (d : Desc)
  /-- LOAD_ADAPTER (R277): A VERSION LOAD_ADAPTER makes a FREE adapter slot LIVE for a key with a new generation. -/
  | loadAdapter (qp : Fin 64) (d : Desc)
  /-- RETIRE_ADAPTER (R280): A VERSION RETIRE_ADAPTER makes the key's LIVE adapter slot RETIRING. -/
  | retireAdapter (qp : Fin 64) (d : Desc)
  /-- SLOT_FREED (R265): A RETIRING version or adapter slot becomes FREE once its reference count reaches 0. -/
  | slotFreed (s : SlotId)
  /-- DRAW (R303): A SAMPLE in DRAW mode draws one token per entry from its logit row under the gate. -/
  | draw (qp : Fin 64) (d : Desc)
  /-- VERIFY (R307): A SAMPLE in VERIFY mode accepts or rejects drafts and draws the final token. -/
  | verify (qp : Fin 64) (d : Desc)
  /-- MASK_CACHE_FLUSH (R323): A write of TRUE to 2802:04 requests that the mask cache be emptied. -/
  | maskCacheFlush (p : Asker) (req : List Byte)
  /-- MASK_CACHE_FLUSH_APPLY (R323): A flush requested while a SAMPLE ran takes effect when that SAMPLE completes. -/
  | maskCacheFlushApply
  /-- UPDATE (R388): A CARE UPDATE applies the optimiser to every record of a reduced bucket. -/
  | update (qp : Fin 64) (d : Desc)
  /-- EMIT (R402): A CARE EMIT converts masters into the next working-copy buffer. -/
  | emit (qp : Fin 64) (d : Desc)
  /-- UPDATE_EMIT (R404): A CARE UPDATE_EMIT runs the update pass and then the emission pass. -/
  | updateEmit (qp : Fin 64) (d : Desc)
  /-- SCAN (R403): A CARE SCAN reads masters and writes AMAX and AVALID. -/
  | scan (qp : Fin 64) (d : Desc)
  /-- SUM (R422): A REDUCE SUM exchanges and adds a bucket's gradients in fixed logical-rank order, thinning large entries. -/
  | sum (qp : Fin 64) (d : Desc)
  /-- SUMSQ (R435): A REDUCE SUMSQ reduces the buckets' sums of squares and writes the norm cell. -/
  | sumsq (qp : Fin 64) (d : Desc)
  /-- MEANVAR (R436): A REDUCE MEANVAR reduces mean and variance and optionally normalises the inputs. -/
  | meanvar (qp : Fin 64) (d : Desc)
  /-- REDUCE_STALL_TIMEOUT (R429): A REDUCE's exchange makes no progress for 2600:04 ms and completes TIMEOUT with its header FAILED. -/
  | reduceStallTimeout (qp : Fin 64) (idx : W32)
  /-- LOAD (R452): A SHARD LOAD copies this rank's shard-map entries from companion memory into the stacks. -/
  | load (qp : Fin 64) (d : Desc)
  /-- GATHER (R461): A SHARD GATHER spreads each member's slice into the destination pair's next buffer. -/
  | gather (qp : Fin 64) (d : Desc)
  /-- GATHER_TIMEOUT (R463): A GATHER's exchange stalls for 2600:04 ms and completes TIMEOUT, leaving the old copy current. -/
  | gatherTimeout (qp : Fin 64) (idx : W32)
  /-- REBUILD (R466): A SHARD REBUILD compares a base with a policy pair and writes the delta header, directory and records. -/
  | rebuild (qp : Fin 64) (d : Desc)
  /-- PROTECT (R457): A SHARD PROTECT adds a write-protected range. -/
  | protect (qp : Fin 64) (d : Desc)
  /-- UNPROTECT (R458): A SHARD UNPROTECT removes every protected range. -/
  | unprotect (qp : Fin 64) (d : Desc)
  /-- ZERO (R475): A SHARD ZERO writes +0 to every byte of a stack region. -/
  | zero (qp : Fin 64) (d : Desc)
  /-- COPY (R518): A MOVE COPY copies LEN bytes from SRC to DST. -/
  | copy (qp : Fin 64) (d : Desc)
  /-- COPY_TENSOR (R519): A MOVE COPY_TENSOR copies a tensor into the next buffer of a pair. -/
  | copyTensor (qp : Fin 64) (d : Desc)
  /-- ARM (R520): A MOVE ARM takes a free prefetcher and starts a stream. -/
  | arm (qp : Fin 64) (d : Desc)
  /-- DISARM (R520): A MOVE DISARM ends the stream of its handle. -/
  | disarm (qp : Fin 64) (d : Desc)
  /-- PREFETCH_FETCH (R507): An armed prefetcher fetches the next lines of its stream into their district caches. -/
  | prefetchFetch (prefetcher : Fin 96) (tags : List (BitVec 12))
  /-- SCRUB_READ (R498): A ground floor reads its next codeword in the scrub pass, correcting and counting errors. -/
  | scrubRead (stack : Fin 32)
  /-- SHARE_WRITE (R489): A write to 2B00:01 or 2B00:02 changes the ALL or district share and remaps the stack region. -/
  | shareWrite (p : Asker) (req : List Byte)
  /-- INJECT (R526): A write of TRUE to 6200:03 inverts the selected stored symbols once. -/
  | inject (p : Asker) (req : List Byte)
  /-- ACCUMULATOR_WRITE (R124): A debug write to 6100:03 sets a terrace accumulator and marks an open tile ACC_DEBUG. -/
  | accumulatorWrite (p : Asker) (req : List Byte)
  /-- SELF_REFRESH_RETURN (R516): In PARK, a stack woken by a companion access returns to self-refresh after 1 ms without requests. -/
  | selfRefreshReturn (stack : Fin 32)
  /-- SUBMISSION_TAIL (R530): A doorbell of KIND 0 sets a queue pair's TAIL, or is ignored. -/
  | submissionTail (word : W64)
  /-- COMPLETION_HEAD (R530): A doorbell of KIND 1 sets a queue pair's CQHEAD, or is ignored. -/
  | completionHead (word : W64)
  /-- QUEUE_ENABLE (R534): A write to 2Cxx:04 moves the queue pair through its enable states. -/
  | queueEnable (p : Asker) (req : List Byte)
  /-- DESCRIPTOR_COMPLETE (R549): A started descriptor finishes its work and its completion record is written and PRODUCED updated. -/
  | descriptorComplete (qp : Fin 64) (idx : W32)
  /-- QUEUE_FENCE (R554): A FENCE of kind QUEUE waits for every earlier descriptor of its pair. -/
  | queueFence (qp : Fin 64) (d : Desc)
  /-- WAIT_FENCE (R554): A FENCE of kind WAIT waits until another pair has retired index W. -/
  | waitFence (qp : Fin 64) (d : Desc)
  /-- WAIT_TIMEOUT (R555): A WAIT fence not satisfied within its timeout completes TIMEOUT. -/
  | waitTimeout (qp : Fin 64) (idx : W32)
  /-- STEP_FENCE (R380): A FENCE of kind STEP waits for all started descriptors and closes the learning step. -/
  | stepFence (qp : Fin 64) (d : Desc)
  /-- DRAIN_FENCE (R554): A FENCE of kind DRAIN waits for all started descriptors while no pair starts anything. -/
  | drainFence (qp : Fin 64) (d : Desc)
  /-- INIT (R579): An INIT flit is received during training and brings the link UP, restarting flit state if the incarnation changed. -/
  | initFlit (l : LinkId) (m : InitMsg)
  /-- CRC_FAILURE (R574): A flit with failed CRC or out of order is discarded and a NAK is sent. -/
  | crcFailure (l : LinkId) (why : BadFlit)
  /-- NAK (R574): A received NAK makes the sender resend every flit after its ACK. -/
  | nak (l : LinkId) (ack : BitVec 12)
  /-- RETRY_TIMEOUT (R575): Unacknowledged flits whose ACK has not advanced for 4 µs are resent, and after 8 such resends the link
  retrains. -/
  | retryTimeout (l : LinkId)
  /-- CREDIT (R577): A received CREDIT flit returns units to the sender's pools. -/
  | credit (l : LinkId) (ack seq : BitVec 12) (returns : List W32)
  /-- CREDIT_RETURN_TIMEOUT (R577): A freed credit unit not returned within 512 ns is returned in a CREDIT flit. -/
  | creditReturnTimeout (l : LinkId)
  /-- TRAINING_TIMEOUT (R579): A training attempt not UP within 100 ms stops and restarts after 10 ms. -/
  | trainingTimeout (l : LinkId)
  /-- LINK_PLL_LOCK_LOSS (R676): A link PHY PLL loses lock and takes only its own link down to retrain. -/
  | linkPllLockLoss (l : LinkId)
  /-- DRD (R586): A companion DRD reads a 256-byte line of module memory. -/
  | drd (tag : BitVec 12) (addr : BitVec 48)
  /-- DWR (R586): A companion DWR writes bytes of module memory unless unbacked or protected. -/
  | dwr (tag : BitVec 12) (addr : BitVec 48) (data : List Byte)
  /-- SNP_INV (R591): A snoop invalidates a companion line in the district cache and is answered SNP_ACK. -/
  | snpInv (tag : BitVec 12) (addr : BitVec 48)
  /-- DATA (R592): A DATA response delivers a companion line to the RD_SHARED that asked for it. -/
  | dataResponse (tag : BitVec 12) (status : Byte) (data : List Byte)
  /-- WR_DONE (R590): A WR_DONE completes a module write to companion memory. -/
  | wrDone (tag : BitVec 12) (status : Byte)
  /-- PUT (R596): An all-to-all PUT packet writes its payload into the all-to-all window, or is discarded. -/
  | putPacket (av : Fin 8) (pk : Packet)
  /-- FORWARD (R597): A packet received with HOP 0 addressed elsewhere is forwarded with HOP 1, or discarded. -/
  | forward (av : Fin 8) (pk : Packet)
  /-- FIELDS (R415): A FIELDS packet carries a member's REDUCE or GATHER fields for comparison. -/
  | fields (av : Fin 8) (x : PeerMsg) (f : PeerFields)
  /-- CONTRIB (R423): A CONTRIB packet delivers a member's contribution to the slice owner. -/
  | contrib (av : Fin 8) (x : PeerMsg) (vals : List F32)
  /-- BOARD_SUM (R423): A BOARD_SUM packet delivers a board sum to the slice's owners on other boards, each value with whether
  every contribution to it was finite, which its owner counts by (R426; notes/assumptions/17.md). -/
  | boardSum (av : Fin 8) (x : PeerMsg) (vals : List (F32 × Bool))
  /-- REDUCTION_RESULT (R423): A RESULT packet delivers reduced values to members in MODE ALL. -/
  | reductionResult (av : Fin 8) (x : PeerMsg) (elems scales : List Byte)
  /-- COUNT (R426): A COUNT packet carries non-finite counts through the reduction tree. -/
  | count (av : Fin 8) (x : PeerMsg) (count : W32)
  /-- SLICE (R461): A SLICE packet delivers gathered working-copy bytes to the destination planes. -/
  | slice (av : Fin 8) (x : PeerMsg) (elems scales : List Byte)
  /-- PEER_STATE (R601): A PEER_STATE packet reports the neighbour's security version and limited mode. -/
  | peerState (av : Fin 8) (pk : Packet)
  /-- OFFER (R603): A firmware OFFER on the chain avenue is accepted or declined. -/
  | offer (av : Fin 8) (pk : Packet)
  /-- ACCEPT (R604): An ACCEPT lets the sender send the bundle's PART packets. -/
  | accept (av : Fin 8) (pk : Packet)
  /-- DECLINE (R603): A DECLINE ends the sender's transfer with its reason. -/
  | decline (av : Fin 8) (pk : Packet)
  /-- PART (R604): A PART packet writes bundle bytes into the receive region. -/
  | part (av : Fin 8) (pk : Packet)
  /-- END (R604): An END makes the receiver check the digest, verify the bundle, send RESULT and stage it. -/
  | endBundle (av : Fin 8) (pk : Packet)
  /-- RESULT (R604): A firmware RESULT ends the sender's transfer with its outcome. -/
  | bundleResult (av : Fin 8) (pk : Packet)
  /-- TRANSFER_TIMEOUT (R605): A firmware transfer that receives no packet for 1 s ends abandoned. -/
  | transferTimeout (sending : Bool)
  /-- FIELD_FRAME (R621): A field-segment frame for the module is queued, repeated from the kept response, or discarded. -/
  | fieldFrame (f : FieldFrame)
  /-- READ (R617): A READ request returns the value of one object. -/
  | read (p : Asker) (req : List Byte)
  /-- WRITE (R617): A WRITE request sets an object that has no step of its own. -/
  | write (p : Asker) (req : List Byte)
  /-- WRITE_AUTH (R649): An authenticated write sets an object that has no step of its own. -/
  | writeAuth (p : Asker) (req : List Byte)
  /-- KEEPALIVE (R625): A KEEPALIVE request keeps the session HELD. -/
  | keepalive (p : Asker) (req : List Byte)
  /-- OPEN (R626): An OPEN request takes or keeps the session. -/
  | openSession (p : Asker) (req : List Byte)
  /-- RELEASE (R626): A RELEASE from the holder puts the session in RELEASED. -/
  | release (p : Asker) (req : List Byte)
  /-- SESSION_LAPSE (R625): The holder's path sends no request for 2 s and the session becomes LAPSED. -/
  | sessionLapse
  /-- CLASS_SELECT (R630): A write to 2000:01 selects a unit class and sets the instance to 0. -/
  | classSelect (p : Asker) (req : List Byte)
  /-- ALERT_CLEAR (R637): A write to 1040:03 clears pending alert bits. -/
  | alertClear (p : Asker) (req : List Byte)
  /-- ALERT_MASK (R638): A write to 1040:02 changes which causes drive ALERT_N and alert messages. -/
  | alertMask (p : Asker) (req : List Byte)
  /-- ALERT (R638): An alert carrying bits gained during the 1 ms hold-off is sent to the holder's path. -/
  | alert (p : Path)
  /-- UNIT_ENABLE (R691): A write to 2100:05 or 2110:09 moves the selected unit through its enable states. -/
  | unitEnable (p : Asker) (req : List Byte)
  /-- UNIT_RESET (R688): A write of 1 to 2100:06 asks the selected unit to go idle before its reset. -/
  | unitReset (p : Asker) (req : List Byte)
  /-- UNIT_IDLE (R688): A unit asked to go idle reaches idle and is reset or disabled. -/
  | unitIdle (u : UnitId)
  /-- UNIT_IDLE_TIMEOUT (R688): A unit does not reach idle within 3100:03 and is reset anyway. -/
  | unitIdleTimeout (u : UnitId)
  /-- UNIT_RETURN (R692): A reset unit is reloaded, trained where needed and returned to service. -/
  | unitReturn (u : UnitId)
  /-- COMMAND_KEY_WRITE (R645): A write to 5000:01-04 programs a command-key slot. -/
  | commandKeyWrite (p : Asker) (req : List Byte)
  /-- REVOKE_KEY (R646): An authenticated write to 5000:05 revokes a command-key slot. -/
  | revokeKey (p : Asker) (req : List Byte)
  /-- BUILD_REPORT (R656): A write of TRUE to 5200:02 starts building a signed attestation report. -/
  | buildReport (p : Asker) (req : List Byte)
  /-- REPORT_READY (R656): The attestation report is finished and 5200:03 reads 2. -/
  | reportReady
  /-- BLOB_SELECT (R661): A write to 5100:01 selects a blob and resets the path's offset. -/
  | blobSelect (p : Asker) (req : List Byte)
  /-- STAGE (R662): A write of TRUE to 5800:01 starts staging the bundle in the receive region. -/
  | stage (p : Asker) (req : List Byte)
  /-- STAGING_COMPLETE (R663): Staging ends with the bundle staged or refused. -/
  | stagingComplete
  /-- ACTIVATE (R665): A write of 1 to 5800:06 makes the staging slot the boot slot from the next PO or SYS reset. -/
  | activate (p : Asker) (req : List Byte)
  /-- ACTIVATE_RESET (R665): A write of 2 to 5800:06 activates the staged bundle and starts a SYS reset. -/
  | activateReset (p : Asker) (req : List Byte)
  /-- ACTIVATION_CANCEL (R665): A write of 0 to 5800:06 cancels a pending activation. -/
  | activationCancel (p : Asker) (req : List Byte)
  /-- COMMIT_SECURITY_VERSION (R669): A write to 5800:08 raises the fuse security version and revokes the named Omcen keys. -/
  | commitSecurityVersion (p : Asker) (req : List Byte)
  /-- DEBUG_UNLOCK (R671): A write of 1 to 6000:01 enters debug mode. -/
  | debugUnlock (p : Asker) (req : List Byte)
  /-- DEBUG_LOCK (R671): A write of 0 to 6000:01 leaves debug mode. -/
  | debugLock (p : Asker) (req : List Byte)
  /-- DEBUG_RESET (R671): A write of TRUE to 6000:03 raises the debug request reset source. -/
  | debugReset (p : Asker) (req : List Byte)
  /-- SOFTWARE_SYS_RESET (R686): A write of TRUE to 3100:01 requests a SYS reset after the answer. -/
  | softwareSysReset (p : Asker) (req : List Byte)
  /-- SOFTWARE_CORE_RESET (R686): A write of TRUE to 3100:02 requests a CORE reset after the answer. -/
  | softwareCoreReset (p : Asker) (req : List Byte)
  /-- RESET_BEGIN (R686): A requested software, debug or activation reset begins once the response has left the module. -/
  | resetBegin
  /-- POWER_ON (R727): The input rises from off and the power-on source raises a PO reset. -/
  | powerOn
  /-- BROWN_OUT (R678): The input stays below 52 V for over 50 µs, or a core rail falls, and a PO reset is raised. -/
  | brownOut
  /-- INPUT_RECOVERED (R727): The input regains 54 V with every rail in regulation and the brown-out source ends. -/
  | inputRecovered
  /-- PIN_RESET (R684): RST_N falls from outside and a SYS reset is raised. -/
  | pinReset
  /-- WATCHDOG (R678): The watchdog is not serviced for 2 s and a SYS reset is raised. -/
  | watchdog
  /-- CLOCK_FAILURE (R676): The root PLL loses lock or REFCLK fails and a SYS reset is raised. -/
  | clockFailure
  /-- LOCK_UP (R139): A kiosk with runnable work retires no instruction for 10 ms and a CORE reset is raised. -/
  | lockUp
  /-- RESET_STRETCH_END (R683): The 10 ms reset stretch ends and the Hall domain is released to run start-up. -/
  | resetStretchEnd
  /-- RESET_RELEASE (R685): With start-up complete, clock-good TRUE and RST_N high, the work domain leaves reset. -/
  | resetRelease
  /-- POWER_ALERT (R695): The input stays outside 56-68 V for over 1 ms and the POWER alert is raised. -/
  | powerAlert
  /-- THROTTLE_CHECK (R703): Every 1 ms the hottest reading is compared with the onset and the arith duty adjusted. -/
  | throttleCheck (hottest : Int)
  /-- THERMAL_TRIP (R704): A junction reaches 120 °C and the module stops its converters. -/
  | thermalTrip
  /-- POWER_STATE_ON (R699): A write of ON to 3000:01 requests the ON power state, waking the districts from PARK. -/
  | powerStateOn (p : Asker) (req : List Byte)
  /-- POWER_STATE_IDLE (R697): A write of IDLE to 3000:01 requests the IDLE power state, waking the districts from PARK. -/
  | powerStateIdle (p : Asker) (req : List Byte)
  /-- POWER_STATE_PARK (R698): A write of PARK to 3000:01 powers off the districts and puts the stacks in self-refresh. -/
  | powerStatePark (p : Asker) (req : List Byte)
  /-- WAKE_COMPLETE (R699): The districts are powered, reset and reloaded after PARK and descriptors may start. -/
  | wakeComplete
  /-- RESERVED_CLASS_CODE (R544): A descriptor whose class code is reserved, or whose operation, mode or kernel number names nothing
  callable, starts and completes BAD_DESCRIPTOR (or BAD_SEQUENCE) doing nothing else. -/
  | reservedClassCode (qp : Fin 64) (d : Desc)
  /-- CLOCK_GOOD (R675): The root PLL regains lock and clock-good becomes TRUE while a reset waits, letting the Hall domain be released
  and start-up run. -/
  | clockGood
  /-- ACK (R573): A received flit, such as an IDLE flit, whose ACK field advances frees the acknowledged flits from the sender's retry
  buffer and restarts its retry timing. -/
  | ack (l : LinkId) (ack : BitVec 12)
  /-- FLIT_BOUNDARY_LOCATED (R579): The link PHY finishes equaliser adaptation, lane deskew and flit-boundary location, and the INIT
  exchange of training begins. -/
  | flitBoundaryLocated (l : LinkId)
  /-- INIT_SEND (R578): About every 1 µs during training a side sends an INIT flit, and sending one with SEEN set after a valid INIT
  was received brings the link UP. -/
  | initSend (l : LinkId)
  deriving DecidableEq, Repr

end Sys2Proof
end

