-- ==== Sys2Proof/Decode.lean ====
section
/-! DEFINITION. The rows of spec/opcode_table.json have no bits: no word spells a command (notes/assumptions/1.md). -/

namespace Sys2Proof

/-- The command a word spells by the table's bits. The table gives bits to no row, so there is none. -/
def decodeTableWord (_nbits _w : Nat) : Option Instr := none

end Sys2Proof
end

