-- ==== Sys2Proof/Machine/Num.lean ====
section
/-! DEFINITION. Exact numbers and the module's arithmetic on them: rounding once (R67, R70, R71), F32 operations (R142),
A34 (R67, R68), and the special functions (R144, R145, R230). -/

namespace Sys2Proof.Machine

/-- A value before rounding: NaN, an infinity, or the exact `± m · 2^e`. Zeros keep their sign (R54). -/
inductive Num where
  | nan
  | inf (neg : Bool)
  | fin (neg : Bool) (m : Nat) (e : Int)
  deriving DecidableEq, Repr, Inhabited

/-- `m · 2^k` for a shift of either sign; bits shifted below the unit are dropped. -/
def shiftBy (m : Nat) (k : Int) : Nat :=
  if 0 ≤ k then m * 2 ^ k.toNat else m / 2 ^ (-k).toNat

def Num.zero : Num := .fin false 0 0
def Num.one : Num := .fin false 1 0

def Num.isNaN : Num → Bool
  | .nan => true
  | _ => false

def Num.isInf : Num → Bool
  | .inf _ => true
  | _ => false

def Num.isFin : Num → Bool
  | .fin _ _ _ => true
  | _ => false

def Num.isZero : Num → Bool
  | .fin _ m _ => m == 0
  | _ => false

def Num.isNeg : Num → Bool
  | .nan => false
  | .inf n => n
  | .fin n _ _ => n

def Num.neg : Num → Num
  | .nan => .nan
  | .inf n => .inf (!n)
  | .fin n m e => .fin (!n) m e

def Num.abs : Num → Num
  | .nan => .nan
  | .inf _ => .inf false
  | .fin _ m e => .fin false m e

/-- Exact product: the sign is the exclusive-or of the signs (R66); zero times infinity is NaN (R69). -/
def Num.mul : Num → Num → Num
  | .nan, _ => .nan
  | _, .nan => .nan
  | .inf a, .inf b => .inf (a != b)
  | .inf a, .fin b m _ => if m = 0 then .nan else .inf (a != b)
  | .fin a m _, .inf b => if m = 0 then .nan else .inf (a != b)
  | .fin a m e, .fin b n f => .fin (a != b) (m * n) (e + f)

/-- Exact sum: zero from operands of opposite sign is +0 (R54); infinities of opposite sign give NaN (R69). -/
def Num.add : Num → Num → Num
  | .nan, _ => .nan
  | _, .nan => .nan
  | .inf a, .inf b => if a = b then .inf a else .nan
  | .inf a, .fin _ _ _ => .inf a
  | .fin _ _ _, .inf b => .inf b
  | .fin a m e, .fin b n f =>
    if m = 0 ∧ n = 0 then .fin (a && b) 0 0
    else if m = 0 then .fin b n f
    else if n = 0 then .fin a m e
    else
      let g := min e f
      let x := shiftBy m (e - g)
      let y := shiftBy n (f - g)
      if a = b then .fin a (x + y) g
      else if x = y then .fin false 0 0
      else if y < x then .fin a (x - y) g
      else .fin b (y - x) g

/-- `x · 2^k`, exact. -/
def Num.scale (x : Num) (k : Int) : Num :=
  match x with
  | .fin n m e => .fin n m (e + k)
  | y => y

/-- `m · 2^e < n · 2^f`. -/
def magLt (m : Nat) (e : Int) (n : Nat) (f : Int) : Bool :=
  let g := min e f
  decide (shiftBy m (e - g) < shiftBy n (f - g))

/-- Numeric order; false when either side is NaN; the two zeros are equal. -/
def Num.lt : Num → Num → Bool
  | .nan, _ => false
  | _, .nan => false
  | .inf a, .inf b => a && !b
  | .inf a, .fin _ _ _ => a
  | .fin _ _ _, .inf b => !b
  | .fin a m e, .fin b n f =>
    if m = 0 ∧ n = 0 then false
    else if m = 0 then !b
    else if n = 0 then a
    else match a, b with
      | true, false => true
      | false, true => false
      | false, false => magLt m e n f
      | true, true => magLt n f m e

def Num.eqv (x y : Num) : Bool := !x.isNaN && !y.isNaN && !(x.lt y) && !(y.lt x)
def Num.le (x y : Num) : Bool := x.lt y || x.eqv y

/-- How a value is rounded: to nearest even, or stochastically with a window value (R70, R71). -/
inductive Rnd where
  | rne
  | sr (window : Nat)
  deriving DecidableEq, Repr, Inhabited

/-- Trailing zero bits of `m`, at most `fuel`. -/
def trailing : (fuel m : Nat) → Nat
  | 0, _ => 0
  | k + 1, m => if m = 0 ∨ m % 2 = 1 then 0 else trailing k (m / 2) + 1

/-- The magnitude `m · 2^e` rounded to `p` significant bits and to no finer a unit than `2^qmin` (R70, R71). -/
def roundMag (r : Rnd) (p : Nat) (qmin : Int) (m : Nat) (e : Int) : Nat × Int :=
  if m = 0 then (0, qmin) else
  let q := max qmin (e + (Nat.log2 m : Int) - ((p : Int) - 1))
  if q ≤ e then (shiftBy m (e - q), q) else
  let k := (q - e).toNat
  let hi := m / 2 ^ k
  let lo := m % 2 ^ k
  match r with
  | .rne =>
    let half := 2 ^ (k - 1)
    if half < lo ∨ (lo = half ∧ hi % 2 = 1) then (hi + 1, q) else (hi, q)
  | .sr y =>
    let n := min 32 (k - trailing k lo)
    if lo = 0 then (hi, q) else
    let c := lo / 2 ^ (k - n)
    if 2 ^ n ≤ c + y % 2 ^ n then (hi + 1, q) else (hi, q)

/-- The three treatments of the top codes (R53): none (F4), NaN only (F8A), infinity and NaN (the rest). -/
inductive TopCodes where
  | none
  | nanOnly
  | ieee
  deriving DecidableEq, Repr, Inhabited

/-- Layout of a signed element format: exponent and fraction bits, bias, top codes (R53). -/
structure FloatFmt where
  eb : Nat
  fb : Nat
  bias : Nat
  top : TopCodes
  deriving DecidableEq, Repr, Inhabited

def fmtF4 : FloatFmt := ⟨2, 1, 1, .none⟩
def fmtF8A : FloatFmt := ⟨4, 3, 7, .nanOnly⟩
def fmtF8G : FloatFmt := ⟨5, 2, 15, .ieee⟩
def fmtB16 : FloatFmt := ⟨8, 7, 127, .ieee⟩
def fmtF32 : FloatFmt := ⟨8, 23, 127, .ieee⟩

/-- The least unit of a format, as a power of two: its subnormal spacing (R53). -/
def FloatFmt.qmin (f : FloatFmt) : Int := 1 - (f.bias : Int) - (f.fb : Int)

/-- The value of a code (R53). -/
def FloatFmt.decode (f : FloatFmt) (code : Nat) : Num :=
  let neg := code / 2 ^ (f.eb + f.fb) % 2 == 1
  let ex : Nat := code / 2 ^ f.fb % 2 ^ f.eb
  let fr : Nat := code % 2 ^ f.fb
  let topE : Nat := 2 ^ f.eb - 1
  if f.top = .ieee ∧ ex = topE then (if fr = 0 then .inf neg else .nan)
  else if f.top = .nanOnly ∧ ex = topE ∧ fr = 2 ^ f.fb - 1 then .nan
  else if ex = 0 then .fin neg fr f.qmin
  else .fin neg (2 ^ f.fb + fr) ((ex : Int) - 1 + f.qmin)

/-- The magnitude code of a representable magnitude `m · 2^q`, `q` at least the least unit. -/
def FloatFmt.encodeMag (f : FloatFmt) (m : Nat) (q : Int) : Nat :=
  if m = 0 then 0 else
  let top := (Nat.log2 m : Int) + q
  if top < 1 - (f.bias : Int) then shiftBy m (q - f.qmin)
  else
    let ex := (top + (f.bias : Int)).toNat
    ex * 2 ^ f.fb + (shiftBy m (q - (top - (f.fb : Int))) - 2 ^ f.fb)

def FloatFmt.signBit (f : FloatFmt) (neg : Bool) : Nat := if neg then 2 ^ (f.eb + f.fb) else 0

/-- The largest finite magnitude code (R53). -/
def FloatFmt.maxCode (f : FloatFmt) : Nat :=
  match f.top with
  | .none => 2 ^ (f.eb + f.fb) - 1
  | .nanOnly => 2 ^ (f.eb + f.fb) - 2
  | .ieee => (2 ^ f.eb - 1) * 2 ^ f.fb - 1

/-- The magnitude of the largest finite value, M of R76. -/
def FloatFmt.maxMag (f : FloatFmt) : Nat × Int :=
  match f.decode f.maxCode with
  | .fin _ m e => (m, e)
  | _ => (0, 0)

/-- The code of infinity where the format has one. -/
def FloatFmt.infCode (f : FloatFmt) : Nat := (2 ^ f.eb - 1) * 2 ^ f.fb

/-- Rounds as R70 asks, with the format's precision and subnormal spacing and no bound above. -/
def FloatFmt.round (f : FloatFmt) (r : Rnd) (m : Nat) (e : Int) : Nat × Int := roundMag r (f.fb + 1) f.qmin m e

/-- Is the rounded magnitude above the largest finite one (R77). -/
def FloatFmt.overflows (f : FloatFmt) (m : Nat) (e : Int) : Bool := magLt f.maxMag.1 f.maxMag.2 m e

/-! ### F32 arithmetic (R142): each operation rounds once, to nearest even, with PROP. -/

def f32Nan : F32 := 0x7FC00000
def f32Inf (neg : Bool) : F32 := if neg then 0xFF800000 else 0x7F800000
def f32Zero : F32 := 0
def f32One : F32 := 0x3F800000
def f32NegInf : F32 := 0xFF800000

def f32Dec (x : F32) : Num := fmtF32.decode x.toNat

/-- Rounds an exact value to F32 with PROP; a NaN becomes the canonical code (R55, R77). -/
def f32Rnd : Num → F32
  | .nan => f32Nan
  | .inf n => f32Inf n
  | .fin n m e =>
    let r := fmtF32.round .rne m e
    if fmtF32.overflows r.1 r.2 then f32Inf n
    else BitVec.ofNat 32 (fmtF32.signBit n + fmtF32.encodeMag r.1 r.2)

def f32Add (a b : F32) : F32 := f32Rnd (Num.add (f32Dec a) (f32Dec b))
def f32Neg (a : F32) : F32 := a ^^^ 0x80000000
def f32Sub (a b : F32) : F32 := f32Rnd (Num.add (f32Dec a) (f32Dec b).neg)
def f32Mul (a b : F32) : F32 := f32Rnd (Num.mul (f32Dec a) (f32Dec b))
/-- `a · b + c` with one rounding. -/
def f32Fma (a b c : F32) : F32 := f32Rnd (Num.add (Num.mul (f32Dec a) (f32Dec b)) (f32Dec c))
def f32Lt (a b : F32) : Bool := (f32Dec a).lt (f32Dec b)
def f32IsNan (a : F32) : Bool := (f32Dec a).isNaN
def f32IsInf (a : F32) : Bool := (f32Dec a).isInf
def f32IsFinite (a : F32) : Bool := (f32Dec a).isFin
/-- +0 or −0. -/
def f32IsZero (a : F32) : Bool := (f32Dec a).isZero
/-- Positive, finite and normal (R62). -/
def f32PosNormal (a : F32) : Bool := decide (0x00800000 ≤ a.toNat ∧ a.toNat < 0x7F800000)
/-- Finite and not negative: −0 is not negative in value (R54). -/
def f32FiniteNonneg (a : F32) : Bool :=
  f32IsFinite a && ((f32Dec a).isZero || !(f32Dec a).isNeg)
def f32PosFinite (a : F32) : Bool := decide (0 < a.toNat ∧ a.toNat < 0x7F800000)
/-- A natural number rounded to F32. -/
def f32OfNat (n : Nat) : F32 := f32Rnd (.fin false n 0)

/-- Integer square root, by bits from `2^k` down. -/
def isqrtFrom : (k : Nat) → (n r : Nat) → Nat
  | 0, n, r => if (r + 1) * (r + 1) ≤ n then r + 1 else r
  | k + 1, n, r =>
    let t := r + 2 ^ (k + 1)
    if t * t ≤ n then isqrtFrom k n t else isqrtFrom k n r

def isqrt (n : Nat) : Nat := isqrtFrom (Nat.log2 n / 2 + 1) n 0

/-- A quotient carried far beyond the result's precision with a last sticky bit, so that one rounding of it is the rounding of
the exact quotient. -/
def divSticky (a : Nat) (ea : Int) (b : Nat) (eb : Int) : Nat × Int :=
  let k := 512 + Nat.log2 b
  let x := a * 2 ^ k
  (2 * (x / b) + (if x % b = 0 then 0 else 1), ea - eb - (k : Int) - 1)

/-- An exact quotient prepared for one rounding. -/
def Num.div : Num → Num → Num
  | .nan, _ => .nan
  | _, .nan => .nan
  | .inf _, .inf _ => .nan
  | .inf a, .fin b _ _ => .inf (a != b)
  | .fin a _ _, .inf b => .fin (a != b) 0 0
  | .fin a m e, .fin b n f =>
    if n = 0 then (if m = 0 then .nan else .inf (a != b))
    else let q := divSticky m e n f; .fin (a != b) q.1 q.2

def f32Div (a b : F32) : F32 := f32Rnd (Num.div (f32Dec a) (f32Dec b))

/-- recip of R144. -/
def f32Recip (x : F32) : F32 := f32Rnd (Num.div Num.one (f32Dec x))

/-- rsqrt of R144. -/
def f32Rsqrt (x : F32) : F32 :=
  match f32Dec x with
  | .nan => f32Nan
  | .inf n => if n then f32Nan else f32Zero
  | .fin n m e =>
    if m = 0 then f32Inf n
    else if n then f32Nan
    else
      let m' := if e % 2 = 0 then m else 2 * m
      let e' := if e % 2 = 0 then e else e - 1
      let k : Nat := 256
      let s : Nat := isqrt (2 ^ (2 * k) / m')
      let sticky : Nat := if s * s * m' = 2 ^ (2 * k) then 0 else 1
      f32Rnd (.fin false (2 * s + sticky) (-(e' / 2) - (k : Int) - 1))

/-! ### Functions without a closed form: fixed point of 320 bits, far beyond what any F32 argument needs to be rounded right
(R144 asks for correct rounding; DEDUCED, notes/assumptions/10.md). -/

def fixBits : Nat := 320
def fixOne : Nat := 2 ^ 320
/-- ln 2 · 2^320, rounded down. -/
def fixLn2 : Nat := 0xb17217f7d1cf79abc9e3b39803f2f6af40f343267298b62d8a0d175b8baafa2be7b876206debac98
/-- π · 2^320, rounded down. -/
def fixPi : Nat := 0x3243f6a8885a308d313198a2e03707344a4093822299f31d0082efa98ec4e6c89452821e638d01377

/-- Taylor terms of e^t added to `acc`; `term` is t^k / k!. -/
def expTerms (t : Nat) : (fuel k term acc : Nat) → Nat
  | 0, _, _, acc => acc
  | n + 1, k, term, acc =>
    let next := term * t / (fixOne * (k + 1))
    expTerms t n (k + 1) next (acc + next)

/-- e^t in fixed point for 0 ≤ t < 1. -/
def expFix (t : Nat) : Nat := expTerms t 90 0 fixOne fixOne

/-- 2^x for a finite x, ready for one rounding; `none` beyond the exponents any format reaches. -/
def exp2Num (neg : Bool) (m : Nat) (e : Int) : Num :=
  if m = 0 then Num.one
  else if !(magLt m e 4096 0) then (if neg then .fin false 1 (-8192) else .fin false 1 8192)
  else
    let x := shiftBy m (e + (fixBits : Int))
    let n : Int := if neg then -(((x + (fixOne - 1)) / fixOne : Nat) : Int) else ((x / fixOne : Nat) : Int)
    let f : Nat := if neg then (fixOne - x % fixOne) % fixOne else x % fixOne
    if f = 0 then .fin false 1 n
    else .fin false (2 * expFix (f * fixLn2 / fixOne) + 1) (n - (fixBits : Int) - 1)

/-- exp2 of R144. -/
def f32Exp2 (x : F32) : F32 :=
  match f32Dec x with
  | .nan => f32Nan
  | .inf n => if n then f32Zero else f32Inf false
  | .fin n m e => f32Rnd (exp2Num n m e)

/-- Odd powers of z over their exponents, added to `acc`: atanh z. -/
def atanhTerms (z2 : Nat) : (fuel k pow acc : Nat) → Nat
  | 0, _, _, acc => acc
  | n + 1, k, pow, acc =>
    let next := pow * z2 / fixOne
    atanhTerms z2 n (k + 1) next (acc + next / (2 * k + 3))

/-- ln u in fixed point for u = m / 2^(log2 m), 1 ≤ u < 2. -/
def lnFix (m : Nat) : Nat :=
  let b := 2 ^ Nat.log2 m
  let z := (m - b) * fixOne / (m + b)
  2 * atanhTerms (z * z / fixOne) 110 0 z z

/-- log2 of R144. -/
def f32Log2 (x : F32) : F32 :=
  match f32Dec x with
  | .nan => f32Nan
  | .inf n => if n then f32Nan else f32Inf false
  | .fin n m e =>
    if m = 0 then f32Inf true
    else if n then f32Nan
    else
      let ex : Int := e + (Nat.log2 m : Int)
      if m = 2 ^ Nat.log2 m then f32Rnd (.fin (decide (ex < 0)) ex.natAbs 0)
      else
        let l : Int := ((lnFix m * fixOne / fixLn2 : Nat) : Int)
        let r : Int := ex * (fixOne : Int) + l
        f32Rnd (.fin (decide (r < 0)) (2 * r.natAbs + 1) (-(fixBits : Int) - 1))

/-- tanh of R144. -/
def f32Tanh (x : F32) : F32 :=
  match f32Dec x with
  | .nan => f32Nan
  | .inf n => if n then f32Neg f32One else f32One
  | .fin n m e =>
    if m = 0 then x
    else if !(magLt m e 16 0) then (if n then f32Neg f32One else f32One)
    else
      let t := shiftBy m (e + 1 + (fixBits : Int))
      let y := t * fixOne / fixLn2
      let w := expFix ((y % fixOne) * fixLn2 / fixOne) * 2 ^ (y / fixOne)
      let r := (w - fixOne) * fixOne / (w + fixOne)
      f32Rnd (.fin n (2 * r + 1) (-(fixBits : Int) - 1))

/-! ### Derived functions and constants (R145, R157, R230) -/

/-- The F32 nearest to log2 e. -/
def f32LE : F32 := 0x3FB8AA3B
/-- The F32 nearest to ln 2. -/
def f32LN : F32 := 0x3F317218
/-- The F32 nearest to −2 ln 2. -/
def f32NL2 : F32 := 0xBFB17218
/-- The F32 nearest to √(2/π). -/
def f32C1 : F32 := 0x3F4C422A
/-- The F32 nearest to 0.044715. -/
def f32C2 : F32 := 0x3D372713
def f32Half : F32 := 0x3F000000
def f32Three : F32 := 0x40400000

def f32Exp (x : F32) : F32 := f32Exp2 (f32Mul x f32LE)
def f32Ln (x : F32) : F32 := f32Mul (f32Log2 x) f32LN
def f32Sigma (x : F32) : F32 := f32Recip (f32Add f32One (f32Exp (f32Neg x)))

/-- Terms of cos a: `term` is a^(2k) / (2k)!, added with alternating sign. -/
def cosTerms (a2 : Nat) : (fuel k term : Nat) → (acc : Int) → Int
  | 0, _, _, acc => acc
  | n + 1, k, term, acc =>
    let next := term * a2 / (fixOne * ((2 * k + 1) * (2 * k + 2)))
    cosTerms a2 n (k + 1) next (if k % 2 = 0 then acc - (next : Int) else acc + (next : Int))

/-- ctab[j] of R230: the F32 nearest to cos(2π(j + 0.5) ÷ 4096). -/
def f32Ctab (j : Nat) : F32 :=
  let a := fixPi * (2 * j + 1) / 4096
  let c := cosTerms (a * a / fixOne) 110 0 fixOne (fixOne : Int)
  f32Rnd (.fin (decide (c < 0)) (2 * c.natAbs + 1) (-(fixBits : Int) - 1))

/-! ### Reductions of kiosks (R146, R147) -/

/-- One level of the pairwise tree of R98: neighbours combined, an odd last value carried up. -/
def pairUp {α : Type} (f : α → α → α) : List α → List α
  | a :: b :: t => f a b :: pairUp f t
  | l => l

/-- The pairwise tree of R98, with as many levels as `fuel` allows. -/
def combineFuel {α : Type} (f : α → α → α) (d : α) : (fuel : Nat) → List α → α
  | 0, l => l.headD d
  | n + 1, l => match l with
    | [] => d
    | [a] => a
    | _ => combineFuel f d n (pairUp f l)

/-- The pairwise tree of R98: as many levels as there are values are always enough. -/
def combine {α : Type} (f : α → α → α) (d : α) (l : List α) : α := combineFuel f d l.length l

/-- The values of one lane: elements `lane`, `lane + 32`, … -/
def everyNth {α : Type} (n : Nat) (l : List α) : (fuel : Nat) → List α
  | 0 => []
  | k + 1 => match l with
    | [] => []
    | a :: _ => a :: everyNth n (l.drop n) k

/-- One chunk of the kiosk reduction order: 32 lanes, then their tree (R146). -/
def kredChunk {α : Type} (step : F32 → α → F32) (l : List α) : F32 :=
  combine f32Add f32Zero ((List.range 32).map fun lane =>
    (everyNth 32 (l.drop lane) (l.length + 1)).foldl step f32Zero)

/-- Splits into chunks of `n`. -/
def chunksOf {α : Type} (n : Nat) : (fuel : Nat) → List α → List (List α)
  | 0, _ => []
  | k + 1, l => if l.isEmpty then [] else l.take n :: chunksOf n k (l.drop n)

/-- The kiosk reduction order of R146 over chunks of 65,536 terms; +0 for no terms. -/
def kred {α : Type} (step : F32 → α → F32) (l : List α) : F32 :=
  combine f32Add f32Zero ((chunksOf 65536 (l.length + 1) l).map (kredChunk step))

def kredAdd (l : List F32) : F32 := kred f32Add l
def kredDot (a b : List F32) : F32 := kred (fun acc (p : F32 × F32) => f32Fma p.1 p.2 acc) (a.zip b)

/-- The maximum of two terms under R147. -/
def f32Max (a b : F32) : F32 :=
  if f32IsNan a || f32IsNan b then f32Nan
  else if f32IsZero a && f32IsZero b then (if a = f32Zero ∨ b = f32Zero then f32Zero else a)
  else if f32Lt a b then b else a

/-- The maximum of a row under R147; of no terms, −∞. -/
def f32MaxOf : List F32 → F32
  | [] => f32NegInf
  | a :: t => t.foldl f32Max (if f32IsNan a then f32Nan else a)

def f32Abs (a : F32) : F32 := a &&& 0x7FFFFFFF

/-! ### A34 (R53, R56, R67, R68) -/

def a34Nan : A34 := 0x1FFC00000
def a34Inf (neg : Bool) : A34 := if neg then 0x3FF800000 else 0x1FF800000
def a34Zero : A34 := 0

/-- The value of an A34 code; exponent 0 is a zero of the code's sign (R56). -/
def a34Dec (x : A34) : Num :=
  let neg := x.toNat / 2 ^ 33 == 1
  let ex : Nat := x.toNat / 2 ^ 23 % 1024
  let fr : Nat := x.toNat % 2 ^ 23
  if ex = 1023 then (if fr = 0 then .inf neg else .nan)
  else if ex = 0 then .fin neg 0 0
  else .fin neg (2 ^ 23 + fr) ((ex : Int) - 511 - 23)

/-- An exact value rounded once to A34, and whether it was flushed to zero (R67, R68). A magnitude beyond the format becomes an
infinity; only values written through the debug path reach it (notes/assumptions/20.md). -/
def a34Rnd : Num → A34 × Bool
  | .nan => (a34Nan, false)
  | .inf n => (a34Inf n, false)
  | .fin n m e =>
    let s : Nat := if n then 2 ^ 33 else 0
    if m = 0 then (BitVec.ofNat 34 s, false) else
    let r := roundMag .rne 24 (-100000) m e
    let top : Int := (Nat.log2 r.1 : Int) + r.2
    if top < -510 then (BitVec.ofNat 34 s, true)
    else if 511 < top then (a34Inf n, false)
    else (BitVec.ofNat 34 (s + (top + 511).toNat * 2 ^ 23 + (shiftBy r.1 (r.2 - (top - 23)) - 2 ^ 23)), false)

def a34Add (a b : A34) : A34 := (a34Rnd (Num.add (a34Dec a) (a34Dec b))).1

end Sys2Proof.Machine
end

