-- ==== Sys2Proof/Machine/Format.lean ====
section
/-! DEFINITION. Element formats and conversions between them (spec/02, R53 to R81): format codes, block scales, SAT and PROP,
the L8 tables, the drain factor. -/

namespace Sys2Proof.Machine

/-- The formats a format code of R59 names. -/
inductive Fmt where
  | f32
  | b16
  | f8a
  | f8g
  | f4
  | l8
  | a34
  deriving DecidableEq, Repr, Inhabited

/-- Format codes of R59; 7 to 15 are reserved. -/
def Fmt.ofCode : Nat → Option Fmt
  | 0 => some .f32
  | 1 => some .b16
  | 2 => some .f8a
  | 3 => some .f8g
  | 4 => some .f4
  | 5 => some .l8
  | 6 => some .a34
  | _ => none

def Fmt.code : Fmt → Nat
  | .f32 => 0
  | .b16 => 1
  | .f8a => 2
  | .f8g => 3
  | .f4 => 4
  | .l8 => 5
  | .a34 => 6

/-- Formats whose tensors carry a block scale (R60). -/
def Fmt.narrow : Fmt → Bool
  | .f8a | .f8g | .f4 | .l8 => true
  | _ => false

/-- Bytes of one element of a format without block scales (R542). -/
def Fmt.width : Fmt → Nat
  | .f32 => 4
  | .b16 => 2
  | .a34 => 8
  | _ => 1

/-- Bytes of one block of 32 elements of a narrow format (R542). -/
def Fmt.blockBytes : Fmt → Nat
  | .f4 => 16
  | _ => 32

def Fmt.float : Fmt → FloatFmt
  | .f32 => fmtF32
  | .b16 => fmtB16
  | .f8a => fmtF8A
  | .f8g => fmtF8G
  | .f4 => fmtF4
  | _ => fmtF32

/-- 2^(a/16) as an F32, for the L8 tables of R58. -/
def f32Pow16 (a : Int) : F32 := f32Rnd (exp2Num (decide (a < 0)) a.natAbs (-4))

/-- The value of an L8 code (R58). -/
def l8Value (c : Nat) : Num := if c = 0 then Num.zero else f32Dec (f32Pow16 (2 * (c : Int) - 384))

/-- Threshold t(c) of R58. -/
def l8Threshold (c : Nat) : Num := f32Dec (f32Pow16 (2 * (c : Int) - 385))

/-- The largest code at most `c` whose threshold `x` reaches; 0 when none does (R58). -/
def l8CodeFrom (x : Num) : (c : Nat) → Nat
  | 0 => 0
  | c + 1 => if (l8Threshold (c + 1)).le x then c + 1 else l8CodeFrom x c

def l8Code (x : Num) : Nat := if x.isZero || x.isNeg then 0 else l8CodeFrom x 255

/-- The value of an element code (R53, R58). -/
def Fmt.decode (f : Fmt) (code : Nat) : Num :=
  match f with
  | .l8 => l8Value code
  | .a34 => a34Dec (BitVec.ofNat 34 code)
  | _ => f.float.decode code

/-- The value of an S8 code; `none` is the NaN code 0xFF (R53). -/
def s8Exp (s : Nat) : Option Int := if s = 255 then none else some ((s : Int) - 127)

/-- e · 2^(s − 127), the element as a product takes it (R64, R66, R69). -/
def scaledElem (s : Nat) (e : Num) : Num :=
  match s8Exp s with
  | none => .nan
  | some k => e.scale k

/-- A narrow, B16 or F32 element read into F32: c · 2^(s − 127) · e, rounded once (R62, R81). -/
def readF32 (cs : F32) (s : Option Nat) (e : Num) : F32 :=
  f32Rnd (Num.mul (f32Dec cs) (match s with
    | some s => scaledElem s e
    | none => e))

/-- 1 ÷ cY of R74. -/
def recipFactor (cy : F32) : F32 := f32Div f32One cy
/-- (cA × cB) ÷ cY of R74. -/
def drainFactor (ca cb cy : F32) : F32 := f32Div (f32Mul ca cb) cy
/-- A finite normal F32 value (R74). -/
def f32FiniteNormal (x : F32) : Bool := f32IsFinite x && decide (0x00800000 ≤ (f32Abs x).toNat)

/-- The result of converting one element: its code and whether it sets "saturated" (R77). -/
structure Elem where
  code : Nat
  sat : Bool
  deriving DecidableEq, Repr, Inhabited

/-- What an overflowing or infinite element becomes (R77); `none`: the whole F4 block becomes NaN. -/
def overflowCode (f : Fmt) (prop neg : Bool) : Option Elem :=
  let g := f.float
  match f, prop with
  | .f4, true => none
  | .f8a, true => some ⟨0x7F, false⟩
  | _, true => some ⟨g.signBit neg + g.infCode, false⟩
  | _, false => some ⟨g.signBit neg + g.maxCode, true⟩

/-- The canonical NaN of a format (R55); `none` for F4, whose block becomes NaN (R77). -/
def nanCode : Fmt → Option Nat
  | .f4 => none
  | .f8a => some 0x7F
  | .f8g => some 0x7E
  | .b16 => some 0x7FC0
  | _ => some 0x7FC00000

/-- One element, already divided by its block scale: rounded once, then the overflow rules (R70, R77). -/
def convElem (f : Fmt) (prop : Bool) (r : Rnd) (w : Num) : Option Elem :=
  match w with
  | .nan => (nanCode f).map fun c => ⟨c, false⟩
  | .inf n => overflowCode f prop n
  | .fin n m e =>
    let g := f.float
    let q := g.round r m e
    if g.overflows q.1 q.2 then overflowCode f prop n
    else some ⟨g.signBit n + g.encodeMag q.1 q.2, false⟩

/-- The larger of two magnitudes `m · 2^e`. -/
def magMax (a b : Nat × Int) : Nat × Int := if magLt a.1 a.2 b.1 b.2 then b else a

/-- The largest |w| over the finite elements (R76). -/
def blockMax (ws : List Num) : Nat × Int :=
  ws.foldl (fun a w => match w with
    | .fin _ m e => if m = 0 then a else if a.1 = 0 then (m, e) else magMax a (m, e)
    | _ => a) (0, 0)

/-- The smallest integer k with a ≤ M · 2^k, not limited (R76). -/
def fitExp (f : FloatFmt) (a : Nat × Int) : Int :=
  let m := f.maxMag
  let k : Int := ((Nat.log2 a.1 : Int) + a.2) - ((Nat.log2 m.1 : Int) + m.2)
  if magLt m.1 (m.2 + k) a.1 a.2 then k + 1 else k

/-- A converted block: element codes, the S8 code, and whether "saturated" is set. -/
structure Block where
  codes : List Nat
  s8 : Nat
  sat : Bool
  deriving DecidableEq, Repr, Inhabited

/-- Elements with the rounding of each. -/
def convElems (f : Fmt) (prop : Bool) (k : Int) : List (Num × Rnd) → List (Option Elem)
  | [] => []
  | (w, r) :: t => convElem f prop r (w.scale (-k)) :: convElems f prop k t

/-- Converts one block into F8A, F8G or F4 (R76 to R78). -/
def convBlock (f : Fmt) (prop : Bool) (ws : List (Num × Rnd)) : Block :=
  let a := blockMax (ws.map Prod.fst)
  let want : Int := if a.1 = 0 then 0 else fitExp f.float a
  let k : Int := max (-127) (min 127 want)
  let es := convElems f prop k ws
  let sat := es.any (fun e => match e with
    | some e => e.sat
    | none => false) || (!prop && decide (127 < want))
  if es.any Option.isNone then ⟨es.map fun _ => 0, 255, sat⟩
  else ⟨es.map fun e => (e.getD ⟨0, false⟩).code, (k + 127).toNat, sat⟩

/-- Converts one block into L8 (R79). -/
def convL8 (ws : List Num) : Block :=
  if ws.any (fun w => !w.isFin) then ⟨ws.map fun _ => 0, 255, false⟩
  else
    let a := blockMax ws
    if a.1 = 0 then ⟨ws.map fun _ => 0, 127, false⟩
    else
      let k : Int := max (-127) (min 127 ((Nat.log2 a.1 : Int) + a.2 - 6))
      ⟨ws.map fun w => l8Code (w.scale (-k)), (k + 127).toNat, false⟩

/-- Converts one element into B16 or F32 (R80). -/
def convWide (f : Fmt) (prop : Bool) (r : Rnd) (w : Num) : Elem := (convElem f prop r w).getD ⟨0, false⟩

/-- Element i of an F4 plane shares its byte with element i XOR 1 (R57). -/
def packF4 : List Nat → List Nat
  | a :: b :: t => (a % 16 + 16 * (b % 16)) :: packF4 t
  | [a] => [a % 16]
  | [] => []

end Sys2Proof.Machine
end

