-- ==== Sys2Proof/Config.lean ====
section
/-! DEFINITION. What the spec leaves open, as constants without a body: no proof can see a value of them.
A free value is one of these applied to a plain counter of State (`State.freeCtr`), so that each use may differ
(notes/assumptions/5.md). -/

namespace Sys2Proof.Config

/-- A free byte: the content of bytes the spec calls unspecified (LOG 11, 23). -/
opaque freeByte : Nat → Byte
/-- A free 32-bit word: a count, a reading or a field the spec leaves open (LOG 5, 18). -/
opaque freeW32 : Nat → W32
/-- A free 64-bit word (LOG 5, 18). -/
opaque freeW64 : Nat → W64
/-- A free choice among things the spec calls equal: the choice made is this number modulo how many there are (LOG 15). -/
opaque freePick : Nat → Nat
/-- The true random number generator: the n-th value drawn (R580, R648, R367; LOG 8). -/
opaque trng : Nat → W64
/-- An unstated offset between prefetcher numbers and the handles an ARM returns (R520; LOG 12). -/
opaque handleSalt : Nat
/-- Omcen's public key for a value of VKEY, which the boot ROM holds (R659; LOG 16). -/
opaque omcenKey : (vkey : Nat) → List Byte
/-- The 32 bytes that the device key pair was generated from at manufacture; they never leave the security engine (R655; LOG 16). -/
opaque deviceSeed : (i : Nat) → Byte
/-- The device certificate and its length (R655, R661; LOG 16). -/
opaque deviceCertificate : (i : Nat) → Byte
/-- Length of the device certificate (R661; LOG 16). -/
opaque deviceCertificateLength : Nat
/-- The set of a district cache that a line falls in, of 32,768 (R500; LOG 67). -/
opaque cacheSet : (line : Nat) → Nat
/-- The board number of a logical board of the module's groups: the manual gives no map from one to the other (R413, R594; LOG 17). -/
opaque boardNumber : (board : Nat) → BitVec 8
/-- The TAG of the module's first mailbox message since reset; the later ones follow on (R583, R585; LOG 2). -/
opaque firstMailTag : BitVec 12
/-- Does flash accept a write and its read-back, at the n-th attempt: of the staging slot (R663 outcome 5), of a setting (R642, R670; LOG
5, 40). -/
opaque flashOk : Nat → Bool

end Sys2Proof.Config
end

