-- ==== Sys2Proof/Machine/Rng.lean ====
section
/-! DEFINITION. The position-addressed random number generator (spec/06, R220 to R230). -/

namespace Sys2Proof.Machine

/-- The n-th true random value with 0 left out (R648, LOG 8). -/
def trngNonzero64 (n : Nat) : W64 := BitVec.ofNat 64 ((Config.trng n).toNat % (2 ^ 64 - 1) + 1)

/-- The n-th true random value with 0 and the value `old` left out (R648, LOG 8). -/
def trngFresh64 (old : W64) (n : Nat) : W64 :=
  if old = 0 then trngNonzero64 n
  else
    let v := (Config.trng n).toNat % (2 ^ 64 - 2) + 1
    BitVec.ofNat 64 (if v < old.toNat then v else v + 1)

/-- The n-th true random value as a nonzero 32-bit value (R367, LOG 8). -/
def trngNonzero32 (n : Nat) : W32 := BitVec.ofNat 32 ((Config.trng n).toNat % (2 ^ 32 - 1) + 1)

/-- One step of the shift register on a state below 2^127: multiplication by x modulo x^127 + x + 1 (R220). -/
def lfsrStep (s : Nat) : Nat :=
  let t := 2 * s
  if 2 ^ 127 ≤ t then (t - 2 ^ 127) ^^^ 3 else t

/-- Carry-less product of two polynomials of at most `n` and any bits. -/
def clmul : (n : Nat) → (a b : Nat) → Nat
  | 0, _, _ => 0
  | n + 1, a, b => (if a % 2 = 1 then b else 0) ^^^ clmul n (a / 2) (2 * b)

/-- A polynomial of degree below 254 modulo x^127 + x + 1: bits from 127 up fold back on themselves and one place left. -/
def lfsrFold (a : Nat) : Nat :=
  let hi := a / 2 ^ 127
  let b := (a % 2 ^ 127) ^^^ hi ^^^ (2 * hi)
  let hi2 := b / 2 ^ 127
  (b % 2 ^ 127) ^^^ hi2 ^^^ (2 * hi2)

def lfsrMul (a b : Nat) : Nat := lfsrFold (clmul 127 a b)

/-- The state after N steps: the leap matrices for the bits set in N, in increasing order (R220, R233); `p` is x^(2^i). -/
def lfsrJumpFrom : (bits : Nat) → (n p s : Nat) → Nat
  | 0, _, _, s => s
  | k + 1, n, p, s => lfsrJumpFrom k (n / 2) (lfsrMul p p) (if n % 2 = 1 then lfsrMul p s else s)

def lfsrJump (n s : Nat) : Nat := lfsrJumpFrom 127 n 2 s

/-- The output bits of `n` steps from state `s`, step i giving bit i (R226). -/
def lfsrBits : (n i s : Nat) → Nat
  | 0, _, _ => 0
  | k + 1, i, s => (if 2 ^ 126 ≤ s then 2 ^ i else 0) + lfsrBits k (i + 1) (lfsrStep s)

/-- The raw window with first step N (R226). -/
def rawWindow (seed N : Nat) : W32 := BitVec.ofNat 32 (lfsrBits 32 0 (lfsrJump N seed))

/-- The nibble substitution of R227. -/
def sbox (n : Nat) : Nat := [6, 11, 0, 13, 3, 8, 14, 5, 10, 1, 15, 4, 9, 2, 7, 12].getD n 0

/-- Substitutes `n` nibbles. -/
def sboxAll : (n a : Nat) → Nat
  | 0, _ => 0
  | k + 1, a => sbox (a % 16) + 16 * sboxAll k (a / 16)

/-- The output filter of R227. -/
def rngFilter (x : W32) : W32 :=
  let a := x ^^^ (x <<< 11)
  let b : W32 := BitVec.ofNat 32 (sboxAll 8 a.toNat)
  b ^^^ (b >>> 7)

/-- N of R226 for stream s (bits [25:0], R224) and window index 2e + h. -/
def windowStart (stream : W32) (idx : Nat) : Nat := (stream.toNat % 2 ^ 26) * 2 ^ 101 + 32 * idx

/-- The raw window of a stream at a window index. -/
def rawAt (seed : Nat) (stream : W32) (idx : Nat) : W32 := rawWindow seed (windowStart stream idx)

/-- The element index of a position (R225). -/
def elemIndex (row col : Nat) : Nat := (row % 2 ^ 39) * 2 ^ 24 + col

/-- The window value y of a position (R227). -/
def window (seed : Nat) (stream : W32) (row col half : Nat) : W32 :=
  rngFilter (rawAt seed stream (2 * elemIndex row col + half))

/-- The window value of a flat logical index (R225). -/
def windowFlat (seed : Nat) (stream : W32) (i : Nat) : W32 :=
  rngFilter (rawAt seed stream (2 * (i % 2 ^ 63)))

/-- A uniform F32: (y >> 8) · 2^-24 (R228). -/
def uniformF32 (y : W32) : F32 := f32Rnd (.fin false (y.toNat / 256) (-24))

/-- A normal F32 from the two windows of an element (R230). -/
def normalF32 (y1 y2 : W32) : F32 :=
  let u1 := f32Rnd (.fin false (y1.toNat / 256 + 1) (-24))
  let t := f32Mul (f32Log2 u1) f32NL2
  let r := if f32IsZero t then f32Zero else f32Mul t (f32Rsqrt t)
  f32Mul r (f32Ctab (y2.toNat / 2 ^ 20))

/-- The rounding of one element: nearest even, or stochastic with the element's window (R71, R228). -/
def rndOf (stochastic : Bool) (seed : Nat) (stream : W32) (row col : Nat) : Rnd :=
  if stochastic then .sr (window seed stream row col 0).toNat else .rne

end Sys2Proof.Machine
end

