-- ==== Sys2Proof/Machine/State.lean ====
section
/-! DEFINITION. The state of a GM-8032 as plain data, and the state right after a PO reset. Each field is listed with its rule and
reset value in INVENTORY.md under State. -/

namespace Sys2Proof.Machine

/-! ### How a step can stop -/

/-- Why the block takes no step though the command is one of the table's. -/
inductive Fault where
  /-- Raised by every command that needs a running module when the module is off or held in reset: it then does no work, serves
  no dictionary and takes no flit (R679, R683, R727). Safe: the model stops where the hardware does nothing. -/
  | notRunning
  deriving DecidableEq, Repr

/-- Why a command has no meaning in the model. -/
inductive Refusal where
  /-- Raised by `exec` for a command not modelled. Safe. -/
  | notModelled (mnemonic : String)
  /-- Raised for a command whose operands are not those of its row (a TILE whose class field says FENCE): such a command is
  another row's. Safe. -/
  | illFormed
  deriving DecidableEq, Repr

/-! ### Identity, firmware and security -/

inductive Variant where
  | gm8032
  | gm6024
  | gm8032e
  deriving DecidableEq, Repr, Inhabited

/-- What the header of a bundle says (R658), with the digests measured over its bytes (R657). -/
structure BundleInfo where
  sv : W32
  version : W32
  vkey : Nat
  serial : BitVec 128
  schema : W16
  revoke : Byte
  catalogue : W32
  protocol : W32
  steppings : List W32
  hallVersion : W32
  kioskVersion : W32
  gfVersion : W32
  bundleDigest : BitVec 512
  hallDigest : BitVec 512
  kioskDigest : BitVec 512
  gfDigest : BitVec 512
  deriving DecidableEq, Repr, Inhabited

/-- A command-key slot (R643). -/
inductive KeySlot where
  | blank
  | programmed (key : BitVec 256)
  | revoked (key : BitVec 256)
  deriving DecidableEq, Repr, Inhabited

inductive FlashSlot where
  | a
  | b
  deriving DecidableEq, Repr, Inhabited

/-- A bundle being staged: its bytes, what the check of R660 found, and whether a chain transfer brought it. -/
structure StagingWork where
  outcome : Nat
  info : Option BundleInfo
  bytes : List Byte
  digest : List Byte
  fromChain : Bool
  deriving DecidableEq, Repr, Inhabited

/-- A dictionary path's own selections (R628, R661). -/
structure PathSel where
  cls : Nat
  inst : Nat
  blob : Nat
  blobOffset : Nat
  deriving DecidableEq, Repr, Inhabited

/-- Fuses, straps, one-time-programmable storage and flash: kept over every reset. `schema`: under which flash holds settings, if it does
(R670); the slots hold the bytes of bundles. -/
structure Persist where
  variant : Variant
  steppings : W32
  serial : BitVec 128
  straps : BitVec 4
  keys : Vector KeySlot 4
  fuseSv : W32
  omcenRevoked : BitVec 4
  debugPermitted : Bool
  serialBinding : Bool
  fallbackAllowed : Bool
  schema : Option W16
  settingsResets : W32
  slotA : Option (List Byte)
  slotB : Option (List Byte)
  bootSlot : FlashSlot
  thermalTrips : W32
  deriving DecidableEq, Repr, Inhabited

/-- The security engine (spec/17). -/
structure Security where
  epoch : W64
  counter : W64
  refusals : W32
  refusalReason : Byte
  nonce : BitVec 256
  reportState : Byte
  report : Option (List Byte)
  pendingReport : Option (List Byte)
  reportSeq : W32
  stagingState : Byte
  stagingOutcome : Byte
  stagedVersion : W32
  stagedSv : W32
  stagingWork : Option StagingWork
  activationPending : Option FlashSlot
  runningSlot : FlashSlot
  running : Option BundleInfo
  hallDigest : BitVec 512
  kioskDigest : BitVec 512
  gfDigest : BitVec 512
  bundleDigest : BitVec 512
  limited : Byte
  fallbackStarts : W32
  debugMode : Bool
  activate : Byte
  commit : W32
  unlock : Byte
  deriving DecidableEq, Repr, Inhabited

inductive SessionState where
  | held
  | lapsed
  | released
  deriving DecidableEq, Repr, Inhabited

/-- The dictionary server (spec/16). -/
structure Dict where
  holder : Path
  session : SessionState
  selCarard : PathSel
  selField : PathSel
  alertPending : W32
  alertMask : W32
  alertsSent : W32
  holdCarard : Bool
  holdField : Bool
  owedCarard : Bool
  owedField : Bool
  fieldQueue : List (BitVec 48 × List Byte)
  kept : Option (BitVec 48 × List Byte × List Byte)
  lastFieldSource : Option (BitVec 48)
  reqCarard : W64
  reqField : W64
  aborts : W32
  lastAbort : W32
  framesDiscarded : W32
  repeated : W32
  takeovers : W32
  deriving DecidableEq, Repr, Inhabited

/-! ### Resets, power -/

/-- Reset levels, CORE shallowest (R682). -/
inductive Level where
  | core
  | sys
  | po
  deriving DecidableEq, Repr, Inhabited

/-- A reset that is asserted (R682 to R685). -/
structure ResetRun where
  level : Level
  stretchDone : Bool
  started : Bool
  deriving DecidableEq, Repr, Inhabited

/-- The reset controller, clocks and pins (spec/18). `refclkDev`: REFCLK's deviation as last measured (R677). -/
structure ResetCtl where
  cause : Byte
  run : Option ResetRun
  source : Bool
  pending : Option (Level × Byte)
  off : Bool
  rstDriven : Bool
  clockGood : Bool
  pwrGood : Bool
  position : BitVec 4
  pllLosses : W32
  refclkDev : Int
  idleTimeout : W32
  deriving DecidableEq, Repr, Inhabited

/-- Power states of R697. -/
inductive Power where
  | on
  | idle
  | park
  deriving DecidableEq, Repr, Inhabited

/-- Power and thermal state (R697 to R705). -/
structure PowerCtl where
  requested : Power
  current : Power
  waking : Option Power
  onset : Int
  duty : Nat
  episodes : W32
  deriving DecidableEq, Repr, Inhabited

/-! ### Turn, formats, terraces -/

inductive Turn where
  | ready
  | generate
  | switchLearn
  | learn
  | switchGenerate
  deriving DecidableEq, Repr, Inhabited

/-- What a TURN descriptor asks (R48, R49), and whether its fields pass R51. -/
structure TurnReq where
  qp : Fin 64
  idx : W32
  seq : W32
  target : Nat
  version : Nat
  retire : Bool
  timeoutMs : W32
  fieldsOk : Bool
  deriving DecidableEq, Repr, Inhabited

/-- The accepted TURN in transition (R30 to R40). `before`: descriptors with a start order below it had started at acceptance. -/
structure TurnTrans where
  req : TurnReq
  needFence : Bool
  before : Nat
  suspended : W32
  ended : W32
  deriving DecidableEq, Repr, Inhabited

structure TurnCtl where
  cur : Turn
  seq : W32
  steps : W32
  defaultDrain : W32
  lastLength : W64
  lastRefusal : W32
  trans : Option TurnTrans
  waiting : List TurnReq
  deriving DecidableEq, Repr, Inhabited

/-- The format defaults of R82: overflow mode PROP for each format, stochastic rounding. -/
structure FmtDefaults where
  propF8a : Bool
  propF8g : Bool
  propF4 : Bool
  propB16 : Bool
  propF32 : Bool
  stochastic : Bool
  deriving DecidableEq, Repr, Inhabited

/-- The generator's registers (R239). -/
structure RngRegs where
  seed : BitVec 127
  probeStream : W32
  probeIndex : W64
  deriving DecidableEq, Repr, Inhabited

/-- The defaults a descriptor takes when it starts: formats and seed (R73, R84, R222). -/
structure Defaults where
  fmt : FmtDefaults
  seed : BitVec 127
  deriving DecidableEq, Repr, Inhabited

/-- The first-invalid latch (R118). -/
structure FirstInvalid where
  row : Nat
  col : Nat
  k : Nat
  deriving DecidableEq, Repr, Inhabited

/-- An open terrace tile (R106): `occ` says for each row which level groups are occupied, the same for every row. -/
structure OpenTile where
  plaza : Fin 64
  tRow : Nat
  m : Nat
  n : Nat
  depth : Nat
  ca : F32
  cb : F32
  nextPanel : Nat
  occ : List Bool
  exc : W16
  fi : Option FirstInvalid
  deriving DecidableEq, Repr, Inhabited

/-- One accumulator of a terrace that does not hold +0. -/
structure TerrCell where
  plaza : Fin 64
  row : Nat
  col : Nat
  value : A34
  deriving DecidableEq, Repr, Inhabited

/-- What a weight register of a cell holds: an element's code and its S8 (R87). -/
structure Weight where
  elem : Nat
  s8 : Nat
  deriving DecidableEq, Repr, Inhabited

/-- The weight registers of a square, row by row; a register that is not listed holds +0 (R87). Squares 0 to 7 of a plaza are its plain
ones, 8 its terrace square. -/
structure SquareRegs where
  plaza : Fin 64
  square : Nat
  active : List (List Weight)
  shadow : List (List Weight)
  deriving DecidableEq, Repr, Inhabited

/-- The recirculation buffer of a street (R94). -/
structure RecircRows where
  plaza : Fin 64
  street : Nat
  rows : List (List A34)
  deriving DecidableEq, Repr, Inhabited

/-- A plaza's junction: rows of 128 values that wait for their partner in its buffer, and those that K3 has moved to the plaza store, as
they stand when the last panel of a TILE meets them (R100; LOG 22). -/
structure JunctionRows where
  plaza : Fin 64
  waiting : List (List A34)
  spilled : List (List A34)
  deriving DecidableEq, Repr, Inhabited

/-- The plazas' splits, weight registers, recirculation buffers and junctions (R87, R91, R93, R94, R96, R100). -/
structure Arrays where
  split : Vector Nat 64
  squares : List SquareRegs
  recirc : List RecircRows
  junctions : List JunctionRows
  deriving DecidableEq, Repr, Inhabited

structure Terraces where
  tiles : List OpenTile
  cells : List TerrCell
  dbgRow : W16
  dbgCol : Byte
  deriving DecidableEq, Repr, Inhabited

/-! ### Generation and Crossing -/

inductive SchedState where
  | stopped
  | running
  | paused
  deriving DecidableEq, Repr, Inhabited

inductive SeqState where
  | prefill
  | decode
  deriving DecidableEq, Repr, Inhabited

/-- A sequence that holds a slot (R243 to R249, R286). `offLeft` is 0 while drafting is on; while it is off, the steps still to take
without drafts plus 1, so that 1 is the step that resumes. -/
structure SeqSlot where
  num : Nat
  state : SeqState
  suspended : Bool
  tenant : Nat
  vsel : Nat
  draft : Nat
  seqNo : W32
  adapterKey : Nat
  maxNew : Nat
  prompt : Nat
  promptLen : Nat
  maxLen : Nat
  sampleRec : Nat
  stops : List W32
  prompted : Nat
  yielded : Nat
  vslot : Nat
  adapter : Option Nat
  groups : List Nat
  win : List (Nat × Nat)
  offLeft : Nat
  deriving DecidableEq, Repr, Inhabited

/-- A companion line that has come for a piece of work that asked for it, with the STATUS of its DATA (R588, R592). -/
structure GotLine where
  line : Nat
  status : Byte
  deriving DecidableEq, Repr, Inhabited

/-- The step scheduler's registers and state (R292). `lines`: the companion lines that have come for the coming step. -/
structure Sched where
  state : SchedState
  budget : W32
  prefillFloor : W32
  mainPlan : W64
  draftPlan : W64
  admBase : W64
  admEntries : W32
  recBase : W64
  recBytes : W64
  poolBase : W64
  groups : W32
  pageBytes : W32
  reserve : W32
  ptBase : W64
  slotsInService : W32
  pagesPerSeq : W32
  mainStream : W32
  draftStream : W32
  threshold : W16
  offPeriod : W16
  pinning : List Byte
  startVersion : Option (Fin 4)
  follows : Bool
  steps : W64
  refused : W32
  draftOffs : W32
  stalls : W32
  lastGen : W32
  slots : List SeqSlot
  shownFree : W32
  shownGroups : W32
  admHead : W32
  recProduced : W64
  checked : Bool
  stalled : Bool
  lines : List GotLine
  deriving DecidableEq, Repr, Inhabited

inductive SlotState where
  | free
  | live
  | retiring
  deriving DecidableEq, Repr, Inhabited

/-- A version or adapter slot (R264, R277, R294). `gen` is the serial or the generation. -/
structure WSlot where
  state : SlotState
  gen : W32
  key : Nat
  table : Nat
  entries : Nat
  order : Nat
  force : Bool
  deriving DecidableEq, Repr, Inhabited

/-- A held gate state that is not 0: of slot `slot`, C for `j` = 0 and Sj above (R316). -/
structure GateCell where
  slot : Nat
  j : Nat
  state : Nat
  deriving DecidableEq, Repr, Inhabited

/-- A bitmap in the mask cache (R314, R322). -/
structure CachedMask where
  addr : Nat
  bits : List Byte
  deriving DecidableEq, Repr, Inhabited

/-- A gate table as it stood when the sequence of a slot that names it was admitted: its parts with their bytes (R321). -/
structure GateTable where
  slot : Nat
  gate : Nat
  parts : List (Nat × List Byte)
  deriving DecidableEq, Repr, Inhabited

/-- A SAMPLE of a queue that has run and not completed: its place in the order of starts, the parts of the gate tables it used, the slots it
names and its output entries (R321). -/
structure GateRun where
  order : Nat
  parts : List (Nat × Nat)
  slots : List Nat
  out : Nat × Nat
  deriving DecidableEq, Repr

/-- A response of the dictionary that is owed: the TAG of its OD_REQ, or the address and the request that a frame brought, which R623 keeps
beside it. -/
inductive OwedAnswer where
  | carard (tag : BitVec 12) (resp : List Byte)
  | field (src : BitVec 48) (req resp : List Byte)
  deriving DecidableEq, Repr

/-- A flush of the mask cache asked for while SAMPLEs with a start order below a number ran, and the response that waits until it takes
effect (R323, R616). -/
structure FlushWait where
  before : Nat
  answers : List OwedAnswer
  deriving DecidableEq, Repr

/-- The gate's held states and the mask cache, most recent use first (R316, R322 to R324). -/
structure Gate where
  states : List GateCell
  cache : List CachedMask
  flushPending : List FlushWait
  tables : List GateTable
  runs : List GateRun
  hits : W64
  misses : W64
  rows : W64
  noToken : W32
  deriving DecidableEq, Repr, Inhabited

/-! ### Learning, caretaker, reduction, roundabout -/

inductive StashState where
  | closed
  | opened
  | downgrading
  | exhausted
  deriving DecidableEq, Repr, Inhabited

/-- A kept copy of a stash entry (R352): the granules of the stash region that hold it, in order (LOG 14). -/
structure StashCopy where
  entry : Nat
  unit : Nat
  inner : Bool
  grans : List Nat
  deriving DecidableEq, Repr, Inhabited

/-- A unit with an INNER capture in the open step (R359 to R361): (MB, LAYER) as one number, latest first. -/
structure StashUnit where
  unit : Nat
  dropped : Bool
  deriving DecidableEq, Repr, Inhabited

structure Stash where
  base : W64
  bytes : W64
  mark : Byte
  fill : W64
  peak : W64
  state : StashState
  unitsDropped : W32
  stepsDowngraded : W32
  stepsExhausted : W32
  skipped : W64
  tag : W32
  copies : List StashCopy
  units : List StashUnit
  readUnits : List Nat
  deriving DecidableEq, Repr, Inhabited

/-- The caretakers' counts (R412). -/
structure Care where
  updated : W64
  skipped : W32
  lastSkipped : W64
  elements : W64
  lastGs : F32
  csChanges : W32
  deriving DecidableEq, Repr, Inhabited

/-- What a packet of the reduction engine or the roundabout brought. -/
inductive PieceKind where
  | contrib
  | boardSum
  | result
  | count
  | slice
  deriving DecidableEq, Repr, Inhabited

/-- A packet's data: the logical rank of its sender, the entry and round it belongs to and its first element; F32 words, or bytes
of an element plane and of a scale plane. -/
structure Piece where
  kind : PieceKind
  rank : Nat
  round : Nat
  entry : Nat
  first : Nat
  vals : List F32
  elems : List Byte
  scales : List Byte
  deriving DecidableEq, Repr, Inhabited

/-- What an exchange is of. -/
inductive XKind where
  | reduce
  | gather
  | rebuild
  deriving DecidableEq, Repr, Inhabited

/-- A group record as read (R413). -/
structure Group where
  id : W32
  nb : Nat
  nm : Nat
  board : Nat
  mod : Nat
  bridge : Nat
  positions : List Nat
  deriving DecidableEq, Repr, Inhabited

/-- One entry of a REDUCE in exchange: its shape and bucket index (R418), its rank when thinned (0 when sent in full), the format its
contributions cross avenues in (R423), how its OUT is converted (R425), the events counted so far by this module (R426) and ORTHONORM's
zero columns (R443). -/
structure XEntry where
  index : Nat
  rows : Nat
  cols : Nat
  base : Nat
  thin : Nat
  inFmt : Nat
  outFmt : Nat
  outCs : F32
  prop : Bool
  count : Nat
  zeros : Nat
  deriving DecidableEq, Repr, Inhabited

/-- A vector this module contributes to a round of an entry. -/
structure XVec where
  entry : Nat
  round : Nat
  vals : List F32
  deriving DecidableEq, Repr, Inhabited

/-- A REDUCE or GATHER whose members exchange (R415 to R441, R461 to R465), or a SHARD or REDUCE that waits for one before it. `locks`
are the headers or pairs it takes in turn, once `named` tells that they are known, `defaults` those of its start (R73, R84, R222). Once its
turn comes it is `prepared`: it has passed its own checks and taken what this module contributes; once `begun` its packets move (R441).
`stage` counts the sends made. `exc` holds the events so far (R442). -/
structure Exchange where
  qp : Fin 64
  idx : W32
  kind : XKind
  desc : Desc
  locks : List Nat
  named : Bool
  defaults : Defaults
  prepared : Bool
  begun : Bool
  group : Group
  epoch : W32
  obj : W32
  own : PeerFields
  peers : List (Nat × PeerFields)
  entries : List XEntry
  vecs : List XVec
  stage : Nat
  pieces : List Piece
  seed : Nat
  stoch : Bool
  exc : W16
  deriving DecidableEq, Repr, Inhabited

/-- A FIELDS packet that came before this module's own exchange began (R415). `late`: it came after an exchange of its plan step had ended
here without it. -/
structure EarlyFields where
  groupId : W32
  epoch : W32
  rank : Nat
  fields : PeerFields
  late : Bool
  deriving DecidableEq, Repr, Inhabited

/-- FIELDS that an exchange which has ended here did not wait for: of a member of a group, for a plan step, with what this module's own
were, where that was known (R415). -/
structure MissedFields where
  kind : XKind
  groupId : W32
  epoch : W32
  rank : Nat
  own : Option PeerFields
  deriving DecidableEq, Repr, Inhabited

/-- What this module has counted for a bucket whose entries are reduced one by one (R416, R426). -/
structure LocalCount where
  hdr : Nat
  tag : W32
  count : Nat
  deriving DecidableEq, Repr, Inhabited

/-- The reduction engine's registers (R445). -/
structure Reduce where
  preferred : W32
  stall : W32
  completed : W64
  sent : W64
  received : W64
  thinned : W64
  nonfinite : W32
  timeouts : W32
  mismatches : W32
  exchanges : List Exchange
  early : List EarlyFields
  missed : List MissedFields
  locals : List LocalCount
  deriving DecidableEq, Repr, Inhabited

/-- The roundabout's counts (R479). -/
structure Shard where
  loaded : W64
  gatheredIn : W64
  gatheredOut : W64
  rebuilt : W32
  overflows : W32
  refused : W32
  mismatches : W32
  deriving DecidableEq, Repr, Inhabited

/-- A protected range (R455). -/
structure ProtRange where
  base : Nat
  len : Nat
  deriving DecidableEq, Repr, Inhabited

/-! ### Stacks -/

/-- A codeword with inverted data symbols (R491, R526): one symbol can be corrected, two cannot. -/
structure BadCodeword where
  loc : Nat
  sym0 : Bool
  sym1 : Bool
  deriving DecidableEq, Repr, Inhabited

/-- What asked for a companion line: a prefetcher's stream, a started descriptor, the scheduler, or a pair for the submission entry
that follows the one at HEAD. -/
inductive Reader where
  | stream (num : Fin 96)
  | desc (qp : Fin 64) (idx : W32)
  | sched
  | queue (qp : Fin 64)
  deriving DecidableEq, Repr, Inhabited

/-- An armed stream (R506 to R508). -/
structure Stream where
  num : Fin 96
  src : Nat
  run : Nat
  count : Nat
  stride : Nat
  ahead : Nat
  fetched : Nat
  demanded : Nat
  deriving DecidableEq, Repr, Inhabited

/-- An RD_SHARED in flight (R585, R592). `install`: no snoop of the line has come since. `written`: parts of the line that the module has
written and whose WR goes to the companion after it (R590). -/
structure RdShared where
  tag : BitVec 12
  line : Nat
  install : Bool
  reader : Reader
  written : List (Nat × Nat)
  deriving DecidableEq, Repr, Inhabited

/-- A WR in flight to companion memory, and the descriptor that wrote (R590). -/
structure WrInFlight where
  tag : BitVec 12
  addr : Nat
  len : Nat
  owner : Option (Fin 64 × W32)
  deriving DecidableEq, Repr, Inhabited

/-- A WR that waits for a free TAG (R585). -/
structure WrWaiting where
  addr : Nat
  data : List Byte
  owner : Option (Fin 64 × W32)
  deriving DecidableEq, Repr, Inhabited

/-- A request of the companion or of a peer that waits, in its channel's or lane's order, for the release of a stack in reset (R515), or
behind one that does (R586, R587). -/
inductive HeldRequest where
  | drd (tag : BitVec 12) (addr : Nat)
  | dwr (tag : BitVec 12) (addr : Nat) (data : List Byte)
  | doorbell (word : W64)
  | peer (addr : Nat) (data : List Byte) (put : Bool)
  | bundleEnd (av : Fin 8) (pk : Packet)
  | accept (av : Fin 8) (pk : Packet)
  | staging
  deriving DecidableEq, Repr, Inhabited

/-- What the module still has to leave in a stack that is in no service at the moment: NEXT_TAG 0 of a pair (R463, R523), STATE FAILED of a
bucket header whose TAG is of a step (R429, R444), KIND 0 of a delta header (R478). -/
inductive LateMark where
  | bytes (a : Nat) (bs : List Byte)
  | failed (hdr : Nat) (step : W32)
  deriving DecidableEq, Repr, Inhabited

structure Stacks where
  k : Nat
  j : Nat
  scrubPeriod : W16
  passes : W32
  corrected : W64
  uncorrectable : W32
  lastAddr : W64
  lastSource : Byte
  corrOf : Vector W32 32
  uncOf : Vector W32 32
  scrubPos : Vector Nat 32
  selfRefresh : Vector Bool 32
  streams : List Stream
  dcache : List Nat
  hits : W64
  misses : W64
  peakReads : Nat
  rdShared : List RdShared
  wr : List WrInFlight
  wrWaiting : List WrWaiting
  heldRequests : List HeldRequest
  marks : List LateMark
  ecc : List BadCodeword
  injAddr : W64
  injSymbols : Byte
  deriving DecidableEq, Repr, Inhabited

/-! ### Queues -/

inductive QState where
  | disabled
  | active
  | draining
  | halted
  | enablePending
  deriving DecidableEq, Repr, Inhabited

/-- A queue pair (R527 to R536). `front`: the entry at HEAD, once a start command has shown it and it could not start. `ring`: lines of the
submission ring that have come while HEAD is where it is (R728). -/
structure QueuePair where
  sqBase : W64
  cqBase : W64
  entries : W32
  enable : Bool
  state : QState
  weight : Byte
  stopOnFailure : Bool
  tail : W32
  head : W32
  produced : W32
  cqHead : W32
  retired : W32
  halt : W16
  front : Option Desc
  ring : List GotLine
  deriving DecidableEq, Repr, Inhabited

/-- Completion statuses (R559), in the order of their codes. -/
inductive Status where
  | ok
  | badDescriptor
  | badSequence
  | unitAbsent
  | wrongTurn
  | badTransition
  | authFail
  | limitedMode
  | kTooLong
  | uncorrectableMem
  | stashExhausted
  | nonfiniteSkipped
  | bucketNotReady
  | stepIncomplete
  | versionRetired
  | versionInUse
  | reduceMismatch
  | timeout
  | writeProtected
  | deltaFull
  | unitReset
  deriving DecidableEq, Repr, Inhabited

/-- What a started descriptor still waits for before it can complete. `held`: its work, for a block's release, a line of companion memory,
a plaza's streets or a descriptor started before it; it keeps the defaults of its start (R73, R84, R222). -/
inductive Await where
  | nothing
  | held (d : Desc) (x : Defaults)
  | queueFence
  | waitFence (qid : Fin 64) (w : W32)
  | stepFence
  | stepRefused
  | waitRefused (qid : Fin 64)
  | drainFence
  | turn
  | turnRefused
  | exchange
  | version (d : Desc)
  deriving DecidableEq, Repr, Inhabited

/-- A range of bytes that a descriptor reads or writes. `turn`, unless 0: what it belongs to that descriptors take one after the other
in the order in which they start (R546), so that two accesses of the same turn do not race (R547). `data`: of a COPY_TENSOR, a plane's bytes, which
decide nothing but its destination. -/
structure MemAccess where
  lo : Nat
  len : Nat
  turn : Nat
  data : Bool
  deriving DecidableEq, Repr, Inhabited

/-- What a descriptor's completion with status OK is counted as (R412, R445, R479). -/
inductive OkCount where
  | updated
  | reduced
  | rebuilt
  deriving DecidableEq, Repr, Inhabited

/-- The second descriptor of a fused pair whose first has not completed: it runs when the first completes (R165), with the defaults of the
pair's start and the bytes that the plaza store holds of the fused tensor (R164). `due`: the first has completed, and the second's work
waits for something else. -/
structure FusedHalf where
  d : Desc
  held : List (Nat × List Byte)
  defaults : Defaults
  due : Bool
  deriving DecidableEq, Repr, Inhabited

/-- A started and uncompleted descriptor (R535, R549, R551). `spoiled`: of one that exchanges, ranges it will still write and that another descriptor
has meanwhile touched so that they will hold unspecified values (R547); of a SAMPLE whose work is still to come, ranges written since it
started (R321). `locks`: the bucket header or pairs it took in turn (R441,
R465). `split`: the street split that a TILE runs in (R96). `terrace`: a TILE in terrace mode. `follows`: the second of a fused pair.
`pair`: the pair record whose NEXT_TAG falls to 0 if the descriptor fails after its work (R463, R523). `key`: what it takes in turn with
others, in the order in which they start (R546). `lines`: the companion lines that have come for its work. `requests`: read requests
that stacks hold for it, by stack (R504). `racy`: while it waited, its reads raced, so that it ends with unspecified values (R547). -/
structure InFlight where
  qp : Fin 64
  idx : W32
  order : Nat
  cls : Nat
  notify : Bool
  await : Await
  status : Status
  faultAddr : Option Nat
  info : List Byte
  units : List UnitId
  reads : List MemAccess
  writes : List MemAccess
  spoiled : List (Nat × Nat)
  locks : List Nat
  split : Option Nat
  terrace : Bool
  follows : Option FusedHalf
  okCount : Option OkCount
  pair : Option Nat
  key : Option Nat
  lines : List GotLine
  requests : List (Nat × Nat)
  racy : Bool
  deriving DecidableEq, Repr, Inhabited

/-- The pairs and what is in flight. `visit` is the pair that the round of R543 has come to, and `visited` the starts it has made there. -/
structure Queues where
  qps : Vector QueuePair 64
  inflight : List InFlight
  ignored : W32
  fenceTimeout : W32
  written : W64
  lastHalt : W32
  nextOrder : Nat
  visit : Fin 64
  visited : Nat
  deriving DecidableEq, Repr, Inhabited

/-! ### Links -/

inductive LinkPhase where
  | down
  | phy
  | init
  | up
  | upLimited
  deriving DecidableEq, Repr, Inhabited

/-- What a sequenced flit carries (R573, R576, R577). -/
inductive FlitBody where
  | data (ch : Nat) (bytes : List Byte)
  | credit (returns : List W32)
  deriving DecidableEq, Repr, Inhabited

structure Flit where
  seq : BitVec 12
  body : FlitBody
  deriving DecidableEq, Repr, Inhabited

/-- What the module sends; the model's own record (LOG 21). -/
inductive OutEvent where
  | sqFetch (addr : Nat)
  | odResponse (bytes : List Byte)
  | fieldResponse (dst : BitVec 48) (frame : List Byte)
  | cqEvent (qid : Nat) (produced : W32)
  | alertCarard (word : W64)
  | alertField (dst : BitVec 48) (frame : List Byte)
  | drdData (tag : BitVec 12) (status : Byte) (data : List Byte)
  | dwrDone (tag : BitVec 12) (status : Byte)
  | rdShared (tag : BitVec 12) (addr : Nat)
  | wr (tag : BitVec 12) (addr : Nat) (data : List Byte)
  | snpAck (tag : BitVec 12)
  | packet (av : Fin 8) (pk : Packet)
  | fields (dst : Nat) (groupId epoch obj : W32) (f : PeerFields)
  | piece (dst : Nat) (groupId epoch obj : W32) (p : Piece)
  | flit (l : LinkId) (bytes : List Byte)
  deriving DecidableEq, Repr, Inhabited

/-- A message or packet that waits for credits or for its link: its channel or virtual lane, its pool and units (16 and 0 where it
takes none), its bytes, and what sending a packet records (R577, R585, R594). -/
structure OutMsg where
  ch : Nat
  pool : Nat
  units : Nat
  bytes : List Byte
  note : Option OutEvent
  deriving DecidableEq, Repr, Inhabited

/-- One link's end (R573 to R582). `seen` and `gotSeen`: this training has received a valid INIT, and one with SEEN set; `sentSeen`: it
has sent one with SEEN set. `rxNext`: the SEQ expected next, where the commands tell it. `credits`, `grants` and `freed` are by pool.
`ownInc`: an INCARNATION drawn for this avenue alone (R690). `sinceIdle`: flits sent since the last IDLE (R569). `owed`: a CREDIT flit
is due that the retry buffer had no room for (R573, R577). -/
structure Link where
  phase : LinkPhase
  role : Byte
  pos : Byte
  board : Byte
  proto : W32
  peerInc : Option W64
  cbytes : W64
  resent : W32
  crcErrors : W32
  trainings : W32
  txSeq : BitVec 12
  unacked : List Flit
  resends : Nat
  rxNext : Option (BitVec 12)
  nakSent : Bool
  seen : Bool
  gotSeen : Bool
  sentSeen : Bool
  grants : List Nat
  credits : List Nat
  freed : List Nat
  waiting : List OutMsg
  ownInc : Option W64
  sinceIdle : Nat
  owed : Bool
  peerSv : W32
  peerLimited : Bool
  deriving DecidableEq, Repr, Inhabited

/-- A firmware transfer being received (R602 to R605). -/
structure FwRx where
  av : Fin 8
  num : W32
  len : Nat
  digest : List Byte
  srcBoard : Byte
  srcPos : BitVec 5
  got : List (Nat × Nat)
  deriving DecidableEq, Repr, Inhabited

/-- A firmware transfer being sent. -/
structure FwTx where
  av : Fin 8
  num : W32
  len : Nat
  digest : List Byte
  accepted : Bool
  deriving DecidableEq, Repr, Inhabited

structure Links where
  cl : Link
  avs : Vector Link 8
  incarnation : W64
  mailCount : BitVec 12
  board : Byte
  chainPrev : Byte
  chainNext : Byte
  rxBase : W64
  rxBytes : W64
  a2aBase : W64
  a2aBytes : W64
  discarded : W32
  routes : List Byte
  fwRx : Option FwRx
  fwTx : Option FwTx
  fwNum : W32
  fwOffered : List (List Byte)
  fwStaged : List (List Byte)
  deriving DecidableEq, Repr, Inhabited

/-! ### Units -/

/-- State codes of 2100:04 for a unit the variant has (R632). -/
inductive UnitState where
  | disabled
  | enabled
  | enablePending
  | disabling
  | resetting
  deriving DecidableEq, Repr, Inhabited

/-- A block's enable and reset controls (R632, R688 to R691). `asking`: it has been asked to go idle and is not yet so, since
the descriptor numbered `askedAt` was the next to start (R551); `found`: what 2100:07 will show of the reset in progress. -/
structure UnitCtl where
  enable : Bool
  state : UnitState
  heldFalse : Bool
  asking : Bool
  askedAt : Nat
  resetAsked : Bool
  found : Byte
  result : Byte
  work : W64
  deriving DecidableEq, Repr, Inhabited

/-- `squares`: the panels that each plain square (0 to 511) and terrace square (512 to 575) has completed (R635). -/
structure Units where
  districts : Vector UnitCtl 8
  plazas : Vector UnitCtl 64
  kiosks : Vector UnitCtl 256
  stackUnits : Vector UnitCtl 32
  avenues : Vector UnitCtl 8
  squares : Vector W64 576
  tenants : Vector W64 16
  deriving DecidableEq, Repr, Inhabited

/-! ### The whole -/

structure State where
  persist : Persist
  sec : Security
  od : Dict
  rst : ResetCtl
  power : PowerCtl
  turn : TurnCtl
  fmt : FmtDefaults
  rng : RngRegs
  arr : Arrays
  terr : Terraces
  sched : Sched
  vers : Vector WSlot 4
  adapters : Vector WSlot 256
  pubCount : Nat
  gate : Gate
  stash : Stash
  care : Care
  red : Reduce
  shard : Shard
  prot : List ProtRange
  mem : List Host.Cell
  stk : Stacks
  q : Queues
  lk : Links
  units : Units
  outbox : List OutEvent
  freeCtr : Nat
  pending : List Instr
  deriving DecidableEq, Repr

/-! ### Reset values -/

def KeySlot.reset : KeySlot := .blank

/-- SHA3-512 of no bytes: the digest of an image of length 0. -/
def emptyDigest : BitVec 512 :=
  0x26cd1d2886857501e3d3b6959d1900f558c53a2c40e9e3114cf9f5f13a12b215a6805c47c1dcd1e05958e24f1682c9976e755a18dc67b5c8c59a3aa2cc739fa6

/-- SHA3-512 of `factoryBundle` before its signature. -/
def factoryDigest : BitVec 512 :=
  0x7a8e1e6ac10187e74af8f0cd2ee648d6414da6020a884a672a672e44a755708028545272db444266845bcbbb390140d1e040d7c72a57e244f75ba6eac40b4089

/-- The bundle in flash slot A of the reset state: every field zero but FORMAT, HW_TYPE, one stepping entry, the fuses' own, and three empty
images at 4 KiB; its signature is zeros (LOG 7). -/
def factoryBundle : List Byte :=
  let image : List Byte := [0, 0x10, 0, 0] ++ List.replicate 16 0
    ++ (List.range 64).map fun i => BitVec.ofNat 8 (emptyDigest.toNat / 256 ^ i)
  [0, 1, 0, 0, 0x32, 0x80, 1, 0] ++ List.replicate 104 0 ++ image ++ image ++ image ++ List.replicate (4096 - 364 + 4627) 0

/-- What its header says, and its digests. -/
def BundleInfo.zero : BundleInfo :=
  { sv := 0, version := 0, vkey := 0, serial := 0, schema := 0, revoke := 0, catalogue := 0, protocol := 0, steppings := [0],
    hallVersion := 0, kioskVersion := 0, gfVersion := 0, bundleDigest := factoryDigest, hallDigest := emptyDigest,
    kioskDigest := emptyDigest,
    gfDigest := emptyDigest }

def Persist.reset : Persist :=
  { variant := .gm8032, steppings := 0, serial := 0, straps := 0, keys := Vector.replicate 4 .blank, fuseSv := 0,
    omcenRevoked := 0, debugPermitted := false, serialBinding := false, fallbackAllowed := true, schema := some 0,
    settingsResets := 0, slotA := some factoryBundle, slotB := none, bootSlot := .a, thermalTrips := 0 }

def Security.reset : Security :=
  { epoch := trngNonzero64 0, counter := 0, refusals := 0, refusalReason := 0, nonce := 0, reportState := 0, report := none,
    pendingReport := none, reportSeq := 0, stagingState := 0, stagingOutcome := 0, stagedVersion := 0, stagedSv := 0,
    stagingWork := none, activationPending := none, runningSlot := .a, running := some BundleInfo.zero, hallDigest := emptyDigest,
    kioskDigest := emptyDigest, gfDigest := emptyDigest, bundleDigest := factoryDigest, limited := 0, fallbackStarts := 0,
    debugMode := false, activate := 0,
    commit := 0, unlock := 0 }

def PathSel.reset : PathSel := { cls := 0, inst := 0, blob := 0, blobOffset := 0 }

def Dict.reset : Dict :=
  { holder := .carard, session := .held, selCarard := PathSel.reset, selField := PathSel.reset, alertPending := 1,
    alertMask := 0xFFF, alertsSent := 0, holdCarard := false, holdField := false, owedCarard := false, owedField := false,
    fieldQueue := [], kept := none, lastFieldSource := none, reqCarard := 0, reqField := 0, aborts := 0, lastAbort := 0,
    framesDiscarded := 0, repeated := 0, takeovers := 0 }

def ResetCtl.reset : ResetCtl :=
  { cause := 1, run := none, source := false, pending := none, off := false, rstDriven := false, clockGood := true,
    pwrGood := true, position := 0, pllLosses := 0, refclkDev := 0, idleTimeout := 1000 }

def PowerCtl.reset : PowerCtl :=
  { requested := .on, current := .on, waking := none, onset := 95000, duty := 16, episodes := 0 }

def TurnCtl.reset : TurnCtl :=
  { cur := .ready, seq := 0, steps := 0, defaultDrain := 10000, lastLength := 0, lastRefusal := 0, trans := none,
    waiting := [] }

def FmtDefaults.reset : FmtDefaults :=
  { propF8a := false, propF8g := false, propF4 := false, propB16 := true, propF32 := true, stochastic := false }

def RngRegs.reset : RngRegs := { seed := 1, probeStream := 0, probeIndex := 0 }

/-- Split 0, weights +0 and empty buffers: the split and the weights at reset are the model's choice, the manual gives neither (R87, R93;
LOG 22). -/
def Arrays.reset : Arrays := { split := Vector.replicate 64 0, squares := [], recirc := [], junctions := [] }

def Terraces.reset : Terraces := { tiles := [], cells := [], dbgRow := 0, dbgCol := 0 }

def Sched.reset : Sched :=
  { state := .stopped, budget := 8192, prefillFloor := 256, mainPlan := 0, draftPlan := 0, admBase := 0, admEntries := 4096,
    recBase := 0, recBytes := 0x04000000, poolBase := 0, groups := 0, pageBytes := 0, reserve := 1024, ptBase := 0,
    slotsInService := 16384, pagesPerSeq := 128, mainStream := 0, draftStream := 1, threshold := 6554, offPeriod := 256,
    pinning := List.replicate 16 0, startVersion := none, follows := false, steps := 0, refused := 0, draftOffs := 0,
    stalls := 0, lastGen := 0, slots := [], shownFree := 16384, shownGroups := 0, admHead := 0,
    recProduced := 0, checked := false, stalled := false, lines := [] }

def WSlot.free : WSlot := { state := .free, gen := 0, key := 0, table := 0, entries := 0, order := 0, force := false }

def Gate.reset : Gate :=
  { states := [], cache := [], flushPending := [], tables := [], runs := [], hits := 0, misses := 0, rows := 0, noToken := 0 }

def Stash.reset : Stash :=
  { base := 0, bytes := 0, mark := 90, fill := 0, peak := 0, state := .closed, unitsDropped := 0, stepsDowngraded := 0,
    stepsExhausted := 0, skipped := 0, tag := trngNonzero32 2, copies := [], units := [], readUnits := [] }

def Care.reset : Care :=
  { updated := 0, skipped := 0, lastSkipped := 0, elements := 0, lastGs := 0x3F800000, csChanges := 0 }

def Reduce.reset : Reduce :=
  { preferred := 0x02000000, stall := 5000, completed := 0, sent := 0, received := 0, thinned := 0, nonfinite := 0,
    timeouts := 0, mismatches := 0, exchanges := [], early := [], missed := [], locals := [] }

def Shard.reset : Shard :=
  { loaded := 0, gatheredIn := 0, gatheredOut := 0, rebuilt := 0, overflows := 0, refused := 0, mismatches := 0 }

def Stacks.reset : Stacks :=
  { k := 16, j := 16, scrubPeriod := 24, passes := 0, corrected := 0, uncorrectable := 0, lastAddr := 0, lastSource := 0,
    corrOf := Vector.replicate 32 0, uncOf := Vector.replicate 32 0, scrubPos := Vector.replicate 32 0,
    selfRefresh := Vector.replicate 32 false, streams := [], dcache := [], hits := 0,
    misses := 0, peakReads := 0, rdShared := [], wr := [], wrWaiting := [], heldRequests := [], marks := [], ecc := [],
    injAddr := 0, injSymbols := 1 }

def QueuePair.reset : QueuePair :=
  { sqBase := 0, cqBase := 0, entries := 256, enable := false, state := .disabled, weight := 1, stopOnFailure := true,
    tail := 0, head := 0, produced := 0, cqHead := 0, retired := 0, halt := 0, front := none, ring := [] }

def Queues.reset : Queues :=
  { qps := Vector.replicate 64 QueuePair.reset, inflight := [], ignored := 0, fenceTimeout := 60000, written := 0,
    lastHalt := 0, nextOrder := 0, visit := 0, visited := 0 }

def Link.reset : Link :=
  { phase := .down, role := 0xFF, pos := 0xFF, board := 0, proto := 0, peerInc := none, cbytes := 0, resent := 0,
    crcErrors := 0, trainings := 0, txSeq := 0, unacked := [], resends := 0, rxNext := none, nakSent := false, seen := false,
    gotSeen := false, sentSeen := false, grants := List.replicate 16 0, credits := List.replicate 16 0, freed := List.replicate 16 0,
    waiting := [], ownInc := none, sinceIdle := 0, owed := false, peerSv := 0, peerLimited := false }

/-- A link whose training has started: the PHY adapts its equalisers before the reset is released (R579, R713; LOG 37). -/
def Link.started (l : Link) : Link := { l with phase := .phy, trainings := 1 }

def Links.reset : Links :=
  { cl := Link.reset, avs := Vector.replicate 8 Link.reset, incarnation := Config.trng 1, mailCount := 0, board := 0, chainPrev := 0xFF,
    chainNext := 0xFF, rxBase := 0, rxBytes := 0, a2aBase := 0, a2aBytes := 0, discarded := 0,
    routes := List.replicate 17 0xFF, fwRx := none, fwTx := none, fwNum := 0, fwOffered := [], fwStaged := [] }

/-- The Carard link and the avenues that a variant has, as they train. -/
def Links.started (n : Nat) (k : Links) : Links :=
  { k with cl := k.cl.started, avs := Vector.ofFn fun i : Fin 8 => if i.val < n then k.avs[i].started else k.avs[i] }

def UnitCtl.reset : UnitCtl :=
  { enable := true, state := .enabled, heldFalse := false, asking := false, askedAt := 0, resetAsked := false, found := 0, result := 0,
    work := 0 }

def Units.reset : Units :=
  { districts := Vector.replicate 8 UnitCtl.reset, plazas := Vector.replicate 64 UnitCtl.reset,
    kiosks := Vector.replicate 256 UnitCtl.reset, stackUnits := Vector.replicate 32 UnitCtl.reset,
    avenues := Vector.replicate 8 UnitCtl.reset, squares := Vector.replicate 576 0, tenants := Vector.replicate 16 0 }

/-- The machine the moment a PO reset with cause 1 (power-on) has been released on a GM-8032 (LOG 6). -/
def State.reset : State :=
  { persist := Persist.reset, sec := Security.reset, od := Dict.reset, rst := ResetCtl.reset, power := PowerCtl.reset,
    turn := TurnCtl.reset, fmt := FmtDefaults.reset, rng := RngRegs.reset, arr := Arrays.reset, terr := Terraces.reset,
    sched := Sched.reset, vers := Vector.replicate 4 WSlot.free, adapters := Vector.replicate 256 WSlot.free, pubCount := 0,
    gate := Gate.reset,
    stash := Stash.reset, care := Care.reset, red := Reduce.reset, shard := Shard.reset, prot := [], mem := [],
    stk := Stacks.reset, q := Queues.reset, lk := Links.reset.started 8, units := Units.reset, outbox := [], freeCtr := 3,
    pending := [] }

end Sys2Proof.Machine
end

