-- ==== Sys2Proof/Machine/Ops.lean ====
section
/-! DEFINITION. The named operations every command is written in: fields and byte order, saturating counts, memory and the address
map (spec/13), protected ranges (R455), alerts (R636 to R638), units in service, and the monad of a descriptor's work. -/

namespace Sys2Proof.Machine

/-! ### Fields and byte order (R12, R13) -/

/-- Field [hi:lo] of a word. -/
def fld (w : W64) (hi lo : Nat) : Nat := w.toNat / 2 ^ lo % 2 ^ (hi - lo + 1)

/-- Bit b of a word. -/
def bit (w : W64) (b : Nat) : Bool := w.toNat / 2 ^ b % 2 == 1

/-- The value of little-endian bytes. -/
def leNat : List Byte → Nat
  | [] => 0
  | b :: t => b.toNat + 256 * leNat t

/-- The `n` low bytes of a value, little-endian. -/
def leBytes : (n v : Nat) → List Byte
  | 0, _ => []
  | n + 1, v => BitVec.ofNat 8 v :: leBytes n (v / 256)

def descWords (d : Desc) : List W64 := [d.w0, d.w1, d.w2, d.w3, d.w4, d.w5, d.w6, d.w7]
def descBytes (d : Desc) : List Byte := (descWords d).flatMap fun w => leBytes 8 w.toNat
def descClass (d : Desc) : Nat := fld d.w0 3 0

/-- Completion status codes (R559). -/
def Status.code : Status → Nat
  | .ok => 0x00
  | .badDescriptor => 0x01
  | .badSequence => 0x02
  | .unitAbsent => 0x03
  | .wrongTurn => 0x04
  | .badTransition => 0x05
  | .authFail => 0x06
  | .limitedMode => 0x07
  | .kTooLong => 0x08
  | .uncorrectableMem => 0x09
  | .stashExhausted => 0x0A
  | .nonfiniteSkipped => 0x0B
  | .bucketNotReady => 0x0C
  | .stepIncomplete => 0x0D
  | .versionRetired => 0x0E
  | .versionInUse => 0x0F
  | .reduceMismatch => 0x10
  | .timeout => 0x11
  | .writeProtected => 0x12
  | .deltaFull => 0x13
  | .unitReset => 0x14

/-! ### Counts that saturate (R719) -/

/-- `x + k`, held at the largest value of the type (R719). -/
def satAdd {w : Nat} (x : BitVec w) (k : Nat) : BitVec w := BitVec.ofNat w (min (x.toNat + k) (2 ^ w - 1))
def satInc {w : Nat} (x : BitVec w) : BitVec w := satAdd x 1

/-! ### The variant's units (R1, R2) -/

def Variant.districts : Variant → Nat
  | .gm6024 => 6
  | _ => 8
def Variant.stacks : Variant → Nat
  | .gm6024 => 24
  | _ => 32
def Variant.avenues : Variant → Nat
  | .gm8032e => 4
  | _ => 8
/-- Optional unit Un (R1, R2). -/
def Variant.has (v : Variant) (u : Nat) : Bool :=
  match v with
  | .gm8032 => true
  | .gm6024 => u != 4
  | .gm8032e => u == 1 || u == 4

/-- District of a plaza, of a kiosk, and of a stack (R9, R10). -/
def plazaDistrict (p : Nat) : Nat := p / 8
def kioskPlaza (k : Nat) : Nat := k / 4
def stackDistrict (n : Nat) : Nat := n / 4

/-- A unit the variant has (R2). -/
def unitPresent (v : Variant) : UnitId → Bool
  | .district n => n.val < v.districts
  | .plaza n => plazaDistrict n.val < v.districts
  | .kiosk n => plazaDistrict (kioskPlaza n.val) < v.districts
  | .stack n => n.val < v.stacks
  | .avenue n => n.val < v.avenues

def Units.get (u : Units) : UnitId → UnitCtl
  | .district n => u.districts[n]
  | .plaza n => u.plazas[n]
  | .kiosk n => u.kiosks[n]
  | .stack n => u.stackUnits[n]
  | .avenue n => u.avenues[n]

def Units.set (u : Units) (i : UnitId) (c : UnitCtl) : Units :=
  match i with
  | .district n => { u with districts := u.districts.set n c }
  | .plaza n => { u with plazas := u.plazas.set n c }
  | .kiosk n => { u with kiosks := u.kiosks.set n c }
  | .stack n => { u with stackUnits := u.stackUnits.set n c }
  | .avenue n => { u with avenues := u.avenues.set n c }

/-- The unit that holds a unit, if any: a plaza lies in a district, a kiosk in a plaza (R9, R693). -/
def unitHolder : UnitId → Option UnitId
  | .plaza n => some (.district ⟨n.val / 8, by omega⟩)
  | .kiosk n => some (.plaza ⟨n.val / 4, by omega⟩)
  | _ => none

/-- The unit alone reads ENABLED. -/
def unitEnabled (s : State) (u : UnitId) : Bool :=
  unitPresent s.persist.variant u && (s.units.get u).state == .enabled

/-- A unit has done n more of what its work count counts (R635, R719). -/
def countWork (u : UnitId) (n : Nat) (s : State) : State :=
  let c := s.units.get u
  { s with units := s.units.set u { c with work := satAdd c.work n } }

/-- A unit is in service while it and every unit that holds it read ENABLED (R693). -/
def unitInService (s : State) (u : UnitId) : Bool :=
  unitEnabled s u && match unitHolder u with
    | none => true
    | some h => unitEnabled s h && match unitHolder h with
      | none => true
      | some g => unitEnabled s g

/-- The unit alone is in service or in a reset that ends with it in service (R551, R688). -/
def unitReturning (s : State) (u : UnitId) : Bool :=
  unitPresent s.persist.variant u && ((s.units.get u).state == .enabled || (s.units.get u).state == .resetting)

def plazaInService (s : State) (p : Nat) : Bool := if h : p < 64 then unitInService s (.plaza ⟨p, h⟩) else false

/-- May a unit's storage be reached: it exists and is not disabled; a request to a unit in reset waits for its release and then
finds the same (R487, R515). -/
def stackReachable (s : State) (n : Nat) : Bool :=
  if h : n < 32 then
    unitPresent s.persist.variant (.stack ⟨n, h⟩) &&
      match (s.units.stackUnits[(⟨n, h⟩ : Fin 32)]).state with
      | .enabled => true
      | .resetting => true
      | _ => false
  else false

/-- The stack or its district is in reset, so that requests to the stack wait for the release (R515, R690). -/
def stackInReset (s : State) (n : Nat) : Bool :=
  if h : n < 32 then
    (s.units.stackUnits[(⟨n, h⟩ : Fin 32)]).state == .resetting || (s.units.districts[(⟨n / 4, by omega⟩ : Fin 8)]).state == .resetting
  else false

/-! ### The address map (R483 to R488, R589) -/

def gib : Nat := 2 ^ 30
/-- Bytes of one stack: 96 GiB (R480). -/
def stackBytes : Nat := 96 * gib
/-- End of the stack region (R483). -/
def stackEnd : Nat := 32 * stackBytes
/-- Start of companion memory (R488). -/
def companionBase : Nat := 2 ^ 47

/-- What an address names. -/
inductive Place where
  | stack (n off : Nat)
  | companion (a : Nat)
  | unbacked
  | unmapped
  deriving DecidableEq, Repr

/-- The stack and stack offset of a stack-region address for shares K and J of a module with S stacks, before any unit is asked
about; `none` beyond the ALL window's S · K GiB (R483 to R487). -/
def stackPlace (k j S a : Nat) : Option (Nat × Nat) :=
  if a < 32 * k * gib then
    if a < S * k * gib then
      let g := a / 4096
      some (g % S, g / S * 4096 + a % 4096)
    else none
  else if a < 32 * (k + j) * gib then
    let d := (a - 32 * k * gib) / (4 * j * gib)
    let o := (a - 32 * k * gib) % (4 * j * gib)
    let g := o / 4096
    some (4 * d + g % 4, k * gib + g / 4 * 4096 + o % 4096)
  else
    let w := (96 - k - j) * gib
    let o := a - 32 * (k + j) * gib
    some (o / w, (k + j) * gib + o % w)

def resolve (s : State) (a : Nat) : Place :=
  if a < stackEnd then
    match stackPlace s.stk.k s.stk.j s.persist.variant.stacks a with
    | none => .unbacked
    | some (n, off) => if stackReachable s n then .stack n off else .unbacked
  else if a < companionBase then .unmapped
  else if a < companionBase + s.lk.cl.cbytes.toNat then .companion a
  else .unmapped

/-- The module address of a stack offset (inverse of `stackPlace`; for the scrubber's report, R497). -/
def stackAddress (k j S n off : Nat) : Nat :=
  if off < k * gib then (off / 4096 * S + n) * 4096 + off % 4096
  else if off < (k + j) * gib then
    let o := off - k * gib
    32 * k * gib + 4 * j * gib * (n / 4) + (o / 4096 * 4 + n % 4) * 4096 + o % 4096
  else 32 * (k + j) * gib + (96 - k - j) * gib * n + (off - (k + j) * gib)

/-- Where a byte is kept: stack bytes by stack and offset, so that a change of shares moves addresses and not bytes (R489);
companion bytes by their own address. -/
def Place.loc : Place → Option Nat
  | .stack n off => some (n * stackBytes + off)
  | .companion a => some a
  | _ => none

def locOf (s : State) (a : Nat) : Option Nat := (resolve s a).loc

/-- A byte of a stack in reset (R515). -/
def inResetAt (s : State) (a : Nat) : Bool :=
  match resolve s a with
  | .stack n _ => stackInReset s n
  | _ => false

/-- The stack whose LOCAL window holds an address (R486). -/
def localStack (s : State) (a : Nat) : Option Nat :=
  let b := 32 * (s.stk.k + s.stk.j) * gib
  if b ≤ a ∧ a < stackEnd then some ((a - b) / ((96 - s.stk.k - s.stk.j) * gib)) else none

/-- A range that lies wholly within one LOCAL window (R486). -/
def stackLocal (s : State) (a len : Nat) : Option Nat :=
  match localStack s a with
  | none => none
  | some n => if len = 0 ∨ localStack s (a + len - 1) = some n then some n else none

/-! ### Memory (R483, R513; LOG 4) -/

/-- What an unlisted location reads as: 0, which a reset writes to every stack byte (R513; LOG 4 for companion memory). -/
def memDefault : Byte := 0

def memGet : List Host.Cell → Nat → Byte
  | [], _ => memDefault
  | (a, b) :: t, k => if a = k then b else memGet t k

def memSet : List Host.Cell → Nat → Byte → List Host.Cell
  | [], k, v => if v = memDefault then [] else [(k, v)]
  | (a, b) :: t, k, v =>
    if k < a then (if v = memDefault then (a, b) :: t else (k, v) :: (a, b) :: t)
    else if k = a then (if v = memDefault then t else (k, v) :: t)
    else (a, b) :: memSet t k v

/-- The canonical form of a memory above a bound: locations strictly rising, none listed at the value of an unlisted one. -/
def memWfFrom : Nat → List Host.Cell → Bool
  | _, [] => true
  | lo, (a, b) :: t => decide (lo ≤ a) && decide (b ≠ memDefault) && memWfFrom (a + 1) t

/-- The canonical form of memory: equal memories are equal lists. -/
def Memory.wf (m : List Host.Cell) : Bool := memWfFrom 0 m

/-- The byte at a module address, with no effect on any count; unbacked and unmapped bytes read as 0 here. -/
def peek (s : State) (a : Nat) : Byte :=
  match locOf s a with
  | some l => memGet s.mem l
  | none => 0

/-- Stores bytes at consecutive locations of module addresses; bytes with no place are dropped. -/
def pokeList (s : State) : Nat → List Byte → List Host.Cell → List Host.Cell
  | _, [], m => m
  | a, b :: t, m => pokeList s (a + 1) t (match locOf s a with
    | some l => memSet m l b
    | none => m)

def poke (s : State) (a : Nat) (bs : List Byte) : State := { s with mem := pokeList s a bs s.mem }

/-! ### Protected ranges (R455, R456) -/

def protHit (p : List ProtRange) (a : Nat) : Bool := p.any fun r => r.base ≤ a && a < r.base + r.len

/-- The first protected byte of a range, if any (R455, R558). -/
def firstProtected (p : List ProtRange) (a len : Nat) : Option Nat :=
  p.foldl (fun acc r =>
    let lo := max a r.base
    if lo < min (a + len) (r.base + r.len) then
      match acc with
      | none => some lo
      | some x => some (min x lo)
    else acc) none

/-! ### Links: what is sent (R569 to R577, R583 to R585) -/

def Links.get (k : Links) : LinkId → Link
  | .cl => k.cl
  | .av n => k.avs[n]

def Links.set (k : Links) (i : LinkId) (l : Link) : Links :=
  match i with
  | .cl => { k with cl := l }
  | .av n => { k with avs := k.avs.set n l }

def setLink (i : LinkId) (l : Link) (s : State) : State := { s with lk := s.lk.set i l }

/-- A link over which sequenced flits pass. -/
def LinkPhase.carries : LinkPhase → Bool
  | .up | .upLimited => true
  | _ => false

/-- The Carard link, and every avenue that is not disabled, can train and pass flits, also on its way to idle or back into service (R688,
R690 to R693). -/
def linkThere (s : State) : LinkId → Bool
  | .cl => true
  | .av n => unitPresent s.persist.variant (.avenue n) && (s.units.avenues[n]).state != .disabled

/-- No new message goes to an avenue that has been asked to go idle (R688). -/
def linkTakes (s : State) : LinkId → Bool
  | .cl => true
  | .av n => !(s.units.avenues[n]).asking

/-- Does a link in its phase carry a channel or virtual lane (R599, R600, R668)? -/
def chCarried (s : State) (i : LinkId) (ch : Nat) : Bool :=
  let limited := s.sec.limited != 0 || (s.lk.get i).phase == .upLimited
  (s.lk.get i).phase.carries && (!limited || match i with
    | .cl => ch == 2
    | .av _ => ch == 3 || ch == 4)

/-- One bit of the CRC-32 of IEEE 802.3, least significant bit first. -/
def crcBit (c : Nat) : Nat := if c % 2 = 1 then c / 2 ^^^ 0xEDB88320 else c / 2

/-- The CRC-32 of IEEE 802.3 (R572). -/
def crc32 (bs : List Byte) : Nat :=
  bs.foldl (fun c b => (List.range 8).foldl (fun c _ => crcBit c) (c ^^^ b.toNat)) 0xFFFFFFFF ^^^ 0xFFFFFFFF

/-- The TYPE codes of flits (R571). -/
def flitIdle : Nat := 0
def flitData : Nat := 1
def flitCredit : Nat := 2
def flitNak : Nat := 3
def flitInit : Nat := 4

/-- The 128 bytes of a flit: its header, whose CRC covers bytes 0 to 3 and the payload, and the payload filled up with zeros (R571,
R572). -/
def flitBytes (type ch : Nat) (seq ack : BitVec 12) (payload : List Byte) : List Byte :=
  let head := leBytes 4 (seq.toNat * 2 ^ 20 + ack.toNat * 2 ^ 8 + type * 2 ^ 4 + ch)
  let body := payload ++ List.replicate (120 - payload.length) 0
  head ++ leBytes 4 (crc32 (head ++ body)) ++ body

/-- The ACK of a flit sent now: the last sequenced flit taken in order (R571); free before the first INIT has said which comes first. -/
def ackOf (i : LinkId) (s : State) : BitVec 12 × State :=
  match (s.lk.get i).rxNext with
  | some n => (n - 1, s)
  | none => (BitVec.ofNat 12 (Config.freePick s.freeCtr), { s with freeCtr := s.freeCtr + 1 })

/-- Puts a flit on a link. -/
def emitFlit (i : LinkId) (type ch : Nat) (seq : BitVec 12) (payload : List Byte) (s : State) : State :=
  let r := ackOf i s
  { r.2 with outbox := r.2.outbox ++ [.flit i (flitBytes type ch seq r.1 payload)] }

/-- Puts a flit on a link, after an IDLE where none of the last 2,047 was one (R569). -/
def putFlit (i : LinkId) (type ch : Nat) (seq : BitVec 12) (payload : List Byte) (s : State) : State :=
  let l := s.lk.get i
  if 2047 ≤ l.sinceIdle then
    emitFlit i type ch seq payload (emitFlit i flitIdle 0 l.txSeq [] (setLink i { l with sinceIdle := 1 } s))
  else emitFlit i type ch seq payload (setLink i { l with sinceIdle := l.sinceIdle + 1 } s)

/-- Puts a sequenced flit on a link, for the first time or again (R573, R574). -/
def putSequenced (i : LinkId) (f : Flit) (s : State) : State :=
  match f.body with
  | .data ch bs => putFlit i flitData ch f.seq bs s
  | .credit es => putFlit i flitCredit 15 f.seq (es.flatMap fun e => leBytes 4 e.toNat) s

/-- Puts a new sequenced flit on a link and in its retry buffer (R573). -/
def sendFlit (i : LinkId) (b : FlitBody) (s : State) : State :=
  let l := s.lk.get i
  let f : Flit := ⟨l.txSeq, b⟩
  putSequenced i f (setLink i { l with txSeq := l.txSeq + 1, unacked := l.unacked ++ [f] } s)

/-- The byte stream of a channel or lane that some messages make, one after another (R576). -/
def streamOf (ch : Nat) (l : List OutMsg) : List Byte := (l.filter fun m => m.ch == ch).flatMap OutMsg.bytes

/-- The channels of some messages. -/
def channelsOf (l : List OutMsg) : List Nat := (l.map OutMsg.ch).eraseDups

/-- How many flits the streams of some messages fill. -/
def flitCount (l : List OutMsg) : Nat := (channelsOf l).foldl (fun n ch => n + ((streamOf ch l).length + 119) / 120) 0

/-- The first message that a link can send beside some others, and what then still waits: none before it waits for the same pool, its lane is
carried, its credits suffice, and all their flits fit the retry buffer (R573, R577). -/
def nextMsg (s : State) (i : LinkId) (taken : List OutMsg) : (passed : List Nat) → List OutMsg → Option (OutMsg × List OutMsg)
  | _, [] => none
  | passed, m :: t =>
    let l := s.lk.get i
    let ok := !passed.contains m.pool && chCarried s i m.ch && m.units ≤ (if m.pool < 16 then l.credits.getD m.pool 0 else 0)
      && l.unacked.length + flitCount (taken ++ [m]) ≤ 2048
    if ok then some (m, t) else (nextMsg s i taken (m.pool :: passed) t).map fun r => (r.1, m :: r.2)

/-- Takes the messages that a link can send now; their credits are spent (R577). -/
def takeMsgs (i : LinkId) : (fuel : Nat) → (taken : List OutMsg) → State → List OutMsg × State
  | 0, taken, s => (taken, s)
  | n + 1, taken, s => match nextMsg s i taken [] (s.lk.get i).waiting with
    | some (m, rest) =>
      let l := s.lk.get i
      takeMsgs i n (taken ++ [m])
        (setLink i { l with waiting := rest, credits := l.credits.set m.pool (l.credits.getD m.pool 0 - m.units) } s)
    | none => (taken, s)

/-- Payloads of 120 bytes, the last padded with zeros (R576). -/
def payloads : (fuel : Nat) → List Byte → List (List Byte)
  | 0, _ => []
  | n + 1, bs =>
    if bs.isEmpty then []
    else (bs.take 120 ++ List.replicate (120 - (bs.take 120).length) 0) :: payloads n (bs.drop 120)

/-- Sends messages in their lanes' byte streams, with no gaps; the flit that ends a stream for now is padded (R576; LOG 38). -/
def sendStreams (i : LinkId) (l : List OutMsg) (s : State) : State :=
  (channelsOf l).foldl (fun s ch => (payloads (streamOf ch l).length (streamOf ch l)).foldl (fun s p => sendFlit i (.data ch p) s) s) s

/-- An avenue has sent packets (R635). -/
def countPackets (i : LinkId) (n : Nat) (s : State) : State :=
  match i with
  | .cl => s
  | .av av => countWork (.avenue av) n s

/-- Counts bytes that a REDUCE has sent or received (R445), and those that a GATHER sent (R479). -/
def countSent (n : Nat) (s : State) : State := { s with red := { s.red with sent := satAdd s.red.sent n } }
def countReceived (n : Nat) (s : State) : State := { s with red := { s.red with received := satAdd s.red.received n } }
def countGathered (n : Nat) (s : State) : State := { s with shard := { s.shard with gatheredOut := satAdd s.shard.gatheredOut n } }

/-- A packet leaves: its payload is counted where a REDUCE of this module's own sends it, on pool 0, or a GATHER's SLICE, on pool 4 (R445,
R479, R582, R595); a packet has a header of 32 bytes, whose first is its type (R594). -/
def countPayload (s : State) (m : OutMsg) : State :=
  if m.pool = 0 then countSent (m.bytes.length - 32) s
  else if m.pool = 4 ∧ m.bytes.head? = some 0x31 then countGathered (m.bytes.length - 32) s
  else s

/-- Messages leave a link: what they count and what the model records of them. -/
def countMsgs (i : LinkId) (l : List OutMsg) (s : State) : State :=
  let t := { s with outbox := s.outbox ++ l.filterMap OutMsg.note }
  match i with
  | .cl => t
  | .av _ => l.foldl countPayload (countPackets i l.length t)

/-- Sends every waiting message that a link can send now. -/
def transmit (i : LinkId) (s : State) : State :=
  let r := takeMsgs i (s.lk.get i).waiting.length [] s
  if r.1.isEmpty || !linkTakes s i then s else sendStreams i r.1 (countMsgs i r.1 r.2)

/-- Adds a message or packet to those that wait for a link. -/
def linkQueue (i : LinkId) (m : OutMsg) (s : State) : State :=
  let l := s.lk.get i
  setLink i { l with waiting := l.waiting ++ [m] } s

/-- Hands a message or packet to a link. -/
def linkPost (i : LinkId) (m : OutMsg) (s : State) : State := transmit i (linkQueue i m s)

/-- A message on the Carard link (R583): its header and data. -/
def clBytes (op status addr tag : Nat) (data : List Byte) : List Byte :=
  leBytes 8 (addr * 2 ^ 16 + status * 2 ^ 8 + op) ++ leBytes 8 (data.length * 2 ^ 48 + tag * 2 ^ 36) ++ data

/-- Units a message or packet of n bytes takes (R585, R594). -/
def unitsOf (n : Nat) : Nat := (n + 63) / 64

/-- A request of a channel, which takes credits of its pool (R585). -/
def clMsg (ch op addr tag : Nat) (data : List Byte) : OutMsg :=
  ⟨ch, ch, unitsOf (16 + data.length), clBytes op 0 addr tag data, none⟩

/-- Sends a request of a channel. -/
def clRequest (ch op addr tag : Nat) (data : List Byte) (s : State) : State := linkPost .cl (clMsg ch op addr tag data) s

/-- Sends a response, which takes none. -/
def clResponse (ch op status addr tag : Nat) (data : List Byte) (s : State) : State :=
  linkPost .cl ⟨ch, 16, 0, clBytes op status addr tag data, none⟩ s

/-- Sends a mailbox message of the module's own, under the next TAG (R583 to R585). -/
def mailRequest (op : Nat) (data : List Byte) (s : State) : State :=
  clRequest 2 op 0 (Config.firstMailTag + s.lk.mailCount).toNat data { s with lk := { s.lk with mailCount := s.lk.mailCount + 1 } }

/-- What follows the EtherType in a frame of the field segment: the sub-header of a KIND, one response or alert, and zeros up to the minimum
frame size of IEEE 802.3 (R621). -/
def fieldFrame (kind : Byte) (body : List Byte) : List Byte :=
  let l := [1, kind, 0, 0] ++ body
  l ++ List.replicate (46 - l.length) 0

/-! ### Alerts (R636 to R638) -/

def linkCarriesMailbox (l : Link) : Bool := l.phase == .up || l.phase == .upLimited

/-- ALERT_N: low, and so FALSE, while an alert that is not masked is pending (R638). -/
def alertPin (s : State) : Bool := (s.od.alertPending &&& s.od.alertMask) == 0

/-- Sends an alert to the session holder's path, where it can be sent (R638). -/
def sendAlert (s : State) : State :=
  let n := satInc s.od.alertsSent
  let word : W64 := BitVec.ofNat 64 (n.toNat * 2 ^ 32 + (s.od.alertPending &&& s.od.alertMask).toNat)
  match s.od.holder with
  | .carard =>
    if linkCarriesMailbox s.lk.cl then
      mailRequest 0xA3 (leBytes 8 word.toNat)
        { s with od := { s.od with alertsSent := n, holdCarard := true, owedCarard := false }, outbox := s.outbox ++ [.alertCarard word] }
    else s
  | .field =>
    match s.od.lastFieldSource with
    | none => s
    | some dst => { s with od := { s.od with alertsSent := n, holdField := true, owedField := false },
                           outbox := s.outbox ++ [.alertField dst (fieldFrame 3 (leBytes 8 word.toNat))] }

/-- The masked pending word gained a bit: an alert now, or after the hold-off of 1 ms (R638). -/
def alertGained (s : State) : State :=
  match s.od.holder with
  | .carard => if s.od.holdCarard then { s with od := { s.od with owedCarard := true } } else sendAlert s
  | .field => if s.od.holdField then { s with od := { s.od with owedField := true } } else sendAlert s

/-- Sets bits of 1040:01 (R637) and sends what R638 asks. -/
def raiseAlert (bits : W32) (s : State) : State :=
  let s1 := { s with od := { s.od with alertPending := s.od.alertPending ||| bits } }
  if (bits &&& s.od.alertMask &&& ~~~s.od.alertPending) = 0 then s1 else alertGained s1

/-! ### Events of memory (R493 to R497, R526) -/

/-- The state of the codeword at a location (R491): `none` good, `some false` correctable, `some true` uncorrectable. -/
def eccAt (s : State) (loc : Nat) : Option Bool :=
  (s.stk.ecc.find? fun e => e.loc == loc / 16 * 16).map fun e => e.sym0 && e.sym1

def eccClear (s : State) (loc : Nat) : State :=
  { s with stk := { s.stk with ecc := s.stk.ecc.filter fun e => e.loc != loc / 16 * 16 } }

/-- A corrected read of stack n: counted, and the codeword written back (R493). -/
def countCorrected (n loc : Nat) (s : State) : State :=
  let s := eccClear s loc
  let stk := s.stk
  { s with stk := { stk with
      corrected := satInc stk.corrected,
      corrOf := if h : n < 32 then stk.corrOf.set n (satInc (stk.corrOf[n]'h)) else stk.corrOf } }

/-- An uncorrectable read at a module address of stack n (R497), and its alert (R637). -/
def countUncorrectable (n addr source : Nat) (s : State) : State :=
  let stk := s.stk
  raiseAlert 4 { s with stk := { stk with
      uncorrectable := satInc stk.uncorrectable,
      uncOf := if h : n < 32 then stk.uncOf.set n (satInc (stk.uncOf[n]'h)) else stk.uncOf,
      lastAddr := BitVec.ofNat 64 (addr / 16 * 16),
      lastSource := BitVec.ofNat 8 source } }

/-! ### The monad of a descriptor's work -/

/-- Why work stops: with a status other than OK and the address it reports (R558); or, with `waits`, because something it needs is not
there yet, so that nothing of it has happened. -/
structure Fail where
  status : Status
  addr : Option Nat
  waits : Bool
  deriving DecidableEq, Repr

/-- A state with what the running descriptor has read and written so far (R547) and the turn of what it does now, its class-specific
bytes (R558), the units its work is placed on (R551), with the kiosks that have a row of it apart, what it will still wait for, the ranges of a fused tensor that the plaza store
holds in place of the stacks with their bytes (R164), and the status of a write suppressed on the way (R456). `order`: its place in the
order of starts (R546). `lines`: companion lines that have come for it; `wants`: those it found missing. `blind`: it reads what is stored,
whatever its state, only to find out what a failed descriptor names. `serial`: what it has read outside R547; `data`: it now reads the planes that a
COPY_TENSOR copies. -/
structure Work where
  s : State
  reads : List MemAccess
  writes : List MemAccess
  turn : Nat
  info : List Byte
  units : List UnitId
  kiosks : List UnitId
  await : Await
  held : List (Nat × List Byte)
  late : Option Fail
  order : Nat
  lines : List GotLine
  wants : List Nat
  blind : Bool
  serial : List MemAccess
  data : Bool

/-- The plaza store holds the bytes [a, a + len). -/
def Work.holds (w : Work) (a len : Nat) : Bool := w.held.any fun r => r.1 ≤ a && a + len ≤ r.1 + r.2.length

abbrev M := ExceptT Fail (StateM Work)

def fail {α : Type} (st : Status) : M α := throw ⟨st, none, false⟩
def failAt {α : Type} (st : Status) (a : Nat) : M α := throw ⟨st, some a, false⟩
/-- Something the work needs is not there yet. -/
def hold {α : Type} : M α := throw ⟨.ok, none, true⟩
def holdIf (c : Bool) : M Unit := if c then hold else pure ()
def getS : M State := do return (← get).s
def modS (f : State → State) : M Unit := modify fun w => { w with s := f w.s }
/-- Ends with a status unless a check holds. -/
def need (c : Bool) (st : Status) : M Unit := if c then pure () else fail st
def needDesc (c : Bool) : M Unit := need c .badDescriptor

def noteRead (a len : Nat) : M Unit := modify fun w =>
  if w.holds a len then w else { w with reads := ⟨a, len, w.turn, w.data⟩ :: w.reads }
def noteWrite (a len : Nat) : M Unit := modify fun w => if w.holds a len then w else { w with writes := ⟨a, len, w.turn, false⟩ :: w.writes }

/-- Does a part of the work whose accesses are taken in turn with others' of the same key (R546). -/
def inTurn {α : Type} (k : Nat) (m : M α) : M α := do
  let old := (← get).turn
  modify fun w => { w with turn := k }
  let r ← m
  modify fun w => { w with turn := old }
  return r

/-- Reads the planes that a COPY_TENSOR copies. -/
def asData {α : Type} (m : M α) : M α := do
  modify fun w => { w with data := true }
  let r ← m
  modify fun w => { w with data := false }
  return r

/-- The turns of R546: accumulators (R154), pages (R198), and a care record at an address (R396). -/
def turnAccum : Nat := 1
def turnPage : Nat := 2
def turnCare (a : Nat) : Nat := 16 + a

def zeros16 : List Byte := List.replicate 16 0

/-- Sets the class-specific bytes 16 to 31 of the record (R558). -/
def setInfo (l : List Byte) : M Unit := modify fun w => { w with info := l }
/-- Sets bits of the exception word in bytes 16 and 17 of the record; they stay whatever the status will be (R720). -/
def orExc (e : W16) : M Unit := modify fun w =>
  { w with info := leBytes 2 (BitVec.ofNat 16 (leNat (w.info.take 2)) ||| e).toNat ++ w.info.drop 2 }
def setAwait (a : Await) : M Unit := modify fun w => { w with await := a }
/-- Places work on units (R551) and counts the descriptor for districts and plazas (R635). -/
def useUnits (us : List UnitId) : M Unit := modify fun w =>
  { w with units := w.units ++ us,
           s := us.foldl (fun s u => match u with
             | .district _ | .plaza _ => countWork u 1 s
             | _ => s) w.s }

/-- The status of a descriptor whose companion access was answered with a STATUS other than OK (R588). -/
def companionFailure (x : Byte) : Status := if x = 1 then .badDescriptor else .uncorrectableMem

/-- Reads the codeword of an address for a descriptor: absent, unmapped, corrected, uncorrectable or refused by the companion as R487,
R488, R493, R495 and R588 say; an uncorrectable one is reported by the codeword's first byte (R558). A stack in reset has it wait
(R515). -/
def touch (a : Nat) : M Unit := do
  let w ← get
  let s := w.s
  match resolve s a with
  | .unbacked => failAt .unitAbsent a
  | .unmapped => failAt .badDescriptor a
  | .companion _ =>
    match w.lines.find? fun l => l.line == a / 256 * 256 with
    | some l => if l.status = 0 then pure () else failAt (companionFailure l.status) (if l.status = 1 then a else a / 16 * 16)
    | none => pure ()
  | .stack n off =>
    if stackInReset s n then hold
    else
      let loc := n * stackBytes + off
      match eccAt s loc with
      | none => pure ()
      | some false => modS (countCorrected n loc)
      | some true =>
        modS (countUncorrectable n a 1)
        failAt .uncorrectableMem (a / 16 * 16)

/-- The lines that a range touches. -/
def linesOf (a len : Nat) : List Nat :=
  if len = 0 then [] else (List.range ((a + len - 1) / 256 - a / 256 + 1)).map fun i => (a / 256 + i) * 256

/-- The companion lines of a range that have not come for the work and that no cache holds (R500, R590). -/
def missingLines (w : Work) (a len : Nat) : List Nat :=
  if a + len ≤ companionBase then []
  else (linesOf a len).filter fun l => (match resolve w.s l with
    | .companion _ => true
    | _ => false) && !(w.lines.any fun x => x.line == l) && !w.s.stk.dcache.contains l

/-- Companion lines that are missing are asked for, and the work waits (R584, R588). -/
def needLines (a len : Nat) : M Unit := do
  let l := missingLines (← get) a len
  if l.isEmpty then pure ()
  else
    modify fun w => { w with wants := w.wants ++ l }
    hold

/-- Visits one address of each codeword of [a, a + len). -/
def touchRange (a len : Nat) : M Unit := do
  let w ← get
  if w.blind || len == 0 || w.holds a len then pure ()
  else
    needLines a len
    let c := a / 16
    let n := (a + len - 1) / 16 - c + 1
    (List.range n).forM fun i => touch (max a ((c + i) * 16))

def peekList (s : State) (a len : Nat) : List Byte := (List.range len).map fun i => peek s (a + i)

/-- A byte as the work sees it: the plaza store's where that holds it. -/
def Work.byte (w : Work) (a : Nat) : Byte :=
  match w.held.find? fun r => r.1 ≤ a && a < r.1 + r.2.length with
  | some r => r.2.getD (a - r.1) 0
  | none => peek w.s a

def Work.bytes (w : Work) (a len : Nat) : List Byte := (List.range len).map fun i => w.byte (a + i)

/-- How many bytes some ranges have. -/
def rangeBytes (l : List (Nat × Nat)) : Nat := l.foldl (fun a r => a + r.2) 0

/-- Stores bytes in the plaza store, where it holds them. -/
def Work.keep (a : Nat) (bs : List Byte) (w : Work) : Work :=
  { w with held := w.held.map fun r => (r.1, r.2.zipIdx.map fun x =>
      if a ≤ r.1 + x.2 ∧ r.1 + x.2 < a + bs.length then bs.getD (r.1 + x.2 - a) 0 else x.1) }

/-- Reads bytes: every codeword is touched. -/
def fetchBytes (a len : Nat) : M (List Byte) := do
  touchRange a len
  return (← get).bytes a len

/-- Reads bytes for a descriptor, outside R547 (data the spec serialises); its stacks and caches see the read all the same. -/
def readSerial (a len : Nat) : M (List Byte) := do
  modify fun w => { w with serial := ⟨a, len, 0, false⟩ :: w.serial }
  fetchBytes a len

/-- Reads bytes for a descriptor. -/
def readBytes (a len : Nat) : M (List Byte) := do
  noteRead a len
  fetchBytes a len

def readU (n a : Nat) : M Nat := do return leNat (← readBytes a n)
def readU8 (a : Nat) : M Nat := readU 1 a
def readU32 (a : Nat) : M Nat := readU 4 a
def readU64 (a : Nat) : M W64 := do return BitVec.ofNat 64 (← readU 8 a)

/-- The part of a write that falls on one codeword: [lo, hi) of addresses. A part that does not cover it whole reads it first, and
an uncorrectable one is left as stored (R494). Answers whether it failed. -/
def writeCodeword (source base : Nat) (bs : List Byte) (lo hi : Nat) : M Bool := do
  let s ← getS
  match resolve s lo with
  | .stack n off =>
    holdIf (stackInReset s n)
    let loc := n * stackBytes + off
    let part := (bs.drop (lo - base)).take (hi - lo)
    if hi - lo = 16 then
      modS fun s => eccClear (poke s lo part) loc
      return false
    else
      match eccAt s loc with
      | some true =>
        modS (countUncorrectable n lo source)
        return true
      | some false =>
        modS fun s => poke (countCorrected n loc s) lo part
        return false
      | none =>
        modS fun s => poke s lo part
        return false
  | .companion _ =>
    modS fun s => poke s lo ((bs.drop (lo - base)).take (hi - lo))
    return false
  | .unbacked => failAt .unitAbsent lo
  | .unmapped => failAt .badDescriptor lo

/-- Is a TAG of the coherent channel's requests free (R585)? -/
def tagFree (s : State) (t : BitVec 12) : Bool := !(s.stk.rdShared.any fun r => r.tag == t) && !(s.stk.wr.any fun w => w.tag == t)

/-- A request can take a TAG: at most 4,096 are in flight (R585). -/
def anyTag (s : State) : Bool := s.stk.rdShared.length + s.stk.wr.length < 4096

/-- The first free TAG at or after one. -/
def freshTag (s : State) : (fuel : Nat) → BitVec 12 → BitVec 12
  | 0, t => t
  | n + 1, t => if tagFree s t then t else freshTag s n (t + 1)

/-- A TAG that no request in flight holds (R585): which one is a free choice (LOG 15). -/
def takeTag (s : State) : BitVec 12 :=
  freshTag s (s.stk.rdShared.length + s.stk.wr.length) (BitVec.ofNat 12 (Config.freePick s.freeCtr))

/-- Makes a WR under a TAG that no request in flight holds; it goes out with the next `transmit`. -/
def postWr (owner : Option (Fin 64 × W32)) (a : Nat) (data : List Byte) (s : State) : State :=
  let tag := takeTag s
  linkQueue .cl (clMsg 0 0x02 a tag.toNat data)
    { s with stk := { s.stk with wr := s.stk.wr ++ [⟨tag, a, data.length, owner⟩] }, freeCtr := s.freeCtr + 1,
             outbox := s.outbox ++ [.wr tag a data] }

/-- The bytes that a write has changed are newer than what a line's RD_SHARED in flight brings (R590). -/
def outdate (a len : Nat) (s : State) : State :=
  { s with stk := { s.stk with rdShared := s.stk.rdShared.map fun r =>
      if r.line = a / 256 * 256 then { r with written := r.written ++ [(a, len)] } else r } }

/-- One WR message: the whole 16-byte units of a 256-byte line that a write touched, as memory now holds them (R584, R590); it waits
behind those that wait for a TAG (R585). -/
def sendWrLine (owner : Option (Fin 64 × W32)) (lo hi : Nat) (s0 : State) : State :=
  let a := lo / 16 * 16
  let s := outdate lo (hi - lo) s0
  let data := (List.range ((hi + 15) / 16 * 16 - a)).map fun i => peek s (a + i)
  if s.stk.wrWaiting.isEmpty && anyTag s then postWr owner a data s
  else { s with stk := { s.stk with wrWaiting := s.stk.wrWaiting ++ [⟨a, data, owner⟩] } }

/-- A TAG has become free: the first WR that waits for one goes. -/
def nextWr (s : State) : State :=
  match s.stk.wrWaiting with
  | [] => s
  | w :: t => if anyTag s then transmit .cl (postWr w.owner w.addr w.data { s with stk := { s.stk with wrWaiting := t } }) else s

/-- The parts of a line whose WRs still wait for a TAG. -/
def unsentParts (s : State) (line : Nat) : List (Nat × Nat) :=
  (s.stk.wrWaiting.filter fun w => w.addr / 256 * 256 == line).map fun w => (w.addr, w.data.length)

/-- Asks the companion for a line (R584, R592); the request goes out with the next `transmit`. -/
def readLine (reader : Reader) (line : Nat) (tag : BitVec 12) (s : State) : State :=
  linkQueue .cl (clMsg 0 0x01 line tag.toNat [])
    { s with stk := { s.stk with rdShared := s.stk.rdShared ++ [⟨tag, line, true, reader, unsentParts s line⟩] },
             outbox := s.outbox ++ [.rdShared tag line] }

/-- Asks for a missing line unless it has been asked for; at most 2,048 reads are in flight, and further ones wait (R505, R585). -/
def askLine (reader : Reader) (s : State) (line : Nat) : State :=
  if (s.stk.rdShared.any fun r => r.line == line && r.reader == reader) || !anyTag s || !decide (s.stk.rdShared.length < 2048) then s
  else readLine reader line (takeTag s) { s with freeCtr := s.freeCtr + 1 }

/-- Asks for the lines that work found missing. -/
def askLines (reader : Reader) (l : List Nat) (s : State) : State := transmit .cl (l.foldl (askLine reader) s)

/-- The WR messages of a write to companion memory, line by line (R584, R590); they go out with the next `transmit`. -/
def queueWr (owner : Option (Fin 64 × W32)) (a : Nat) (bs : List Byte) (s : State) : State :=
  if bs.isEmpty then s
  else
    let c := a / 256
    (List.range ((a + bs.length - 1) / 256 - c + 1)).foldl (fun s i =>
      sendWrLine owner (max a ((c + i) * 256)) (min (a + bs.length) ((c + i + 1) * 256)) s) s

/-- Sends the WR messages of a write to companion memory. -/
def sendWr (owner : Option (Fin 64 × W32)) (a : Nat) (bs : List Byte) (s : State) : State := transmit .cl (queueWr owner a bs s)

/-- What some work has put before the Carard link goes out in one stream (R576). -/
def sendQueued (old s : State) : State := if s.lk.cl.waiting.length = old.lk.cl.waiting.length then s else transmit .cl s

/-- Stores bytes codeword by codeword for a source of R525; the first failed partial write is reported after the rest is written (R494). -/
def storeFrom (source a : Nat) (bs : List Byte) : M Unit := do
  if bs.isEmpty then pure ()
  else
    let c := a / 16
    let n := (a + bs.length - 1) / 16 - c + 1
    let bad ← (List.range n).mapM fun i => do
      let lo := max a ((c + i) * 16)
      let hi := min (a + bs.length) ((c + i + 1) * 16)
      let failed ← writeCodeword source a bs lo hi
      return if failed then some ((c + i) * 16) else none
    match bad.find? Option.isSome with
    | some (some x) => failAt .uncorrectableMem x
    | _ => pure ()

/-- The partly covered codewords at the ends of a range are read as a write of it reads them (R494), by writing a byte of each as it is: the
write itself then meets no uncorrectable one. -/
def probeEdges (a len : Nat) : M Unit := do
  let s ← getS
  if len ≠ 0 ∧ a % 16 ≠ 0 then storeFrom 5 a [peek s a]
  if len ≠ 0 ∧ (a + len) % 16 ≠ 0 then storeFrom 5 (a + len - 1) [peek s (a + len - 1)]

/-- The interface of a stack has transferred a line (R635). -/
def markStack (n : Nat) (s : State) : State :=
  if h : n < 32 then countWork (.stack ⟨n, h⟩) 1 s else s

/-- The same for the line of an address. -/
def markLine (a : Nat) (s : State) : State :=
  match resolve s a with
  | .stack n _ => markStack n s
  | _ => s

/-- The same for each line of a range. -/
def markRange (a len : Nat) (s : State) : State := (linesOf a len).foldl (fun s l => markLine l s) s

/-! ### District caches (R500, R501) -/

/-- Districts in service, in increasing number (R500). -/
def districtsUp (s : State) : List Nat :=
  (List.range 8).filter fun d => if h : d < 8 then unitInService s (.district ⟨d, h⟩) else false

/-- A line as its cache knows it: by its place in a stack, whatever address names that, or by its companion address (R489, R500). -/
def lineKey (s : State) (a : Nat) : Nat := (locOf s (a / 256 * 256)).getD (a / 256 * 256)

/-- The district whose cache is the one for a line (R500). -/
def cacheDistrict (s : State) (l : Nat) : Option Nat :=
  if l < stackEnd then some (stackDistrict (l / stackBytes))
  else
    let e := districtsUp s
    if e.isEmpty then none else some (e.getD (l / 256 % 8 % e.length) 0)

/-- Lines of a range leave the district caches when a ground floor writes them itself (R501). -/
def invalidateLines (a len : Nat) (s : State) : State :=
  let gone := (linesOf a len).map (lineKey s)
  { s with stk := { s.stk with dcache := s.stk.dcache.filter fun l => !gone.contains l } }

/-- A ground floor does the work: a caretaker's, an applier's or a decoder's (R501). -/
def Work.ground (w : Work) : Bool := w.units.any fun u => match u with
  | .stack _ => true
  | _ => false

/-- Stores bytes for a descriptor: its stacks transfer their lines (R635), and those that a ground floor writes leave the caches, also
where a codeword of theirs fails (R494, R501). -/
def storeBytes (a : Nat) (bs : List Byte) : M Unit := do
  let ground := (← get).ground
  modS fun s => markRange a bs.length (if ground then invalidateLines a bs.length s else s)
  storeFrom 5 a bs

/-- Counts and refuses a write that meets a protected range (R455, R456). -/
def refuseProtected (x : Nat) : M Unit := do
  modS fun s => { s with shard := { s.shard with refused := satInc s.shard.refused } }
  failAt .writeProtected x

/-- Writes bytes for a descriptor, outside R547 (data the spec serialises). -/
def writeSerial (a : Nat) (bs : List Byte) : M Unit := do
  let w ← get
  if w.holds a bs.length then modify (Work.keep a bs)
  else if w.blind then modS fun s => poke s a bs
  else match firstProtected w.s.prot a bs.length with
  | some x => refuseProtected x
  | none =>
    storeBytes a bs
    if companionBase ≤ a then modS (queueWr none a bs) else pure ()

/-- A write that the descriptor makes besides its outputs: where a protected range suppresses it, the descriptor goes on and ends with
WRITE_PROTECTED if nothing else fails it (R456). -/
def writeBeside (a : Nat) (bs : List Byte) : M Unit := do
  match firstProtected (← getS).prot a bs.length with
  | some x =>
    modS fun s => { s with shard := { s.shard with refused := satInc s.shard.refused } }
    modify fun w => { w with late := w.late <|> some ⟨.writeProtected, some x, false⟩ }
  | none => writeSerial a bs

/-- Writes bytes for a descriptor. -/
def writeBytes (a : Nat) (bs : List Byte) : M Unit := do
  noteWrite a bs.length
  writeSerial a bs

def writeU (n a v : Nat) : M Unit := writeBytes a (leBytes n v)

/-! ### Read requests that stacks hold (R504) -/

/-- The stacks that a range lies on. -/
def stacksOf (s : State) (a len : Nat) : List Nat :=
  if stackEnd ≤ a then [] else ((linesOf a len).filterMap fun l => match resolve s l with
    | .stack n _ => some n
    | _ => none).eraseDups

/-- Read requests that a stack holds: at most 512 (R504). -/
def requestsAt (s : State) (n : Nat) : Nat :=
  min 512 (s.q.inflight.foldl (fun k e => k + (e.requests.filter fun r => r.1 == n).foldl (fun k r => k + r.2) 0) 0)

/-- 2B00:09: read requests that the stacks hold now. -/
def requestsHeld (s : State) : Nat := (List.range 32).foldl (fun k n => k + requestsAt s n) 0

/-- The requests that stacks hold for a descriptor's reads: how many of each stack's is free, where 512 are not in flight (LOG 67). -/
def drawRequests (reads : List MemAccess) (s : State) : List (Nat × Nat) :=
  ((reads.flatMap fun r => stacksOf s r.lo r.len).eraseDups.zipIdx).map fun x =>
    (x.1, min (512 - requestsAt s x.1) (Config.freePick (s.freeCtr + x.2) % 512))

/-- A line of a stack that can take another request. -/
def mayRequest (s : State) (l : Nat) : Bool :=
  match resolve s l with
  | .stack n _ => decide (requestsAt s n < 512)
  | _ => false

/-- Reads of lines are requests of R504 beside those held: at least one of them at a time, and how many is free (LOG 67). 2B00:0A follows
(R524). -/
def noteRequests (l : List Nat) (s : State) : State :=
  let n := (l.filter (mayRequest s)).length
  if n = 0 then s
  else { s with stk := { s.stk with peakReads := max s.stk.peakReads (requestsHeld s + 1 + Config.freePick s.freeCtr % n) },
                freeCtr := s.freeCtr + 1 }

/-- The lines of a range in stacks that no cache holds. -/
def uncached (s : State) (a len : Nat) : List Nat :=
  (linesOf a len).filter fun l => l < stackEnd && !s.stk.dcache.contains (lineKey s l)

/-- Reads codewords outside any descriptor: corrected ones are counted and written back, an uncorrectable one is counted with a source of
R524; answers whether there was one, whose data are then not delivered (R493, R495 to R497). -/
def readCodewords (a len source : Nat) (s : State) : Bool × State :=
  (if len = 0 then [] else List.range ((a + len - 1) / 16 - a / 16 + 1)).foldl (fun r i =>
    let x := (a / 16 + i) * 16
    match resolve r.2 x with
    | .stack n off =>
      let loc := n * stackBytes + off
      match eccAt r.2 loc with
      | none => r
      | some false => (r.1, countCorrected n loc r.2)
      | some true => (true, countUncorrectable n x source r.2)
    | _ => r) (false, s)

/-- The lines of the set that a line falls in (R500). -/
def setOf (s : State) (l : Nat) : List Nat :=
  s.stk.dcache.filter fun x => cacheDistrict s x == cacheDistrict s l && Config.cacheSet x % 32768 == Config.cacheSet l % 32768

/-- The stack that a line lies in transfers it (R635). -/
def markKey (l : Nat) (s : State) : State := if l < stackEnd then markStack (l / stackBytes) s else s

/-- Puts a line in its cache, as the line used last; of a full set the line used longest ago leaves. `dcache` holds the lines of every
district, the one used last in front. -/
def fillLine (l : Nat) (s : State) : State :=
  let full := 16 ≤ s.stk.dcache.length && 16 ≤ (setOf s l).length
  { s with stk := { s.stk with
      misses := satInc s.stk.misses,
      dcache := l :: if full then s.stk.dcache.filter fun x => (setOf s l).getLast? != some x else s.stk.dcache } }

/-- A read of a line through its cache, from its stack where it is not there; a district out of service caches nothing (R500; LOG
67). -/
def useLine (l : Nat) (s : State) : State :=
  if (districtsUp s).any fun d => cacheDistrict s l == some d then
    if s.stk.dcache.contains l then
      { s with stk := { s.stk with hits := satInc s.stk.hits, dcache := l :: s.stk.dcache.filter fun x => x != l } }
    else fillLine l (markKey l s)
  else markKey l s

/-- A read of a range through the caches. -/
def useLines (a len : Nat) (s : State) : State := (linesOf a len).foldl (fun s l => useLine (lineKey s l) s) s

/-- Reads codewords outside any descriptor through the caches (R500). -/
def readCached (a len source : Nat) (s : State) : Bool × State :=
  readCodewords a len source (useLines a len (noteRequests (uncached s a len) s))

/-- The Hall die reads the receive region of bundles, or records of the scheduler's and the reduction engine's; which source of R524 an
uncorrectable read of its has is not stated (LOG 18). -/
def readByHall (a len : Nat) (s : State) : Bool × State :=
  readCached a len (1 + Config.freePick s.freeCtr % 5) { s with freeCtr := s.freeCtr + 1 }

/-- Reads of a descriptor, the last one first, through the caches; the lines that came for it have been counted as they came (R500). -/
def cacheReads (got : List GotLine) (reads : List MemAccess) (s : State) : State :=
  ((reads.reverse.flatMap fun r => linesOf r.lo r.len).filter fun l => !(got.any fun x => x.line == l)).foldl
    (fun s l => useLine (lineKey s l) s) s

/-! ### Checks on addresses -/

/-- An address named by a checked field: unmapped ones are BAD_DESCRIPTOR (R488). -/
def mapped (s : State) (a : Nat) : Bool :=
  match resolve s a with
  | .unmapped => false
  | _ => true

def inStackRegion (a len : Nat) : Bool := a + len ≤ stackEnd

/-- Every byte's place is known by its 4 KiB granule: the first address of each granule of a range. -/
def granules (a len : Nat) : List Nat :=
  if len = 0 then [] else (List.range ((a + len - 1) / 4096 - a / 4096 + 1)).map fun i => max a ((a / 4096 + i) * 4096)

/-- The first unmapped address of a range, by granule (R488). -/
def firstUnmapped (s : State) (a len : Nat) : Option Nat :=
  if len = 0 then none
  else if a < stackEnd then (if a + len ≤ stackEnd then none else some stackEnd)
  else if a < companionBase then some a
  else if a + len ≤ companionBase + s.lk.cl.cbytes.toNat then none
  else some (max a (companionBase + s.lk.cl.cbytes.toNat))

/-- The first unbacked address of a range, by granule (R487). -/
def firstUnbacked (s : State) (a len : Nat) : Option Nat :=
  if a < stackEnd then (granules a len).find? fun x => resolve s x == .unbacked else none

/-- BAD_DESCRIPTOR where a range is unmapped, with its address. -/
def needMapped (a len : Nat) : M Unit := do
  match firstUnmapped (← getS) a len with
  | some x => failAt .badDescriptor x
  | none => pure ()

/-- BAD_DESCRIPTOR where a range does not lie in the stacks; an unmapped one is reported with its address (R488, R558). -/
def needInStacks (a len : Nat) : M Unit := do
  needMapped a len
  needDesc (inStackRegion a len)

/-- UNIT_ABSENT where a range is unbacked, with its address. -/
def needBacked (a len : Nat) : M Unit := do
  let w ← get
  if w.holds a len then pure ()
  else match firstUnbacked w.s a len with
  | some x => failAt .unitAbsent x
  | none => pure ()

/-- WRITE_PROTECTED where a known output meets a protected range, before anything is written (R456). -/
def needWritable (a len : Nat) : M Unit := do
  let w ← get
  if w.holds a len then pure ()
  else match firstProtected w.s.prot a len with
  | some x => refuseProtected x
  | none => pure ()

/-! ### Free values -/

/-- `n` fresh free numbers' base (LOG 5). -/
def takeFree (n : Nat) (s : State) : Nat × State := (s.freeCtr, { s with freeCtr := s.freeCtr + n })

/-- The byte lies in a codeword that cannot be read. -/
def unreadable (s : State) (a : Nat) : Bool :=
  match resolve s a with
  | .stack n off => eccAt s (n * stackBytes + off) == some true
  | _ => false

/-- Makes a range's bytes free values (R547 and the rules that leave outputs unspecified; LOG 11, 23); protected bytes stay, and a
codeword that cannot be read is left as stored (R494). -/
def scramble (a len : Nat) (s : State) : State :=
  let r := takeFree len s
  poke r.2 a ((List.range len).map fun i =>
    if protHit s.prot (a + i) || unreadable s (a + i) then peek s (a + i) else Config.freeByte (r.1 + i))

def scrambleAll (l : List (Nat × Nat)) (s : State) : State := l.foldl (fun s r => scramble r.1 r.2 s) s

/-- The first of `n` fresh places of free values. -/
def freeBlock (n : Nat) : M Nat := do
  let r := takeFree n (← getS)
  modS fun _ => r.2
  return r.1

/-- Writes bytes that the manual leaves open. -/
def writeFree (a len : Nat) : M Unit := do
  let k ← freeBlock len
  writeBytes a ((List.range len).map fun i => Config.freeByte (k + i))

def saveRanges (s : State) (l : List (Nat × Nat)) : List (Nat × List Byte) := l.map fun r => (r.1, peekList s r.1 r.2)
def restoreRanges (l : List (Nat × List Byte)) (s : State) : State := l.foldl (fun s r => poke s r.1 r.2) s

/-- Does something to memory and leaves some ranges as they are. -/
def sparing (l : List (Nat × Nat)) (f : State → State) (s : State) : State := restoreRanges (saveRanges s l) (f s)

/-- Spoils what work was to write; ranges that the plaza store holds in place of the stacks stay as they are there (R164). -/
def spoil (f : State → State) : M Unit := modify fun w => { w with s := sparing (w.held.map fun r => (r.1, r.2.length)) f w.s }

/-- Runs work; when it fails, the ranges it was to write hold unspecified values (LOG 23). A descriptor that ends with
STASH_EXHAUSTED has written its outputs (R352, R362). -/
def orScramble {α : Type} (outs : List (Nat × Nat)) (m : M α) : M α :=
  tryCatch m fun e => do
    if e.status ≠ .stashExhausted ∧ !e.waits then spoil (scrambleAll outs)
    throw e

/-- The status that a suppressed write leaves, with the other outputs unspecified (R456). -/
def settleLate {α : Type} (r : Except Fail α × Work) : Except Fail α × Work :=
  match r.1, r.2.late with
  | .ok _, some f => (.error f, { r.2 with s := r.2.writes.foldl (fun s a => scramble a.lo a.len s) r.2.s })
  | _, _ => r

/-- Work that has done nothing, of a descriptor at a place in the order of starts, with the companion lines that have come for it. -/
def Work.start (order : Nat) (lines : List GotLine) (s : State) : Work :=
  { s := s, reads := [], writes := [], turn := 0, info := zeros16, units := [], kiosks := [], await := .nothing, held := [], late := none,
    order := order, lines := lines, wants := [], blind := false, serial := [],
    data := false }

/-- Runs work of a descriptor at a place in the order of starts; its writes to companion memory go out together. -/
def runWorkAt {α : Type} (order : Nat) (lines : List GotLine) (body : M α) (s : State) : Except Fail α × Work :=
  let r := settleLate (body.run (Work.start order lines s))
  (r.1, { r.2 with s := sendQueued s r.2.s })

/-- Runs work of a descriptor that starts. -/
def runWork {α : Type} (body : M α) (s : State) : Except Fail α × Work := runWorkAt s.q.nextOrder [] body s

/-- Did the work stop because something it needs is not there yet? -/
def waitsIn {α : Type} : Except Fail α → Bool
  | .ok _ => false
  | .error e => e.waits

/-- Reads what is stored, whatever can be read of it: to find out what a descriptor names where a read of its records failed. -/
def runBlind {α : Type} (body : M α) (s : State) : Except Fail α :=
  (body.run { Work.start s.q.nextOrder [] s with blind := true }).1

/-- What can be found out of something; nothing where it fails. -/
def orNone {α : Type} (m : M (List α)) : M (List α) := tryCatch m fun e => if e.waits then throw e else pure []

/-- Checks that may meet an uncorrectable read; when they do, what the descriptor was to write holds unspecified values (LOG 23).
`how` finds out what that is, on a copy of the state, and how it is left. -/
def orUnreadBy {α : Type} (how : M (State → State)) (m : M α) : M α :=
  tryCatch m fun e => do
    if e.status = .uncorrectableMem then
      spoil fun s => match runBlind how s with
        | .ok f => f s
        | .error _ => s
    throw e

/-- The same where it is ranges of memory. -/
def orUnread {α : Type} (outs : M (List (Nat × Nat))) (m : M α) : M α :=
  orUnreadBy (do return scrambleAll (← outs)) m

/-- Runs work, and answers its failure too; work that waits ends everything. -/
def attempt {α : Type} (m : M α) : M (Except Fail α) :=
  tryCatch (do return .ok (← m)) fun e => if e.waits then throw e else return .error e

/-- A read that ends with UNIT_ABSENT lets the checks go on, since rows of BAD_DESCRIPTOR come before it; answers the address (R487). -/
def soften {α : Type} (m : M α) : M (Except Nat α) :=
  tryCatch (do return .ok (← m)) fun e => if e.status = .unitAbsent then return .error (e.addr.getD 0) else throw e

/-- What a softened read found; UNIT_ABSENT where it found nothing. -/
def hardened {α : Type} : Except Nat α → M α
  | .ok x => pure x
  | .error a => failAt .unitAbsent a

/-- A check on what a softened read found. -/
def softly {α : Type} (c : α → Bool) : Except Nat α → Bool
  | .ok x => c x
  | .error _ => true

/-! ### Work under other circumstances -/

/-- Runs work and, however it ends, something after it. -/
def thenAlways {α : Type} (m : M α) (after : M Unit) : M α := do
  let x ← tryCatch m fun e => do
    after
    throw e
  after
  return x

/-- Runs work while the plaza store holds the given bytes in place of their ranges in memory, which stay as they are (R164); answers what
the store holds then. -/
def holding (l : List (Nat × List Byte)) (m : M Unit) : M (List (Nat × List Byte)) := do
  let old := (← get).held
  modify fun w => { w with held := l }
  let back : M Unit := modify fun w => { w with held := old }
  thenAlways (do m; return (← get).held) back

def State.defaults (s : State) : Defaults := ⟨s.fmt, s.rng.seed⟩
def State.withDefaults (s : State) (x : Defaults) : State := { s with fmt := x.fmt, rng := { s.rng with seed := x.seed } }

/-- Runs work under the defaults of an earlier moment: those of its descriptor's start (R73, R84, R222). -/
def underDefaults {α : Type} (x : Defaults) (m : M α) : M α := do
  let s ← getS
  modS (·.withDefaults x)
  thenAlways m (modS (·.withDefaults s.defaults))

end Sys2Proof.Machine
end

