-- ==== Sys2Proof/Machine/Flags.lean ====
section
/-! DEFINITION. Exception words and the first-invalid latch (R116 to R118, R166). -/

namespace Sys2Proof.Machine

def excInvalid : W16 := 0x01
def excSaturated : W16 := 0x02
def excUnderflow : W16 := 0x04
def excInfinite : W16 := 0x08
def excAccDebug : W16 := 0x10
def excF32Range : W16 := 0x20
def excBound : W16 := 0x40
def excFiValid : W16 := 0x80

/-- A bit of an exception word when a condition holds. -/
def excIf (c : Bool) (b : W16) : W16 := if c then b else 0

/-- The earlier of two latches: the smallest m, then n; for one output the smallest k (R118). -/
def fiFirst (a b : Option FirstInvalid) : Option FirstInvalid :=
  match a, b with
  | none, y => y
  | x, none => x
  | some x, some y =>
    if x.row < y.row ∨ (x.row = y.row ∧ (x.col < y.col ∨ (x.col = y.col ∧ x.k ≤ y.k))) then some x else some y

/-- The word with FI_VALID as the latch says. -/
def excWith (e : W16) (fi : Option FirstInvalid) : W16 := e ||| excIf fi.isSome excFiValid

/-- Bytes 16 to 31 of a TILE record (R120): word, DEPTH_USED, latch. -/
def tileInfo (e : W16) (depth : Nat) (fi : Option FirstInvalid) : List Byte :=
  let f := fi.getD ⟨0, 0, 0⟩
  leBytes 2 (excWith e fi).toNat ++ leBytes 1 depth ++ [0] ++ leBytes 4 f.row ++ leBytes 4 f.col ++ leBytes 4 f.k

end Sys2Proof.Machine
end

