-- ==== Sys2Proof/Machine/Keccak.lean ====
section
/-! DEFINITION. Keccak: SHA3-512 (FIPS 202) for bundle and transfer digests, KMAC256 (NIST SP 800-185) for the tag of a critical
command (R652, R653, R657 to R660). -/

namespace Sys2Proof.Machine

/-- The round constants of Keccak-f[1600]. -/
def keccakRC : List W64 :=
  [0x0000000000000001, 0x0000000000008082, 0x800000000000808A, 0x8000000080008000, 0x000000000000808B, 0x0000000080000001,
   0x8000000080008081, 0x8000000000008009, 0x000000000000008A, 0x0000000000000088, 0x0000000080008009, 0x000000008000000A]
  ++
  [0x000000008000808B, 0x800000000000008B, 0x8000000000008089, 0x8000000000008003, 0x8000000000008002, 0x8000000000000080,
   0x000000000000800A, 0x800000008000000A, 0x8000000080008081, 0x8000000000008080, 0x0000000080000001, 0x8000000080008008]

/-- The rotation of lane x + 5y. -/
def keccakRot : List Nat :=
  [0, 1, 62, 28, 27, 36, 44, 6, 55, 20, 3, 10, 43, 25, 39, 41, 45, 15, 21, 8, 18, 2, 61, 56, 14]

/-- Where π takes each lane from: lane x + 5y is lane (x + 3y) + 5x before. -/
def keccakPi : List Nat :=
  [0, 6, 12, 18, 24, 3, 9, 10, 16, 22, 1, 7, 13, 19, 20, 4, 5, 11, 17, 23, 2, 8, 14, 15, 21]

/-- The five rows of a state of 25 lanes. -/
def keccakRows (a : List W64) : List (List W64) :=
  [a.take 5, (a.drop 5).take 5, (a.drop 10).take 5, (a.drop 15).take 5, a.drop 20]

def xorRow (a b : List W64) : List W64 := List.zipWith (fun x y => x ^^^ y) a b

/-- A row with its lanes turned, lane n first. -/
def turnRow (n : Nat) (r : List W64) : List W64 := r.drop n ++ r.take n

def chiRow (r : List W64) : List W64 := xorRow r (List.zipWith (fun x y => ~~~x &&& y) (turnRow 1 r) (turnRow 2 r))

/-- One round: θ, ρ and π, χ, ι. -/
def keccakRound (a : List W64) (rc : W64) : List W64 :=
  let c := (keccakRows a).foldr xorRow (List.replicate 5 0)
  let d := List.zipWith (fun x y => x ^^^ y.rotateLeft 1) (turnRow 4 c) (turnRow 1 c)
  let t := List.zipWith (fun (x : W64) n => x.rotateLeft n) ((keccakRows a).flatMap (xorRow d)) keccakRot
  match (keccakRows (keccakPi.map fun i => t.getD i 0)).flatMap chiRow with
  | x :: l => (x ^^^ rc) :: l
  | [] => []

def keccakF (a : List W64) : List W64 := keccakRC.foldl keccakRound a

/-- Eight bytes as a little-endian lane. -/
def laneOfBytes (l : List Byte) : W64 := BitVec.ofNat 64 (l.foldr (fun b acc => b.toNat + 256 * acc) 0)

/-- Lanes of a list of bytes. -/
def lanesOf : (n : Nat) → List Byte → List W64
  | 0, _ => []
  | k + 1, l => laneOfBytes (l.take 8) :: lanesOf k (l.drop 8)

def bytesOfLane (w : W64) : List Byte := (List.range 8).map fun i => BitVec.ofNat 8 (w.toNat / 2 ^ (8 * i))

/-- Absorbs whole blocks of `rate` bytes. -/
def absorb (rate : Nat) : (fuel : Nat) → List Byte → List W64 → List W64
  | 0, _, a => a
  | k + 1, l, a =>
    if l.isEmpty then a
    else absorb rate k (l.drop rate) (keccakF ((a.zip (lanesOf 25 (l.take rate))).map fun p => p.1 ^^^ p.2))

/-- Pads a message with the domain suffix and the final bit to whole blocks. -/
def keccakPad (rate : Nat) (suffix : Nat) (l : List Byte) : List Byte :=
  let n := rate - l.length % rate
  if n = 1 then l ++ [BitVec.ofNat 8 (suffix + 128)]
  else l ++ [BitVec.ofNat 8 suffix] ++ List.replicate (n - 2) 0 ++ [128]

/-- The first `n` bytes (at most one block) of the sponge. -/
def sponge (rate suffix n : Nat) (l : List Byte) : List Byte :=
  let p := keccakPad rate suffix l
  ((absorb rate (p.length / rate + 1) p (List.replicate 25 0)).flatMap bytesOfLane).take n

/-- What a sponge yields, block by block. -/
def squeeze (rate : Nat) : (blocks : Nat) → List W64 → List Byte
  | 0, _ => []
  | k + 1, a => (a.flatMap bytesOfLane).take rate ++ squeeze rate k (keccakF a)

/-- The first `n` bytes of SHAKE128 (rate 168) or SHAKE256 (rate 136). -/
def shake (rate n : Nat) (l : List Byte) : List Byte :=
  let p := keccakPad rate 31 l
  (squeeze rate (n / rate + 1) (absorb rate (p.length / rate + 1) p (List.replicate 25 0))).take n

/-- SHA3-512. -/
def sha3_512 (l : List Byte) : List Byte := sponge 72 6 64 l

/-- The bytes of a positive number, most significant first. -/
def bigEndian : (fuel n : Nat) → List Byte
  | 0, _ => []
  | k + 1, n => (if n < 256 then [] else bigEndian k (n / 256)) ++ [BitVec.ofNat 8 n]

def leftEncode (n : Nat) : List Byte :=
  let b := bigEndian 8 n
  BitVec.ofNat 8 b.length :: b

def rightEncode (n : Nat) : List Byte :=
  let b := bigEndian 8 n
  b ++ [BitVec.ofNat 8 b.length]

def encodeString (l : List Byte) : List Byte := leftEncode (8 * l.length) ++ l

def bytepad (w : Nat) (l : List Byte) : List Byte :=
  let x := leftEncode w ++ l
  x ++ List.replicate ((w - x.length % w) % w) 0

def asciiBytes (s : String) : List Byte := s.toList.map fun c => BitVec.ofNat 8 c.toNat

/-- KMAC256 with an output of 256 bits (SP 800-185). -/
def kmac256 (key x : List Byte) (custom : String) : List Byte :=
  let newX := bytepad 136 (encodeString key) ++ x ++ rightEncode 256
  sponge 136 4 32 (bytepad 136 (encodeString (asciiBytes "KMAC") ++ encodeString (asciiBytes custom)) ++ newX)

/-- The tag of a critical command (R652, R653). -/
def commandTag (key : List Byte) (epoch counter : W64) (command : List Byte) (custom : String) : List Byte :=
  (kmac256 key (bytesOfLane epoch ++ bytesOfLane counter ++ command) custom).take 16

end Sys2Proof.Machine
end

