-- ==== Sys2Proof/Machine/Auth.lean ====
section
/-! DEFINITION. The check of a critical command (R643, R644, R647 to R654). -/

namespace Sys2Proof.Machine

/-- The active command key: the programmed, unrevoked slot with the highest number (R644). -/
def activeKey (s : State) : Option (Nat × BitVec 256) :=
  [3, 2, 1, 0].findSome? fun n => match s.persist.keys.toList.getD n .blank with
    | .programmed k => some (n, k)
    | _ => none

/-- A 256-bit value as 32 bytes, byte 0 first. -/
def bytes256 (k : BitVec 256) : List Byte := leBytes 32 k.toNat

/-- Records a refusal with its reason (R654). -/
def countRefusal (reason : Nat) (s : State) : State :=
  { s with sec := { s.sec with refusals := satInc s.sec.refusals, refusalReason := BitVec.ofNat 8 reason } }

/-- The three steps of R649; true when the command is accepted. -/
def checkCritical (counter : W64) (tag command : List Byte) (custom : String) (s : State) : Bool × State :=
  match activeKey s with
  | none => (false, countRefusal 3 s)
  | some (_, k) =>
    if counter ≤ s.sec.counter then (false, countRefusal 1 s)
    else if tag = commandTag (bytes256 k) s.sec.epoch counter command custom then
      (true, { s with sec := { s.sec with counter := counter } })
    else (false, countRefusal 2 s)

/-- The check of a critical descriptor: bytes 0 to 39 under the counter in bytes 40 to 47 and the tag in 48 to 63 (R540, R653). -/
def checkDescTag (d : Desc) (s : State) : Bool × State :=
  checkCritical d.w5 ((descBytes d).drop 48) ((descBytes d).take 40) "GLOFATHAL DESC" s

end Sys2Proof.Machine
end

