-- ==== Sys2Proof/Machine/Queue.lean ====
section
/-! DEFINITION. Starting and completing descriptors (spec/14): when a pair may start (R535, R545, R31), the checks of R544, the
completion record (R549, R558), halts (R536), RETIRED (R528), doorbells (R529, R530). -/

namespace Sys2Proof.Machine

/-! ### Classes and the turn (R23, R540) -/

def clsTile : Nat := 1
def clsKernel : Nat := 2
def clsAttn : Nat := 3
def clsSample : Nat := 4
def clsReduce : Nat := 5
def clsCare : Nat := 6
def clsShard : Nat := 7
def clsMove : Nat := 8
def clsFence : Nat := 9
def clsTurn : Nat := 10
def clsVersion : Nat := 11

/-- TURN and VERSION are critical (R540). -/
def criticalClass (c : Nat) : Bool := c == clsTurn || c == clsVersion

/-- A class code of R540 that is not reserved. -/
def classKnown (c : Nat) : Bool := decide (1 ≤ c ∧ c ≤ 11)

/-- The table of R23. -/
def classAllowed (c : Nat) (t : Turn) : Bool :=
  if c = clsAttn then (match t with
    | .ready | .generate | .learn => true
    | _ => false)
  else if c = clsSample then (match t with
    | .ready | .generate => true
    | _ => false)
  else if c = clsCare then (match t with
    | .learn | .switchGenerate => true
    | _ => false)
  else if c = clsShard then (match t with
    | .generate => false
    | _ => true)
  else if c = clsVersion then (match t with
    | .generate | .switchGenerate => true
    | _ => false)
  else classKnown c

def Turn.code : Turn → Nat
  | .ready => 0
  | .generate => 1
  | .switchLearn => 2
  | .learn => 3
  | .switchGenerate => 4

def Turn.ofCode : Nat → Option Turn
  | 0 => some .ready
  | 1 => some .generate
  | 2 => some .switchLearn
  | 3 => some .learn
  | 4 => some .switchGenerate
  | _ => none

/-! ### May a descriptor start -/

/-- The module runs: it is not off and no reset is asserted (R679, R683, R727). -/
def running (s : State) : Bool := !s.rst.off && s.rst.run.isNone

def Queues.ofPair (q : Queues) (qp : Fin 64) : List InFlight := q.inflight.filter fun e => e.qp == qp

/-- A started fence of any kind (R554). -/
def InFlight.isFence (e : InFlight) : Bool := e.cls == clsFence

/-- A started STEP or DRAIN (R554); while one is uncompleted nothing starts. -/
def InFlight.stopsAll (e : InFlight) : Bool :=
  match e.await with
  | .stepFence | .drainFence => true
  | _ => false

/-- The class may start under a turn transition (R31); the completion of an awaited step fence and the entry are one event, so that
nothing starts between them (R34). -/
def transAllows (s : State) (c : Nat) : Bool :=
  match s.turn.trans with
  | none => true
  | some t =>
    if t.needFence then true
    else match Turn.ofCode t.req.target with
      | some x => classAllowed c x
      | none => true

/-- The plazas a descriptor names: the first and how many (R4, R5). -/
def namedPlazas (s : State) (d : Desc) : Nat × Nat :=
  let c := descClass d
  if c = clsKernel then (fld d.w6 63 56, fld d.w6 55 48)
  else if c = clsTile ∨ c = clsAttn ∨ c = clsReduce ∨ (c = clsSample ∧ s.persist.variant.has 1 = false) then
    (fld d.w7 63 56, fld d.w7 55 48)
  else (0, 0)

/-- A plaza that returns to service, or is in it (R693). -/
def plazaReturning (s : State) (p : Nat) : Bool :=
  if h : p < 64 then unitReturning s (.plaza ⟨p, h⟩) && unitReturning s (.district ⟨p / 8, by omega⟩) else false

/-- UNIT_ABSENT where a named plaza is not in service and is not returning to it either (R114, R132, R551). Returning is RESETTING alone: of
ENABLE_PENDING (R691) the manual does not say whether it counts as disabled, and here it does (LOG 43). -/
def needPlazas (first n : Nat) : M Unit := do
  let s ← getS
  need ((List.range n).all fun i => plazaInService s (first + i) || plazaReturning s (first + i)) .unitAbsent

/-- Work waits for the release of the plazas it names (R551). -/
def awaitPlazas (first n : Nat) : M Unit := do
  let s ← getS
  holdIf ((List.range n).any fun i => !plazaInService s (first + i))

/-- The split of the streets that a descriptor runs on: a TILE's own, in either mode (R93, R373); 4, for whatever split the plazas have, of
an ATTN that forms products (R182). -/
def descSplit (d : Desc) : Option Nat :=
  if descClass d = clsTile then some (fld d.w3 7 6)
  else if descClass d = clsAttn ∧ fld d.w4 63 62 < 2 then some 4
  else none

/-! ### Turns among descriptors (R546) -/

/-- An uncompleted descriptor whose work has not been done: it waits for something, or for the first of its pair. -/
def InFlight.yetToRun (e : InFlight) : Bool :=
  e.follows.isSome || match e.await with
    | .held _ _ => true
    | _ => false

/-- What descriptors of a class are taken in turn at, in the order in which they start: a terrace (R113), the accumulators (R154), pages
(R198), the gate's slots (R318), care records (R396). Except for a terrace it is all of its kind, wherever it lies (LOG 70). -/
def seqKey (d : Desc) : Option Nat :=
  let c := descClass d
  if c = clsTile then (if bit d.w3 14 then some (16 + fld d.w7 63 56) else none)
  else if c = clsKernel then (if fld d.w3 63 48 = 0x0202 ∨ fld d.w3 63 48 = 0x0204 then some 1 else none)
  else if c = clsAttn then some 2
  else if c = clsSample then some 4
  else if c = clsCare then some 5
  else none

/-- Work waits while a descriptor that started earlier has its turn still to come. -/
def inStartOrder (d : Desc) : M Unit := do
  let w ← get
  holdIf ((seqKey d).isSome && w.s.q.inflight.any fun e => e.order < w.order && e.key == seqKey d && e.yetToRun)

/-- A descriptor that runs on the streets of a plaza: a TILE in its split, or an ATTN (R182). -/
def InFlight.onStreets (e : InFlight) (p : Fin 64) : Bool :=
  !e.yetToRun && e.split.isSome && e.units.contains (.plaza p)

/-- The streets of the named plazas hold a TILE back: they are not idle and have another split than its own (R96), or a TILE in terrace
mode runs there (R373). -/
def streetsHold (s : State) (first n split : Nat) : Bool :=
  (List.range n).any fun i =>
    let p := Fin.ofNat 64 (first + i)
    s.q.inflight.any fun e => e.onStreets p && (e.terrace || s.arr.split[p] != split)

/-! ### Rounds (R543) -/

/-- May a descriptor at HEAD of a pair start, its place in the round apart (R535, R545, R554, R600, R699)? `n` is how many entries it takes
(2 for a fused pair). -/
def ready (s : State) (qp : Fin 64) (d : Desc) (n : Nat) : Bool :=
  let p := s.q.qps[qp]
  let mine := s.q.ofPair qp
  s.power.current != .park && s.power.waking.isNone && s.lk.cl.phase != .upLimited
  && p.state == .active
  && decide (n ≤ (p.tail - p.head).toNat)
  && decide (mine.length + (p.produced - p.cqHead).toNat + n ≤ p.entries.toNat)
  && decide (s.q.inflight.length + n ≤ 1024)
  && !(mine.any InFlight.isFence)
  && !(s.q.inflight.any InFlight.stopsAll)
  && (!(bit d.w0 8) || mine.isEmpty)
  && transAllows s (descClass d)

/-- The address of submission entry i (R527). -/
def sqAddress (p : QueuePair) (i : W32) : Nat := p.sqBase.toNat + 64 * (i.toNat % p.entries.toNat)

/-- The descriptor in 64 bytes (R539). -/
def descOfBytes (l : List Byte) : Desc :=
  let w := fun i => (BitVec.ofNat 64 (leNat ((l.drop (8 * i)).take 8)) : W64)
  ⟨w 0, w 1, w 2, w 3, w 4, w 5, w 6, w 7⟩

/-- TAIL covers entry i of a pair (R529). -/
def tailCovers (p : QueuePair) (i : W32) : Bool := decide ((i - p.head).toNat < (p.tail - p.head).toNat)

/-- The line of submission entry i. -/
def entryLine (p : QueuePair) (i : W32) : Nat := sqAddress p i / 256 * 256

/-- The module does not hold the line of submission entry i: no cache has it, and it has not come since HEAD is where it is. -/
def entryUnknown (s : State) (qp : Fin 64) (i : W32) : Bool :=
  let p := s.q.qps[qp]
  match resolve s (entryLine p i) with
  | .companion _ => !s.stk.dcache.contains (entryLine p i) && !p.ring.any fun x => x.line == entryLine p i
  | _ => false

/-- Submission entry i of a pair, where TAIL covers it and the module holds its line (LOG 2). -/
def entryOf (s : State) (qp : Fin 64) (i : W32) : Option Desc :=
  let p := s.q.qps[qp]
  let refused := p.ring.any fun x => x.line == entryLine p i && x.status != 0
  if tailCovers p i && !entryUnknown s qp i && !refused then some (descOfBytes (peekList s (sqAddress p i) 64)) else none

/-- FUSE of a KERNEL; 0 of any other descriptor (R162). -/
def fuseOf (d : Desc) : Nat := if descClass d = clsKernel then fld d.w3 47 46 else 0

/-- The first descriptor of a pair, held by ORDERED on either (R728). -/
def orderedBy (ordered : Bool) (d : Desc) : Desc := if ordered then { d with w0 := d.w0 ||| 0x100 } else d

/-- The entry at HEAD as it would start: of a pair, with the ORDERED of both and two completions (R728). What the module does not hold of
the entry after it counts as what makes it wait. -/
def asStart (s : State) (qp : Fin 64) (d : Desc) : Desc × Nat :=
  let i := (s.q.qps[qp]).head + 1
  let next := entryOf s qp i
  let second := match next with
    | some e => fuseOf e == 2
    | none => tailCovers s.q.qps[qp] i
  if fuseOf d == 1 || (descClass d == clsTile && second) then (orderedBy ((next.map fun e => bit e.w0 8).getD true) d, 2) else (d, 1)

/-- A pair has a descriptor ready to start. Where neither a start command nor a line that the module holds has shown the entry at HEAD, that
is known only where no count, fence, transition or earlier descriptor could hold any entry (LOG 64). -/
def surelyReady (s : State) (qp : Fin 64) : Bool :=
  let p := s.q.qps[qp]
  match p.front <|> entryOf s qp p.head with
  | some d => ready s qp (asStart s qp d).1 (asStart s qp d).2
  | none => p.state == .active && decide (2 ≤ (p.tail - p.head).toNat) && (s.q.ofPair qp).isEmpty
      && decide ((p.produced - p.cqHead).toNat + 2 ≤ p.entries.toNat) && s.turn.trans.isNone

/-- The pairs in the order in which rounds visit them from where the module is: the pair being visited while its weight lasts, then
the others in increasing QID. -/
def visitOrder (s : State) : List (Fin 64) :=
  let q := s.q
  let later := (List.range 64).map fun i => q.visit + 1 + Fin.ofNat 64 i
  if q.visited < (q.qps[q.visit]).weight.toNat then q.visit :: later else later

/-- Has a round come to a pair: every pair to be visited before it has nothing surely ready (R543). -/
def mayVisit (s : State) (qp : Fin 64) : Bool := ((visitOrder s).takeWhile fun q => q != qp).all fun q => !surelyReady s q

/-- Counts `n` starts of a pair in its visit. -/
def noteVisit (qp : Fin 64) (n : Nat) (q : Queues) : Queues :=
  if qp = q.visit ∧ q.visited < (q.qps[q.visit]).weight.toNat then { q with visited := q.visited + n }
  else { q with visit := qp, visited := n }

/-- May the descriptor at HEAD of a pair start (R535, R543, R545, R554, R600, R699)? -/
def canStart (s : State) (qp : Fin 64) (d : Desc) (n : Nat) : Bool := ready s qp d n && mayVisit s qp

/-- A start command has shown the entry at HEAD of a pair: it waits (R535). -/
def showFront (qp : Fin 64) (d : Desc) (s : State) : State :=
  let p := s.q.qps[qp]
  if p.state = .active ∧ p.head ≠ p.tail then { s with q := { s.q with qps := s.q.qps.set qp { p with front := some d } } } else s

/-! ### The checks of R544 -/

/-- The turn state a start is checked against (R23, R31): the target's during a transition, but LEARN while it waits for a step
fence (LOG 42). -/
def checkTurn (s : State) : Turn :=
  match s.turn.trans with
  | some t => if t.needFence then s.turn.cur else (Turn.ofCode t.req.target).getD s.turn.cur
  | none => s.turn.cur

/-- Reserved header fields, or a reserved class code (R539, R540). -/
def headerBad (d : Desc) : Bool :=
  fld d.w0 31 10 != 0 || fld d.w0 7 4 != 0 || d.w1 != 0 || !classKnown (descClass d)

/-- DSEQ of a descriptor is its entry's index (R544). -/
def seqOk (idx : W32) (d : Desc) : Bool := fld d.w0 63 32 == idx.toNat

/-- Checks 1 to 5 of R544; the state changes only by check 4's counter and counts (R649, R654). -/
def headChecks (s : State) (idx : W32) (d : Desc) : Status × State :=
  if !seqOk idx d then (.badSequence, s)
  else if s.sec.limited ≠ 0 then (.limitedMode, s)
  else if headerBad d then (.badDescriptor, s)
  else if criticalClass (descClass d) then
    let r := checkDescTag d s
    if !r.1 then (.authFail, r.2)
    else if !classAllowed (descClass d) (checkTurn s) then (.wrongTurn, r.2)
    else (.ok, r.2)
  else if !classAllowed (descClass d) (checkTurn s) then (.wrongTurn, s)
  else (.ok, s)

/-- A learning step opens with the first descriptor other than TURN or FENCE that passes checks 1 to 5 in LEARN or READY (R340). A
transition that leaves LEARN then waits for its fence, since the module does not leave LEARN in its middle (R34; LOG 60). -/
def openStep (d : Desc) (s : State) : State :=
  if s.stash.state = .closed ∧ descClass d ≠ clsTurn ∧ descClass d ≠ clsFence ∧ (s.turn.cur = .learn ∨ s.turn.cur = .ready) then
    { s with stash := { s.stash with state := .opened, peak := 0, unitsDropped := 0, units := [], readUnits := [] },
             turn := { s.turn with trans := s.turn.trans.map fun t =>
               { t with needFence := t.needFence || s.turn.cur == .learn } } }
  else s

/-! ### Overlaps (R547) -/

def rangesMeet (a b : Nat × Nat) : Bool := a.1 < b.1 + b.2 && b.1 < a.1 + a.2

/-- The part of a range that meets another. -/
def rangeCut (a b : Nat × Nat) : Nat × Nat :=
  let lo := max a.1 b.1
  (lo, min (a.1 + a.2) (b.1 + b.2) - lo)

def MemAccess.range (a : MemAccess) : Nat × Nat := (a.lo, a.len)

/-- Two accesses race: they meet and are not taken in turn (R546, R547). -/
def MemAccess.races (a b : MemAccess) : Bool := rangesMeet a.range b.range && !(a.turn == b.turn && a.turn != 0)

/-- Some of the reads race with some of the writes. -/
def racyReads (reads writes : List MemAccess) : Bool := reads.any fun r => writes.any r.races

/-- A write that the module makes on its own for a descriptor that has run; one that meets a protected range is suppressed and counted
(R455, R456). -/
def writeAfter (a : Nat) (bs : List Byte) (s : State) : State := (runWork (writeSerial a bs) s).2.s

/-- A stack that the variant has, which serves no request at the moment: it is in reset, or on its way out of service or back. -/
def outOfService (s : State) (a : Nat) : Bool :=
  match stackPlace s.stk.k s.stk.j s.persist.variant.stacks a with
  | some (n, _) =>
    if h : n < 32 then unitPresent s.persist.variant (.stack ⟨n, h⟩) && (stackInReset s n || !unitEnabled s (.stack ⟨n, h⟩)) else false
  | none => false

/-- Leaves a mark for when the stack that holds an address serves requests again (R515). -/
def leaveMark (m : LateMark) (s : State) : State := { s with stk := { s.stk with marks := s.stk.marks ++ [m] } }

/-- The same write, made once its stack serves requests (R515). -/
def writeLate (a : Nat) (bs : List Byte) (s : State) : State :=
  if a < stackEnd && outOfService s a then leaveMark (.bytes a bs) s else writeAfter a bs s

/-- A pair whose record can be written is left unmarked (R463, R523). -/
def clearTag (a : Nat) (s : State) : State := if inStackRegion a 32 then writeLate (a + 20) [0, 0, 0, 0] s else s

/-- A descriptor that fails after its work leaves its pair unmarked (R463, R523). -/
def dropPair (e : InFlight) (s : State) : State :=
  match e.pair with
  | some a => if e.status = .ok then clearTag a s else s
  | none => s

/-- The parts of some writes that race with others. -/
def racyParts (a b : List MemAccess) : List (Nat × Nat) :=
  a.flatMap fun w => (b.filter w.races).map fun x => rangeCut w.range x.range

/-- Bytes that two descriptors running at the same time both write, and everything a descriptor wrote that read bytes the other
writes, hold unspecified values (R547; LOG 11). -/
def overlap (e : InFlight) (reads writes : List MemAccess) (s : State) : State :=
  let mine := if racyReads reads e.writes then writes.map MemAccess.range else []
  let theirs := if racyReads e.reads writes then e.writes.map MemAccess.range else []
  scrambleAll (racyParts writes e.writes ++ mine ++ theirs) s

/-- The accumulators of a terrace's open tiles hold free values: a TILE on it read unspecified bytes (R547; LOG 11). -/
def scrambleTerrace (p : Fin 64) (s : State) : State :=
  let places := (s.terr.tiles.filter fun x => x.plaza == p).flatMap fun x =>
    (List.range (x.m * (x.depth + 1))).flatMap fun r => (List.range x.n).map fun c => (x.tRow + r, c)
  let r := takeFree places.length s
  let cells := places.zipIdx.map fun x => (⟨p, x.1.1, x.1.2, BitVec.ofNat 34 (Config.freeW64 (r.1 + x.2)).toNat⟩ : TerrCell)
  { r.2 with terr := { s.terr with cells := (s.terr.cells.filter fun c =>
      !(c.plaza == p && places.contains (c.row, c.col))) ++ cells.filter fun c => c.value != 0 } }

/-- A status that data decides, where the data is unspecified: a descriptor that would complete OK may find bytes that its class
refuses (R547; LOG 11). -/
def freeStatus (n : Nat) (st : Status) : Status := if st = .ok ∧ Config.freePick n % 2 = 1 then .badDescriptor else st

/-! ### Gate tables changed while a SAMPLE runs (R321) -/

/-- Sets a held state; 0 is not listed. -/
def gateSet (slot j v : Nat) (l : List GateCell) : List GateCell :=
  let rest := l.filter fun c => !(c.slot == slot && c.j == j)
  if v = 0 then rest else rest ++ [⟨slot, j, v⟩]

/-- Gate states of slots hold free values (R321, R339; LOG 23). -/
def scrambleGate (slots : List Nat) (s : State) : State :=
  slots.foldl (fun s n => if n = 0xFFFF then s else
    { s with gate := { s.gate with states := (List.range 9).foldl (fun l j =>
               gateSet n j (Config.freePick (s.freeCtr + j) % 2 ^ 24) l) s.gate.states },
             freeCtr := s.freeCtr + 9 }) s

/-- Sixteen free class-specific bytes for the started descriptor at a place in the order of starts. -/
def freeInfoOf (order : Nat) (s : State) : State :=
  let info := (List.range 16).map fun i => Config.freeByte (s.freeCtr + i)
  { s with q := { s.q with inflight := s.q.inflight.map fun e => if e.order == order then { e with info := info } else e },
           freeCtr := s.freeCtr + 16 }

/-- Does a run use a table that some writes reach? -/
def GateRun.meets (r : GateRun) (l : List (Nat × Nat)) : Bool := r.parts.any fun p => l.any (rangesMeet p)

/-- A SAMPLE that has started and not yet done its work. -/
def InFlight.heldSample (e : InFlight) : Bool := e.cls == clsSample && (match e.await with
  | .held _ _ => true
  | _ => false)

/-- Something has written to gate tables that SAMPLEs in flight use: their masks are unspecified, and so what they yield, the gate states
they leave and what they report; a SAMPLE whose work is still to come remembers the ranges. A SAMPLE's own writes are left out. -/
def spoilRuns (own : Option Nat) (l : List (Nat × Nat)) (s : State) : State :=
  if l.isEmpty then s
  else
    let hit := s.gate.runs.filter fun r => some r.order != own && r.meets l
    let s1 := hit.foldl (fun s r => freeInfoOf r.order (scrambleGate r.slots (scramble r.out.1 r.out.2 s))) s
    { s1 with q := { s1.q with inflight := s1.q.inflight.map fun e => if e.heldSample then { e with spoiled := e.spoiled ++ l } else e } }

/-- The runs of the SAMPLE at a place in the order of starts. -/
def gateRunsOf (s : State) (order : Nat) : List GateRun := s.gate.runs.filter fun r => r.order == order

/-- The record of a descriptor that read unspecified bytes: free class-specific bytes and a status that data may have changed. Of a MOVE,
bytes 24 to 31 stay: HANDLE and zeros; neither its status nor BYTES changes but by what a COPY_TENSOR's records say (R521, R522). -/
def raceInfo (e : InFlight) (decides : Bool) (n : Nat) : InFlight :=
  let free := fun k => (List.range k).map fun i => Config.freeByte (n + i)
  if e.cls = clsMove then
    if e.pair.isNone || !decides then e else { e with status := freeStatus (n + 16) e.status, info := free 8 ++ e.info.drop 8 }
  else { e with status := freeStatus (n + 16) e.status, info := free 16 }

/-- What a descriptor that read unspecified bytes reports and leaves besides memory, free terrace accumulators and a SAMPLE's gate states
among it; one that waits for an exchange or its slot reports at its end. `decides`: among the bytes are others than a plane's that it copies. -/
def raceEntry (e : InFlight) (decides : Bool) (s : State) : InFlight × State :=
  if e.await = .nothing then
    let r := takeFree 17 s
    let s1 := if e.terrace then e.units.foldl (fun s u => match u with
      | .plaza p => scrambleTerrace p s
      | _ => s) r.2 else scrambleGate ((gateRunsOf s e.order).flatMap GateRun.slots) r.2
    let x := raceInfo e decides r.1
    (x, if x.status = e.status then s1 else dropPair e s1)
  else ({ e with racy := true }, s)

/-! ### Demand reads of an armed stream (R507) -/

/-- Lines that one run of a stream touches. -/
def Stream.perRun (x : Stream) : Nat := (x.src % 256 + x.run + 255) / 256

/-- The lines of a stream from its start through the last one that a read of [a, a + len) touches; 0 when it touches none. -/
def streamReach (x : Stream) (a len : Nat) : Nat :=
  let base := x.src / 256 * 256
  let last := a + len - 1
  if len = 0 ∨ last < base then 0
  else
    let r := min ((last - base) / max 1 x.stride) (x.count - 1)
    let line := min ((last - base - r * x.stride) / 256) (x.perRun - 1)
    if a < base + r * x.stride + line * 256 + 256 then r * x.perRun + line + 1 else 0

/-- Moves every stream's furthest demanded line. -/
def demandReads (reads : List MemAccess) (s : State) : State :=
  { s with stk := { s.stk with streams := s.stk.streams.map fun x =>
      { x with demanded := reads.foldl (fun m r => max m (streamReach x r.lo r.len)) x.demanded } } }

/-- What of an exchanging descriptor's outputs another's writes spoil: it will write them later. -/
def spoilOne (writes : List MemAccess) (e : InFlight) : InFlight :=
  if e.await = .exchange then
    let all := if racyReads e.reads writes then e.writes.map MemAccess.range else []
    { e with spoiled := e.spoiled ++ racyParts e.writes writes ++ all }
  else e

/-- Reads other than of the planes that a COPY_TENSOR copies. -/
def deciding (l : List MemAccess) : List MemAccess := l.filter fun a => !a.data

/-- The started descriptors, of those that run beside one, that read bytes which its writes reach report unspecified values. -/
def raceAll (beside : InFlight → Bool) (writes : List MemAccess) : List InFlight → State → List InFlight × State
  | [], s => ([], s)
  | e :: t, s =>
    let r := if beside e && racyReads e.reads writes then raceEntry e (racyReads (deciding e.reads) writes) s else (e, s)
    let u := raceAll beside writes t r.2
    (r.1 :: u.1, u.2)

/-- Accesses of a descriptor as the stacks, prefetchers and caches see them; a ground floor's own service reads past the caches (R509). -/
def settleReads (w : Work) (s : State) : State :=
  let reads := w.reads ++ w.serial
  let s1 := noteRequests (reads.flatMap fun r => if w.ground then linesOf r.lo r.len else uncached s r.lo r.len) s
  demandReads reads (if w.ground then reads.foldl (fun s r => markRange r.lo r.len s) s1 else cacheReads w.lines reads s1)

/-- What a descriptor's accesses mean for those in flight that run beside it, for the prefetchers and for the caches. -/
def settleAmong (beside : InFlight → Bool) (w : Work) : State :=
  let s := spoilRuns (some w.order) (w.writes.map MemAccess.range)
    ((w.s.q.inflight.filter beside).foldl (fun s e => overlap e w.reads w.writes s) w.s)
  let r := raceAll beside w.writes s.q.inflight s
  settleReads w { r.2 with q := { r.2.q with inflight := r.1.map fun e => if beside e then spoilOne w.writes e else e } }

/-- What a descriptor's accesses mean, where every one in flight runs beside it. -/
def settleWork (w : Work) : State := settleAmong (fun _ => true) w

/-- The outputs of a SAMPLE whose gate tables descriptors in flight have written, or something has since it started, whether it read them or
found its masks in the cache (R321). -/
def changedRuns (w : Work) (since : List (Nat × Nat)) : List GateRun :=
  (gateRunsOf w.s w.order).filter fun r => r.meets (since ++ w.s.q.inflight.flatMap fun x => x.writes.map MemAccess.range)

/-- The entry of a descriptor whose own reads race, or whose gate tables have changed `since` it started. -/
def raceOwn (w : Work) (since : List (Nat × Nat)) (e : InFlight) (s : State) : InFlight × State :=
  let l := if e.cls = clsSample then changedRuns w since else []
  if !l.isEmpty || w.s.q.inflight.any fun x => racyReads w.reads x.writes then
    raceEntry e (w.s.q.inflight.any fun x => racyReads (deciding w.reads) x.writes) (scrambleAll (l.map GateRun.out) s)
  else (e, s)

/-! ### Starting -/

/-- Moves HEAD past `n` entries, which the module reads at their places in the ring (R527, R528, R531), in the round's visit. -/
def advanceHead (qp : Fin 64) (n : Nat) (s : State) : State :=
  let p := s.q.qps[qp]
  let q := noteVisit qp n s.q
  { s with q := { q with qps := q.qps.set qp { p with head := p.head + BitVec.ofNat 32 n, front := none, ring := [] } },
           outbox := s.outbox ++ (List.range n).map fun i => .sqFetch (sqAddress p (p.head + BitVec.ofNat 32 i)) }

/-- 2B00:0A follows 2B00:09 (R524). -/
def notePeak (s : State) : State := { s with stk := { s.stk with peakReads := max s.stk.peakReads (requestsHeld s) } }

/-- Adds a started descriptor. -/
def pushInFlight (e : InFlight) (s : State) : State :=
  notePeak { s with q := { s.q with inflight := s.q.inflight ++ [{ e with order := s.q.nextOrder }], nextOrder := s.q.nextOrder + 1 } }

/-- The requests that stacks now hold for a descriptor's reads (R504). -/
def holdRequests (reads : List MemAccess) (x : InFlight × State) : InFlight × State :=
  let l := drawRequests reads x.2
  ({ x.1 with requests := x.1.requests ++ l }, { x.2 with freeCtr := x.2.freeCtr + l.length })

/-- The entry of a descriptor that failed a check before its class's own; CLASS is 0 where its DSEQ failed (R558). -/
def refusedEntry (qp : Fin 64) (idx : W32) (d : Desc) (st : Status) : InFlight :=
  { qp := qp, idx := idx, order := 0, cls := if seqOk idx d then descClass d else 0, notify := bit d.w0 9, await := .nothing,
    status := st, faultAddr := none, info := zeros16, units := [], reads := [], writes := [],
    spoiled := [], locks := [], split := none, terrace := false, follows := none, okCount := none, pair := none, key := none, lines := [],
    requests := [], racy := false }

/-- UPDATE and UPDATE_EMIT count in 2900:02 (R412), REDUCE in 2600:06 (R445), REBUILD in 2A00:06 (R479). -/
def okCountOf (d : Desc) : Option OkCount :=
  if descClass d = clsCare ∧ (fld d.w3 15 12 = 0 ∨ fld d.w3 15 12 = 2) then some .updated
  else if descClass d = clsReduce then some .reduced
  else if descClass d = clsShard ∧ fld d.w2 15 12 = 2 then some .rebuilt
  else none

/-- The pair that a COPY_TENSOR or GATHER marks. -/
def nextOf (d : Desc) : Option Nat :=
  if (descClass d = clsMove ∧ fld d.w2 15 12 = 1) ∨ (descClass d = clsShard ∧ fld d.w2 15 12 = 1) then some (fld d.w3 63 16) else none

/-- The entry that a descriptor's work leaves. -/
def workEntry (qp : Fin 64) (idx : W32) (d : Desc) (r : Except Fail Unit × Work) : InFlight :=
  let f : Status × Option Nat := match r.1 with
    | .ok _ => (.ok, none)
    | .error e => (e.status, e.addr)
  { qp := qp, idx := idx, order := 0, cls := descClass d, notify := bit d.w0 9, await := r.2.await, status := f.1, faultAddr := f.2,
    info := r.2.info, units := r.2.units ++ r.2.kiosks, reads := r.2.reads, writes := r.2.writes, spoiled := [],
    locks := [], split := descSplit d, terrace := descClass d == clsTile && bit d.w3 14, follows := none, okCount := okCountOf d,
    pair := nextOf d, key := seqKey d, lines := [], requests := [], racy := false }

/-- The entry of a descriptor whose work waits; nothing of that work has happened. -/
def heldEntry (qp : Fin 64) (idx : W32) (d : Desc) (s : State) : InFlight :=
  { refusedEntry qp idx d .ok with await := .held d s.defaults, key := seqKey d, pair := none }

/-- Gives the WRs that a descriptor's work has sent since a state their owner, so that its record waits for them (R549, R590). -/
def ownWrites (old : State) (qp : Fin 64) (idx : W32) (s : State) : State :=
  let mine := some (qp, idx)
  let n := old.stk.wrWaiting.length
  { s with stk := { s.stk with
      wr := s.stk.wr.map (fun w => if w.owner.isSome ∨ old.stk.wr.any (fun o => o.tag == w.tag) then w else { w with owner := mine }),
      wrWaiting := s.stk.wrWaiting.take n ++ (s.stk.wrWaiting.drop n).map (fun w => { w with owner := mine }) } }

/-- A COPY_TENSOR of which a write has been suppressed leaves its pair unmarked (R456, R523). -/
def dropSuppressed (d : Desc) (w : Work) (s : State) : State :=
  match nextOf d with
  | some a => if w.late.isSome then clearTag a s else s
  | none => s

/-- The state and entry that a descriptor's work leaves, once what its accesses mean is settled (R504, R547, R590). -/
def settleEntry (old : State) (d : Desc) (e : InFlight) (r : Except Fail Unit × Work) : InFlight × State :=
  let x := holdRequests r.2.reads (raceOwn r.2 e.spoiled { workEntry e.qp e.idx d r with order := r.2.order } (settleWork r.2))
  (x.1, ownWrites old e.qp e.idx (dropSuppressed d r.2 x.2))

/-- Work that waits is tried again later, with other free values; the lines it lacks are asked for. -/
def askFor (reader : Reader) (w : Work) (s : State) : State := askLines reader w.wants { s with freeCtr := s.freeCtr + 1 }

/-- What a descriptor that passed checks 1 to 5 does, and its entry. -/
def runBody (qp : Fin 64) (idx : W32) (d : Desc) (body : M Unit) (s : State) : State :=
  let s0 := openStep d s
  let r := runWork body s0
  let e := heldEntry qp idx d s0
  if waitsIn r.1 then pushInFlight e (askFor (.desc qp idx) r.2 s0)
  else
    let x := settleEntry s d e r
    pushInFlight x.1 x.2

/-- A descriptor starts: HEAD moves, the checks of R544 run in order, then the class's own checks and its work (R531, R544). -/
def startOne (qp : Fin 64) (d : Desc) (body : M Unit) (s : State) : State :=
  let idx := s.q.qps[qp].head
  let s1 := advanceHead qp 1 s
  let c := headChecks s1 idx d
  if c.1 = .ok then runBody qp idx d body c.2
  else pushInFlight (refusedEntry qp idx d c.1) c.2

/-- A descriptor-start command: a row whose words are not its own is ill-formed; a descriptor that cannot yet start waits, and
nothing changes (R535). -/
def startDesc (isRow : Bool) (qp : Fin 64) (d : Desc) (body : M Unit) (s : State) : Host.Outcome State Fault Refusal :=
  if !isRow then .refused .illFormed
  else if !running s then .fault .notRunning
  else if canStart s qp d 1 then .next (startOne qp d body s)
  else .next (showFront qp d s)

/-! ### Completing -/

/-- Does a status halt a pair (R559)? -/
def haltsAlways (st : Status) : Bool := st == .badSequence
def haltsYes (st : Status) : Bool :=
  match st with
  | .ok | .stashExhausted | .nonfiniteSkipped => false
  | _ => true

/-- The completion record of an entry as record number p of a ring of E (R558). -/
def recordBytes (e : InFlight) (p : W32) (entries : Nat) : List Byte :=
  let phase := (p.toNat / entries + 1) % 2
  let valid := if e.faultAddr.isSome then 1 else 0
  leBytes 8 (e.idx.toNat * 2 ^ 32 + e.status.code * 2 ^ 16 + valid * 2 ^ 9 + phase * 2 ^ 8 + e.cls)
    ++ leBytes 8 (e.faultAddr.getD 0 * 2 ^ 16) ++ (e.info ++ zeros16).take 16

/-- RETIRED: the largest n for which every descriptor with index below n has completed (R528). -/
def retiredOf (head : W32) (rest : List InFlight) (base : W32) : W32 :=
  base + BitVec.ofNat 32 (rest.foldl (fun m e => min m (e.idx - base).toNat) (head - base).toNat)

/-- The state a pair takes when a descriptor completes with a status: halted (R536), or, when it was the last one, drained (R534). -/
def pairAfter (p : QueuePair) (st : Status) (last : Bool) : QueuePair :=
  if (p.state = .active ∨ p.state = .enablePending) ∧ (haltsAlways st || (p.stopOnFailure && haltsYes st)) then
    { p with state := .halted, halt := BitVec.ofNat 16 st.code }
  else if last ∧ p.state = .draining then { p with state := .disabled }
  else if last ∧ p.state = .enablePending then { p with state := .active }
  else p

/-- Counts a completion with status OK (R412, R445, R479). -/
def countOk (e : InFlight) (s : State) : State :=
  if e.status ≠ .ok then s
  else match e.okCount with
    | some .updated => { s with care := { s.care with updated := satInc s.care.updated } }
    | some .reduced => { s with red := { s.red with completed := satInc s.red.completed } }
    | some .rebuilt => { s with shard := { s.shard with rebuilt := satInc s.shard.rebuilt } }
    | none => s

/-- Replaces an entry. -/
def setInFlight (e : InFlight) (s : State) : State :=
  notePeak { s with q := { s.q with inflight := s.q.inflight.map fun x => if x.qp == e.qp && x.idx == e.idx then e else x } }

/-- Where the next record of a pair goes (R527). -/
def QueuePair.recordAt (p : QueuePair) : Nat := p.cqBase.toNat + 32 * (p.produced.toNat % p.entries.toNat)

/-- Writes a completed descriptor's record and updates its pair (R528, R536, R549, R550). -/
def writeRecord (e : InFlight) (s : State) : State :=
  let p := s.q.qps[e.qp]
  let rest := s.q.inflight.filter fun x => !(x.qp == e.qp && x.idx == e.idx)
  let mine := rest.filter fun x => x.qp == e.qp
  let a := p.recordAt
  let rec' := recordBytes e p.produced p.entries.toNat
  let p1 := { p with produced := p.produced + 1, retired := retiredOf p.head mine p.retired }
  let p2 := pairAfter p1 e.status mine.isEmpty
  let halted := p2.state = .halted ∧ p.state ≠ .halted
  let s1 := sendWr none a rec' (poke (countOk e s) a rec')
  let s2 := { s1 with
    gate := { s1.gate with runs := s1.gate.runs.filter fun r => r.order != e.order }
    q := { s1.q with
      qps := s1.q.qps.set e.qp p2, inflight := rest, written := satInc s1.q.written,
      lastHalt := if halted then BitVec.ofNat 32 (e.status.code * 2 ^ 16 + e.qp.val) else s1.q.lastHalt } }
  let s3 := if e.notify then
      mailRequest 0xA1 (leBytes 8 (p2.produced.toNat * 2 ^ 32 + e.qp.val))
        { s2 with outbox := s2.outbox ++ [.cqEvent e.qp.val p2.produced] }
    else s2
  if halted then raiseAlert 2 s3 else s3

/-- A WR of a pair's next record would leave at once: it finds a TAG, the link's credits and room, and nothing before it waits (R577,
R585). -/
def recordGoes (s : State) (qp : Fin 64) : Bool :=
  let t := sendWr none (s.q.qps[qp]).recordAt (List.replicate 32 0) s
  t.stk.wrWaiting.isEmpty && !(t.lk.cl.waiting.any fun m => m.pool == 0)

/-- A pair's next record can be written now: no stack in reset is to take it (R515), and its WR leaves, so that PRODUCED and the event follow
the record (R549, R550). -/
def recordReady (s : State) (qp : Fin 64) : Bool := !inResetAt s (s.q.qps[qp]).recordAt && recordGoes s qp

/-- A descriptor completes; while its record cannot be written, it waits with nothing more to do. -/
def finish (e : InFlight) (s : State) : State :=
  if recordReady s e.qp then writeRecord e s else setInFlight { e with await := .nothing } s

/-- Every WR of a descriptor has its WR_DONE (R549, R590). -/
def writesDone (s : State) (e : InFlight) : Bool :=
  !(s.stk.wr.any fun w => w.owner == some (e.qp, e.idx)) && !(s.stk.wrWaiting.any fun w => w.owner == some (e.qp, e.idx))

def findInFlight (s : State) (qp : Fin 64) (idx : W32) : Option InFlight :=
  s.q.inflight.find? fun e => e.qp == qp && e.idx == idx

/-! ### Doorbells (R529, R530, R600) -/

/-- Counts an ignored doorbell. -/
def ignoreDoorbell (s : State) : State := { s with q := { s.q with ignored := satInc s.q.ignored } }

/-- Reserved bits of a doorbell (R529). -/
def doorbellReserved (w : W64) : Bool := fld w 31 8 != 0 || fld w 6 6 != 0

/-- The pair a doorbell names. -/
def doorbellQid (w : W64) : Fin 64 := ⟨w.toNat % 64, by omega⟩

/-- A doorbell of KIND 0 (R530). -/
def ringTail (w : W64) (s : State) : State :=
  let q := doorbellQid w
  let p := s.q.qps[q]
  let v : W32 := BitVec.ofNat 32 (fld w 63 32)
  if doorbellReserved w ∨ 2 ^ 31 ≤ (v - p.tail).toNat ∨ p.entries.toNat < (v - p.head).toNat then ignoreDoorbell s
  else { s with q := { s.q with qps := s.q.qps.set q { p with tail := v } } }

/-- A doorbell of KIND 1 (R530). -/
def ringHead (w : W64) (s : State) : State :=
  let q := doorbellQid w
  let p := s.q.qps[q]
  let v : W32 := BitVec.ofNat 32 (fld w 63 32)
  if doorbellReserved w ∨ 2 ^ 31 ≤ (v - p.cqHead).toNat ∨ p.entries.toNat < (p.produced - v).toNat then ignoreDoorbell s
  else { s with q := { s.q with qps := s.q.qps.set q { p with cqHead := v } } }

end Sys2Proof.Machine
end

