-- ==== Sys2Proof/Machine/Operands.lean ====
section
/-! DEFINITION. Operand forms: tensor records (R541, R542), pair records (R376 to R378), coded planes (R510, R511), delta headers
(R270 to R273), and writing an output tensor (R76, R80, R542). -/

namespace Sys2Proof.Machine

def ceilDiv (a b : Nat) : Nat := (a + b - 1) / b

/-! ### Tensor records (R541) -/

/-- A tensor record as read. A LINEAR record is one row of N columns (R542). -/
structure TRec where
  addr : Nat
  fmt : Fmt
  coded : Bool
  bdim : Bool
  linear : Bool
  elem : Nat
  scale : Nat
  rows : Nat
  cols : Nat
  cs : F32
  deriving DecidableEq, Repr, Inhabited

/-- Blocks of a narrow tensor (R542). -/
def TRec.blocks (t : TRec) : Nat :=
  if t.bdim then ceilDiv t.rows 32 * t.cols else t.rows * ceilDiv t.cols 32

/-- Bytes of an uncoded element plane, and of the scale plane (R542). -/
def TRec.elemBytes (t : TRec) : Nat :=
  if t.fmt.narrow then t.blocks * t.fmt.blockBytes else t.rows * t.cols * t.fmt.width
def TRec.scaleBytes (t : TRec) : Nat := if t.fmt.narrow then t.blocks else 0

/-- The planes of a record. -/
def planeRanges (t : TRec) : List (Nat × Nat) := (t.elem, t.elemBytes) :: (if t.fmt.narrow then [(t.scale, t.scaleBytes)] else [])

/-- Block index and place of element (r, c) of a narrow tensor (R542). -/
def TRec.place (t : TRec) (r c : Nat) : Nat × Nat :=
  if t.bdim then (r / 32 * t.cols + c, r % 32) else (r * ceilDiv t.cols 32 + c / 32, c % 32)

/-- The first word's KIND of any record (R541). -/
def kindOf (w : W64) : Nat := fld w 63 56

/-- The fields of a record's four words, checked against R541 and R62. -/
def decodeTRec (a : Nat) (w0 w1 w2 w3 : W64) : Option TRec :=
  match Fmt.ofCode (fld w0 55 52) with
  | none => none
  | some f =>
    let coded := bit w0 51
    let bdim := bit w0 50
    let linear := bit w0 48
    let t : TRec :=
      { addr := a, fmt := f, coded := coded, bdim := bdim, linear := linear, elem := fld w0 47 0, scale := fld w1 63 16,
        rows := if linear then 1 else fld w2 63 32, cols := if linear then w2.toNat else fld w2 31 0,
        cs := BitVec.ofNat 32 (fld w3 63 32) }
    if kindOf w0 = 0x71 ∧ bit w0 49 = false ∧ (coded = false ∨ f = .f8a) ∧ (bdim = false ∨ (f.narrow ∧ linear = false))
        ∧ t.elem % 256 = 0 ∧ t.scale % 16 = 0 ∧ (f.narrow ∨ t.scale = 0) ∧ fld w1 15 0 = 0 ∧ fld w3 31 0 = 0
        ∧ 1 ≤ t.rows ∧ 1 ≤ t.cols ∧ (if linear then t.cols < 2 ^ 40 else t.cols ≤ 2 ^ 24) ∧ f32PosNormal t.cs then some t
    else none

/-- Reads and checks the tensor record at an address (R541). -/
def getTRec (a : Nat) : M TRec := do
  needDesc (a % 32 == 0)
  needMapped a 32
  let w0 ← readU64 a
  let w1 ← readU64 (a + 8)
  let w2 ← readU64 (a + 16)
  let w3 ← readU64 (a + 24)
  match decodeTRec a w0 w1 w2 w3 with
  | some t =>
    needMapped t.elem (if t.coded then 16 else t.elemBytes)
    if t.fmt.narrow then needMapped t.scale t.scaleBytes
    return t
  | none => fail .badDescriptor

/-! ### What an operand serves -/

/-- An operand ready to read: its coarse scale and, for each element, its code and S8 (R62, R81). Never part of State. -/
structure Operand where
  fmt : Fmt
  rows : Nat
  cols : Nat
  cs : F32
  code : Nat → Nat → Nat
  s8 : Nat → Nat → Option Nat

/-- An element as a product takes it: block scale applied, coarse scale not (R64). -/
def Operand.num (o : Operand) (r c : Nat) : Num :=
  let e := o.fmt.decode (o.code r c)
  match o.s8 r c with
  | some s => scaledElem s e
  | none => e

/-- An element read into F32 (R81). -/
def Operand.f32 (o : Operand) (r c : Nat) : F32 := readF32 o.cs (o.s8 r c) (o.fmt.decode (o.code r c))

/-- Element `i` of a record in flat order. -/
def Operand.flat (o : Operand) (i : Nat) : F32 := o.f32 (i / o.cols) (i % o.cols)

/-- A row as F32 values. -/
def Operand.row (o : Operand) (r n : Nat) : List F32 := (List.range n).map fun c => o.f32 r c

/-- The code of element (r, c) of a plane whose byte i is `get i` (R542). -/
def codeAt (t : TRec) (get : Nat → Byte) (r c : Nat) : Nat :=
  if t.fmt.narrow then
    let p := t.place r c
    if t.fmt = .f4 then
      let b := (get (p.1 * 16 + p.2 / 2)).toNat
      if p.2 % 2 = 0 then b % 16 else b / 16
    else (get (p.1 * 32 + p.2)).toNat
  else leNat ((List.range t.fmt.width).map fun i => get ((r * t.cols + c) * t.fmt.width + i))

/-- The S8 of the block of element (r, c) from a scale plane. -/
def s8At (t : TRec) (get : Nat → Byte) (r c : Nat) : Option Nat :=
  if t.fmt.narrow then some (get (t.place r c).1).toNat else none

/-- The byte ranges of the leading R × C part of an uncoded tensor. -/
def leadingRanges (t : TRec) (R C : Nat) : List (Nat × Nat) :=
  if t.fmt.narrow then
    if t.bdim then
      (List.range (ceilDiv R 32)).flatMap fun b =>
        [(t.elem + b * t.cols * t.fmt.blockBytes, C * t.fmt.blockBytes), (t.scale + b * t.cols, C)]
    else
      let cb := ceilDiv t.cols 32
      (List.range R).flatMap fun r =>
        [(t.elem + r * cb * t.fmt.blockBytes, ceilDiv C 32 * t.fmt.blockBytes), (t.scale + r * cb, ceilDiv C 32)]
  else (List.range R).map fun r => (t.elem + r * t.cols * t.fmt.width, C * t.fmt.width)

/-- Reads ranges: every codeword is touched and the ranges are noted. -/
def readRanges (l : List (Nat × Nat)) : M Unit := l.forM fun p => do
  noteRead p.1 p.2
  touchRange p.1 p.2

/-- The leading part of an uncoded record as an operand. -/
def openRec (t : TRec) (R C : Nat) : M Operand := do
  readRanges (leadingRanges t R C)
  let w ← get
  return { fmt := t.fmt, rows := t.rows, cols := t.cols, cs := t.cs, code := codeAt t fun i => w.byte (t.elem + i),
           s8 := s8At t fun i => w.byte (t.scale + i) }

/-! ### Coded planes (R510 to R512) -/

/-- The codes of a coded block from its bytes; `none` where R511 is broken. -/
def decodeCoded (bs : List Byte) : Option (List Nat) :=
  let b0 := (bs.headD 0).toNat
  let emin := b0 / 16
  let w := b0 % 8
  let offs := leNat ((bs.drop 17).take (4 * w))
  let codes := (List.range 32).map fun i =>
    let nb := ((bs.drop 1).getD (i / 2) 0).toNat
    let n := if i % 2 = 0 then nb % 16 else nb / 16
    let e := emin + offs / 2 ^ (w * i) % 2 ^ w
    (e, n / 8 * 128 + e * 8 + n % 8)
  if w ≤ 4 ∧ b0 / 8 % 2 = 0 ∧ codes.all (fun c => c.1 ≤ 15) then some (codes.map Prod.snd) else none

/-- The start of the coded data, after the header and the directory (R510). -/
def codedData (t : TRec) : Nat := t.elem + (16 + 4 * ceilDiv t.blocks 64 + 15) / 16 * 16

/-- The W of the coded block at an address; above 4 it is BAD_DESCRIPTOR (R511, R512). -/
def codedW (a : Nat) : M Nat := do
  let w := (← readU8 a) % 8
  needDesc (w ≤ 4)
  return w

/-- The offset of block 64s + k: the directory's entry, then the lengths of the blocks before it. -/
def codedOffset (data : Nat) : (k off : Nat) → M Nat
  | 0, off => pure off
  | k + 1, off => do
    let w ← codedW (data + off)
    codedOffset data k (off + 17 + 4 * w)

/-- Checks a coded plane's header and its place (R510, R512); answers DATA_BYTES. -/
def checkCoded (t : TRec) : M Nat := do
  let h0 ← readU64 t.elem
  let h1 ← readU64 (t.elem + 8)
  needDesc (kindOf h0 == 0xEC && fld h0 55 32 == 0 && fld h0 31 0 == t.blocks && fld h1 31 0 == 0)
  let len := codedData t - t.elem + fld h1 63 32
  match stackLocal (← getS) t.elem len with
  | some _ => return fld h1 63 32
  | none => fail .badDescriptor

/-- The codes of one coded block; it lies in the plane's DATA_BYTES, which the last block ends (R510). -/
def codedBlock (t : TRec) (b : Nat) : M (List Nat) := do
  let dataBytes := fld (← readU64 (t.elem + 8)) 63 32
  let start ← readU32 (t.elem + 16 + 4 * (b / 64))
  let off ← codedOffset (codedData t) (b % 64) start
  let w ← codedW (codedData t + off)
  let e := off + 17 + 4 * w
  needDesc (if b + 1 = t.blocks then e == dataBytes else decide (e < dataBytes))
  let bs ← readBytes (codedData t + off) (17 + 4 * w)
  match decodeCoded bs with
  | some l => return l
  | none => fail .badDescriptor

/-- Codes and S8 of one block of an F8A or F4 tensor, coded or not. -/
def blockOf (t : TRec) (b : Nat) : M (List Nat × Nat) := do
  let s8 ← readU8 (t.scale + b)
  if t.coded then return (← codedBlock t b, s8)
  else
    let bs ← readBytes (t.elem + b * t.fmt.blockBytes) t.fmt.blockBytes
    if t.fmt = .f4 then return (bs.flatMap fun x => [x.toNat % 16, x.toNat / 16], s8)
    else return (bs.map fun x => x.toNat, s8)

/-- The blocks of the leading R × C part. -/
def leadingBlocks (t : TRec) (R C : Nat) : List Nat :=
  if t.bdim then (List.range (ceilDiv R 32)).flatMap fun b => (List.range C).map fun c => b * t.cols + c
  else (List.range R).flatMap fun r => (List.range (ceilDiv C 32)).map fun c => r * ceilDiv t.cols 32 + c

/-- An operand served from blocks that were decoded or merged one by one. -/
def ofBlocks (t : TRec) (cs : F32) (bl : List (Nat × (List Nat × Nat))) : Operand :=
  let at' := fun r c => ((bl.find? fun x => x.1 == (t.place r c).1).map Prod.snd).getD ([], 0)
  { fmt := t.fmt, rows := t.rows, cols := t.cols, cs := cs,
    code := fun r c => (at' r c).1.getD (t.place r c).2 0, s8 := fun r c => some (at' r c).2 }

/-- The leading part of a record, coded or not. -/
def openAny (t : TRec) (R C : Nat) : M Operand := do
  if t.coded then
    discard (checkCoded t)
    let bl ← (leadingBlocks t R C).mapM fun b => do return (b, ← blockOf t b)
    return ofBlocks t t.cs bl
  else openRec t R C

/-! ### Pair records (R376 to R378, R460) -/

structure Pair where
  addr : Nat
  rec0 : TRec
  rec1 : TRec
  nextTag : W32
  cur : Bool
  deriving Repr

def Pair.current (p : Pair) : TRec := if p.cur then p.rec1 else p.rec0
def Pair.next (p : Pair) : TRec := if p.cur then p.rec0 else p.rec1

/-- Two records of the same shape, format and blocking (R376). -/
def sameShape (a b : TRec) : Bool :=
  a.fmt == b.fmt && a.bdim == b.bdim && a.linear == b.linear && a.rows == b.rows && a.cols == b.cols

/-- A pair record as it stands: the addresses of its tensor records, NEXT_TAG and CUR (R376). -/
structure PairHead where
  addr : Nat
  rec0 : Nat
  rec1 : Nat
  nextTag : W32
  cur : Bool
  deriving Repr

/-- Reads a pair record and checks its fields against R376. Its NEXT_TAG and CUR are the module's own to order, so they stand outside
R547. -/
def getPairHead (a : Nat) : M PairHead := do
  needDesc (a % 32 == 0)
  needInStacks a 32
  let w0 ← readU64 a
  let w1 ← readU64 (a + 8)
  let w2 : W64 := BitVec.ofNat 64 (leNat (← readSerial (a + 16) 8))
  let w3 ← readU64 (a + 24)
  needDesc (kindOf w0 == 0xB2 && fld w0 55 48 == 0 && fld w1 63 48 == 0 && fld w2 31 1 == 0 && w3 == 0)
  return { addr := a, rec0 := fld w0 47 0, rec1 := fld w1 47 0, nextTag := BitVec.ofNat 32 (fld w2 63 32), cur := bit w2 0 }

/-- The pair's next buffer is of an earlier step, so that naming the pair promotes it (R377). -/
def PairHead.stale (h : PairHead) (s : State) : Bool := h.nextTag != 0 && h.nextTag != s.stash.tag

/-- A pair whose records have been read, promoted where its next buffer is of an earlier step (R377). -/
def promotePair (h : PairHead) (r0 r1 : TRec) : M Pair := do
  if h.stale (← getS) then
    writeBeside (h.addr + 16) (leBytes 8 (if h.cur then 0 else 1))
    return { addr := h.addr, rec0 := r0, rec1 := r1, nextTag := 0, cur := !h.cur }
  else return { addr := h.addr, rec0 := r0, rec1 := r1, nextTag := h.nextTag, cur := h.cur }

/-- Reads a pair record, checks it against R376, and promotes it. -/
def getPair (a : Nat) : M Pair := do
  let h ← getPairHead a
  let r0 ← getTRec h.rec0
  let r1 ← getTRec h.rec1
  needDesc (sameShape r0 r1)
  promotePair h r0 r1

/-- The same where an unbacked record lets the checks go on (R487): the tensor records that could be read, and the pair. -/
def softPair (a : Nat) : M (List TRec × Except Nat Pair) := do
  match ← soften (getPairHead a) with
  | .error x => return ([], .error x)
  | .ok h =>
    let r0 ← soften (getTRec h.rec0)
    let r1 ← soften (getTRec h.rec1)
    match r0, r1 with
    | .ok x, .ok y =>
      needDesc (sameShape x y)
      return ([x, y], .ok (← promotePair h x y))
    | .ok x, .error e => return ([x], .error e)
    | .error e, .ok y => return ([y], .error e)
    | .error e, .error _ => return ([], .error e)

/-- Sets a pair's NEXT_TAG (R378, R463). -/
def setNextTag (p : Pair) (tag : W32) : M Unit :=
  writeSerial (p.addr + 16) (leBytes 8 (tag.toNat * 2 ^ 32 + (if p.cur then 1 else 0)))

/-- The buffer the pair's last write filled (R460). -/
def Pair.lastWritten (p : Pair) (tag : W32) : TRec := if p.nextTag = tag then p.next else p.current

/-! ### Delta headers and records (R270 to R275) -/

structure Delta where
  base : TRec
  cs : F32
  dir : Nat
  recBytes : Nat
  deriving Repr

/-- Reads a delta header, which no rule aligns, and checks it against R270. -/
def getDelta (a : Nat) : M Delta := do
  needMapped a 32
  let w0 ← readU64 a
  let w1 ← readU64 (a + 8)
  let w2 ← readU64 (a + 16)
  let w3 ← readU64 (a + 24)
  let base ← getTRec (fld w0 47 0)
  let s ← getS
  let cs : F32 := BitVec.ofNat 32 (fld w1 63 32)
  let dir := fld w2 63 16
  let holder := stackLocal s base.elem (if base.coded then 16 else base.elemBytes)
  needDesc (kindOf w0 == 0xDE && fld w0 51 48 == 0 && fld w1 31 0 == 0 && fld w2 15 0 == 0
    && Fmt.ofCode (fld w0 55 52) == some base.fmt && (base.fmt == .f8a || base.fmt == .f4) && f32PosNormal cs
    && fld w3 63 32 == base.blocks
    && holder.isSome && holder == stackLocal s dir (16 * ceilDiv base.blocks 64 + fld w3 31 0))
  return { base := base, cs := cs, dir := dir, recBytes := fld w3 31 0 }

/-- The length of a record by its header byte; `none` where R272 is broken. -/
def deltaLen (f : Fmt) (h : Nat) : Option Nat :=
  let n := h % 16
  if h / 16 % 8 ≠ 0 then none
  else if 128 ≤ h then (if n = 0 then some (2 + f.blockBytes) else none)
  else if 1 ≤ n ∧ n ≤ 8 then some (1 + 2 * n)
  else none

/-- Walks over k records from an address; answers the address after them (R271, R272). -/
def deltaWalk (f : Fmt) : (k a : Nat) → M Nat
  | 0, a => pure a
  | k + 1, a => do
    match deltaLen f (← readU8 a) with
    | some n => deltaWalk f k (a + n)
    | none => fail .badDescriptor

/-- Bits set in the low `n` bits of a mask. -/
def popLow : (n m : Nat) → Nat
  | 0, _ => 0
  | n + 1, m => m % 2 + popLow n (m / 2)

/-- Strictly increasing. -/
def increasing : List Nat → Bool
  | a :: b :: t => decide (a < b) && increasing (b :: t)
  | _ => true

/-- Where the records begin (R271). -/
def Delta.records (d : Delta) : Nat := d.dir + 16 * ceilDiv d.base.blocks 64

/-- A group's directory entry, checked against where the records before it end (R271): its mask, the address of its first record, and
the offset after its last. -/
def deltaGroup (d : Delta) (g cur : Nat) : M (W64 × Nat × Nat) := do
  let mask ← readU64 (d.dir + 16 * g)
  let off ← readU32 (d.dir + 16 * g + 8)
  let res ← readU32 (d.dir + 16 * g + 12)
  needDesc (res == 0 && decide (mask.toNat < 2 ^ min 64 (d.base.blocks - 64 * g)) && (mask == 0 || off == cur))
  let e ← deltaWalk d.base.fmt (popLow 64 mask.toNat) (d.records + cur)
  needDesc (decide (e ≤ d.records + d.recBytes))
  return (mask, d.records + cur, e - d.records)

/-- The entries of `n` groups from group g on; the records of all groups take RECBYTES (R270, R271). -/
def deltaGroups (d : Delta) : (n g cur : Nat) → M (List (W64 × Nat))
  | 0, g, cur => do
    needDesc (g != ceilDiv d.base.blocks 64 || cur == d.recBytes)
    return []
  | n + 1, g, cur => do
    let r ← deltaGroup d g cur
    return (r.1, r.2.1) :: (← deltaGroups d n (g + 1) r.2.2)

/-- Block b of the merged tensor (R273), with its group's entry; a record against R272 is BAD_DESCRIPTOR (R275). -/
def deltaBlock (d : Delta) (x : W64 × Nat) (b : Nat) : M (List Nat × Nat) := do
  let base ← blockOf d.base b
  if !bit x.1 (b % 64) then return base
  else
    let a ← deltaWalk d.base.fmt (popLow (b % 64) x.1.toNat) x.2
    let h ← readU8 a
    let n := h % 16
    if 128 ≤ h then
      let s8 ← readU8 (a + 1)
      let bs ← readBytes (a + 2) d.base.fmt.blockBytes
      if d.base.fmt = .f4 then return (bs.flatMap fun x => [x.toNat % 16, x.toNat / 16], s8)
      else return (bs.map fun x => x.toNat, s8)
    else
      let ps := (← readBytes (a + 1) n).map fun x => x.toNat
      let vs := (← readBytes (a + 1 + n) n).map fun x => x.toNat
      needDesc (ps.all (fun p => p < 32) && increasing ps && (d.base.fmt != .f4 || vs.all fun v => v < 16))
      return ((ps.zip vs).foldl (fun l p => l.set p.1 p.2) base.1, base.2)

/-- The merged tensor (R273). -/
def openDelta (d : Delta) (R C : Nat) : M Operand := do
  if d.base.coded then discard (checkCoded d.base)
  let l := leadingBlocks d.base R C
  let gs ← deltaGroups d (l.foldl (fun m b => max m (b / 64 + 1)) 0) 0 0
  let bl ← l.mapM fun b => do return (b, ← deltaBlock d (gs.getD (b / 64) (0, 0)) b)
  return ofBlocks d.base d.cs bl

/-! ### Rounding and overflow modes (R73, R82) -/

/-- Overflow mode PROP by a descriptor's code for a format (R73); code 3 is checked before. -/
def propOf (s : State) (f : Fmt) (code : Nat) : Bool :=
  if code = 1 then false
  else if code = 2 then true
  else match f with
    | .f8a => s.fmt.propF8a
    | .f8g => s.fmt.propF8g
    | .f4 => s.fmt.propF4
    | .b16 => s.fmt.propB16
    | _ => s.fmt.propF32

/-- Stochastic rounding by a descriptor's code (R73). -/
def stochOf (s : State) (code : Nat) : Bool :=
  if code = 1 then false else if code = 2 then true else s.fmt.stochastic

/-! ### Writing an output tensor -/

/-- How an output is written: its overflow mode, the rounding of each element, and whether the values written set exception bits (R166). -/
structure OutMode where
  prop : Bool
  rnd : Nat → Nat → Rnd
  events : Bool := false

/-- SATURATED joins the exception word in the record as soon as a conversion sets it, whatever the status will be (R117, R720). -/
def noteSat (sat : Bool) : M Unit := if sat then orExc excSaturated else pure ()

/-- INVALID and INFINITE of values as they are stored, where these count. -/
def noteValues (m : OutMode) (l : List Num) : M Unit :=
  if m.events then orExc (excIf (l.any Num.isNaN) excInvalid ||| excIf (l.any Num.isInf) excInfinite) else pure ()

/-- The bytes of a block's codes. -/
def blockBytesOf (f : Fmt) (codes : List Nat) : List Byte :=
  (if f = .f4 then packF4 codes else codes).map fun c => BitVec.ofNat 8 c

/-- Converts and writes one block whose elements are at the positions given (none: padding, R61); answers "saturated". -/
def writeBlock (t : TRec) (m : OutMode) (b : Nat) (ps : List (Option (Nat × Nat))) (w : Nat → Nat → Num) : M Bool := do
  let els := ps.map fun p => match p with
    | some (r, c) => (w r c, m.rnd r c)
    | none => (Num.zero, Rnd.rne)
  let x := if t.fmt = .l8 then convL8 (els.map Prod.fst) else convBlock t.fmt m.prop els
  noteSat x.sat
  noteValues m (x.codes.map fun c => scaledElem x.s8 (t.fmt.decode c))
  writeBytes (t.elem + b * t.fmt.blockBytes) (blockBytesOf t.fmt x.codes)
  writeBytes (t.scale + b) [BitVec.ofNat 8 x.s8]
  return x.sat

/-- Positions of block b of a tensor whose written part is R × C. -/
def blockPositions (t : TRec) (R C b : Nat) : List (Option (Nat × Nat)) :=
  (List.range 32).map fun i =>
    let p := if t.bdim then (b / t.cols * 32 + i, b % t.cols)
      else (b / ceilDiv t.cols 32, b % ceilDiv t.cols 32 * 32 + i)
    if p.1 < R ∧ p.2 < C then some p else none

/-- Writes the leading R × C part of an output from values already multiplied by their factor, each rounded once (R75 to R81);
answers whether "saturated" is set. -/
def writeTensor (t : TRec) (m : OutMode) (R C : Nat) (w : Nat → Nat → Num) : M Bool := do
  if t.fmt.narrow then
    let sats ← (leadingBlocks t R C).mapM fun b => writeBlock t m b (blockPositions t R C b) w
    return sats.any id
  else
    let sats ← (List.range R).mapM fun r => do
      let es := (List.range C).map fun c => convWide t.fmt m.prop (m.rnd r c) (w r c)
      noteSat (es.any Elem.sat)
      noteValues m (es.map fun e => t.fmt.decode e.code)
      writeBytes (t.elem + r * t.cols * t.fmt.width) (es.flatMap fun e => leBytes t.fmt.width e.code)
      return es.any Elem.sat
    return sats.any id

/-- The byte ranges that writing the leading part reaches. -/
def outRanges (t : TRec) (R C : Nat) : List (Nat × Nat) := leadingRanges t R C

/-! ### Shapes (R724) -/

/-- A record read as an operand holds at least the rows and columns read. -/
def holds (t : TRec) (R C : Nat) : Bool := decide (R ≤ t.rows ∧ C ≤ t.cols)

/-- A record written has exactly the columns written and at least the rows. -/
def fits (t : TRec) (R C : Nat) : Bool := decide (R ≤ t.rows ∧ C = t.cols)

/-- A tensor in flat element order with exactly `n` elements (R725). -/
def flatOk (t : TRec) (n : Nat) : Bool :=
  decide (t.rows * t.cols = n) && (!t.fmt.narrow || t.linear || (!t.bdim && (t.rows == 1 || t.cols % 32 == 0)))

end Sys2Proof.Machine
end

