-- ==== Sys2Proof/Machine/Squares.lean ====
section
/-! DEFINITION. Weight registers, splits, recirculation buffers and junction spill of the plazas (spec/03: R87 to R96, R99, R100). Which
street computes which column group, and in which order passes run, is the module's choice (R99; LOG 22). -/

namespace Sys2Proof.Machine

/-- Squares in a street of a split (R93). -/
def streetLen (split : Nat) : Nat := 8 / 2 ^ split
/-- Streets of a plaza in a split (R93). -/
def streetCount (split : Nat) : Nat := 2 ^ split
/-- Loops per panel in streets of L squares (R93, R94). -/
def loopCount (L : Nat) : Nat := 8 / L

/-- One pass of a row block through a street: column group, panel and loop (R88). -/
structure Pass where
  group : Nat
  panel : Nat
  loop : Nat
  deriving DecidableEq, Repr

/-- The passes of a street: its column groups, panel by panel, every row block through the panel's loops (LOG 22). -/
def streetPasses (groups : List Nat) (panels blocks loops : Nat) : List Pass :=
  groups.flatMap fun g => (List.range panels).flatMap fun p => (List.range blocks).flatMap fun _ =>
    (List.range loops).map fun j => ⟨g, p, j⟩

/-- The k that cell row r of the square at position q of a street of L squares takes in a pass (R88). -/
def Pass.k (x : Pass) (L q r : Nat) : Nat := 1024 * x.panel + 128 * (q + L * x.loop) + r
/-- The n that cell column c takes in a pass (R88). -/
def Pass.n (x : Pass) (c : Nat) : Nat := 128 * x.group + c

/-- The weights of one square in a pass, row by row; `w` gives B[k][n] with its scale (R87, R88). -/
def Pass.weights (w : Nat → Nat → Weight) (L q : Nat) (x : Pass) : List (List Weight) :=
  (List.range 128).map fun r => (List.range 128).map fun c => w (x.k L q r) (x.n c)

/-- The next weight tile loads into the shadow registers (R91). -/
def SquareRegs.load (w : List (List Weight)) (x : SquareRegs) : SquareRegs := { x with shadow := w }
/-- Active and shadow registers swap behind the last row of a row block (R91). -/
def SquareRegs.swap (x : SquareRegs) : SquareRegs := { x with active := x.shadow, shadow := x.active }

def getSquare (s : State) (p : Fin 64) (n : Nat) : SquareRegs :=
  (s.arr.squares.find? fun x => x.plaza == p && x.square == n).getD ⟨p, n, [], []⟩

def setSquare (x : SquareRegs) (s : State) : State :=
  { s with arr := { s.arr with squares :=
      (s.arr.squares.filter fun y => !(y.plaza == x.plaza && y.square == x.square)) ++ [x] } }

/-- A square has completed panels (R635): plain squares are numbered 8 to a plaza, the terrace squares follow. -/
def countPanels (p : Fin 64) (square n : Nat) (s : State) : State :=
  let i := if square < 8 then 8 * p.val + square else 512 + p.val
  { s with units := { s.units with squares :=
      if h : i < 576 then s.units.squares.set i (satAdd (s.units.squares[i]) n) else s.units.squares } }

/-- The passes run through the street whose squares are `base`, `base + 1`, … (R91). -/
def runStreet (w : Nat → Nat → Weight) (p : Fin 64) (base L : Nat) (passes : List Pass) (s : State) : State :=
  if passes.isEmpty then s
  else (List.range L).foldl (fun s q =>
    setSquare (passes.foldl (fun x y => (x.load (y.weights w L q)).swap) (getSquare s p (base + q))) s) s

/-- A street keeps the kerb output of its last square for the next loop; rows that the row block does not reach stay (R94). -/
def setRecirc (p : Fin 64) (street : Nat) (rows : List (List A34)) (s : State) : State :=
  let old := (s.arr.recirc.find? fun x => x.plaza == p && x.street == street).map RecircRows.rows
  { s with arr := { s.arr with recirc :=
      (s.arr.recirc.filter fun y => !(y.plaza == p && y.street == street))
        ++ [⟨p, street, rows ++ (old.getD []).drop rows.length⟩] } }

/-- A plaza takes a split (R96). -/
def setSplit (p : Fin 64) (split : Nat) (s : State) : State :=
  { s with arr := { s.arr with split := s.arr.split.set p split } }

/-- Column groups of `n` outputs (R88). -/
def groupCount (n : Nat) : Nat := ceilDiv n 128

/-- The column groups of street `st` of plaza number `i` among `plazas`: groups go round the plazas, then round the streets (LOG 22). -/
def groupsOf (n plazas streets i st : Nat) : List Nat :=
  (List.range (groupCount n)).filter fun g => g % plazas = i && g / plazas % streets = st

/-- The streets of plaza number `i` that have column groups, each with its last one. -/
def lastGroups (n plazas streets i : Nat) : List Nat :=
  (List.range streets).filterMap fun st => (groupsOf n plazas streets i st).getLast?

/-- Rows of 128 A34 values that wait in a plaza's junction at most: every row of the streets in use, since all row blocks run through a
panel before the next, once for every level that waits together in a tree of P panels (R98, R100). -/
def junctionWaits (n plazas streets i rows panels : Nat) : Nat := (lastGroups n plazas streets i).length * rows * Nat.log2 panels

/-- A plaza's junction takes rows that wait: its buffer the first 1,024 of them, the plaza store the others (R100). -/
def setJunction (p : Fin 64) (rows : List (List A34)) (s : State) : State :=
  if rows.isEmpty then s
  else { s with arr := { s.arr with junctions :=
    (s.arr.junctions.filter fun y => y.plaza != p) ++ [⟨p, rows.take 1024, rows.drop 1024⟩] } }

/-- Weights of one square, each a free choice among those that `w` numbers. -/
def someWeights (w : Nat → Weight) (k : Nat) : List (List Weight) := (List.range 128).map fun r => (List.range 128).map fun c =>
  w (Config.freePick (k + 128 * r + c))

/-- `n` rows of 128 free A34 values. -/
def freeRows (n k : Nat) : List (List A34) := (List.range n).map fun r => (List.range 128).map fun c =>
  BitVec.ofNat 34 (Config.freeW64 (k + 128 * r + c)).toNat

/-- Some rows of a street's recirculation buffer are free: up to all 256 (R94). -/
def someRecirc (p : Fin 64) (street : Nat) (s : State) : State :=
  let n := Config.freePick s.freeCtr % 257
  if n = 0 then s else setRecirc p street (freeRows n (s.freeCtr + 1)) { s with freeCtr := s.freeCtr + 1 + 128 * n }

/-- A number of rows, a free choice up to twice the junction's buffer, wait in a plaza's junction and its store (R100). -/
def someWaiting (p : Fin 64) (s : State) : State :=
  let n := Config.freePick s.freeCtr % 2049
  setJunction p (freeRows n (s.freeCtr + 1)) { s with freeCtr := s.freeCtr + 1 + 128 * n }

/-- The products of an ATTN run on the plain squares of its plazas, each cell with an element of theirs and that element's own scale (R182,
R183); streets of fewer than 8 squares use their recirculation buffers (R94), and reductions of several panels, `folds`, the junction (R100).
Which products a square runs, and in which order, is the module's choice: each register holds a free choice among the elements, and the
panels, the rows and what they hold are free (LOG 22). -/
def attnSquares (first n : Nat) (w : Nat → Weight) (folds : Bool) (s : State) : State :=
  (List.range n).foldl (fun s i =>
    let p := Fin.ofNat 64 (first + i)
    let s1 := (List.range 8).foldl (fun s q =>
      let k := s.freeCtr
      countPanels p q (Config.freePick k) (setSquare ⟨p, q, someWeights w k, someWeights w (k + 2 ^ 14)⟩ { s with freeCtr := k + 2 ^ 15 })) s
    let s2 := if s.arr.split[p] = 0 then s1 else (List.range (streetCount s.arr.split[p])).foldl (fun s st => someRecirc p st s) s1
    if folds then someWaiting p s2 else s2) s

/-- The kiosk K3 of a plaza whose junction spills (R100). -/
def spillKiosk (s : State) (p : Fin 64) (waits : Nat) : List UnitId :=
  if 1024 < waits ∧ unitInService s (.kiosk ⟨4 * p.val + 3, by omega⟩) then [.kiosk ⟨4 * p.val + 3, by omega⟩] else []

/-- What the arrays hold of plazas a to b - 1 is lost (R115); that this takes the weight registers and the split too is the model's choice
(LOG 22). -/
def clearArrays (a b : Nat) (s : State) : State :=
  let out := fun (p : Fin 64) => !(decide (a ≤ p.val) && decide (p.val < b))
  { s with arr := { split := Vector.ofFn fun p => if out p then s.arr.split[p] else 0,
                    squares := s.arr.squares.filter fun x => out x.plaza, recirc := s.arr.recirc.filter fun x => out x.plaza,
                    junctions := s.arr.junctions.filter fun x => out x.plaza } }

end Sys2Proof.Machine
end

