-- ==== Sys2Proof/Machine/StashMgr.lean ====
section
/-! DEFINITION. The stash manager (spec/09, R347 to R362), and the input and output slots of TILE, KERNEL and ATTN (R351, R378). -/

namespace Sys2Proof.Machine

/-- A stash entry as read (R347); `state` and `readsDone` as the current step tag makes them. -/
structure Entry where
  addr : Nat
  sfmt : Nat
  inner : Bool
  bdim : Bool
  rec' : TRec
  cs : F32
  unit : Nat
  reads : Nat
  copy : Nat
  state : Nat
  readsDone : Nat
  deriving Repr

/-- Reads a stash entry and checks it against R347, R348, R350 and R512. -/
def getEntry (a : Nat) : M Entry := do
  needDesc (a % 32 == 0)
  needInStacks a 32
  let w0 ← readU64 a
  let w1 ← readU64 (a + 8)
  let w2 ← readU64 (a + 16)
  let w3 ← readU64 (a + 24)
  let t ← getTRec (fld w0 47 0)
  let sfmt := fld w0 55 52
  let role := fld w0 51 50
  let bdim := bit w0 49
  let cs : F32 := BitVec.ofNat 32 (fld w1 63 32)
  let cur := decide (fld w3 63 32 = (← getS).stash.tag.toNat)
  needDesc (kindOf w0 == 0x5E && sfmt ≤ 4 && role ≤ 1 && bit w0 48 == false
    && (!bdim || (sfmt == 1 || sfmt == 2 || sfmt == 3))
    && (if sfmt = 1 then f32PosNormal cs && f32FiniteNormal (recipFactor cs) else cs == 0)
    && 1 ≤ fld w2 63 48 && fld w3 27 16 == 0 && fld w3 31 28 ≤ 4 && (role == 0 || sfmt == 0) && !t.coded)
  return { addr := a, sfmt := sfmt, inner := role == 0, bdim := bdim, rec' := t, cs := cs,
           unit := fld w1 31 0, reads := fld w2 63 48, copy := if cur then fld w2 47 0 else 0, state := if cur then fld w3 31 28 else 0,
           readsDone := if cur then fld w3 15 0 else 0 }

/-- The format an entry is read as (R348). -/
def Entry.readFmt (e : Entry) : Fmt := if e.sfmt = 0 ∨ e.sfmt = 4 then e.rec'.fmt else .f8a

/-- The tensor an entry's copy stands for: shape of REC, format and blocks as read (R348). -/
def Entry.readRec (e : Entry) : TRec :=
  if e.sfmt = 0 ∨ e.sfmt = 4 then e.rec'
  else { e.rec' with fmt := .f8a, coded := false, bdim := e.bdim, cs := if e.sfmt = 1 then e.cs else f32One }

/-- Writes the M fields of an entry (R347), keeping READS: the copy's address, 0 for none. -/
def writeEntry (e : Entry) (copy state readsDone : Nat) : M Unit := do
  writeSerial (e.addr + 16) (leBytes 6 copy)
  writeSerial (e.addr + 24) (leBytes 8 ((← getS).stash.tag.toNat * 2 ^ 32 + state * 2 ^ 28 + readsDone))

/-- Bytes that a copy's element part and scale part take (R348). -/
def Entry.elemPart (e : Entry) : Nat :=
  if e.sfmt = 0 then e.rec'.elemBytes
  else if e.sfmt = 1 then 32 * e.readRec.blocks
  else if e.sfmt = 4 then 0
  else 4 * e.readRec.blocks
def Entry.scalePart (e : Entry) : Nat :=
  if e.sfmt = 0 then e.rec'.scaleBytes
  else if e.sfmt = 1 then e.readRec.blocks
  else 0

/-- Granules of a copy (R348). -/
def Entry.copyGrans (e : Entry) : Nat := ceilDiv (e.elemPart + e.scalePart) 4096

/-! ### The four conversions (R348, R349) -/

/-- The sign bit of a code. -/
def signOf (f : Fmt) (code : Nat) : Bool :=
  match f with
  | .f4 => 8 ≤ code
  | .f8a | .f8g => 128 ≤ code
  | .b16 => 2 ^ 15 ≤ code
  | .f32 => 2 ^ 31 ≤ code
  | .a34 => 2 ^ 33 ≤ code
  | .l8 => false

/-- The code with its sign taken off. -/
def magOf (f : Fmt) (code : Nat) : Nat :=
  match f with
  | .f4 => code % 8
  | .f8a | .f8g => code % 128
  | .b16 => code % 2 ^ 15
  | .f32 => code % 2 ^ 31
  | .a34 => code % 2 ^ 33
  | .l8 => code

/-- The bit that SIGN1 or MASK1 keeps of an element (R348, R349). -/
def keptBit (e : Entry) (o : Operand) (r c : Nat) : Bool :=
  let code := o.code r c
  if e.sfmt = 2 then signOf e.rec'.fmt code
  else decide (magOf e.rec'.fmt code ≠ 0) || (e.rec'.fmt == .f4 && o.s8 r c == some 255)

/-- The 4 bytes per block that SIGN1 and MASK1 keep: bit i is that of the block's element i (LOG 14). -/
def bitPlane (e : Entry) (o : Operand) : List Byte :=
  let t := e.readRec
  (List.range t.blocks).flatMap fun b => leBytes 4 ((blockPositions t t.rows t.cols b).zipIdx.foldl (fun n p =>
    n + match p.1 with
      | some (r, c) => if keptBit e o r c then 2 ^ p.2 else 0
      | none => 0) 0)

/-- The blocks of an F8A8 copy, with "saturated" (R349). -/
def f8a8Blocks (e : Entry) (o : Operand) : List Block :=
  let t := e.readRec
  let f := f32Dec (recipFactor e.cs)
  (List.range t.blocks).map fun b =>
    convBlock .f8a false ((blockPositions t t.rows t.cols b).map fun p => match p with
      | some (r, c) => (Num.mul (f32Dec (o.f32 r c)) f, Rnd.rne)
      | none => (Num.zero, Rnd.rne))

/-- The copy is the bytes of REC unchanged (R349). -/
def f8a8Same (e : Entry) : Bool := e.rec'.fmt == .f8a && e.rec'.cs == e.cs && e.rec'.bdim == e.bdim

/-- Element and scale bytes of a copy, and whether making it saturates. -/
def copyOf (e : Entry) (o : Operand) (elem scale : List Byte) : List Byte × List Byte × Bool :=
  if e.sfmt = 0 then (elem, scale, false)
  else if e.sfmt = 1 then
    if f8a8Same e then (elem, scale, false)
    else
      let bl := f8a8Blocks e o
      (bl.flatMap fun b => blockBytesOf .f8a b.codes, bl.map fun b => BitVec.ofNat 8 b.s8, bl.any Block.sat)
  else (bitPlane e o, [], false)

/-- A copy as an operand (R348). -/
def copyOperand (e : Entry) (elem scale : List Byte) : Operand :=
  let t := e.readRec
  let c1 := fun i => elem.getD i (0 : Byte)
  let c2 := fun i => scale.getD i (0 : Byte)
  if e.sfmt = 0 ∨ e.sfmt = 1 then
    { fmt := t.fmt, rows := t.rows, cols := t.cols, cs := t.cs, code := codeAt t c1, s8 := s8At t c2 }
  else
    { fmt := .f8a, rows := t.rows, cols := t.cols, cs := f32One,
      code := fun r c =>
        let p := t.place r c
        let b := (c1 (4 * p.1 + p.2 / 8)).toNat / 2 ^ (p.2 % 8) % 2
        if e.sfmt = 2 then (if b = 0 then 0x38 else 0xB8) else (if b = 0 then 0x00 else 0x38),
      s8 := fun _ _ => some 127 }

/-- The planes of REC as stored. -/
def recPlanes (t : TRec) : M (List Byte × List Byte) := do
  let a ← readBytes t.elem t.elemBytes
  let b ← readBytes t.scale t.scaleBytes
  return (a, b)

/-- The tensor of an entry converted as its copy would have been (R354). -/
def convertedRec (e : Entry) : M Operand := do
  let o ← openRec e.rec' e.rec'.rows e.rec'.cols
  if e.sfmt = 0 ∨ e.sfmt = 4 then return o
  else
    let p ← recPlanes e.rec'
    let c := copyOf e o p.1 p.2
    return copyOperand e c.1 c.2.1

/-! ### Copies and the budget (R355, R358 to R362) -/

/-- Frees the copies that meet a condition. -/
def freeCopies (p : StashCopy → Bool) (s : State) : State :=
  let gone := s.stash.copies.filter p
  let n := gone.foldl (fun a c => a + 4096 * c.grans.length) 0
  { s with stash := { s.stash with copies := s.stash.copies.filter fun c => !p c,
                                   fill := BitVec.ofNat 64 (s.stash.fill.toNat - n) } }

/-- The stash enters DOWNGRADING; one that is exhausted stays so until the step fence (R359, R360, R362). -/
def Stash.downgrade (x : Stash) : Stash := { x with state := if x.state = .exhausted then .exhausted else .downgrading }

/-- The entry a copy is of, as the manager knows it: READS_DONE of its stored word. -/
def copyReads (c : StashCopy) : M Nat := do return leNat (← readSerial (c.entry + 24) 2)

/-- Drops a unit (R360): its FILLED entries become DROPPED, each giving up its copy as it does (R717). -/
def dropUnit (u : Nat) : M Unit := do
  let s ← getS
  let mine := s.stash.copies.filter fun c => c.unit == u && c.inner
  mine.forM fun c => do
    let n ← copyReads c
    writeSerial (c.entry + 16) (leBytes 6 0)
    writeSerial (c.entry + 24) (leBytes 8 (s.stash.tag.toNat * 2 ^ 32 + 2 * 2 ^ 28 + n))
    modS (freeCopies fun x => x.entry == c.entry)
  modS fun s => { s with stash := { s.stash.downgrade with
    unitsDropped := satInc s.stash.unitsDropped,
    units := s.stash.units.map fun x => if x.unit == u then { x with dropped := true } else x } }

/-- Does a copy of `n` granules fit (R352)? -/
def stashFits (s : State) (n : Nat) : Bool := s.stash.fill.toNat + 4096 * n ≤ s.stash.bytes.toNat

/-- Reclaims from the units given, latest first, until `n` granules fit (R361). -/
def reclaim (n : Nat) : List StashUnit → M Unit
  | [] => pure ()
  | u :: t => do
    let s ← getS
    if stashFits s n then pure ()
    else
      if !u.dropped && !(s.stash.readUnits.contains u.unit) && (s.stash.copies.any fun c => c.unit == u.unit && c.inner) then
        dropUnit u.unit
      reclaim n t

/-- `k` granules of the region that no copy holds, from granule number `i` of `total` on. -/
def pickGrans (base total : Nat) (held : List Nat) : (fuel k i : Nat) → List Nat
  | 0, _, _ => []
  | _, 0, _ => []
  | n + 1, k + 1, i =>
    let a := base + 4096 * (i % total)
    if held.contains a then pickGrans base total held n (k + 1) (i + 1) else a :: pickGrans base total held n k (i + 1)

/-- The granules a new copy takes: a free choice among those that no copy holds (R348, R358; LOG 14). -/
def freshGrans (s : State) (n : Nat) : List Nat :=
  let total := s.stash.bytes.toNat / 4096
  pickGrans s.stash.base.toNat total (s.stash.copies.flatMap StashCopy.grans) (n + (s.stash.copies.flatMap StashCopy.grans).length) n
    (Config.freePick s.freeCtr)

/-- Writes a copy's bytes into its granules: protected, absent and unreadable places as for any write (R455, R487, R494). -/
def writeCopy (grans : List Nat) (bs : List Byte) : M Unit :=
  grans.zipIdx.forM fun g => writeBytes g.1 ((bs.drop (4096 * g.2)).take 4096)

/-- The first `n` bytes of a copy as its stacks hold them (R493, R495). -/
def readCopy (grans : List Nat) (n : Nat) : M (List Byte) := do
  let parts ← grans.zipIdx.mapM fun g => readBytes g.1 (min 4096 (n - 4096 * g.2))
  return parts.flatten

/-- Keeps a copy (R352, R358): its bytes are written, then its entry; it is held from then on (R715). -/
def keepCopy (e : Entry) (elem scale : List Byte) : M Unit := do
  let s ← getS
  let grans := freshGrans s e.copyGrans
  modS fun s => { s with freeCtr := s.freeCtr + 1 }
  writeCopy grans (elem ++ scale)
  writeEntry e (grans.headD 0) 1 e.readsDone
  modS fun s =>
    let fill := s.stash.fill.toNat + 4096 * grans.length
    { s with stash := { s.stash with
        copies := s.stash.copies ++ [⟨e.addr, e.unit, e.inner, grans⟩],
        fill := BitVec.ofNat 64 fill, peak := BitVec.ofNat 64 (max s.stash.peak.toNat fill) } }

/-- At the first INNER capture of a unit: is it dropped at once (R359)? -/
def firstInner (e : Entry) : M Unit := do
  let s ← getS
  if s.stash.units.any fun x => x.unit == e.unit then pure ()
  else
    let high := decide (s.stash.mark.toNat * s.stash.bytes.toNat ≤ 100 * s.stash.fill.toNat)
    let drop := high || s.stash.state == .downgrading
    modS fun s => { s with stash := { (if drop then s.stash.downgrade else s.stash) with
      units := ⟨e.unit, drop⟩ :: s.stash.units,
      unitsDropped := if drop then satInc s.stash.unitsDropped else s.stash.unitsDropped } }

/-- Keeps the copy made; a saturation in making it shows in the descriptor's exception word (R349). -/
def keepMade (e : Entry) (c : List Byte × List Byte × Bool) : M Unit := do
  orExc (excIf c.2.2 excSaturated)
  keepCopy e c.1 c.2.1

/-- What follows the writing of REC through an entry (R352, R353). -/
def capture (e : Entry) : M Unit := do
  if e.state ≠ 0 then pure ()
  else if e.sfmt = 4 then writeEntry e 0 3 0
  else
    let o ← openRec e.rec' e.rec'.rows e.rec'.cols
    let p ← recPlanes e.rec'
    let c := copyOf e o p.1 p.2
    if e.inner then
      firstInner e
      let s ← getS
      if s.stash.units.any fun x => x.unit == e.unit && x.dropped then writeEntry e 0 2 0
      else if stashFits s e.copyGrans then keepMade e c
      else
        dropUnit e.unit
        writeEntry e 0 2 0
    else
      reclaim e.copyGrans (← getS).stash.units
      if stashFits (← getS) e.copyGrans then keepMade e c
      else
        writeEntry e 0 0 0
        modS fun s => { s with stash := { s.stash with state := .exhausted } }
        fail .stashExhausted

/-- The copy of a FILLED entry as an operand. -/
def openCopy (e : Entry) : M Operand := do
  match (← getS).stash.copies.find? fun c => c.entry == e.addr with
  | some c =>
    let bs ← readCopy c.grans (e.elemPart + e.scalePart)
    return copyOperand e (bs.take e.elemPart) (bs.drop e.elemPart)
  | none => convertedRec e

/-- A read through an entry (R354, R355). -/
def openEntry (e0 : Entry) : M Operand := do
  let e ← getEntry e0.addr
  needDesc ((e.state == 1 || e.state == 2 || e.state == 3) && e.readsDone < e.reads)
  let o ← (if e.state = 1 then openCopy e else convertedRec e)
  let last := e.readsDone + 1 == e.reads
  writeEntry e (if last then 0 else e.copy) (if last ∧ e.state = 1 then 4 else e.state) (e.readsDone + 1)
  modS fun s => { s with stash := { s.stash with readUnits := e.unit :: s.stash.readUnits } }
  if last then modS (freeCopies fun c => c.entry == e.addr)
  return o

/-! ### Slots -/

/-- What an input slot names. -/
inductive InSlot where
  | tensor (t : TRec)
  | entry (e : Entry)
  | delta (d : Delta)

/-- Reads what an input slot names: a tensor record, a stash entry, a pair's current buffer, or, where allowed, a delta header. All but a
delta header are aligned to 32 bytes (R270, R347, R376, R541). -/
def getIn (a : Nat) (deltaOk codedOk : Bool) : M InSlot := do
  needMapped a 32
  let k := kindOf (← readU64 a)
  needDesc (a % 32 == 0 || (k == 0xDE && deltaOk))
  if k = 0x5E then return .entry (← getEntry a)
  else if k = 0xB2 then
    let t := (← getPair a).current
    needDesc (codedOk || !t.coded)
    return .tensor t
  else if k = 0xDE ∧ deltaOk then return .delta (← getDelta a)
  else
    let t ← getTRec a
    needDesc (codedOk || !t.coded)
    return .tensor t

def InSlot.fmt : InSlot → Fmt
  | .tensor t => t.fmt
  | .entry e => e.readFmt
  | .delta d => d.base.fmt

def InSlot.shape : InSlot → TRec
  | .tensor t => t
  | .entry e => e.readRec
  | .delta d => d.base

def InSlot.cs : InSlot → F32
  | .tensor t => t.cs
  | .entry e => e.readRec.cs
  | .delta d => d.cs

def InSlot.isEntry : InSlot → Bool
  | .entry _ => true
  | _ => false

/-- Serves the leading R × C part of what a slot names. -/
def InSlot.openR (i : InSlot) (R C : Nat) : M Operand :=
  match i with
  | .tensor t => openAny t R C
  | .entry e => openEntry e
  | .delta d => openDelta d R C

/-- Every entry that a descriptor reads can be read as often as its slots name it; it is found out before work starts (R354). -/
def needReadable : (seen : List Nat) → List InSlot → M Unit
  | _, [] => pure ()
  | seen, .entry e0 :: t => do
    let e ← getEntry e0.addr
    needDesc ((e.state == 1 || e.state == 2 || e.state == 3) && e.readsDone + seen.count e.addr < e.reads)
    needReadable (e.addr :: seen) t
  | seen, _ :: t => needReadable seen t

/-- What an output slot names: a tensor record or a stash entry (R351, R378). -/
structure OutSlot where
  rec' : TRec
  entry : Option Entry

def getOut (a : Nat) : M OutSlot := do
  needDesc (a % 32 == 0)
  needMapped a 32
  let k := kindOf (← readU64 a)
  if k = 0x5E then
    let e ← getEntry a
    needDesc (!e.rec'.coded)
    return ⟨e.rec', some e⟩
  else
    let t ← getTRec a
    needDesc (!t.coded)
    return ⟨t, none⟩

/-- Is an output an entry in state FILLED (R353)? -/
def OutSlot.filled (o : OutSlot) : Bool :=
  match o.entry with
  | some e => e.state == 1
  | none => false

/-- After a REC is written: the manager's part. -/
def OutSlot.captured (o : OutSlot) : M Unit :=
  match o.entry with
  | some e => capture e
  | none => pure ()

/-- The manager's part for every output written; one whose capture exhausts the stash keeps none of the others from theirs
(R352, R362). -/
def captureAll (l : List OutSlot) : M Unit := do
  let rs ← l.mapM fun o => tryCatch (do o.captured; return true) fun e => do
    if e.status = .stashExhausted then return false
    else throw e
  if rs.any not then fail .stashExhausted

/-- The turn check of R351 for a descriptor that names an entry. -/
def needEntryTurn (names : Bool) : M Unit := do
  let s ← getS
  need (!names || s.turn.cur == .learn || s.turn.cur == .ready) .wrongTurn

/-- The exhaustion check of R362. -/
def needStash (names : Bool) : M Unit := do
  need (!names || (← getS).stash.state != .exhausted) .stashExhausted

/-- Counts a skipped descriptor (R353). -/
def countSkip : M Unit := modS fun s => { s with stash := { s.stash with skipped := satInc s.stash.skipped } }

/-- Checks on a range a descriptor will write, in the order of the check tables: unbacked, then protected (R456, R487). -/
def needOutBacked (l : List (Nat × Nat)) : M Unit := l.forM fun r => needBacked r.1 r.2
def needOutWritable (l : List (Nat × Nat)) : M Unit := l.forM fun r => needWritable r.1 r.2

end Sys2Proof.Machine
end

