-- ==== Sys2Proof/Machine/Tile.lean ====
section
/-! DEFINITION. TILE: products, the panel tree, terraces, the drain (spec/03). -/

namespace Sys2Proof.Machine

/-! ### Values with their events (R66 to R69, R116, R118) -/

/-- A panel, tree or level value: its A34 code, the events on its way, the smallest k of its NaN causes, and the first k of the
panels it covers. -/
structure Node where
  val : A34
  exc : W16
  nanK : Option Nat
  firstK : Nat
  deriving DecidableEq, Repr, Inhabited

def minK (a b : Option Nat) : Option Nat :=
  match a, b with
  | none, y => y
  | x, none => x
  | some x, some y => some (min x y)

/-- Events of a rounded result that is NaN, or infinite without a NaN cause, or flushed (R68, R69). -/
def eventsOf (v : Num) (flushed : Bool) : W16 :=
  excIf v.isNaN excInvalid ||| excIf v.isInf excInfinite ||| excIf flushed excUnderflow

/-- A stored value that the array reads as a zero because its exponent is 0 (R56). -/
def a34Denormal (x : A34) : Bool := x.toNat / 2 ^ 23 % 1024 == 0 && x.toNat % 2 ^ 23 != 0

/-- One cell: the product at k enters the partial sum, rounded once (R66, R67, R90). -/
def cellStep (acc : Node) (k : Nat) (p : Num) : Node :=
  let a := a34Dec acc.val
  let s := Num.add a p
  let r := a34Rnd s
  let cause := if p.isNaN ∨ (s.isNaN ∧ !a.isNaN) then some k else none
  { acc with val := r.1, exc := acc.exc ||| eventsOf p false ||| eventsOf (a34Dec r.1) r.2, nanK := minK acc.nanK cause }

/-- The first `n` positions of panel p: products in increasing k from +0 (R90, R97). -/
def panelPart (n : Nat) (prod : Nat → Num) (p base K : Nat) : Node :=
  (List.range (min n (K - 1024 * p))).foldl (fun acc i => cellStep acc (base + 1024 * p + i) (prod (1024 * p + i)))
    { val := a34Zero, exc := 0, nanK := none, firstK := base + 1024 * p }

/-- Panel p, whole. -/
def panel (prod : Nat → Num) (p base K : Nat) : Node := panelPart 1024 prod p base K

/-- Is an F32 result of nonzero operands outside F32's normal range (R103)? -/
def f32LeftRange (x : Num) (r : F32) : Bool := x.isFin && !x.isZero && !f32FiniteNormal r

/-- Combines two values, the second covering the later panels (R98); above level 12 in F32 (R103). A NaN that 6100:03 has written into an
accumulator has no k among R118's causes: a sum with it sets INVALID and latches no position (LOG 20). -/
def nodeAdd (level : Nat) (a b : Node) : Node :=
  let x := a34Dec a.val
  let y := a34Dec b.val
  let s := Num.add x y
  let cause := if s.isNaN ∧ !x.isNaN ∧ !y.isNaN then some b.firstK else none
  if 12 < level then
    let r := f32Rnd s
    let v := f32Dec r
    { val := (a34Rnd v).1, nanK := minK (minK a.nanK b.nanK) cause, firstK := a.firstK,
      exc := a.exc ||| b.exc ||| eventsOf v false ||| excIf (f32LeftRange s r) excF32Range }
  else
    let r := a34Rnd s
    { val := r.1, nanK := minK (minK a.nanK b.nanK) cause, firstK := a.firstK,
      exc := a.exc ||| b.exc ||| eventsOf (a34Dec r.1) r.2 }

/-- The pairwise tree of R98 from level `level` up. -/
def treeFrom : (fuel level : Nat) → List Node → Node
  | 0, _, l => l.headD ⟨a34Zero, 0, none, 0⟩
  | n + 1, level, l => match l with
    | [] => ⟨a34Zero, 0, none, 0⟩
    | [a] => a
    | _ => treeFrom n (level + 1) (pairUp (nodeAdd level) l)

/-- One output: its panels through the tree (R97, R98). -/
def dotNode (prod : Nat → Num) (K : Nat) : Node :=
  let l := (List.range (ceilDiv K 1024)).map fun p => panel prod p 0 K
  treeFrom l.length 1 l

/-- The pairwise tree with every level in A34 (R98). -/
def treeA34 : (fuel : Nat) → List Node → Node
  | 0, l => l.headD ⟨a34Zero, 0, none, 0⟩
  | n + 1, l => match l with
    | [] => ⟨a34Zero, 0, none, 0⟩
    | [a] => a
    | _ => treeA34 n (pairUp (nodeAdd 0) l)

/-- One output whose levels are all in A34, whatever their number (R204). -/
def dotNodeA34 (prod : Nat → Num) (K : Nat) : Node :=
  let l := (List.range (ceilDiv K 1024)).map fun p => panel prod p 0 K
  treeA34 l.length l

/-- ⌈log2 P⌉, 0 for P at most 1 (R120). -/
def ceilLog2 (P : Nat) : Nat := if P ≤ 1 then 0 else Nat.log2 (P - 1) + 1

/-- The latch of a node at (m, n). -/
def Node.latch (x : Node) (m n : Nat) : Option FirstInvalid := x.nanK.map fun k => ⟨m, n, k⟩

/-! ### The descriptor (R125 to R130) -/

structure TileFields where
  aRec : Nat
  aFmt : Nat
  bFmt : Nat
  yFmt : Nat
  rnd : Nat
  ovf : Nat
  bRec : Nat
  unbounded : Bool
  terrace : Bool
  last : Bool
  drainNow : Bool
  bX : Bool
  aX : Bool
  yBdim : Bool
  split : Nat
  yRec : Nat
  rows : Nat
  k : Nat
  m : Nat
  stream : W32
  n : Nat
  firstPlaza : Nat
  plazas : Nat
  tRow : Nat
  depth : Nat
  panelBase : Nat
  deriving Repr

def tileFields (d : Desc) : TileFields :=
  { aRec := fld d.w2 63 16, aFmt := fld d.w2 15 12, bFmt := fld d.w2 11 8, yFmt := fld d.w2 7 4, rnd := fld d.w2 3 2,
    ovf := fld d.w2 1 0, bRec := fld d.w3 63 16, unbounded := bit d.w3 15, terrace := bit d.w3 14, last := bit d.w3 13,
    drainNow := bit d.w3 12, bX := bit d.w3 11, aX := bit d.w3 10, yBdim := bit d.w3 8, split := fld d.w3 7 6,
    yRec := fld d.w4 63 16, rows := fld d.w4 8 0, k := fld d.w5 63 32, m := fld d.w5 31 0,
    stream := BitVec.ofNat 32 (fld d.w6 63 32), n := fld d.w6 31 8, firstPlaza := fld d.w7 63 56, plazas := fld d.w7 55 48,
    tRow := fld d.w7 47 36, depth := fld d.w7 35 32, panelBase := fld d.w7 31 0 }

/-- A terrace TILE that neither has LAST nor DRAIN_NOW drains nothing (R131). -/
def TileFields.drains (t : TileFields) : Bool := !t.terrace || t.last || t.drainNow
def TileFields.closes (t : TileFields) : Bool := t.last || t.drainNow
def TileFields.panels (t : TileFields) : Nat := ceilDiv t.k 1024

/-- Operand pairs of R65. -/
def pairOk (a b : Fmt) : Bool :=
  let small := fun f => f == Fmt.f4 || f == .f8a || f == .f8g
  (small a && small b) || (a == .b16 && b == .b16)

/-- Output formats of TILE (R59). -/
def tileOutOk (s : State) (f : Fmt) : Bool :=
  match f with
  | .l8 => false
  | .a34 => s.sec.debugMode
  | _ => true

/-- The field checks of R132's first row that read no record. A terrace TILE with K = 0 that closes nothing, whose status R133 does not
give, is refused here (LOG 63). -/
def tileFieldsOk (s : State) (d : Desc) (t : TileFields) : Bool :=
  bit d.w3 9 == false && fld d.w3 5 0 == 0 && fld d.w4 15 9 == 0 && fld d.w6 7 0 == 0
  && (t.terrace || (t.tRow == 0 && t.depth == 0 && t.panelBase == 0 && !t.last && !t.drainNow && !t.aX))
  && (match Fmt.ofCode t.aFmt, Fmt.ofCode t.bFmt with
      | some a, some b => pairOk a b
      | _, _ => false)
  && (!t.drains || match Fmt.ofCode t.yFmt with
      | some y => tileOutOk s y
      | none => false)
  && t.rnd != 3 && t.ovf != 3 && 1 ≤ t.rows && t.rows ≤ 256 && 1 ≤ t.plazas && t.firstPlaza + t.plazas ≤ 64 && t.depth ≤ 12
  && (!t.terrace || (1 ≤ t.m && t.m ≤ 256 && 1 ≤ t.n && t.n ≤ 128 && t.plazas == 1 && (t.k != 0 || t.closes)))

/-- The plazas a TILE, KERNEL or ATTN names, and their districts (R551). -/
def plazaUnits (first n : Nat) : List UnitId :=
  let ps := (List.range n).filterMap fun i => if h : first + i < 64 then some (⟨first + i, h⟩ : Fin 64) else none
  let ds := (List.range 8).filterMap fun i => if h : i < 8 then
    (if ps.any fun p => p.val / 8 == i then some (⟨i, h⟩ : Fin 8) else none) else none
  ds.map UnitId.district ++ ps.map UnitId.plaza

/-- What the records of a TILE name, once checked. -/
structure TileSlots where
  a : InSlot
  b : InSlot
  y : Option OutSlot

/-- The record checks of R132's first row. The manual gives no status for an A or B blocked along the dimension that is not k, nor for a
Y_BDIM unlike a narrow Y's record: the first is read by its own blocks, the second is BAD_DESCRIPTOR; Y_BDIM of a Y that is not narrow is
ignored. An unbacked record ends the descriptor before the rest of the row, and a plain TILE with M or N 0 has Y's shape unchecked (LOG
63). -/
def tileSlots (t : TileFields) : M TileSlots := do
  let a ← getIn t.aRec false false
  let b ← getIn t.bRec true true
  needDesc (a.fmt.code == t.aFmt && b.fmt.code == t.bFmt && !a.shape.linear && !b.shape.linear)
  needDesc (if t.aX then holds a.shape t.k t.m else holds a.shape t.m t.k)
  needDesc (if t.bX then holds b.shape t.n t.k else holds b.shape t.k t.n)
  if t.drains then
    let y ← getOut t.yRec
    needDesc (y.rec'.fmt.code == t.yFmt && !y.rec'.linear && (!y.rec'.fmt.narrow || y.rec'.bdim == t.yBdim))
    needDesc (t.m == 0 || t.n == 0 || fits y.rec' t.m t.n)
    needDesc (y.rec'.fmt == .a34 || f32FiniteNormal (drainFactor a.cs b.cs y.rec'.cs))
    return ⟨a, b, some y⟩
  else return ⟨a, b, none⟩

def TileSlots.names (x : TileSlots) : Bool :=
  x.a.isEntry || x.b.isEntry || match x.y with
    | some y => y.entry.isSome
    | none => false

def InSlot.isDelta : InSlot → Bool
  | .delta _ => true
  | _ => false

/-- The ranges a TILE drains into. -/
def tileOuts (t : TileFields) (x : TileSlots) : List (Nat × Nat) :=
  match x.y with
  | some y => if t.m = 0 ∨ t.n = 0 then [] else outRanges y.rec' t.m t.n
  | none => []

/-- The element of A at (m, k) and of B at (k, n) as a cell takes them (R64, R66, R370). -/
def tileProd (t : TileFields) (a b : Operand) (m n k : Nat) : Num :=
  Num.mul (if t.aX then a.num k m else a.num m k) (if t.bX then b.num n k else b.num k n)

/-! ### The drain (R74 to R78, R134, R726) -/

/-- Drains outputs into Y; then the stash manager's part (R74, R117, R352). -/
def drain (t : TileFields) (seed : Nat) (y : OutSlot) (f : F32) (v : Nat → Nat → A34) : M Unit := do
  let s ← getS
  if y.rec'.fmt = .a34 then
    (List.range t.m).forM fun r =>
      writeBytes (y.rec'.elem + r * t.n * 8) ((List.range t.n).flatMap fun c => leBytes 8 (v r c).toNat)
  else
    let st := stochOf s t.rnd
    discard (writeTensor y.rec' { prop := propOf s y.rec'.fmt t.ovf, rnd := rndOf st seed t.stream } t.m t.n
      fun r c => Num.mul (a34Dec (v r c)) (f32Dec f))
  y.captured

/-! ### Arrays in use (R87 to R96; LOG 22) -/

/-- B[k][n] with its scale as a cell's register holds it; 0 beyond K and N (R87, R88, R97). -/
def TileFields.weight (t : TileFields) (b : Operand) (k n : Nat) : Weight :=
  if k < t.k ∧ n < t.n then
    let e := if t.bX then (n, k) else (k, n)
    ⟨b.code e.1 e.2, (b.s8 e.1 e.2).getD 0⟩
  else ⟨0, 0⟩

/-- Row blocks of a TILE (R94). -/
def TileFields.blocks (t : TileFields) : Nat := ceilDiv t.m t.rows

/-- The row of M that row m of a recirculation buffer was last written for: of the last row block, or, beyond its end, of the one before
(R94). -/
def TileFields.kerbRow (t : TileFields) (m : Nat) : Nat :=
  let m0 := t.rows * (t.blocks - 1)
  if m0 + m < t.m then m0 + m else m0 - t.rows + m

/-- The kerb output that the row blocks of column group g leave for their last loop: the sums of the last panel over the loops before
(R94). -/
def TileFields.kerb (t : TileFields) (a b : Operand) (L g : Nat) : List (List A34) :=
  (List.range (min t.rows t.m)).map fun m => (List.range 128).map fun c =>
    if 128 * g + c < t.n then
      (panelPart (128 * L * (loopCount L - 1)) (tileProd t a b (t.kerbRow m) (128 * g + c)) (t.panels - 1) 0 t.k).val
    else a34Zero

/-- The node over panels p to p + n − 1 of an output, n a power of two (R98). -/
def rangeNode (prod : Nat → Num) (p n K : Nat) : Node :=
  let l := (List.range n).map fun i => panel prod (p + i) 0 K
  treeFrom n 1 l

/-- Rows that wait in the junction of plaza number i as the last panel of its column groups comes: of every level that holds a node then
(R98, R100). -/
def TileFields.waiting (t : TileFields) (a b : Operand) (i : Nat) : List (List A34) :=
  let last := t.panels - 1
  (lastGroups t.n t.plazas (streetCount t.split) i).flatMap fun g =>
    ((List.range (Nat.log2 t.panels + 1)).filter fun l => last / 2 ^ l % 2 == 1).flatMap fun l =>
      (List.range t.m).map fun m => (List.range 128).map fun c =>
        if 128 * g + c < t.n then (rangeNode (tileProd t a b m (128 * g + c)) (last / 2 ^ (l + 1) * 2 ^ (l + 1)) (2 ^ l) t.k).val
        else a34Zero

/-- A TILE's passes through one street: its weight registers, the panels of its squares, each row block's of each column group (LOG 22), and
its recirculation buffer where it has loops. -/
def TileFields.useStreet (t : TileFields) (a b : Operand) (p : Fin 64) (street base L : Nat) (groups : List Nat) (s : State) : State :=
  let passes := streetPasses groups t.panels t.blocks (loopCount L)
  let s := (List.range L).foldl (fun s q => countPanels p (base + q) (groups.length * t.panels * t.blocks) s)
    (runStreet (t.weight b) p base L passes s)
  if L < 8 ∧ !passes.isEmpty then setRecirc p street (t.kerb a b L (groups.getLastD 0)) s else s

/-- A plain TILE in the streets of its plazas; a terrace TILE in its plaza's terrace square, which is a street of its own (R88, R94;
which square computes a panel is the module's choice, R99, R373). The step scheduler's passes in GENERATE run the same way: whether they also
use terrace squares R24 leaves open, and here they never do (LOG 22). -/
def TileFields.useArrays (t : TileFields) (a b : Operand) (s : State) : State :=
  (List.range t.plazas).foldl (fun s i =>
    let p : Fin 64 := Fin.ofNat 64 (t.firstPlaza + i)
    if t.terrace then t.useStreet a b p 8 8 1 [0] s
    else setJunction p (t.waiting a b i) ((List.range (streetCount t.split)).foldl (fun s st =>
      t.useStreet a b p st (st * streetLen t.split) (streetLen t.split) (groupsOf t.n t.plazas (streetCount t.split) i st) s) s)) s

/-- The named plazas take the TILE's split (R96, R373). -/
def TileFields.takeSplit (t : TileFields) (s : State) : State :=
  (List.range t.plazas).foldl (fun s i => setSplit (Fin.ofNat 64 (t.firstPlaza + i)) t.split s) s

/-- The units a TILE's work is placed on: its plazas with their districts, and K3 of a plaza whose junction spills (R100, R551). -/
def tileUnits (s : State) (t : TileFields) : List UnitId :=
  plazaUnits t.firstPlaza t.plazas
    ++ if t.terrace then [] else (List.range t.plazas).flatMap fun i =>
      spillKiosk s (Fin.ofNat 64 (t.firstPlaza + i))
        (junctionWaits t.n t.plazas (streetCount t.split) i t.m t.panels)

/-- A TILE that passed its checks comes to its plazas: it waits for them and for their streets (R96, R373, R551), which take its split. -/
def TileFields.start (t : TileFields) : M Unit := do
  awaitPlazas t.firstPlaza t.plazas
  holdIf (streetsHold (← getS) t.firstPlaza t.plazas t.split)
  modS t.takeSplit
  useUnits (tileUnits (← getS) t)

/-! ### Plain mode -/

/-- Every output of a TILE over its reduction length. -/
def tileNodes (t : TileFields) (a b : Operand) : List (List Node) :=
  (List.range t.m).map fun m => (List.range t.n).map fun n => dotNode (tileProd t a b m n) t.k

def nodeAt (l : List (List Node)) (m n : Nat) : Node := (l.getD m []).getD n ⟨a34Zero, 0, none, 0⟩

/-- Events of a table of nodes, and its latch. -/
def nodesExc (l : List (List Node)) : W16 := (l.flatMap id).foldl (fun e x => e ||| x.exc) 0
def nodesLatch (l : List (List Node)) : Option FirstInvalid :=
  (l.zipIdx.flatMap fun r => r.1.zipIdx.map fun c => c.1.latch r.2 c.2).foldl fiFirst none

/-- An operand of which nothing is read. -/
def noOperand : Operand := { fmt := .f32, rows := 0, cols := 0, cs := f32One, code := fun _ _ => 0, s8 := fun _ _ => none }

/-- Opens A and B as far as the TILE reads them; with K = 0 it reads neither (R133). -/
def openTile (t : TileFields) (x : TileSlots) : M (Operand × Operand) := do
  if t.k = 0 then return (noOperand, noOperand)
  let a ← if t.aX then x.a.openR t.k t.m else x.a.openR t.m t.k
  let b ← if t.bX then x.b.openR t.n t.k else x.b.openR t.k t.n
  return (a, b)

/-- BOUND_NOT_PROMISED, set on every UNBOUNDED TILE with K above 4,194,304, whatever follows; in terrace mode UNBOUNDED has no effect (R103,
R110, R116). -/
def TileFields.bound (t : TileFields) : W16 := excIf (t.unbounded && !t.terrace && decide (4194304 < t.k)) excBound

/-- The work of a plain TILE (R133, R135). -/
def plainWork (t : TileFields) (x : TileSlots) : M Unit := do
  match x.y with
  | none => pure ()
  | some y =>
    if t.m = 0 ∨ t.n = 0 then pure ()
    else
      let seed := (← getS).rng.seed.toNat
      let (a, b) ← openTile t x
      modS (t.useArrays a b)
      let nodes := tileNodes t a b
      setInfo (tileInfo (nodesExc nodes ||| t.bound) (ceilLog2 t.panels) (nodesLatch nodes))
      drain t seed y (drainFactor x.a.cs x.b.cs y.rec'.cs) fun m n => (nodeAt nodes m n).val

/-! ### Terrace mode (R105 to R112) -/

def terrGet (s : State) (p row col : Nat) : A34 :=
  match s.terr.cells.find? fun c => c.plaza.val == p && c.row == row && c.col == col with
  | some c => c.value
  | none => a34Zero

/-- Sets an accumulator; +0 is not listed. -/
def terrSet (p : Fin 64) (row col : Nat) (v : A34) (s : State) : State :=
  let rest := s.terr.cells.filter fun c => !(c.plaza == p && c.row == row && c.col == col)
  { s with terr := { s.terr with cells := if v = a34Zero then rest else rest ++ [⟨p, row, col, v⟩] } }

def findTile (s : State) (p tRow : Nat) : Option OpenTile := s.terr.tiles.find? fun x => x.plaza.val == p && x.tRow == tRow

def setTile (x : OpenTile) (s : State) : State :=
  { s with terr := { s.terr with tiles := s.terr.tiles.map fun y => if y.plaza == x.plaza && y.tRow == x.tRow then x else y } }

def dropTile (p tRow : Nat) (s : State) : State :=
  { s with terr := { s.terr with tiles := s.terr.tiles.filter fun y => !(y.plaza.val == p && y.tRow == tRow) } }

/-- Rows of a tile: M · (D + 1) from its base (R107). -/
def OpenTile.rowsEnd (x : OpenTile) : Nat := x.tRow + x.m * (x.depth + 1)

/-- The level at which panel p of a tile comes to rest: the first empty group (R111). -/
def freeLevel : List Bool → Nat
  | true :: t => freeLevel t + 1
  | _ => 0

/-- Marks the groups below `l` empty and `l` occupied (R111). -/
def occAfter (occ : List Bool) (l : Nat) : List Bool :=
  occ.zipIdx.map fun x => if x.2 < l then false else if x.2 = l then true else x.1

/-- A level group's stored value as a node: it covers the 2^level panels before the ones that meet it. A value with exponent 0 reads as
a zero of its sign, with UNDERFLOW (R56). -/
def levelNode (s : State) (x : OpenTile) (level m n firstK : Nat) : Node :=
  let v := terrGet s x.plaza.val (x.tRow + level * x.m + m) n
  if a34Denormal v then ⟨BitVec.ofNat 34 (v.toNat / 2 ^ 33 * 2 ^ 33), excUnderflow, none, firstK⟩ else ⟨v, 0, none, firstK⟩

/-- Node v of panel p, merged through `l` groups: the k its range starts at moves down as it merges (R118). -/
def mergePanel (s : State) (x : OpenTile) (m n l p : Nat) (v : Node) : Node :=
  ((List.range l).foldl (fun (acc : Node) level =>
    { nodeAdd 0 (levelNode s x level m n 0) acc with firstK := 1024 * (p + 1 - 2 ^ (level + 1)) }) v)

/-- Adds panel number `p` (logical) of a contribution to every row of the tile (R111); answers events and latch. -/
def addPanel (t : TileFields) (a b : Operand) (x : OpenTile) (i : Nat) : M (OpenTile × W16 × Option FirstInvalid) := do
  let p := t.panelBase + i
  let l := freeLevel x.occ
  let s ← getS
  let nodes := (List.range t.m).map fun m => (List.range t.n).map fun n =>
    mergePanel s x m n l p (panel (tileProd t a b m n) i (1024 * t.panelBase) t.k)
  modS fun s => nodes.zipIdx.foldl (fun s r => r.1.zipIdx.foldl
    (fun s c => terrSet x.plaza (x.tRow + l * x.m + r.2) c.2 c.1.val s) s) s
  return ({ x with occ := occAfter x.occ l, nextPanel := p + 1 }, nodesExc nodes, nodesLatch nodes)

/-- Adds a contribution's panels in increasing index. -/
def addPanels (t : TileFields) (a b : Operand) : (n i : Nat) → OpenTile → W16 → Option FirstInvalid
    → M (OpenTile × W16 × Option FirstInvalid)
  | 0, _, x, e, f => pure (x, e, f)
  | n + 1, i, x, e, f => do
    let r ← addPanel t a b x i
    addPanels t a b n (i + 1) r.1 (e ||| r.2.1) (fiFirst f r.2.2)

/-- Flushes the occupied groups of one row and column, lowest first (R112). -/
def flushNode (s : State) (x : OpenTile) (m n : Nat) : Node :=
  let occ := x.occ.zipIdx.filter fun o => o.1
  let r := occ.foldl (fun (acc : Option (Node × Nat)) o =>
    match acc with
    | none => some (levelNode s x o.2 m n (1024 * (x.nextPanel - 2 ^ o.2)), 2 ^ o.2)
    | some (v, size) =>
      let size' := size + 2 ^ o.2
      some ({ nodeAdd 0 (levelNode s x o.2 m n 0) v with firstK := 1024 * (x.nextPanel - size') }, size')) none
  match r with
  | some (v, _) => v
  | none => ⟨a34Zero, 0, none, 0⟩

/-- Closes a tile: flush, drain with the scales recorded at the open, free the rows (R112). -/
def closeTile (t : TileFields) (seed : Nat) (x : OpenTile) (y : OutSlot) : M Unit := do
  let s ← getS
  let nodes := (List.range x.m).map fun m => (List.range x.n).map fun n => flushNode s x m n
  let e := x.exc ||| nodesExc nodes
  let f := fiFirst x.fi (nodesLatch nodes)
  modS (dropTile t.firstPlaza t.tRow)
  setInfo (tileInfo e (ceilLog2 x.nextPanel) f)
  drain t seed y (drainFactor x.ca x.cb y.rec'.cs) fun m n => (nodeAt nodes m n).val

/-- The terrace conditions of R108 (opening) or R109 and R110 (adding). -/
def terraceOk (s : State) (t : TileFields) (x : TileSlots) : Bool :=
  let fitsDepth := decide (t.panelBase + t.panels ≤ 2 ^ t.depth)
  if t.panelBase = 0 then
    let tiles := s.terr.tiles.filter fun y => y.plaza.val == t.firstPlaza
    let e := t.tRow + t.m * (t.depth + 1)
    decide (e ≤ 4096) && tiles.all (fun y => e ≤ y.tRow || y.rowsEnd ≤ t.tRow) && decide (tiles.length < 32) && fitsDepth
  else
    match findTile s t.firstPlaza t.tRow with
    | none => false
    | some y => t.panelBase == y.nextPanel && t.m == y.m && t.n == y.n && t.depth == y.depth && x.a.cs == y.ca && x.b.cs == y.cb
        && fitsDepth

/-- The tile a terrace TILE works on: the open one, or the one it opens. -/
def tileOf (s : State) (t : TileFields) (x : TileSlots) : OpenTile :=
  match findTile s t.firstPlaza t.tRow with
  | some y => y
  | none =>
    { plaza := ⟨t.firstPlaza % 64, by omega⟩, tRow := t.tRow, m := t.m, n := t.n, depth := t.depth, ca := x.a.cs, cb := x.b.cs,
      nextPanel := 0, occ := List.replicate (t.depth + 1) false, exc := 0, fi := none }

/-- The work of a terrace TILE. One that meets an uncorrectable read closes its tile and loses its contents (R121); the model has every
other failure of the work do the same (LOG 63). -/
def terraceWork (t : TileFields) (x : TileSlots) : M Unit := do
  let s ← getS
  let seed := s.rng.seed.toNat
  let tile := tileOf s t x
  if (findTile s t.firstPlaza t.tRow).isNone then
    modS fun s => { s with terr := { s.terr with tiles := s.terr.tiles ++ [tile] } }
  tryCatch (do
    let (a, b) ← openTile t x
    modS (t.useArrays a b)
    let r ← addPanels t a b t.panels 0 tile 0 none
    let tile' := { r.1 with exc := tile.exc ||| r.2.1, fi := fiFirst tile.fi r.2.2 }
    modS (setTile tile')
    setInfo (tileInfo r.2.1 0 r.2.2)
    match x.y with
    | some y => closeTile t seed tile' y
    | none => pure ())
    fun e => do
      modS (dropTile t.firstPlaza t.tRow)
      throw e

/-! ### The whole of a TILE -/

/-- The rows of R132 after the first. Outputs that are unbacked (R487) or protected (R456), which the table does not list, stand after
UNIT_ABSENT's row and last; K_TOO_LONG counts a terrace TILE's panels from its PANEL_BASE, whatever tile is open (LOG 63). TILEs on one
terrace are taken in the order in which they start (R113). -/
def tileRest (s : State) (d : Desc) (t : TileFields) (x : TileSlots) : M Unit := do
  needPlazas t.firstPlaza t.plazas
  need (!x.b.isDelta || s.persist.variant.has 5) .unitAbsent
  needOutBacked (tileOuts t x)
  need (!t.terrace || s.turn.cur == .learn || s.turn.cur == .ready) .wrongTurn
  needEntryTurn x.names
  needStash (t.terrace || x.names)
  need (if t.terrace then t.panelBase + t.panels ≤ 4096 else t.k ≤ 4194304 || t.unbounded) .kTooLong
  inStartOrder d
  needDesc (!t.terrace || terraceOk s t x)
  needOutWritable (tileOuts t x)

/-- Checks in the order of R132. -/
def tileChecks (d : Desc) : M TileSlots := do
  let t := tileFields d
  let s ← getS
  needDesc (tileFieldsOk s d t)
  let x ← tileSlots t
  tileRest s d t x
  return x

/-- What a TILE writes, from Y's record alone: the ranges that an uncorrectable read leaves unspecified (R121). -/
def tileReach (t : TileFields) : M (List (Nat × Nat)) := do
  if !t.drains ∨ t.m = 0 ∨ t.n = 0 then return []
  else return outRanges (← getOut t.yRec).rec' t.m t.n

/-- An uncorrectable read in a terrace TILE's checks closes the tile that it names (R121). -/
def orClose {α : Type} (t : TileFields) (m : M α) : M α :=
  tryCatch m fun e => do
    if t.terrace ∧ e.status = .uncorrectableMem then modS (dropTile t.firstPlaza t.tRow)
    throw e

/-- Is a TILE skipped, its output held (R353)? -/
def TileSlots.skips (x : TileSlots) (t : TileFields) : Bool :=
  !t.terrace && match x.y with
    | some y => y.filled
    | none => false

/-- The work of a TILE that passed its checks (R353). -/
def tileWork (d : Desc) (x : TileSlots) : M Unit := do
  let t := tileFields d
  if x.skips t then countSkip
  else
    t.start
    orScramble (tileOuts t x) (if t.terrace then terraceWork t x else plainWork t x)

/-- Does a TILE read its operands: it is not skipped, and none of M, N and K is 0 (R133, R353)? -/
def TileSlots.reads (x : TileSlots) (t : TileFields) : Bool := !x.skips t && t.m != 0 && t.n != 0 && t.k != 0

/-- The entries that a TILE reads can be read (R354). -/
def tileReadable (t : TileFields) (x : TileSlots) : M Unit := if x.reads t then needReadable [] [x.a, x.b] else pure ()

/-- The checks, and whether the entries it reads can be read. -/
def tileReady (d : Desc) : M TileSlots := do
  let x ← tileChecks d
  tileReadable (tileFields d) x
  return x

def tileBody (d : Desc) : M Unit := do
  let t := tileFields d
  setInfo (tileInfo t.bound 0 none)
  let x ← orUnread (tileReach t) (orClose t (tileReady d))
  tileWork d x

/-- Which of the four TILE rows a descriptor is. -/
def isTile (d : Desc) : Bool := descClass d == clsTile && !(tileFields d).terrace
def isTerraceOpen (d : Desc) : Bool :=
  descClass d == clsTile && (tileFields d).terrace && !(tileFields d).closes && (tileFields d).panelBase == 0
def isTerraceContribute (d : Desc) : Bool :=
  descClass d == clsTile && (tileFields d).terrace && !(tileFields d).closes && (tileFields d).panelBase != 0
def isTerraceClose (d : Desc) : Bool := descClass d == clsTile && (tileFields d).terrace && (tileFields d).closes

end Sys2Proof.Machine
end

