-- ==== Sys2Proof/Machine/Kernel.lean ====
section
/-! DEFINITION. KERNEL: the catalogue and its numerics (spec/04). -/

namespace Sys2Proof.Machine

/-! ### The catalogue (R150) -/

inductive SlotRole where
  | inp
  | out
  | acc
  deriving DecidableEq, Repr, Inhabited

inductive SlotUse where
  | data
  | row
  | index
  | width
  | table
  deriving DecidableEq, Repr, Inhabited

inductive SlotFmt where
  | any
  | wide
  | f32
  deriving DecidableEq, Repr, Inhabited

structure KSlot where
  role : SlotRole
  use : SlotUse
  fmt : SlotFmt
  deriving DecidableEq, Repr, Inhabited

/-- One row of R150: slots X0, X1, … in order, limits, parameters in use, and the slots that take part in fusion. -/
structure KSpec where
  slots : List KSlot
  wmin : Nat
  wmax : Nat
  p0 : Bool
  p1 : Bool
  aux : Bool
  pre : Option Nat
  post : Option Nat
  deriving DecidableEq, Repr, Inhabited

def SlotFmt.allows (a : SlotFmt) (f : Fmt) : Bool :=
  match a, f with
  | .any, .l8 | .any, .a34 => false
  | .any, _ => true
  | .wide, .f32 | .wide, .b16 => true
  | .wide, _ => false
  | .f32, .f32 => true
  | .f32, _ => false

def xin : KSlot := ⟨.inp, .data, .any⟩
def xinWide : KSlot := ⟨.inp, .data, .wide⟩
def xinRow : KSlot := ⟨.inp, .row, .f32⟩
def xidx : KSlot := ⟨.inp, .index, .f32⟩
def xwidth : KSlot := ⟨.inp, .width, .wide⟩
def xtab : KSlot := ⟨.inp, .table, .f32⟩
def yout : KSlot := ⟨.out, .data, .any⟩
def yrow : KSlot := ⟨.out, .row, .f32⟩
def yacc : KSlot := ⟨.acc, .width, .f32⟩

def w24 : Nat := 2 ^ 24

def kernelSpec : Nat → Option KSpec
  | 0x0101 => some ⟨[xin, yout], 1, w24, false, false, false, some 1, some 0⟩
  | 0x0102 => some ⟨[xin, yrow], 1, w24, false, false, false, none, some 0⟩
  | 0x0103 => some ⟨[xin, xin, yout], 1, w24, false, false, false, none, some 0⟩
  | 0x0201 => some ⟨[xin, xwidth, yout, yrow], 1, 65536, true, false, false, some 2, none⟩
  | 0x0202 => some ⟨[xin, xwidth, xinRow, xin, yout, yacc], 1, 65536, false, false, false, none, some 3⟩
  | 0x0203 => some ⟨[xin, xwidth, xwidth, yout, yrow, yrow], 1, 65536, true, false, false, some 3, none⟩
  | 0x0204 => some ⟨[xin, xwidth, xinRow, xinRow, xin, yout, yacc, yacc], 1, 65536, false, false, false, none, some 4⟩
  | 0x0301 => some ⟨[xin, yout, yrow], 1, 262144, true, false, false, none, some 0⟩
  | 0x0302 => some ⟨[xin, xin, yout], 1, 262144, true, false, false, none, some 1⟩
  | 0x0303 => some ⟨[xinWide, xidx, yrow, yrow], 1, 262144, true, false, false, none, some 0⟩
  | 0x0304 => some ⟨[xinWide, xidx, xinRow, xinRow, yout], 1, 262144, true, false, false, some 4, none⟩
  | 0x0401 => some ⟨[xin, xin, yout], 1, w24, false, false, false, some 2, none⟩
  | 0x0402 => some ⟨[xin, xin, xin, yout, yout], 1, w24, false, false, false, none, some 2⟩
  | 0x0403 => some ⟨[xin, yout], 1, w24, false, false, false, some 1, none⟩
  | 0x0404 => some ⟨[xin, xin, yout], 1, w24, false, false, false, none, some 1⟩
  | 0x0501 => some ⟨[xin, xidx, xtab, xtab, yout], 2, 512, false, true, false, some 4, some 0⟩
  | 0x0601 => some ⟨[xin, yout], 1, w24, true, true, true, some 1, some 0⟩
  | 0x0602 => some ⟨[yout], 1, w24, true, true, true, none, none⟩
  | 0x0603 => some ⟨[yout], 1, w24, true, true, true, none, none⟩
  | 0x0701 => some ⟨[⟨.inp, .data, .f32⟩, ⟨.out, .data, .f32⟩], 1, w24, false, false, false, none, none⟩
  | _ => none

/-! ### The descriptor (R170 to R176) -/

structure KernelFields where
  param : Nat
  rnd : Nat
  ovf : Nat
  kernel : Nat
  fuse : Nat
  keep : Bool
  rows : Nat
  width : Nat
  stream : W32
  aux : W32
  rowBase : Nat
  firstPlaza : Nat
  plazas : Nat
  p0 : W32
  p1 : W32
  deriving Repr

def kernelFields (d : Desc) : KernelFields :=
  { param := fld d.w2 63 16, rnd := fld d.w2 3 2, ovf := fld d.w2 1 0, kernel := fld d.w3 63 48, fuse := fld d.w3 47 46,
    keep := bit d.w3 45, rows := fld d.w3 31 0, width := fld d.w4 63 32, stream := BitVec.ofNat 32 (fld d.w4 31 0),
    aux := BitVec.ofNat 32 (fld d.w5 63 32), rowBase := fld d.w5 31 0, firstPlaza := fld d.w6 63 56, plazas := fld d.w6 55 48,
    p0 := BitVec.ofNat 32 (fld d.w7 63 32), p1 := BitVec.ofNat 32 (fld d.w7 31 0) }

/-- The checks of R177's first row that read no record. `paired` says that the descriptor runs in a fused pair (R728). -/
def kernelFieldsOk (d : Desc) (f : KernelFields) (k : KSpec) (paired : Bool) : Bool :=
  fld d.w2 15 4 == 0 && fld d.w3 44 32 == 0 && fld d.w6 47 0 == 0 && f.rnd != 3 && f.ovf != 3
  && (match f.fuse with
    | 0 => !f.keep
    | 1 => k.pre.isSome && paired
    | 2 => k.post.isSome && paired
    | _ => false)
  && f.param % 64 == 0 && 1 ≤ f.rows && k.wmin ≤ f.width && f.width ≤ k.wmax
  && (f.kernel != 0x0501 || (f.width % 2 == 0 && fld d.w7 31 2 == 0))
  && (f.kernel != 0x0701 || f.rows == 4 || f.rows == 8 || f.rows == 16 || f.rows == 32 || f.rows == 64)
  && (k.p0 || f.p0 == 0) && (k.p1 || f.p1 == 0) && (k.aux || f.aux == 0)
  && (!(f.kernel == 0x0201 || f.kernel == 0x0203) || f32FiniteNonneg f.p0)
  && 1 ≤ f.plazas && f.firstPlaza + f.plazas ≤ 64

/-! ### Slots (R170, R724) -/

/-- What a used slot names. -/
inductive KOp where
  | inp (i : InSlot)
  | out (o : OutSlot) (t : TRec)

/-- Is a record a row or index operand held LINEAR? -/
def rowLinear (u : SlotUse) (t : TRec) : Bool := t.linear && (u == .row || u == .index)

/-- The shape a slot is read or written with: rows and columns of the record (R724). -/
def slotShape (u : SlotUse) (rows w : Nat) : Nat × Nat :=
  match u with
  | .data => (rows, w)
  | .row | .index => (rows, 1)
  | .width => (1, w)
  | .table => (1, w / 2)

def inHolds (u : SlotUse) (t : TRec) (rows w : Nat) : Bool :=
  if rowLinear u t then rows ≤ t.cols else holds t (slotShape u rows w).1 (slotShape u rows w).2

/-- An output record as it is written: a LINEAR row or width operand counts as a column or as its leading part. -/
def outView (u : SlotUse) (t : TRec) (w : Nat) : TRec :=
  if t.linear then
    match u with
    | .row | .index => { t with linear := false, rows := t.cols, cols := 1 }
    | .width => { t with cols := min t.cols w }
    | _ => t
  else t

/-- A slot takes a record's format, and its blocks run along the width (R150). -/
def KSlot.takes (x : KSlot) (f : Fmt) (t : TRec) : Bool := x.fmt.allows f && (!f.narrow || !t.bdim)

/-- Reads and checks slot n of a parameter block. An unbacked block or record ends the descriptor here, before the rest of R177's first
row (R487; LOG 63). A word of zeros in a slot that the kernel uses is a record at address 0, checked as one: whether it counts as
a slot unused against R150 the manual does not say (LOG 63). -/
def kernelSlot (f : KernelFields) (k : KSpec) (n : Nat) : M (Option KOp) := do
  let w ← readU64 (f.param + 8 * n)
  match k.slots[n]? with
  | none =>
    needDesc (w == 0)
    return none
  | some x =>
    needDesc (fld w 11 0 == 0)
    let a := fld w 63 16
    if x.role = .inp then
      let i ← getIn a false false
      needDesc (i.fmt.code == fld w 15 12 && x.takes i.fmt i.shape && inHolds x.use i.shape f.rows f.width)
      return some (.inp i)
    else
      let o ← getOut a
      let t := outView x.use o.rec' f.width
      needDesc (o.rec'.fmt.code == fld w 15 12 && x.takes t.fmt t
        && fits t (slotShape x.use f.rows f.width).1 (slotShape x.use f.rows f.width).2
        && f32FiniteNormal (recipFactor t.cs))
      return some (.out o t)

/-- A kernel that passed its checks. -/
structure KReady where
  f : KernelFields
  k : KSpec
  ops : List (Option KOp)

def KOp.isEntry : KOp → Bool
  | .inp i => i.isEntry
  | .out o _ => o.entry.isSome

def KReady.op (r : KReady) (n : Nat) : Option KOp := (r.ops.getD n none)

/-- The outputs and accumulators with their slot, shape and record as written. -/
def KReady.outs (r : KReady) : List (Nat × KSlot × OutSlot × TRec) :=
  (r.k.slots.zipIdx.filterMap fun x => match r.op x.2 with
    | some (.out o t) => some (x.2, x.1, o, t)
    | _ => none)

def KReady.ranges (r : KReady) : List (Nat × Nat) :=
  r.outs.flatMap fun o =>
    let sh := slotShape o.2.1.use r.f.rows r.f.width
    outRanges o.2.2.2 sh.1 sh.2

/-- R177's first row: the fields and the slots. -/
def kernelSlots (d : Desc) (paired : Bool) : M KReady := do
  let f := kernelFields d
  match kernelSpec f.kernel with
  | none => fail .badDescriptor
  | some k =>
    needDesc (kernelFieldsOk d f k paired)
    needMapped f.param 64
    return ⟨f, k, ← (List.range 8).mapM (kernelSlot f k)⟩

def KReady.names (r : KReady) : Bool := r.ops.any fun o => match o with
  | some o => o.isEntry
  | none => false

/-- The rows of R177 after the first; unbacked outputs (R487) stand after UNIT_ABSENT's row and protected ones (R456) last (LOG 63). -/
def kernelRest (r : KReady) : M Unit := do
  needPlazas r.f.firstPlaza r.f.plazas
  needOutBacked r.ranges
  needEntryTurn r.names
  needStash r.names
  needOutWritable r.ranges

/-- Checks in the order of R177. -/
def kernelChecks (d : Desc) (paired : Bool) : M KReady := do
  let r ← kernelSlots d paired
  kernelRest r
  return r

/-- What a KERNEL writes, slot by slot from what can be read: the ranges that an uncorrectable read leaves unspecified (R169). -/
def kernelReach (d : Desc) : M (List (Nat × Nat)) := do
  let f := kernelFields d
  match kernelSpec f.kernel with
  | none => return []
  | some k =>
    let rs ← (List.range 8).mapM fun n => orNone (do
      match k.slots[n]?, ← kernelSlot f k n with
      | some x, some (.out _ t) =>
        let sh := slotShape x.use f.rows f.width
        return outRanges t sh.1 sh.2
      | _, _ => return [])
    return rs.flatten

/-! ### Operands and results -/

/-- What a kernel computes on: rows of each slot, indices, table sizes, and its parameters. -/
structure KIn where
  rows : Nat
  w : Nat
  rowBase : Nat
  p0 : F32
  p1 : F32
  aux : W32
  seed : Nat
  row : Nat → Nat → List F32
  idx : Nat → Nat → Nat
  tabRows : Nat → Nat

/-- What it gives: the values of each output slot by rows, exception bits, and the count of R168. -/
structure KRes where
  outs : List (Nat × List (List F32))
  exc : W16
  aux : Nat

def excZeroNorm : W16 := 0x20
def excEmptyRow : W16 := 0x40

/-- A scalar of a row operand. -/
def KIn.one (k : KIn) (slot r : Nat) : F32 := (k.row slot r).headD 0

/-- Rows computed one by one: each gives the values of the slots listed and exception bits. -/
def perRow (k : KIn) (slots : List Nat) (f : Nat → List (List F32) × W16) : KRes :=
  let rs := (List.range k.rows).map f
  { outs := slots.zipIdx.map fun s => (s.1, rs.map fun r => r.1.getD s.2 []),
    exc := rs.foldl (fun e r => e ||| r.2) 0, aux := 0 }

/-- 1 ÷ w (R152). -/
def KIn.rd (k : KIn) : F32 := f32Recip (f32OfNat k.w)

def zerosF (n : Nat) : List F32 := List.replicate n f32Zero

/-! ### Numerics (R152 to R161) -/

/-- CONVERT (R152). -/
def kConvert (k : KIn) : KRes := perRow k [1] fun r => ([k.row 0 r], 0)

/-- AMAX (R152). -/
def kAmax (k : KIn) : KRes := perRow k [1] fun r => ([[f32MaxOf ((k.row 0 r).map f32Abs)]], 0)

/-- RESIDUAL_ADD (R152). -/
def kResidualAdd (k : KIn) : KRes := perRow k [2] fun r => ([List.zipWith f32Add (k.row 0 r) (k.row 1 r)], 0)

/-- RMSNORM_FWD (R153). -/
def kRmsFwd (k : KIn) : KRes := perRow k [2, 3] fun i =>
  let x := k.row 0 i
  let a := f32Add (f32Mul (kredDot x x) k.rd) k.p0
  if f32IsZero a then ([zerosF k.w, [f32Zero]], excZeroNorm)
  else
    let r := f32Rsqrt a
    ([List.zipWith (fun v g => f32Mul (f32Mul v r) g) x (k.row 1 0), [r]], 0)

/-- LAYERNORM_FWD (R153). -/
def kLayerFwd (k : KIn) : KRes := perRow k [3, 4, 5] fun i =>
  let x := k.row 0 i
  let mu := f32Mul (kredAdd x) k.rd
  let dv := x.map fun v => f32Sub v mu
  let a := f32Add (f32Mul (kredDot dv dv) k.rd) k.p0
  if f32IsZero a then ([zerosF k.w, [mu], [f32Zero]], excZeroNorm)
  else
    let r := f32Rsqrt a
    ([(dv.zip ((k.row 1 0).zip (k.row 2 0))).map fun p => f32Fma (f32Mul p.1 r) p.2.1 p.2.2, [mu], [r]], 0)

/-- xh of a row in the backward kernels: +0 where the stored r is +0 (R153). -/
def rmsXh (k : KIn) (i : Nat) : List F32 :=
  let r := k.one 2 i
  if r = f32Zero then zerosF k.w else (k.row 0 i).map fun v => f32Mul v r
def layerXh (k : KIn) (i : Nat) : List F32 :=
  let mu := k.one 2 i
  let r := k.one 3 i
  if r = f32Zero then zerosF k.w else (k.row 0 i).map fun v => f32Mul (f32Sub v mu) r

/-- Column `c` of the rows given. -/
def column (rows : List (List F32)) (c : Nat) : List F32 := rows.map fun r => r.getD c f32Zero

/-- An accumulator after the sums of R154 over the rows. -/
def accDot (acc : List F32) (dy xh : List (List F32)) : List F32 :=
  acc.zipIdx.map fun a => f32Add a.1 (kredDot (column dy a.2) (column xh a.2))
def accAdd (acc : List F32) (dy : List (List F32)) : List F32 :=
  acc.zipIdx.map fun a => f32Add a.1 (kredAdd (column dy a.2))

/-- RMSNORM_BWD (R153, R154). -/
def kRmsBwd (k : KIn) : KRes :=
  let dx := perRow k [4] fun i =>
    let r := k.one 2 i
    if r = f32Zero then ([zerosF k.w], excZeroNorm)
    else
      let xh := rmsXh k i
      let gh := List.zipWith f32Mul (k.row 3 i) (k.row 1 0)
      let c := f32Mul (kredDot gh xh) k.rd
      ([List.zipWith (fun h g => f32Mul (f32Fma (f32Neg h) c g) r) xh gh], 0)
  let dy := (List.range k.rows).map (k.row 3)
  let xh := (List.range k.rows).map (rmsXh k)
  { dx with outs := dx.outs ++ [(5, [accDot (k.row 5 0) dy xh])] }

/-- LAYERNORM_BWD (R153, R154). -/
def kLayerBwd (k : KIn) : KRes :=
  let dx := perRow k [5] fun i =>
    let r := k.one 3 i
    if r = f32Zero then ([zerosF k.w], excZeroNorm)
    else
      let xh := layerXh k i
      let gh := List.zipWith f32Mul (k.row 4 i) (k.row 1 0)
      let a := f32Mul (kredAdd gh) k.rd
      let b := f32Mul (kredDot gh xh) k.rd
      ([List.zipWith (fun h g => f32Mul (f32Fma (f32Neg h) b (f32Sub g a)) r) xh gh], 0)
  let dy := (List.range k.rows).map (k.row 4)
  let xh := (List.range k.rows).map (layerXh k)
  { dx with outs := dx.outs ++ [(6, [accDot (k.row 6 0) dy xh]), (7, [accAdd (k.row 7 0) dy])] }

/-- z, its maximum, and e and s where the maximum is not −∞ (R155, R156). -/
structure Soft where
  z : List F32
  mx : F32
  e : List F32
  s : F32
  deriving Repr

def softOf (x : List F32) (alpha : F32) : Soft :=
  let z := x.map fun v => f32Mul v alpha
  let mx := f32MaxOf z
  let e := z.map fun v => f32Exp (f32Sub v mx)
  { z := z, mx := mx, e := e, s := kredAdd e }

def Soft.empty (q : Soft) : Bool := q.mx == f32NegInf
def Soft.lse (q : Soft) : F32 := if q.empty then f32NegInf else f32Add q.mx (f32Ln q.s)

/-- SOFTMAX_FWD (R155, R156). -/
def kSoftmaxFwd (k : KIn) : KRes := perRow k [1, 2] fun i =>
  let q := softOf (k.row 0 i) k.p0
  if q.empty then ([zerosF k.w, [f32NegInf]], excEmptyRow)
  else
    let rs := f32Recip q.s
    ([q.e.map fun v => f32Mul v rs, [q.lse]], 0)

/-- SOFTMAX_BWD (R155). -/
def kSoftmaxBwd (k : KIn) : KRes := perRow k [2] fun i =>
  let y := k.row 0 i
  let dy := k.row 1 i
  let c := kredDot dy y
  ([List.zipWith (fun v d => f32Mul (f32Mul v (f32Sub d c)) k.p0) y dy], 0)

/-- lp and lse of a logit row and a token, with exception bits (R155, R156). Where the row's maximum is −∞ and the token is at or beyond
WIDTH as well, two sentences of R156 apply: the model takes the one on the token, and lp is NaN (LOG 71). -/
def tokenLogprobRow (x : List F32) (alpha : F32) (t : Nat) : F32 × F32 × W16 :=
  let q := softOf x alpha
  let out := decide (x.length ≤ t)
  let lp := if out then f32Nan else if q.empty then f32NegInf else f32Sub (q.z.getD t 0) q.lse
  (lp, q.lse, excIf q.empty excEmptyRow ||| excIf out excInvalid)

/-- TOKEN_LOGPROB (R155, R156). -/
def kTokenLogprob (k : KIn) : KRes := perRow k [2, 3] fun i =>
  let r := tokenLogprobRow (k.row 0 i) k.p0 (k.idx 1 i)
  ([[r.1], [r.2.1]], r.2.2)

/-- TOKEN_LOGPROB_BWD (R155, R156); a token at or beyond WIDTH decides before a row whose maximum is −∞ (LOG 71). -/
def kTokenLogprobBwd (k : KIn) : KRes := perRow k [4] fun i =>
  let z := (k.row 0 i).map fun v => f32Mul v k.p0
  let t := k.idx 1 i
  let lse := k.one 2 i
  let g := k.one 3 i
  let empty := f32MaxOf z == f32NegInf
  let e := excIf empty excEmptyRow
  if k.w ≤ t then ([List.replicate k.w f32Nan], e ||| excInvalid)
  else if empty then ([zerosF k.w], e)
  else ([z.zipIdx.map fun v =>
    let p := f32Exp (f32Sub v.1 lse)
    f32Mul (f32Mul g (f32Sub (if v.2 = t then f32One else f32Zero) p)) k.p0], e)

/-- SWIGLU_FWD (R157). -/
def kSwigluFwd (k : KIn) : KRes := perRow k [2] fun i =>
  ([List.zipWith (fun a b => f32Mul (f32Mul a (f32Sigma a)) b) (k.row 0 i) (k.row 1 i)], 0)

/-- SWIGLU_BWD (R157). -/
def kSwigluBwd (k : KIn) : KRes := perRow k [3, 4] fun i =>
  let v := (k.row 0 i).zip ((k.row 1 i).zip (k.row 2 i))
  ([v.map fun p =>
      let sg := f32Sigma p.1
      f32Mul (f32Mul p.2.2 p.2.1) (f32Mul sg (f32Fma p.1 (f32Sub f32One sg) f32One)),
    v.map fun p => f32Mul p.2.2 (f32Mul p.1 (f32Sigma p.1))], 0)

/-- th of the GELU kernels (R157). -/
def geluTh (x : F32) : F32 := f32Tanh (f32Mul f32C1 (f32Fma f32C2 (f32Mul (f32Mul x x) x) x))

/-- GELU_FWD (R157). -/
def kGeluFwd (k : KIn) : KRes := perRow k [1] fun i =>
  ([(k.row 0 i).map fun x => f32Mul (f32Mul f32Half x) (f32Add f32One (geluTh x))], 0)

/-- GELU_BWD (R157). -/
def kGeluBwd (k : KIn) : KRes := perRow k [2] fun i =>
  ([List.zipWith (fun x dy =>
    let th := geluTh x
    let q := f32Mul (f32Mul f32C1 (f32Fma (f32Mul f32Three f32C2) (f32Mul x x) f32One)) (f32Sub f32One (f32Mul th th))
    f32Mul dy (f32Fma (f32Mul f32Half x) q (f32Mul f32Half (f32Add f32One th)))) (k.row 0 i) (k.row 1 i)], 0)

/-- The rotation of one pair (R158). -/
def ropePair (k : KIn) (x : List F32) (p j : Nat) : F32 × F32 :=
  let halves := k.p1.toNat / 2 % 2 == 1
  let c := (k.row 2 p).getD j 0
  let s0 := (k.row 3 p).getD j 0
  let s := if k.p1.toNat % 2 = 1 then f32Neg s0 else s0
  let x0 := x.getD (if halves then j else 2 * j) 0
  let x1 := x.getD (if halves then j + k.w / 2 else 2 * j + 1) 0
  (f32Fma x0 c (f32Neg (f32Mul x1 s)), f32Fma x0 s (f32Mul x1 c))

/-- ROPE (R158). -/
def kRope (k : KIn) : KRes := perRow k [4] fun i =>
  let p := k.idx 1 i
  if k.tabRows 2 ≤ p ∨ k.tabRows 3 ≤ p then ([List.replicate k.w f32Nan], excInvalid)
  else
    let x := k.row 0 i
    let ys := (List.range (k.w / 2)).map (ropePair k x p)
    ([if k.p1.toNat / 2 % 2 = 1 then ys.map Prod.fst ++ ys.map Prod.snd else ys.flatMap fun y => [y.1, y.2]], 0)

/-- DROPOUT (R159). -/
def kDropout (k : KIn) : KRes := perRow k [1] fun i =>
  ([(k.row 0 i).zipIdx.map fun x =>
    if (window k.seed k.aux (k.rowBase + i) x.2 0).toNat < k.p0.toNat then f32Mul x.1 k.p1 else f32Zero], 0)

/-- FILL_UNIFORM (R160). -/
def kFillUniform (k : KIn) : KRes := perRow k [0] fun i =>
  ([(List.range k.w).map fun c => f32Fma (uniformF32 (window k.seed k.aux (k.rowBase + i) c 0)) (f32Sub k.p1 k.p0) k.p0], 0)

/-- FILL_NORMAL (R160). -/
def kFillNormal (k : KIn) : KRes := perRow k [0] fun i =>
  ([(List.range k.w).map fun c =>
    f32Fma (normalF32 (window k.seed k.aux (k.rowBase + i) c 0) (window k.seed k.aux (k.rowBase + i) c 1)) k.p1 k.p0], 0)

/-- One column of R161 against the columns before it. -/
def orthoReduce : List (List F32) → List F32 → List F32
  | [], p => p
  | q :: t, p =>
    let dt := f32Neg (kredDot q p)
    orthoReduce t (List.zipWith (fun a b => f32Fma dt a b) q p)

/-- Modified Gram–Schmidt of R161: columns so far and the count of zero ones. -/
def orthoStep (acc : List (List F32) × Nat) (p : List F32) : List (List F32) × Nat :=
  let v := orthoReduce acc.1 p
  let s := kredDot v v
  if f32IsZero s then (acc.1 ++ [zerosF p.length], acc.2 + 1)
  else
    let r := f32Rsqrt s
    (acc.1 ++ [v.map fun x => f32Mul x r], acc.2)

def orthonormalise (ps : List (List F32)) : List (List F32) × Nat := ps.foldl orthoStep ([], 0)

/-- ORTHONORM (R161). -/
def kOrthonorm (k : KIn) : KRes :=
  let r := orthonormalise ((List.range k.rows).map (k.row 0))
  { outs := [(1, r.1)], exc := 0, aux := r.2 }

/-- The numerics of a kernel number. -/
def kernelRun (num : Nat) (k : KIn) : KRes :=
  match num with
  | 0x0101 => kConvert k
  | 0x0102 => kAmax k
  | 0x0103 => kResidualAdd k
  | 0x0201 => kRmsFwd k
  | 0x0202 => kRmsBwd k
  | 0x0203 => kLayerFwd k
  | 0x0204 => kLayerBwd k
  | 0x0301 => kSoftmaxFwd k
  | 0x0302 => kSoftmaxBwd k
  | 0x0303 => kTokenLogprob k
  | 0x0304 => kTokenLogprobBwd k
  | 0x0401 => kSwigluFwd k
  | 0x0402 => kSwigluBwd k
  | 0x0403 => kGeluFwd k
  | 0x0404 => kGeluBwd k
  | 0x0501 => kRope k
  | 0x0601 => kDropout k
  | 0x0602 => kFillUniform k
  | 0x0603 => kFillNormal k
  | _ => kOrthonorm k

/-! ### The work -/

/-- An operand as rows of F32. -/
structure KOperand where
  rows : List (List F32)
  idx : List Nat
  tabRows : Nat

/-- Reads one slot, an accumulator in its turn (R154, R546); a table is read up to the last row a position index names (R158, R724). -/
def kernelOpen (r : KReady) (n : Nat) (lastPos : Nat) : M KOperand := do
  match r.k.slots[n]?, r.op n with
  | some x, some (.inp i) =>
    let t := i.shape
    if rowLinear x.use t then
      let o ← i.openR 1 r.f.rows
      return { rows := (List.range r.f.rows).map fun k => [o.f32 0 k], idx := (List.range r.f.rows).map fun k => o.code 0 k, tabRows := 0 }
    else
      let sh := slotShape x.use r.f.rows r.f.width
      let R := if x.use = .table then min lastPos t.rows else sh.1
      let o ← i.openR R sh.2
      return {
        rows := (List.range R).map fun k => o.row k sh.2,
        idx := if x.use = .index then (List.range R).map fun k => o.code k 0 else [],
        tabRows := t.rows }
  | some _, some (.out _ t) =>
    let o ← inTurn turnAccum (openRec t 1 r.f.width)
    return { rows := [o.row 0 r.f.width], idx := [], tabRows := 0 }
  | _, _ => return { rows := [], idx := [], tabRows := 0 }

/-- Is the slot read: an input or an accumulator? -/
def kernelReads (r : KReady) (n : Nat) : Bool :=
  match r.k.slots[n]? with
  | some x => x.role != .out
  | none => false

/-- One more than the largest position index that lies inside any table. -/
def lastPosition (r : KReady) (l : List Nat) : Nat :=
  let limit := (r.k.slots.zipIdx.filterMap fun x => match x.1.use, r.op x.2 with
    | .table, some (.inp i) => some i.shape.rows
    | _, _ => none).foldl max 0
  l.foldl (fun m p => if p < limit then max m (p + 1) else m) 0

/-- Events of what was written, from the codes as they stand (R166, R167). -/
def writtenEvents (w : Work) (t : TRec) (rowBase R C : Nat) : W16 × Option FirstInvalid :=
  let o : Operand := { fmt := t.fmt, rows := t.rows, cols := t.cols, cs := t.cs, code := codeAt t fun i => w.byte (t.elem + i),
                       s8 := s8At t fun i => w.byte (t.scale + i) }
  ((List.range R).flatMap fun r => (List.range C).map fun c => (r, c)).foldl (fun acc p =>
    let v := o.num p.1 p.2
    (acc.1 ||| excIf v.isNaN excInvalid ||| excIf v.isInf excInfinite,
     if v.isNaN then fiFirst acc.2 (some ⟨rowBase + p.1, p.2, 0⟩) else acc.2)) (0, none)

/-- Bytes 16 to 31 of a KERNEL record (R168). -/
def kernelInfo (e : W16) (fi : Option FirstInvalid) (aux : Nat) : List Byte :=
  let f := fi.getD ⟨0, 0, 0⟩
  leBytes 2 (excWith e fi).toNat ++ [0, 0] ++ leBytes 4 f.row ++ leBytes 4 f.col ++ leBytes 4 aux

/-- Writes one output from its values (R143, R154); answers events. -/
def kernelWrite (r : KReady) (seed : Nat) (o : Nat × KSlot × OutSlot × TRec) (v : List (List F32)) : M (W16 × Option FirstInvalid) := do
  let s ← getS
  let t := o.2.2.2
  let acc := o.2.1.role == .acc
  let st := !acc && stochOf s r.f.rnd
  let m : OutMode := { prop := acc || propOf s t.fmt r.f.ovf, rnd := fun i c => rndOf st seed r.f.stream (r.f.rowBase + i) c,
                       events := true }
  let sh := slotShape o.2.1.use r.f.rows r.f.width
  let f := f32Dec (recipFactor t.cs)
  let write := writeTensor t m sh.1 sh.2 fun i c => Num.mul (f32Dec ((v.getD i []).getD c 0)) f
  let sat ← if acc then inTurn turnAccum write else write
  let e := writtenEvents (← get) t r.f.rowBase sh.1 sh.2
  return (e.1 ||| excIf sat excSaturated, if acc then none else e.2)

/-- Writes the outputs one by one; the exception word in the record grows with each, whatever the status will be (R166, R720). -/
def kernelWriteAll (r : KReady) (seed : Nat) (res : KRes) :
    List (Nat × KSlot × OutSlot × TRec) → W16 → Option FirstInvalid → M Unit
  | [], _, _ => pure ()
  | o :: t, e, fi => do
    let x ← kernelWrite r seed o (((res.outs.find? fun p => p.1 == o.1).map Prod.snd).getD [])
    setInfo (kernelInfo (e ||| x.1) (fiFirst fi x.2) res.aux)
    kernelWriteAll r seed res t (e ||| x.1) (fiFirst fi x.2)

/-- The work of a kernel that passed its checks. -/
def kernelCompute (r : KReady) : M Unit := do
  let f := r.f
  let seed := (← getS).rng.seed.toNat
  let first ← (List.range 2).mapM fun n => if kernelReads r n then kernelOpen r n 0 else pure ⟨[], [], 0⟩
  let last := lastPosition r (first.flatMap KOperand.idx)
  let rest ← ([2, 3, 4, 5, 6, 7] : List Nat).mapM fun n => if kernelReads r n then kernelOpen r n last else pure ⟨[], [], 0⟩
  let ops := first ++ rest
  let at' := fun n => ops.getD n ⟨[], [], 0⟩
  let res := kernelRun f.kernel
    { rows := f.rows, w := f.width, rowBase := f.rowBase, p0 := f.p0, p1 := f.p1, aux := f.aux, seed := seed,
      row := fun n i => (at' n).rows.getD i [], idx := fun n i => (at' n).idx.getD i 0, tabRows := fun n => (at' n).tabRows }
  setInfo (kernelInfo res.exc none res.aux)
  kernelWriteAll r seed res r.outs res.exc none
  captureAll (r.outs.map fun o => o.2.2.1)

/-- The kiosks of the named plazas that are in service: where rows are placed (R138). A KERNEL whose plazas hold none in service, for
which the rules give no status, runs all the same (LOG 28). -/
def kioskUnits (s : State) (first n : Nat) : List UnitId :=
  ((List.range (4 * n)).filterMap fun i => if h : 4 * first + i < 256 then
    (if unitInService s (.kiosk ⟨4 * first + i, h⟩) then some (.kiosk ⟨4 * first + i, h⟩) else none) else none)

/-- How many rows of its work each kiosk gets; which runs a row is the module's choice, free from pick `k` on (R138; LOG 15). -/
def placeRows (ks : List UnitId) (rows k : Nat) : List (UnitId × Nat) :=
  ks.zipIdx.map fun x => (x.1, ((List.range rows).filter fun r => Config.freePick (k + r) % ks.length == x.2).length)

/-- Places the rows of some work on kiosks of its plazas; one that gets none has no work of it (R551). -/
def useKiosks (first n rows : Nat) : M (List (UnitId × Nat)) := do
  let k ← freeBlock rows
  let ks := placeRows (kioskUnits (← getS) first n) rows k
  useUnits (plazaUnits first n)
  modify fun w => { w with kiosks := (ks.filter fun x => x.2 != 0).map Prod.fst }
  return ks

/-- Kiosks complete the rows of a KERNEL (R635). -/
def countRows (l : List (UnitId × Nat)) (s : State) : State := l.foldl (fun s x => countWork x.1 x.2 s) s

/-- The input slots a kernel reads, in the order it opens them. -/
def kernelInputs (r : KReady) : List InSlot := (List.range 8).filterMap fun n =>
  if kernelReads r n then (match r.op n with
    | some (.inp i) => some i
    | _ => none) else none

/-- Is a KERNEL skipped, its outputs all held (R353)? -/
def KReady.skips (r : KReady) : Bool := !r.outs.isEmpty && r.outs.all fun o => o.2.2.1.filled

/-- Its input entries can be read, unless it is skipped (R354). -/
def kernelReadable (r : KReady) : M Unit := if r.skips then pure () else needReadable [] (kernelInputs r)

/-- The work of a KERNEL that passed its checks; those that name accumulators are taken in the order in which they start (R154, R546). -/
def kernelWork (d : Desc) (r : KReady) : M Unit := do
  if r.skips then countSkip
  else
    awaitPlazas r.f.firstPlaza r.f.plazas
    inStartOrder d
    let ks ← useKiosks r.f.firstPlaza r.f.plazas r.f.rows
    orScramble r.ranges (kernelCompute r)
    modS (countRows ks)

def kernelReady (d : Desc) : M KReady := do
  let r ← kernelChecks d false
  kernelReadable r
  return r

def kernelBody (d : Desc) : M Unit := do kernelWork d (← orUnread (kernelReach d) (kernelReady d))

/-! ### The commands -/

def isKernel (num : Nat) (d : Desc) : Bool := descClass d == clsKernel && (kernelFields d).kernel == num

/-- A KERNEL with FUSE 1 holds its pair until TAIL covers the next entry, and then starts as a fused pair (R728). -/
def startKernel (num : Nat) (qp : Fin 64) (d : Desc) (s : State) : Host.Outcome State Fault Refusal :=
  if isKernel num d && running s && (kernelFields d).fuse == 1 then .next (showFront qp d s)
  else startDesc (isKernel num d) qp d (kernelBody d) s

/-- CONVERT (R152). -/
def execConvert (qp : Fin 64) (d : Desc) (s : State) : Host.Outcome State Fault Refusal := startKernel 0x0101 qp d s
/-- AMAX (R152). -/
def execAmax (qp : Fin 64) (d : Desc) (s : State) : Host.Outcome State Fault Refusal := startKernel 0x0102 qp d s
/-- RESIDUAL_ADD (R152). -/
def execResidualAdd (qp : Fin 64) (d : Desc) (s : State) : Host.Outcome State Fault Refusal := startKernel 0x0103 qp d s
/-- RMSNORM_FWD (R153). -/
def execRmsnormFwd (qp : Fin 64) (d : Desc) (s : State) : Host.Outcome State Fault Refusal := startKernel 0x0201 qp d s
/-- RMSNORM_BWD (R154). -/
def execRmsnormBwd (qp : Fin 64) (d : Desc) (s : State) : Host.Outcome State Fault Refusal := startKernel 0x0202 qp d s
/-- LAYERNORM_FWD (R153). -/
def execLayernormFwd (qp : Fin 64) (d : Desc) (s : State) : Host.Outcome State Fault Refusal := startKernel 0x0203 qp d s
/-- LAYERNORM_BWD (R154). -/
def execLayernormBwd (qp : Fin 64) (d : Desc) (s : State) : Host.Outcome State Fault Refusal := startKernel 0x0204 qp d s
/-- SOFTMAX_FWD (R155). -/
def execSoftmaxFwd (qp : Fin 64) (d : Desc) (s : State) : Host.Outcome State Fault Refusal := startKernel 0x0301 qp d s
/-- SOFTMAX_BWD (R155). -/
def execSoftmaxBwd (qp : Fin 64) (d : Desc) (s : State) : Host.Outcome State Fault Refusal := startKernel 0x0302 qp d s
/-- TOKEN_LOGPROB (R155). -/
def execTokenLogprob (qp : Fin 64) (d : Desc) (s : State) : Host.Outcome State Fault Refusal := startKernel 0x0303 qp d s
/-- TOKEN_LOGPROB_BWD (R155). -/
def execTokenLogprobBwd (qp : Fin 64) (d : Desc) (s : State) : Host.Outcome State Fault Refusal := startKernel 0x0304 qp d s
/-- SWIGLU_FWD (R157). -/
def execSwigluFwd (qp : Fin 64) (d : Desc) (s : State) : Host.Outcome State Fault Refusal := startKernel 0x0401 qp d s
/-- SWIGLU_BWD (R157). -/
def execSwigluBwd (qp : Fin 64) (d : Desc) (s : State) : Host.Outcome State Fault Refusal := startKernel 0x0402 qp d s
/-- GELU_FWD (R157). -/
def execGeluFwd (qp : Fin 64) (d : Desc) (s : State) : Host.Outcome State Fault Refusal := startKernel 0x0403 qp d s
/-- GELU_BWD (R157). -/
def execGeluBwd (qp : Fin 64) (d : Desc) (s : State) : Host.Outcome State Fault Refusal := startKernel 0x0404 qp d s
/-- ROPE (R158). -/
def execRope (qp : Fin 64) (d : Desc) (s : State) : Host.Outcome State Fault Refusal := startKernel 0x0501 qp d s
/-- DROPOUT (R159). -/
def execDropout (qp : Fin 64) (d : Desc) (s : State) : Host.Outcome State Fault Refusal := startKernel 0x0601 qp d s
/-- FILL_UNIFORM (R160). -/
def execFillUniform (qp : Fin 64) (d : Desc) (s : State) : Host.Outcome State Fault Refusal := startKernel 0x0602 qp d s
/-- FILL_NORMAL (R160). -/
def execFillNormal (qp : Fin 64) (d : Desc) (s : State) : Host.Outcome State Fault Refusal := startKernel 0x0603 qp d s
/-- ORTHONORM (R161). -/
def execOrthonorm (qp : Fin 64) (d : Desc) (s : State) : Host.Outcome State Fault Refusal := startKernel 0x0701 qp d s

/-! ### Fused pairs (R162 to R165, R728) -/

/-- The slot word of a parameter block: record address and format code. -/
def slotWord (f : KernelFields) (n : Nat) : M (Nat × Nat) := do
  let w ← readU64 (f.param + 8 * n)
  return (fld w 63 16, fld w 15 12)

/-- The conditions of R162 on a KERNEL and a TILE, given the ranges of the TILE's output; answers the fused tensor's ranges. -/
def fusedOk (k : KReady) (t : TileFields) (out : List (Nat × Nat)) : M (List (Nat × Nat)) := do
  let pre := k.f.fuse == 1
  let slot := if pre then k.k.pre else k.k.post
  match slot with
  | none => fail .badDescriptor
  | some n =>
    let w ← slotWord k.f n
    needDesc (k.f.firstPlaza == t.firstPlaza && k.f.plazas == t.plazas && !t.terrace && k.f.rows == t.m
      && (if pre then w.1 == t.aRec && w.2 == t.aFmt && k.f.width == t.k && !t.aX
          else w.1 == t.yRec && w.2 == t.yFmt && k.f.width == t.n))
    let rg := match k.op n with
      | some (.out _ r) => outRanges r k.f.rows k.f.width
      | _ => out
    needDesc (ceilDiv (rangeBytes rg) k.f.plazas ≤ 4 * 2 ^ 20)
    return rg

/-- Ranges that the plaza store holds in place of memory. -/
def holdRanges (l : List (Nat × Nat)) : M Unit := modify fun w => { w with held := saveRanges w.s l }

/-- A checked pair: what its two descriptors name, and the ranges that only the plaza store holds (R164). -/
structure FusedReady where
  k : KReady
  x : TileSlots
  fused : List (Nat × Nat)

/-- What a descriptor of a pair writes, and the terrace tile that it names: what an uncorrectable read leaves unspecified (R121, R169). -/
def halfReach (d : Desc) : M (List (Nat × Nat)) := if descClass d == clsKernel then kernelReach d else tileReach (tileFields d)
def orCloseHalf {α : Type} (d : Desc) (m : M α) : M α := if descClass d == clsTile then orClose (tileFields d) m else m

/-- The fused tensor's planes where no copy of it goes to the stacks (R164), as far as they can be found out. -/
def unkept (d1 d2 : Desc) : M (List (Nat × Nat)) := do
  let f := kernelFields (if descClass d1 == clsKernel then d1 else d2)
  if f.keep then return []
  else if descClass d1 == clsTile then orNone (tileReach (tileFields d1))
  else match (kernelSpec f.kernel).bind fun k => k.pre.map fun n => (k, n) with
    | some (k, n) => orNone (do
      match ← kernelSlot f k n with
      | some (.out _ t) => return outRanges t f.rows f.width
      | _ => return [])
    | none => return []

/-- Checks of one descriptor of a pair, `d`: where they meet an uncorrectable read, what that descriptor writes is left unspecified, the planes
of a fused tensor that it keeps to itself apart (R121, R164, R169); the other descriptor has done nothing (R163). -/
def halfChecks {α : Type} (d1 d2 d : Desc) (m : M α) : M α :=
  orUnreadBy (do
    let l ← orNone (halfReach d)
    let k ← unkept d1 d2
    return sparing k (scrambleAll l)) (orCloseHalf d m)

/-- The checks of a PRE pair (R162, R163, R177): the KERNEL's, its first row with the pair conditions, then the TILE's (LOG 73). -/
def preChecks (kd td : Desc) : M FusedReady := do
  let r ← halfChecks kd td kd (do
    let k ← kernelSlots kd true
    let rg ← fusedOk k (tileFields td) []
    let held := if k.f.keep then [] else rg
    holdRanges held
    kernelRest k
    return (k, held))
  let x ← halfChecks kd td td (tileChecks td)
  return ⟨r.1, x, r.2⟩

/-- The checks of a POST pair: the TILE's, then the KERNEL's, its first row with the pair conditions. -/
def postChecks (td kd : Desc) : M FusedReady := do
  let t := tileFields td
  let s ← getS
  let r ← halfChecks td kd td (do
    needDesc (tileFieldsOk s td t)
    let x ← tileSlots t
    let held := if (kernelFields kd).keep then [] else tileOuts t x
    holdRanges held
    tileRest s td t x
    return (x, held))
  let k ← halfChecks td kd kd (do
    let k ← kernelSlots kd true
    let _ ← fusedOk k t (tileOuts t r.1)
    kernelRest k
    return k)
  return ⟨k, r.1, r.2⟩

/-- Both descriptors' own checks and the conditions of R162, before either of them starts (R163). -/
def fusedChecks (d1 d2 : Desc) : M FusedReady := do
  let r ← if descClass d1 == clsKernel then do
      needDesc (descClass d2 == clsTile)
      preChecks d1 d2
    else do
      needDesc (descClass d1 == clsTile)
      postChecks d1 d2
  holdRanges []
  return r

/-- The class-specific bytes that a descriptor of a pair has before its work (R103, R120). -/
def halfInfo (d : Desc) : List Byte := if descClass d == clsTile then tileInfo (tileFields d).bound 0 none else zeros16

/-- The work of one half, entries that it reads first (R354). -/
def tileHalf (d : Desc) (x : TileSlots) : M Unit := do
  setInfo (halfInfo d)
  tileReadable (tileFields d) x
  tileWork d x
def kernelHalf (d : Desc) (r : KReady) : M Unit := do
  kernelReadable r
  kernelWork d r

/-- The first descriptor of a pair that passed its checks; answers what the plaza store then holds of the fused tensor (R164). -/
def firstHalf (d1 d2 : Desc) : M (List (Nat × List Byte)) := do
  setInfo (halfInfo d1)
  let r ← fusedChecks d1 d2
  let bytes := saveRanges (← getS) r.fused
  holding bytes (orUnread (halfReach d1) (if descClass d1 == clsKernel then kernelHalf d1 r.k else tileHalf d1 r.x))

/-- The second descriptor of a pair, from its records as they stand when it runs. -/
def secondHalf (d : Desc) : M Unit := do
  setInfo (halfInfo d)
  orUnread (halfReach d) (if descClass d == clsKernel then do kernelHalf d (← kernelSlots d true)
    else do tileHalf d (← tileSlots (tileFields d)))

/-- The entry of a pair's second descriptor, which waits for the first's completion (R165); its work is placed nowhere until then (R551). -/
def secondEntry (qp : Fin 64) (idx : W32) (d : Desc) (held : List (Nat × List Byte)) (s : State) : InFlight :=
  { refusedEntry qp idx d .ok with split := descSplit d, info := halfInfo d, key := seqKey d,
                                   follows := some ⟨d, held, s.defaults, false⟩ }

/-- Adds the two entries of a pair that fails a check before its classes' own: the second takes the first's status when that completes
(R163, R165). -/
def pushBoth (qp : Fin 64) (idx : W32) (d1 d2 : Desc) (st : Status) (s : State) : State :=
  pushInFlight { secondEntry qp (idx + 1) d2 [] s with info := zeros16, key := none }
    (pushInFlight (refusedEntry qp idx d1 st) s)

/-- Outcome of work that answers something, as work that answers nothing. -/
def dropAnswer {α : Type} (r : Except Fail α × Work) : Except Fail Unit × Work := (r.1.map fun _ => (), r.2)

/-- What work answered, or nothing. -/
def answered {α : Type} (r : Except Fail (List α) × Work) : List α := r.1.toOption.getD []

/-- The pair's checks and its first descriptor's work; the second waits (R163 to R165). -/
def runFused (qp : Fin 64) (idx : W32) (d1 d2 : Desc) (s : State) : State :=
  let s0 := openStep d1 s
  let r := runWork (firstHalf d1 d2) s0
  let e := heldEntry qp idx d1 s0
  let second := fun bytes => secondEntry qp (idx + 1) d2 bytes s0
  if waitsIn r.1 then pushInFlight (second []) (pushInFlight e (askFor (.desc qp idx) r.2 s0))
  else
    let x := settleEntry s d1 e (dropAnswer r)
    pushInFlight (second (answered r)) (pushInFlight x.1 x.2)

/-- A pair that starts: the header checks of both, then R163 (LOG 73). -/
def startFused (qp : Fin 64) (d1 d2 : Desc) (s : State) : State :=
  let idx := (s.q.qps[qp]).head
  let s1 := advanceHead qp 2 s
  let c1 := headChecks s1 idx d1
  if c1.1 ≠ .ok then pushBoth qp idx d1 d2 c1.1 c1.2
  else
    let c2 := headChecks c1.2 (idx + 1) d2
    if c2.1 ≠ .ok then pushBoth qp idx d1 d2 c2.1 c2.2
    else runFused qp idx d1 d2 c2.2

/-- Tries again the first descriptor of a pair whose work had to wait; the second gets what the plaza store then holds. -/
def retryFirst (e x : InFlight) (h : FusedHalf) (d1 : Desc) (df : Defaults) (s : State) : State :=
  let r := runWorkAt e.order e.lines (underDefaults df (firstHalf d1 h.d)) s
  if waitsIn r.1 then askFor (.desc e.qp e.idx) r.2 s
  else
    let y := settleEntry s d1 e (dropAnswer r)
    setInFlight { x with follows := some { h with held := answered r } } (setInFlight y.1 y.2)

/-- Runs the second descriptor of a pair whose first completed OK; its work may still have to wait. -/
def runSecond (x : InFlight) (h : FusedHalf) (s : State) : State :=
  let r := runWorkAt x.order x.lines (underDefaults h.defaults (holding h.held (secondHalf h.d))) s
  if waitsIn r.1 then setInFlight { x with follows := some { h with due := true } } (askFor (.desc x.qp x.idx) r.2 s)
  else
    let y := settleEntry s h.d x (dropAnswer r)
    setInFlight y.1 y.2

/-- What the completion of a descriptor means for the second of its pair: it runs, or takes the first's status and writes nothing
(R165). One whose unit was reset meanwhile does not run (R551). -/
def followOn (e : InFlight) (s : State) : State :=
  match findInFlight s e.qp (e.idx + 1) with
  | none => s
  | some x =>
    match x.follows with
    | none => s
    | some h =>
      if e.status ≠ .ok then setInFlight { x with status := e.status, faultAddr := e.faultAddr, follows := none } s
      else if x.status ≠ .ok then setInFlight { x with follows := none } s
      else runSecond x h s

/-- A PRE pair begins with a KERNEL of FUSE 1; a POST pair is a TILE followed by a KERNEL of FUSE 2 (R162, R728). -/
def isFused (d1 d2 : Desc) : Bool :=
  (descClass d1 == clsKernel && (kernelFields d1).fuse == 1)
  || (descClass d1 == clsTile && descClass d2 == clsKernel && (kernelFields d2).fuse == 2)

/-- FUSED_PAIR (R728). -/
def execFusedPair (qp : Fin 64) (d1 d2 : Desc) (s : State) : Host.Outcome State Fault Refusal :=
  if !isFused d1 d2 then .refused .illFormed
  else if !running s then .fault .notRunning
  else
    let d := orderedBy (bit d2.w0 8) d1
    if canStart s qp d 2 && transAllows s (descClass d2) then .next (startFused qp d1 d2 s)
    else .next (showFront qp d s)

/-- The entry after the one at HEAD, where TAIL covers it and the module holds it, and it is a KERNEL of FUSE 2 (R728; LOG 59). -/
def postOf (s : State) (qp : Fin 64) : Option Desc := (entryOf s qp ((s.q.qps[qp]).head + 1)).filter fun d => fuseOf d == 2

/-- TAIL covers the entry after the one at HEAD and the module has yet to read it. -/
def nextUnknown (s : State) (qp : Fin 64) : Bool :=
  let i := (s.q.qps[qp]).head + 1
  tailCovers s.q.qps[qp] i && entryUnknown s qp i

/-- A TILE whose turn to start has come waits for the line of the entry after it, which decides whether it starts alone (R728). -/
def askNext (qp : Fin 64) (d : Desc) (s : State) : State :=
  let p := s.q.qps[qp]
  askLines (.queue qp) [entryLine p (p.head + 1)] (showFront qp d s)

/-- A TILE starts alone, or as the first of a POST pair with the KERNEL of FUSE 2 that TAIL covers after it (R728). -/
def startTile (isRow : Bool) (qp : Fin 64) (d : Desc) (s : State) : Host.Outcome State Fault Refusal :=
  if !isRow then .refused .illFormed
  else if running s && nextUnknown s qp && canStart s qp d 1 then .next (askNext qp d s)
  else match postOf s qp with
    | some d2 => execFusedPair qp d d2 s
    | none => startDesc isRow qp d (tileBody d) s

/-- TILE (R98). -/
def execTile (qp : Fin 64) (d : Desc) (s : State) : Host.Outcome State Fault Refusal := startTile (isTile d) qp d s

/-- TERRACE_OPEN (R108). -/
def execTerraceOpen (qp : Fin 64) (d : Desc) (s : State) : Host.Outcome State Fault Refusal := startTile (isTerraceOpen d) qp d s

/-- TERRACE_CONTRIBUTE (R109). -/
def execTerraceContribute (qp : Fin 64) (d : Desc) (s : State) : Host.Outcome State Fault Refusal :=
  startTile (isTerraceContribute d) qp d s

/-- TERRACE_CLOSE (R112). -/
def execTerraceClose (qp : Fin 64) (d : Desc) (s : State) : Host.Outcome State Fault Refusal := startTile (isTerraceClose d) qp d s

end Sys2Proof.Machine
end

