-- ==== Sys2Proof/Machine/Attn.lean ====
section
/-! DEFINITION. ATTN: attention forward and backward, appends, key-value pages (spec/05). -/

namespace Sys2Proof.Machine

/-! ### The descriptor (R209 to R215) -/

structure AttnFields where
  param : Nat
  rnd : Nat
  ovf : Nat
  qlist : Nat
  entries : Nat
  pass : Nat
  causal : Bool
  append : Bool
  kvFmt : Nat
  hq : Nat
  hkv : Nat
  dhCode : Nat
  stream : W32
  alpha : F32
  aux : W32
  ck : F32
  cv : F32
  firstPlaza : Nat
  plazas : Nat
  deriving Repr

def attnFields (d : Desc) : AttnFields :=
  { param := fld d.w2 63 16, rnd := fld d.w2 3 2, ovf := fld d.w2 1 0, qlist := fld d.w3 63 16, entries := fld d.w3 15 0,
    pass := fld d.w4 63 62, causal := bit d.w4 61, append := bit d.w4 60, kvFmt := fld d.w4 59 56, hq := fld d.w4 55 48,
    hkv := fld d.w4 47 40, dhCode := fld d.w4 39 38, stream := BitVec.ofNat 32 (fld d.w4 31 0),
    alpha := BitVec.ofNat 32 (fld d.w5 63 32), aux := BitVec.ofNat 32 (fld d.w5 31 0), ck := BitVec.ofNat 32 (fld d.w6 63 32),
    cv := BitVec.ofNat 32 (fld d.w6 31 0), firstPlaza := fld d.w7 63 56, plazas := fld d.w7 55 48 }

def AttnFields.dh (f : AttnFields) : Nat := 64 * 2 ^ f.dhCode
def AttnFields.g (f : AttnFields) : Nat := f.hq / f.hkv
def AttnFields.kv (f : AttnFields) : Fmt := if f.kvFmt = 4 then .f4 else .f8a
/-- Does the pass append (R197)? -/
def AttnFields.appends (f : AttnFields) : Bool := f.append || f.pass == 2

/-- The checks of R216's first row that read no record. -/
def attnFieldsOk (d : Desc) (f : AttnFields) : Bool :=
  fld d.w2 15 4 == 0 && fld d.w4 37 32 == 0 && fld d.w7 47 0 == 0 && f.pass != 3 && (!f.append || f.pass == 0)
  && (f.kvFmt == 2 || f.kvFmt == 4) && 1 ≤ f.hq && f.hq ≤ 128 && 1 ≤ f.hkv && f.hq % f.hkv == 0
  && (f.g == 1 || f.g == 2 || f.g == 4 || f.g == 8 || f.g == 16 || f.g == 32 || f.g == 64)
  && f.dhCode != 3 && f.rnd != 3 && f.ovf != 3 && f.entries != 0
  && f32PosNormal f.alpha && f32PosNormal f.ck && f32PosNormal f.cv
  && 1 ≤ f.plazas && f.firstPlaza + f.plazas ≤ 64 && f.param % 64 == 0 && f.qlist % 32 == 0

/-- An entry of the query list (R210), with the pages its tables name. -/
structure QEntry where
  pt : Nat
  gpt : Nat
  qrow : Nat
  klen : Nat
  qcount : Nat
  pages : List Nat
  gpages : List Nat
  deriving Repr

/-- Position of query token t (R179). -/
def QEntry.pos (e : QEntry) (t : Nat) : Nat := e.klen - e.qcount + t

/-- How many positions query token t sees (R186). -/
def QEntry.sees (e : QEntry) (causal : Bool) (t : Nat) : Nat := if causal then e.pos t + 1 else e.klen

def getQEntry (f : AttnFields) (i : Nat) : M QEntry := do
  let a := f.qlist + 32 * i
  let w0 ← readU64 a
  let w1 ← readU64 (a + 8)
  let w2 ← readU64 (a + 16)
  let w3 ← readU64 (a + 24)
  let e : QEntry := { pt := fld w0 63 16, gpt := fld w1 63 16, qrow := fld w2 63 32, klen := fld w3 63 43, qcount := fld w3 42 22,
                      pages := [], gpages := [] }
  needDesc (fld w0 15 0 == 0 && fld w1 15 0 == 0 && fld w2 31 0 == 0 && fld w3 21 0 == 0 && (f.pass == 1 || e.gpt == 0)
    && 1 ≤ e.klen && e.klen ≤ 1048576 && 1 ≤ e.qcount && e.qcount ≤ e.klen)
  return e

/-! ### Slots (R209) -/

/-- What an ATTN uses of each slot in its pass: `some true` written, `some false` read, and the formats allowed. -/
def attnUse (f : AttnFields) (n : Nat) : Option (Bool × (Fmt → Bool)) :=
  let any := fun x => SlotFmt.any.allows x
  match n, f.pass with
  | 0, 0 | 0, 1 => some (false, fun x => x == .f8a || x == .f4)
  | 1, 0 => some (true, any)
  | 1, 1 => some (false, any)
  | 2, 0 => some (true, fun x => x == .f32)
  | 2, 1 => some (false, fun x => x == .f32)
  | 3, 2 | 4, 2 => some (false, any)
  | 3, 0 | 4, 0 => if f.append then some (false, any) else none
  | 5, 1 => some (false, fun x => x == .f8a || x == .f8g)
  | 6, 1 => some (true, any)
  | _, _ => none

inductive AttnOp where
  | inp (i : InSlot)
  | out (o : OutSlot)

/-- Stored rows of Q, O and dO keep their blocks along the head dimension (R182); a K, V or dQ record may block either way (R209), and
none is LINEAR (R542). -/
def alongHead (n : Nat) (t : TRec) : Bool := !t.linear && (n == 3 || n == 4 || n == 6 || !(t.fmt.narrow && t.bdim))

/-- The rows and columns a slot must hold (R724). -/
def attnShape (f : AttnFields) (tokens n : Nat) : Nat × Nat :=
  (tokens * (if n = 3 ∨ n = 4 then f.hkv else f.hq), if n = 2 then 1 else f.dh)

def attnSlot (f : AttnFields) (tokens n : Nat) : M (Option AttnOp) := do
  let w ← readU64 (f.param + 8 * n)
  match attnUse f n with
  | none =>
    needDesc (w == 0)
    return none
  | some (written, fmts) =>
    needDesc (fld w 11 0 == 0)
    let a := fld w 63 16
    let sh := attnShape f tokens n
    if written then
      let o ← getOut a
      needDesc (o.rec'.fmt.code == fld w 15 12 && fmts o.rec'.fmt && alongHead n o.rec' && fits o.rec' sh.1 sh.2
        && (n == 6 || f32FiniteNormal (recipFactor o.rec'.cs)))
      return some (.out o)
    else
      let i ← getIn a false false
      needDesc (i.fmt.code == fld w 15 12 && fmts i.fmt && alongHead n i.shape && holds i.shape sh.1 sh.2)
      return some (.inp i)

/-- An ATTN that passed its checks. -/
structure AttnReady where
  f : AttnFields
  ops : List (Option AttnOp)
  es : List QEntry

def AttnReady.op (r : AttnReady) (n : Nat) : Option AttnOp := r.ops.getD n none

def AttnReady.outs (r : AttnReady) : List OutSlot := r.ops.filterMap fun o => match o with
  | some (.out o) => some o
  | _ => none

/-- Coarse scale of an input slot, 1.0 where the slot is unused. -/
def AttnReady.csOf (r : AttnReady) (n : Nat) : F32 := match r.op n with
  | some (.inp i) => i.cs
  | some (.out o) => o.rec'.cs
  | none => f32One

/-- The drain factors a pass forms (R185, R189, R197, R202, R205, R206). -/
def attnFactors (r : AttnReady) : List F32 :=
  let f := r.f
  (if f.appends then [recipFactor f.ck, recipFactor f.cv] else [])
  ++ (if f.pass = 0 then [drainFactor (r.csOf 0) f.ck f32One, drainFactor f32One f.cv f32One] else [])
  ++ (if f.pass = 1 then [drainFactor (r.csOf 0) f.ck f32One, drainFactor (r.csOf 5) f.cv f32One, drainFactor f32One f.ck (r.csOf 6),
      drainFactor f32One (r.csOf 0) f32One, drainFactor f32One (r.csOf 5) f32One] else [])

/-! ### Pages (R194 to R196, R206) -/

/-- KE and KS of R194. -/
def AttnFields.eb (f : AttnFields) : Nat := if f.kv = .f4 then f.dh / 2 else f.dh
def AttnFields.ke (f : AttnFields) : Nat := f.hkv * 256 * f.eb
def AttnFields.ks (f : AttnFields) : Nat := f.hkv * 256 * (f.dh / 32)
def AttnFields.pageBytes (f : AttnFields) : Nat := 2 * (f.ke + f.ks)
def AttnFields.gradBytes (f : AttnFields) : Nat := 2 * (f.hkv * 256 * f.dh * 4)

/-- Reads page-table entry j (R195, R196). -/
def getPage (a fmt bytes j : Nat) : M Nat := do
  let w ← readU64 (a + 8 * j)
  let p := fld w 63 16
  needDesc (fld w 15 4 == 0 && fld w 3 0 == fmt && p % 256 == 0)
  needInStacks p bytes
  return p

/-- Reads the page-table entries that cover positions 0 to KLEN − 1. -/
def getPages (a n fmt bytes : Nat) : M (List Nat) := do
  needMapped a (8 * n)
  (List.range n).mapM (getPage a fmt bytes)

def loadPages (f : AttnFields) (e : QEntry) : M QEntry := do
  let n := ceilDiv e.klen 256
  let p ← getPages e.pt n f.kvFmt f.pageBytes
  let g ← if f.pass = 1 then getPages e.gpt n 0 f.gradBytes else pure []
  return { e with pages := p, gpages := g }

/-- Address of the elements, and of the scales, of head h and position pos: K (part 0) or V (part 1). -/
def kvElem (f : AttnFields) (e : QEntry) (part h pos : Nat) : Nat :=
  e.pages.getD (pos / 256) 0 + part * (f.ke + f.ks) + (h * 256 + pos % 256) * f.eb
def kvScale (f : AttnFields) (e : QEntry) (part h pos : Nat) : Nat :=
  e.pages.getD (pos / 256) 0 + part * (f.ke + f.ks) + f.ke + (h * 256 + pos % 256) * (f.dh / 32)

/-- One stored row of K or V, block scales applied; ATTNs take pages in turn (R198, R546). -/
def kvRow (f : AttnFields) (e : QEntry) (part h pos : Nat) : M (List Num) := do
  let el ← inTurn turnPage (readBytes (kvElem f e part h pos) f.eb)
  let sc ← inTurn turnPage (readBytes (kvScale f e part h pos) (f.dh / 32))
  let codes := if f.kv = .f4 then el.flatMap fun x => [x.toNat % 16, x.toNat / 16] else el.map fun x => x.toNat
  return codes.zipIdx.map fun c => scaledElem (sc.getD (c.2 / 32) 0).toNat (f.kv.decode c.1)

/-- The rows of positions 0 to KLEN − 1; nothing beyond is read (R184). -/
def kvRows (f : AttnFields) (e : QEntry) (part h : Nat) : M (List (List Num)) := (List.range e.klen).mapM (kvRow f e part h)

/-! ### Events of ATTN (R217) -/

/-- Events and latch gathered so far. -/
structure AttnEv where
  exc : W16
  fi : Option FirstInvalid
  empty : Nat
  deriving Repr

/-- Bytes 16 to 31 of an ATTN or SAMPLE record (R218, R338). -/
def attnInfo (e : AttnEv) : List Byte := kernelInfo e.exc e.fi e.empty

/-- What such bytes say. -/
def infoEv (l : List Byte) : AttnEv :=
  let e : W16 := BitVec.ofNat 16 (leNat (l.take 2))
  let w := fun i => leNat ((l.drop i).take 4)
  ⟨e &&& ~~~excFiValid, if e &&& excFiValid = 0 then none else some ⟨w 4, w 8, 0⟩, w 12⟩

def AttnEv.none : AttnEv := ⟨0, Option.none, 0⟩
def AttnEv.merge (a b : AttnEv) : AttnEv := ⟨a.exc ||| b.exc, fiFirst a.fi b.fi, a.empty + b.empty⟩
/-- Adds events to the record's, where they stay whatever the status will be (R166, R337, R720). -/
def addEv (e : AttnEv) : M Unit := modify fun w => { w with info := attnInfo ((infoEv w.info).merge e) }
def mergeAll (l : List AttnEv) : AttnEv := l.foldl AttnEv.merge AttnEv.none

/-- The bits of a square's events that the layout of R166 has. -/
def squareExc (e : W16) : W16 := e &&& 0x09

/-- A dot product of two rows on the squares: value and events. -/
def dotRows (a b : List Num) : Node := dotNode (fun i => Num.mul (a.getD i Num.zero) (b.getD i Num.zero)) a.length

/-- A square's result drained into F32 with RNE and PROP (R185, R189, R202). -/
def drainF32 (v : A34) (f : F32) : F32 := f32Rnd (Num.mul (a34Dec v) (f32Dec f))

/-! ### Appends (R197) -/

/-- Events of a converted block: "saturated", and NaN or infinite values written (R166, R217). -/
def blockEvents (fmt : Fmt) (b : Block) : W16 :=
  let v := b.codes.map fun c => scaledElem b.s8 (fmt.decode c)
  excIf b.sat excSaturated ||| excIf (v.any Num.isNaN) excInvalid ||| excIf (v.any Num.isInf) excInfinite

/-- Converts and writes one K or V row of a query token. -/
def appendRow (f : AttnFields) (e : QEntry) (seed : Nat) (prop st : Bool) (part h pos : Nat) (src : Nat → F32) : M Unit := do
  let fac := f32Dec (recipFactor (if part = 0 then f.ck else f.cv))
  let bl := (List.range (f.dh / 32)).map fun b => convBlock f.kv prop ((List.range 32).map fun i =>
    (Num.mul (f32Dec (src (32 * b + i))) fac, rndOf st seed f.aux pos (h * f.dh + 32 * b + i)))
  addEv ⟨bl.foldl (fun x b => x ||| blockEvents f.kv b) 0, none, 0⟩
  inTurn turnPage (writeBytes (kvElem f e part h pos) (bl.flatMap fun b => blockBytesOf f.kv b.codes))
  inTurn turnPage (writeBytes (kvScale f e part h pos) (bl.map fun b => BitVec.ofNat 8 b.s8))

/-- Appends the rows of one entry. Of two entries of a list that append at the same page and position, the manual does not say whose rows
stay: the later entry's here (LOG 65). -/
def appendEntry (f : AttnFields) (seed : Nat) (kNew vNew : Operand) (e : QEntry) : M Unit := do
  let s ← getS
  let prop := propOf s f.kv f.ovf
  let st := stochOf s f.rnd
  (List.range e.qcount).forM fun t => (List.range f.hkv).forM fun h => do
    let r := (e.qrow + t) * f.hkv + h
    appendRow f e seed prop st 0 h (e.pos t) fun i => kNew.f32 r i
    appendRow f e seed prop st 1 h (e.pos t) fun i => vNew.f32 r i

/-! ### Forward (R185 to R191) -/

/-- Scores of one row against the positions it sees, with their events and latch. -/
def scoreRow (q : List Num) (fs : F32) (row : Nat) (k : List (List Num)) : List F32 × AttnEv :=
  let l := k.zipIdx.map fun x =>
    let n := dotRows q x.1
    let v := drainF32 n.val fs
    (v, (⟨squareExc n.exc, if f32IsNan v then some ⟨row, x.2, 0⟩ else none, 0⟩ : AttnEv))
  (l.map Prod.fst, mergeAll (l.map Prod.snd))

/-- The state of one segment (R187). -/
structure SegState where
  m : F32
  l : F32
  o : List F32
  deriving Repr, Inhabited

/-- p̂ of a block: F8A, coarse scale 1.0, blocks of 32 along the keys, RNE and SAT (R188). -/
def toBlocks (fmt : Fmt) (p : List F32) : List Num × W16 :=
  let bl := (chunksOf 32 p.length p).map fun c => convBlock fmt false (c.map fun v => (f32Dec v, Rnd.rne))
  (bl.flatMap fun b => b.codes.map fun c => scaledElem b.s8 (fmt.decode c), excIf (bl.any Block.sat) excSaturated)

def padTo (n : Nat) (z : F32) (l : List F32) : List F32 := l ++ List.replicate (n - l.length) z

/-- One key block: the scores a row sees of it and their V rows (R187 to R189). -/
def blockStep (alpha fv : F32) (dh : Nat) (sc : List F32) (v : List (List Num)) (x : SegState × W16) : SegState × W16 :=
  let z := padTo 256 f32NegInf (sc.map fun s => f32Mul s alpha)
  let mb := f32MaxOf z
  if mb = f32NegInf then x
  else
    let st := x.1
    let mn := f32Max st.m mb
    let c := f32Exp (f32Sub st.m mn)
    let ph := toBlocks .f8a (z.map fun a => f32Exp (f32Sub a mn))
    let l := f32Fma st.l c (kredAdd (ph.1.map f32Rnd))
    let obs := (List.range dh).map fun d =>
      dotNode (fun i => match v[i]? with
        | some r => Num.mul (ph.1.getD i Num.zero) (r.getD d Num.zero)
        | none => Num.zero) 256
    let o := (st.o.zip obs).map fun p => f32Fma p.1 c (drainF32 p.2.val fv)
    (⟨mn, l, o⟩, x.2 ||| ph.2 ||| obs.foldl (fun e n => e ||| squareExc n.exc) 0)

/-- The visible key blocks of one segment in increasing j. -/
def segmentRun (alpha fv : F32) (dh : Nat) : (fuel : Nat) → List F32 → List (List Num) → SegState × W16 → SegState × W16
  | 0, _, _, x => x
  | n + 1, sc, v, x => match sc with
    | [] => x
    | _ => segmentRun alpha fv dh n (sc.drop 256) (v.drop 256) (blockStep alpha fv dh (sc.take 256) (v.take 256) x)

/-- Combination of two segment states (R190). -/
def segCombine (a b : SegState) : SegState :=
  if b.m = f32NegInf then a
  else if a.m = f32NegInf then b
  else
    let m := f32Max a.m b.m
    let c1 := f32Exp (f32Sub a.m m)
    let c2 := f32Exp (f32Sub b.m m)
    ⟨m, f32Fma a.l c1 (f32Mul b.l c2), (a.o.zip b.o).map fun p => f32Fma p.1 c1 (f32Mul p.2 c2)⟩

/-- The final state of a row: segments of 16,384 positions, then their tree (R190). -/
def rowState (alpha fv : F32) (dh : Nat) (sc : List F32) (v : List (List Num)) : SegState × W16 :=
  let init : SegState := ⟨f32NegInf, f32Zero, zerosF dh⟩
  let segs := (List.range (ceilDiv sc.length 16384)).map fun s =>
    segmentRun alpha fv dh 64 ((sc.drop (16384 * s)).take 16384) ((v.drop (16384 * s)).take 16384) (init, 0)
  (combine segCombine init (segs.map Prod.fst), segs.foldl (fun e s => e ||| s.2) 0)

/-- out and lse of a row (R191). -/
def rowResult (st : SegState) (dh : Nat) : List F32 × F32 × Bool :=
  if f32IsZero st.l then (zerosF dh, f32NegInf, true)
  else
    let r := f32Recip st.l
    (st.o.map fun x => f32Mul x r, f32Add st.m (f32Ln st.l), false)

/-- A record with one row of another as its only row (blocks along the row). -/
def rowRec (t : TRec) (r : Nat) : TRec :=
  if t.fmt.narrow then
    { t with rows := 1, elem := t.elem + r * ceilDiv t.cols 32 * t.fmt.blockBytes, scale := t.scale + r * ceilDiv t.cols 32 }
  else { t with rows := 1, elem := t.elem + r * t.cols * t.fmt.width }

/-- Writes rows of an output, and notes their events. -/
def writePart (t : TRec) (m : OutMode) (row R C : Nat) (v : Nat → Nat → Num) : M Unit := do
  discard (writeTensor t { m with rnd := fun r c => m.rnd (row + r) c, events := true } R C v)
  let e := writtenEvents (← get) t row R C
  addEv ⟨e.1, e.2, 0⟩

/-- Writes one output row. -/
def writeRow (t : TRec) (m : OutMode) (row : Nat) (f : F32) (v : List F32) : M Unit :=
  writePart (rowRec t row) m row 1 v.length fun _ c => Num.mul (f32Dec (v.getD c 0)) (f32Dec f)

/-- The numbers of the 32-row blocks that a pass's rows touch. -/
def rowBlocks (rows : List Nat) : List Nat := (rows.map fun r => r / 32).eraseDups

/-- A block of 32 rows of a record whose blocks run along rows. -/
def blockRec (t : TRec) (b : Nat) : TRec :=
  { t with rows := 32, elem := t.elem + b * t.cols * t.fmt.blockBytes, scale := t.scale + b * t.cols }

/-- Writes one block of rows along which blocks run; rows beyond the last written are padding (R61, R724). Where the pass leaves a row of
the block out, the manual gives its bytes no value: they are free. Of a row that two entries of the list name, the manual does not say whose
dQ it holds: the last one's here, as in `writeRows` (LOG 65). -/
def writeRowBlock (t : TRec) (m : OutMode) (R : Nat) (rows : List (Nat × (Nat → Num))) (b : Nat) : M Unit := do
  let n := min 32 (R - 32 * b)
  let bt := blockRec t b
  if (List.range n).all fun i => rows.any fun x => x.1 == 32 * b + i then
    writePart bt m (32 * b) n t.cols fun r c => match rows.reverse.find? fun x => x.1 == 32 * b + r with
      | some x => x.2 c
      | none => Num.zero
  else
    writeFree bt.elem (t.cols * t.fmt.blockBytes)
    writeFree bt.scale t.cols

/-- Writes the rows of an output, values already multiplied by their factor. R counts the rows of the pass. -/
def writeRows (t : TRec) (m : OutMode) (R : Nat) (rows : List (Nat × (Nat → Num))) : M Unit :=
  if t.fmt.narrow && t.bdim then (rowBlocks (rows.map Prod.fst)).forM (writeRowBlock t m R rows)
  else rows.forM fun x => writePart (rowRec t x.1) m x.1 1 t.cols fun _ c => x.2 c

/-- The rows of the query tokens and heads of one key-value head, in the order of R180: (token, head, row of the tensors). -/
def attnRows (f : AttnFields) (e : QEntry) (hk : Nat) : List (Nat × Nat × Nat) :=
  (List.range e.qcount).flatMap fun t => (List.range f.g).map fun g =>
    (t, hk * f.g + g, (e.qrow + t) * f.hq + (hk * f.g + g))

def Operand.nums (o : Operand) (r n : Nat) : List Num := (List.range n).map fun c => o.num r c

/-- O and LSE of one entry (R185 to R191); the record's word and EMPTY_ROWS grow row by row, whatever the status will be (R166, R217,
R720; LOG 71). R211 gives RND and OVF for O, dQ and appends: LSE under its coarse scale takes RNE and PROP, as F32 results do (R142; LOG
71). Of two entries that name the same rows of O and LSE, the manual does not say whose result they hold: the later entry's here (LOG
65). -/
def attnForwardEntry (r : AttnReady) (seed : Nat) (q : Operand) (o lse : OutSlot) (e : QEntry) : M Unit := do
  let f := r.f
  let s ← getS
  let mode : OutMode := { prop := propOf s o.rec'.fmt f.ovf, rnd := rndOf (stochOf s f.rnd) seed f.stream }
  let fs := drainFactor q.cs f.ck f32One
  let fv := drainFactor f32One f.cv f32One
  (List.range f.hkv).forM fun hk => do
    let k ← kvRows f e 0 hk
    let v ← kvRows f e 1 hk
    (attnRows f e hk).forM fun x => do
      let n := e.sees f.causal x.1
      let sc := scoreRow (q.nums x.2.2 f.dh) fs x.2.2 (k.take n)
      let st := rowState f.alpha fv f.dh sc.1 (v.take n)
      let res := rowResult st.1 f.dh
      addEv (sc.2.merge ⟨st.2 ||| excIf res.2.2 excEmptyRow, none, if res.2.1 = f32NegInf then 1 else 0⟩)
      writeRow o.rec' mode x.2.2 (recipFactor o.rec'.cs) res.1
      writeRow lse.rec' { prop := true, rnd := fun _ _ => .rne } x.2.2 (recipFactor lse.rec'.cs) [res.2.1]

/-! ### Backward (R201 to R206) -/

/-- One row of the backward pass: what it sees, p and ds by key, its Q and dO. -/
structure BwdRow where
  row : Nat
  sees : Nat
  dead : Bool
  q : List Num
  dO : List Num
  p : List F32
  ds : List F32
  ev : AttnEv

/-- p and ds of one row (R201, R202). A row with lse = −∞ counts in EMPTY_ROWS; whether it also sets EMPTY_ROW the manual does not say: it
does not here (LOG 71). -/
def bwdRow (r : AttnReady) (q o lse dO : Operand) (k v : List (List Num)) (e : QEntry) (x : Nat × Nat × Nat) : BwdRow :=
  let f := r.f
  let n := e.sees f.causal x.1
  let row := x.2.2
  let qn := q.nums row f.dh
  let dn := dO.nums row f.dh
  let D := kredDot (dO.row row f.dh) (o.row row f.dh)
  let L := lse.f32 row 0
  let dead := L == f32NegInf
  let sc := scoreRow qn (drainFactor q.cs f.ck f32One) row (k.take n)
  let dps := if dead then [] else (v.take n).map fun vr => dotRows dn vr
  let p := sc.1.map fun s => f32Exp (f32Sub (f32Mul s f.alpha) L)
  let ds := (p.zip dps).map fun y =>
    f32Mul (f32Mul y.1 (f32Sub (drainF32 y.2.val (drainFactor dO.cs f.cv f32One)) D)) f.alpha
  { row := row, sees := n, dead := dead, q := qn, dO := dn, p := if dead then zerosF n else p, ds := if dead then zerosF n else ds,
    ev := sc.2.merge ⟨dps.foldl (fun a d => a ||| squareExc d.exc) 0, none, if dead then 1 else 0⟩ }

/-- dQ of one row: one reduction over its visible keys (R203 to R205). -/
def bwdDq (r : AttnReady) (k : List (List Num)) (x : BwdRow) : List A34 × W16 :=
  let d := toBlocks .f8g (padTo (ceilDiv x.sees 32 * 32) f32Zero x.ds)
  let ns := (List.range r.f.dh).map fun c =>
    dotNode (fun i => if x.dead then Num.zero else Num.mul (d.1.getD i Num.zero) ((k.getD i []).getD c Num.zero)) x.sees
  (ns.map Node.val, d.2 ||| ns.foldl (fun e n => e ||| squareExc n.exc) 0)

/-- dV and dK at one key position: one reduction over the rows that see it, in panels of 1,024 rows of R180 (R203, R204). Panels are cut by
place among all rows, those that do not see the position giving +0: whether they count only the rows that see it, the manual does not say
(LOG 71). -/
def bwdKey (r : AttnReady) (rows : List BwdRow) (i : Nat) : List A34 × List A34 × W16 :=
  let seen := fun (x : BwdRow) => decide (i < x.sees) && !x.dead
  let n := rows.length
  let pv := toBlocks .f8a (padTo (ceilDiv n 32 * 32) f32Zero (rows.map fun x => if seen x then x.p.getD i 0 else f32Zero))
  let dv := toBlocks .f8g (padTo (ceilDiv n 32 * 32) f32Zero (rows.map fun x => if seen x then x.ds.getD i 0 else f32Zero))
  let red := fun (w : List Num) (b : BwdRow → List Num) (c : Nat) =>
    dotNodeA34 (fun j => match rows[j]? with
      | some x => if seen x then Num.mul (w.getD j Num.zero) ((b x).getD c Num.zero) else Num.zero
      | none => Num.zero) n
  let vs := (List.range r.f.dh).map fun c => red pv.1 BwdRow.dO c
  let ks := (List.range r.f.dh).map fun c => red dv.1 BwdRow.q c
  (ks.map Node.val, vs.map Node.val,
   pv.2 ||| dv.2 ||| vs.foldl (fun e n => e ||| squareExc n.exc) 0 ||| ks.foldl (fun e n => e ||| squareExc n.exc) 0)

/-- Adds a row of gradients into a gradient page, one F32 rounding an element (R206). -/
def addGrad (a : Nat) (g : List F32) : M Unit := do
  let old ← inTurn turnPage (readBytes a (4 * g.length))
  let new := g.zipIdx.map fun x => f32Add (BitVec.ofNat 32 (leNat ((old.drop (4 * x.2)).take 4))) x.1
  addEv ⟨excIf (new.any f32IsNan) excInvalid ||| excIf (new.any f32IsInf) excInfinite, none, 0⟩
  inTurn turnPage (writeBytes a (new.flatMap fun v => leBytes 4 v.toNat))

/-- dQ, dK and dV of one entry: the gradients are added into its pages, the rows of dQ are answered. -/
def attnBackwardEntry (r : AttnReady) (q o lse dO : Operand) (dq : OutSlot) (e : QEntry) : M (List (Nat × (Nat → Num))) := do
  let f := r.f
  let fq := drainFactor f32One f.ck dq.rec'.cs
  let fk := drainFactor f32One q.cs f32One
  let fv := drainFactor f32One dO.cs f32One
  let heads ← (List.range f.hkv).mapM fun hk => do
    let k ← kvRows f e 0 hk
    let v ← kvRows f e 1 hk
    let rows := (attnRows f e hk).map (bwdRow r q o lse dO k v e)
    let dqs := rows.map fun x => (x, bwdDq r k x)
    addEv (mergeAll (dqs.map fun x => x.1.ev.merge ⟨x.2.2, none, 0⟩))
    (List.range e.klen).forM fun i => do
      let g := bwdKey r rows i
      let base := e.gpages.getD (i / 256) 0 + (hk * 256 + i % 256) * f.dh * 4
      addEv ⟨g.2.2, none, 0⟩
      addGrad base (g.1.map fun x => drainF32 x fk)
      addGrad (base + f.hkv * 256 * f.dh * 4) (g.2.1.map fun x => drainF32 x fv)
    return dqs.map fun x => (x.1.row, fun c => Num.mul (a34Dec (x.2.1.getD c 0)) (f32Dec fq))
  return heads.flatten

/-- The mode in which dQ is drained (R205). -/
def dqMode (s : State) (f : AttnFields) (dq : OutSlot) (seed : Nat) : OutMode :=
  { prop := propOf s dq.rec'.fmt f.ovf, rnd := rndOf (stochOf s f.rnd) seed f.stream }

/-! ### Checks and work -/

/-- The rows a pass writes of one output record: whole blocks where blocks run along rows. -/
def rowRanges (f : AttnFields) (t : TRec) (es : List QEntry) : List (Nat × Nat) :=
  let rows := es.flatMap fun e => (List.range (e.qcount * f.hq)).map fun i => e.qrow * f.hq + i
  if t.fmt.narrow && t.bdim then (rowBlocks rows).flatMap fun b => outRanges (blockRec t b) 32 t.cols
  else rows.flatMap fun r => outRanges (rowRec t r) 1 t.cols

/-- Query tokens' rows: one more than the largest (R210). -/
def tokensOf (es : List QEntry) : Nat := es.foldl (fun m e => max m (e.qrow + e.qcount)) 0

/-- R216's first row: the fields, the query list and the slots. -/
def attnNames (d : Desc) : M AttnReady := do
  let f := attnFields d
  needDesc (attnFieldsOk d f)
  needMapped f.param 64
  needMapped f.qlist (32 * f.entries)
  let es ← (List.range f.entries).mapM (getQEntry f)
  let ops ← (List.range 8).mapM (attnSlot f (tokensOf es))
  let r : AttnReady := ⟨f, ops, es⟩
  needDesc ((attnFactors r).all f32FiniteNormal)
  return r

def AttnReady.names (r : AttnReady) : Bool := r.ops.any fun o => match o with
  | some (.inp i) => i.isEntry
  | some (.out o) => o.entry.isSome
  | none => false

/-- The output rows. -/
def AttnReady.rows (r : AttnReady) : List (Nat × Nat) := r.outs.flatMap fun o => rowRanges r.f o.rec' r.es

/-- Checks in the order of R216; unbacked outputs (R487) stand after UNIT_ABSENT's row and protected ones (R456) last (LOG 63). -/
def attnChecks (d : Desc) : M AttnReady := do
  let r ← attnNames d
  let s ← getS
  needPlazas r.f.firstPlaza r.f.plazas
  needOutBacked r.rows
  need (r.f.pass != 1 || s.turn.cur == .learn || s.turn.cur == .ready) .wrongTurn
  needEntryTurn r.names
  needStash r.names
  let es ← r.es.mapM (loadPages r.f)
  needOutWritable r.rows
  return { r with es := es }

/-- What an uncorrectable read leaves unspecified: the outputs, the pages appended to, the gradient pages added into (R219). -/
def attnRanges (r : AttnReady) : List (Nat × Nat) :=
  let f := r.f
  (r.outs.flatMap fun o => outRanges o.rec' o.rec'.rows o.rec'.cols)
  ++ (if f.appends then r.es.flatMap fun e =>
      (((List.range e.qcount).map fun t => e.pos t / 256).eraseDups.filterMap fun j => e.pages[j]?).map fun p => (p, f.pageBytes) else [])
  ++ (if f.pass = 1 then r.es.flatMap fun e => e.gpages.map fun g => (g, f.gradBytes) else [])

/-- The same, entry by entry, record by record and page by page from what can be read. -/
def attnReach (d : Desc) : M (List (Nat × Nat)) := do
  let f := attnFields d
  let es := (← (List.range f.entries).mapM fun i => orNone (do return [← getQEntry f i])).flatten
  let outs ← (List.range 8).mapM fun n => orNone (do
    match ← attnSlot f (tokensOf es) n with
    | some (.out o) => return outRanges o.rec' o.rec'.rows o.rec'.cols
    | _ => return [])
  let pages ← es.mapM fun e => do
    let js := if f.appends then ((List.range e.qcount).map fun t => e.pos t / 256).eraseDups else []
    let a ← js.mapM fun j => orNone (do return [(← getPage e.pt f.kvFmt f.pageBytes j, f.pageBytes)])
    let g ← (if f.pass = 1 then List.range (ceilDiv e.klen 256) else []).mapM fun j =>
      orNone (do return [(← getPage e.gpt 0 f.gradBytes j, f.gradBytes)])
    return (a ++ g).flatten
  return outs.flatten ++ pages.flatten

/-- Opens the leading part of an input slot; nothing where the slot is unused. -/
def attnOpen (r : AttnReady) (tokens n : Nat) : M Operand :=
  match r.op n with
  | some (.inp i) => i.openR (attnShape r.f tokens n).1 (attnShape r.f tokens n).2
  | _ => pure { fmt := .f32, rows := 0, cols := 0, cs := f32One, code := fun _ _ => 0, s8 := fun _ _ => none }

/-- An element of the B operands of an ATTN's products with its own block's scale, by number: K or V, in backward also Q or dO, or +0 that
the feed substitutes (R182 to R184). -/
def attnWeight (w : Work) (r : AttnReady) (q dO : Operand) (n : Nat) : Weight :=
  let f := r.f
  match r.es[n % r.es.length]? with
  | none => ⟨0, 0⟩
  | some e =>
    let kind := n / r.es.length % 5
    let m := n / r.es.length / 5
    let c := m % f.dh
    let row := m / f.dh
    if kind < 2 then
      let h := row % f.hkv
      let pos := row / f.hkv % e.klen
      let b := (w.byte (kvElem f e kind h pos + if f.kv = .f4 then c / 2 else c)).toNat
      ⟨if f.kv = .f4 then (if c % 2 = 0 then b % 16 else b / 16) else b, (w.byte (kvScale f e kind h pos + c / 32)).toNat⟩
    else if f.pass = 1 ∧ kind < 4 then
      let o := if kind = 2 then q else dO
      let x := e.qrow * f.hq + row % (e.qcount * f.hq)
      ⟨o.code x c, (o.s8 x c).getD 0⟩
    else ⟨0, 0⟩

/-- Reductions of the backward pass take more than one panel of 1,024 keys or rows (R204). -/
def attnFolds (r : AttnReady) : Bool := r.f.pass == 1 && r.es.any fun e => decide (1024 < e.klen ∨ 1024 < e.qcount * r.f.g)

/-- The squares of the ATTN's plazas load its operands, as they stand after its appends. -/
def attnLoad (r : AttnReady) (q dO : Operand) : M Unit :=
  modify fun w => { w with s := attnSquares r.f.firstPlaza r.f.plazas (attnWeight w r q dO) (attnFolds r) w.s }

def attnCompute (r : AttnReady) : M Unit := do
  let f := r.f
  let s ← getS
  let seed := s.rng.seed.toNat
  let tokens := tokensOf r.es
  if f.appends then
    let k ← attnOpen r tokens 3
    let v ← attnOpen r tokens 4
    r.es.forM (appendEntry f seed k v)
  match r.op 1, r.op 2, r.op 6 with
  | some (.out o), some (.out lse), _ =>
    let q ← attnOpen r tokens 0
    attnLoad r q q
    r.es.forM (attnForwardEntry r seed q o lse)
    captureAll [o, lse]
  | _, _, some (.out dq) =>
    let q ← attnOpen r tokens 0
    let o ← attnOpen r tokens 1
    let lse ← attnOpen r tokens 2
    let dO ← attnOpen r tokens 5
    attnLoad r q dO
    let rows ← r.es.mapM (attnBackwardEntry r q o lse dO dq)
    writeRows dq.rec' (dqMode s f dq seed) (tokens * f.hq) rows.flatten
    captureAll [dq]
  | _, _, _ => pure ()

/-- The input slots an ATTN reads, by its pass. -/
def attnInputs (r : AttnReady) : List InSlot :=
  let ns := (if r.f.appends then [3, 4] else []) ++ (match r.op 1, r.op 2, r.op 6 with
    | some (.out _), some (.out _), _ => [0]
    | _, _, some (.out _) => [0, 1, 2, 5]
    | _, _, _ => [])
  ns.filterMap fun n => match r.op n with
    | some (.inp i) => some i
    | _ => none

/-- An ATTN is skipped when it has outputs and each is a FILLED entry (R353); pages are no outputs (R209, R219). -/
def AttnReady.skips (r : AttnReady) : Bool := !r.outs.isEmpty && r.outs.all OutSlot.filled

def attnReady (d : Desc) : M AttnReady := do
  let r ← attnChecks d
  if r.skips then pure () else needReadable [] (attnInputs r)
  return r

/-- The work of an ATTN that passed its checks; ATTNs take pages in the order in which they start (R198, R546). -/
def attnWork (d : Desc) (r : AttnReady) : M Unit := do
  if r.skips then countSkip
  else
    awaitPlazas r.f.firstPlaza r.f.plazas
    inStartOrder d
    let _ ← useKiosks r.f.firstPlaza r.f.plazas (r.es.map fun e => e.qcount * r.f.hq).sum
    orScramble (attnRanges r) (attnCompute r)

def attnBody (d : Desc) : M Unit := do attnWork d (← orUnread (attnReach d) (attnReady d))

def isAttn (pass : Nat) (d : Desc) : Bool := descClass d == clsAttn && (attnFields d).pass == pass

/-- ATTN_FORWARD (R187). -/
def execAttnForward (qp : Fin 64) (d : Desc) (s : State) : Host.Outcome State Fault Refusal :=
  startDesc (isAttn 0 d) qp d (attnBody d) s

/-- ATTN_BACKWARD (R201). -/
def execAttnBackward (qp : Fin 64) (d : Desc) (s : State) : Host.Outcome State Fault Refusal :=
  startDesc (isAttn 1 d) qp d (attnBody d) s

/-- APPEND_ONLY (R197). -/
def execAppendOnly (qp : Fin 64) (d : Desc) (s : State) : Host.Outcome State Fault Refusal :=
  startDesc (isAttn 2 d) qp d (attnBody d) s

end Sys2Proof.Machine
end

