-- ==== Sys2Proof/Machine/Link.lean ====
section
/-! DEFINITION. The link layer of the Carard link and the avenues: retry, credits, training, incarnations (spec/15, R566 to R582,
R599 to R601, R676). -/

namespace Sys2Proof.Machine

/-! ### Phases (R606, R607) -/

/-- Link state codes of 2D00:01 and 2110:01. -/
def LinkPhase.code : LinkPhase → Nat
  | .down => 0
  | .phy | .init => 1
  | .up => 2
  | .upLimited => 3

/-- Moves a link to a phase; a change of its shown state raises LINK_CHANGE (R637). -/
def setPhase (i : LinkId) (p : LinkPhase) (s : State) : State :=
  let l := s.lk.get i
  let s1 := setLink i { l with phase := p } s
  if l.phase.code = p.code then s1 else raiseAlert 64 s1

/-- Sequenced flits pass over this link now. -/
def linkLive (s : State) (i : LinkId) : Bool := linkThere s i && (s.lk.get i).phase.carries

/-- What a command of a link does where the link is there and a condition holds; nothing otherwise (LOG 58). -/
def linkDo (i : LinkId) (c : Bool) (f : State → State) (s : State) : Host.Outcome State Fault Refusal :=
  if !running s then .fault .notRunning
  else if linkThere s i && c then .next (f s)
  else .next s

/-! ### Acknowledgement and resending (R573 to R575) -/

/-- The flits after the one of a sequence number. -/
def dropThrough (a : BitVec 12) : List Flit → List Flit
  | [] => []
  | f :: t => if f.seq = a then t else dropThrough a t

/-- An ACK that advances frees the flits it covers and restarts the retry timing. -/
def Link.ackTo (l : Link) (a : BitVec 12) : Link :=
  if l.unacked.any fun f => f.seq == a then { l with unacked := dropThrough a l.unacked, resends := 0 } else l

/-- A CREDIT flit's entries for the units freed of each pool. -/
def creditEntries (freed : List Nat) : List W32 :=
  (freed.zipIdx.filter fun p => p.1 != 0).map fun p => BitVec.ofNat 32 (p.2 * 2 ^ 24 + p.1)

/-- Returns every freed unit; where the retry buffer has no room, once it has (R573, R577). -/
def returnCredits (i : LinkId) (s : State) : State :=
  let l := s.lk.get i
  if l.unacked.length < 2048 then
    sendFlit i (.credit (creditEntries l.freed)) (setLink i { l with freed := List.replicate 16 0, owed := false } s)
  else setLink i { l with owed := true } s

/-- Makes a return that is due. -/
def returnOwed (i : LinkId) (s : State) : State := if (s.lk.get i).owed then returnCredits i s else s

/-- Takes an ACK; room in the retry buffer lets what waits go. -/
def takeAck (i : LinkId) (a : BitVec 12) (s : State) : State :=
  transmit i (returnOwed i (setLink i ((s.lk.get i).ackTo a) s))

/-- Sends every unacknowledged flit again, in order. -/
def resendAll (i : LinkId) (s : State) : State :=
  let l := s.lk.get i
  l.unacked.foldl (fun s f => putSequenced i f s) (setLink i { l with resent := satAdd l.resent l.unacked.length } s)

/-- A training starts (R579); the flit-layer state stays. -/
def startTraining (i : LinkId) (p : LinkPhase) (s : State) : State :=
  let l := s.lk.get i
  setPhase i p (setLink i { l with trainings := satInc l.trainings, seen := false, gotSeen := false, sentSeen := false, resends := 0 } s)

/-- ACK (R573). -/
def execAck (l : LinkId) (ack : BitVec 12) (s : State) : Host.Outcome State Fault Refusal :=
  linkDo l (linkLive s l) (takeAck l ack) s

/-- NAK (R574). -/
def execNak (l : LinkId) (ack : BitVec 12) (s : State) : Host.Outcome State Fault Refusal :=
  linkDo l (linkLive s l) (fun s => transmit l (returnOwed l (resendAll l (setLink l ((s.lk.get l).ackTo ack) s)))) s

/-- Resends after 4 µs without an advance; the eighth in a row retrains the link (R575). -/
def retryOnce (i : LinkId) (s : State) : State :=
  let s1 := resendAll i s
  let l := s1.lk.get i
  if 8 ≤ l.resends + 1 then startTraining i .phy s1 else setLink i { l with resends := l.resends + 1 } s1

/-- RETRY_TIMEOUT (R575). -/
def execRetryTimeout (l : LinkId) (s : State) : Host.Outcome State Fault Refusal :=
  linkDo l (linkLive s l && !(s.lk.get l).unacked.isEmpty) (retryOnce l) s

/-! ### Receiving (R572, R574, R577) -/

/-- One NAK, whose ACK names the last flit taken (R571, R574). -/
def sendNak (i : LinkId) (s : State) : State :=
  let l := s.lk.get i
  putFlit i flitNak 0 l.txSeq [] (setLink i { l with nakSent := true } s)

/-- A flit is discarded: a NAK, unless one has been sent since the last flit taken. -/
def nakOnce (i : LinkId) (s : State) : State :=
  let l := s.lk.get i
  if l.phase.carries && !l.nakSent then sendNak i s else s

/-- A flit that fails its CRC or has a reserved TYPE is counted (R572). -/
def countBadFlit (i : LinkId) (s : State) : State :=
  let l := s.lk.get i
  setLink i { l with crcErrors := satInc l.crcErrors } s

/-- A discarded flit. -/
def dropFlit (i : LinkId) (b : BadFlit) (s : State) : State :=
  match b with
  | .crc => nakOnce i (countBadFlit i s)
  | .reservedType => countBadFlit i s
  | .outOfOrder => nakOnce i s

/-- A link on which any flit can arrive: past flit-boundary location. -/
def LinkPhase.hears : LinkPhase → Bool
  | .init | .up | .upLimited => true
  | _ => false

/-- CRC_FAILURE (R572, R574). -/
def execCrcFailure (l : LinkId) (bad : BadFlit) (s : State) : Host.Outcome State Fault Refusal :=
  let p := (s.lk.get l).phase
  linkDo l (if bad = .outOfOrder then p.carries else p.hears) (dropFlit l bad) s

/-- Adds n to entry i of a list of units. -/
def addUnits (l : List Nat) (i n : Nat) : List Nat := l.set i (l.getD i 0 + n)

/-- A message or packet of `units` of a pool has arrived whole and in order, and its room is free again. How many flits were taken for it
the command does not tell: that number is free (LOG 38). -/
def arrived (i : LinkId) (pool units : Nat) (s : State) : State :=
  let l := s.lk.get i
  if linkLive s i then
    let l1 := { l with freed := addUnits l.freed pool units, nakSent := false,
                       rxNext := l.rxNext.map fun n => n + BitVec.ofNat 12 (Config.freePick s.freeCtr) }
    let s1 := { setLink i l1 s with freeCtr := s.freeCtr + 1 }
    if l1.freed.any fun n => 64 ≤ n then returnCredits i s1 else s1
  else s

/-- The units that a CREDIT flit's entries return; an entry of all zeros ends the list. -/
def addReturns : List W32 → List Nat → List Nat
  | [], c => c
  | e :: t, c => if e = 0 then c else addReturns t (addUnits c (e.toNat / 2 ^ 24 % 16) (e.toNat % 2 ^ 24))

/-- Takes a CREDIT flit in order, or discards it. -/
def takeCredit (i : LinkId) (ack seq : BitVec 12) (returns : List W32) (s : State) : State :=
  let l := s.lk.get i
  match l.rxNext with
  | some n =>
    if n = seq then
      takeAck i ack (setLink i { l with rxNext := some (seq + 1), nakSent := false, credits := addReturns returns l.credits } s)
    else dropFlit i .outOfOrder s
  | none =>
    takeAck i ack (setLink i { l with rxNext := some (seq + 1), nakSent := false, credits := addReturns returns l.credits } s)

/-- CREDIT (R577). -/
def execCredit (l : LinkId) (ack seq : BitVec 12) (returns : List W32) (s : State) : Host.Outcome State Fault Refusal :=
  if 30 < returns.length then .refused .illFormed
  else linkDo l (linkLive s l) (takeCredit l ack seq returns) s

/-- CREDIT_RETURN_TIMEOUT (R577). -/
def execCreditReturnTimeout (l : LinkId) (s : State) : Host.Outcome State Fault Refusal :=
  linkDo l (linkLive s l && (s.lk.get l).freed.any fun n => n != 0) (returnCredits l) s

/-! ### Packets sent (R594, R597, R601) -/

/-- The 32-byte header of an avenue packet. -/
def packetHeader (p : Packet) : List Byte :=
  leBytes 8 (p.payload.length * 2 ^ 48 + p.srcBoard.toNat * 2 ^ 40 + p.srcPos.toNat * 2 ^ 32 + p.dstBoard.toNat * 2 ^ 24
      + p.dstPos.toNat * 2 ^ 16 + (if p.hop then 2 ^ 11 else 0) + p.vl.toNat * 2 ^ 8 + p.ptype.toNat)
    ++ leBytes 8 (p.groupId.toNat * 2 ^ 32 + p.epoch.toNat) ++ leBytes 8 (p.obj.toNat * 2 ^ 32) ++ leBytes 8 p.offset.toNat

/-- Pool of a virtual lane and hop (R582). -/
def packetPool (p : Packet) : Nat := 2 * p.vl.toNat + if p.hop then 1 else 0

/-- Units of a packet (R594). -/
def packetUnits (p : Packet) : Nat := unitsOf (32 + p.payload.length)

/-- A packet as it waits for its avenue. -/
def packetMsg (p : Packet) (note : Option OutEvent) : OutMsg :=
  ⟨p.vl.toNat, packetPool p, packetUnits p, packetHeader p ++ p.payload, note⟩

/-- Hands a packet to an avenue. -/
def sendPacket (av : Fin 8) (p : Packet) (s : State) : State := linkPost (.av av) (packetMsg p (some (.packet av p))) s

/-- A packet from this module to the neighbour on an avenue. -/
def toNeighbour (s : State) (av : Fin 8) (vl : BitVec 3) (ptype : Byte) (obj : W32) (offset : W64) (payload : List Byte) : Packet :=
  let l := s.lk.avs[av]
  { srcBoard := s.lk.board, srcPos := BitVec.ofNat 5 s.rst.position.toNat, dstBoard := l.board, dstPos := BitVec.ofNat 5 l.pos.toNat,
    hop := false, vl := vl, ptype := ptype, groupId := 0, epoch := 0, obj := obj, offset := offset, payload := payload }

/-- Security version and protocol of the running bundle; 0 where there is none. -/
def runningSv (s : State) : W32 := match s.sec.running with
  | some b => b.sv
  | none => 0
def runningProtocol (s : State) : W32 := match s.sec.running with
  | some b => b.protocol
  | none => 0

/-- PEER_STATE to the neighbour of an avenue (R601). -/
def sendPeerState (av : Fin 8) (s : State) : State :=
  sendPacket av (toNeighbour s av 4 0x50 0 0
    (leBytes 4 (runningSv s).toNat ++ leBytes 1 (if s.sec.limited = 0 then 0 else 1) ++ List.replicate 11 0)) s

/-! ### Firmware transfers that end (R605) -/

/-- A firmware transfer ends on this module: its alert (R637). -/
def endFwRx (s : State) : State := raiseAlert 256 { s with lk := { s.lk with fwRx := none } }
def endFwTx (s : State) : State := raiseAlert 256 { s with lk := { s.lk with fwTx := none } }

/-- The transfers of a link whose INCARNATION changes are abandoned. -/
def abandonTransfers (i : LinkId) (s : State) : State :=
  match i with
  | .cl => s
  | .av n =>
    let s1 := match s.lk.fwRx with
      | some r => if r.av = n then endFwRx s else s
      | none => s
    match s1.lk.fwTx with
    | some t => if t.av = n then endFwTx s1 else s1
    | none => s1

/-! ### Training (R578 to R582) -/

/-- The grants a module offers, by pool (R582). -/
def ownGrants : LinkId → List W32
  | .cl => [256, 1024, 64] ++ List.replicate 13 0
  | .av _ => [4096, 4096, 4096, 4096, 2048, 2048, 256, 256] ++ [256, 256] ++ List.replicate 6 0

/-- The INCARNATION this module names on a link (R580, R690). -/
def ownIncarnation (s : State) (i : LinkId) : W64 := ((s.lk.get i).ownInc).getD s.lk.incarnation

/-- The INIT flit this module sends. -/
def ownInit (s : State) (i : LinkId) : InitMsg :=
  { proto := runningProtocol s, role := 1, pos := BitVec.ofNat 8 s.rst.position.toNat, board := s.lk.board, seen := (s.lk.get i).seen,
    incarnation := ownIncarnation s i, grants := ownGrants i, cbytes := 0 }

/-- The payload of an INIT flit, at its places (R578). -/
def initBytes (m : InitMsg) : List Byte :=
  leBytes 4 m.proto.toNat ++ [m.role, m.pos, m.board, if m.seen then 1 else 0] ++ leBytes 8 m.incarnation.toNat
    ++ (m.grants.flatMap fun g => leBytes 4 g.toNat) ++ leBytes 8 m.cbytes.toNat

/-- Packets that wait for an avenue and that it will not take are discarded and counted (R598). -/
def dropWaiting (av : Fin 8) (gone : OutMsg → Bool) (s : State) : State :=
  let l := s.lk.avs[av]
  let s1 := setLink (.av av) { l with waiting := l.waiting.filter fun m => !gone m } s
  { s1 with lk := { s1.lk with discarded := satAdd s1.lk.discarded (l.waiting.filter gone).length } }

/-- An avenue that comes up limited takes no packet of VL 0 to VL 2 (R598). -/
def dropLimited (av : Fin 8) (s : State) : State := dropWaiting av (fun m => decide (m.ch < 3)) s

/-- One that becomes disabled takes none (R598; of VL 3 and VL 4, LOG 46). -/
def dropDisabled (av : Fin 8) (s : State) : State := dropWaiting av (fun _ => true) s

/-- Protocol majors agree (R599, R600). -/
def majorsAgree (a b : W32) : Bool := a.toNat / 2 ^ 16 == b.toNat / 2 ^ 16

/-- The link comes UP, or UP_LIMITED where the majors differ; an avenue then sends PEER_STATE, and what waited goes (R579, R598 to
R601). -/
def enterUp (i : LinkId) (s : State) : State :=
  let agree := majorsAgree (s.lk.get i).proto (runningProtocol s)
  let s1 := setPhase i (if agree then .up else .upLimited) s
  transmit i (match i with
    | .cl => s1
    | .av n => sendPeerState n (if agree then s1 else dropLimited n s1))

/-- UP once an INIT with SEEN set has come and one with SEEN set has been sent. -/
def tryUp (i : LinkId) (s : State) : State :=
  let l := s.lk.get i
  if l.gotSeen && l.sentSeen then enterUp i s else s

/-- Flit-layer state of a link that starts afresh (R580). -/
def Link.afresh (l : Link) : Link :=
  { l with txSeq := 0, unacked := [], resends := 0, rxNext := some 0, nakSent := false, credits := l.grants,
           freed := List.replicate 16 0, owed := false }

/-- What an INIT's fields say of the peer. -/
def Link.heard (l : Link) (m : InitMsg) : Link :=
  { l with role := m.role, pos := m.pos, board := m.board, proto := m.proto, peerInc := some m.incarnation,
           cbytes := BitVec.ofNat 64 (min m.cbytes.toNat (2 ^ 47)), grants := m.grants.map BitVec.toNat, seen := true,
           gotSeen := l.gotSeen || m.seen }

/-- Takes an INIT flit during training. -/
def takeInit (i : LinkId) (m : InitMsg) (s : State) : State :=
  let l := s.lk.get i
  let l1 := l.heard m
  if l.peerInc = some m.incarnation then tryUp i (setLink i l1 s)
  else
    let s1 := setLink i l1.afresh s
    tryUp i (if l.peerInc.isSome then abandonTransfers i s1 else s1)

/-- INIT (R579): taken while the INIT exchange runs; one that comes once the link is up changes nothing. -/
def execInitFlit (l : LinkId) (m : InitMsg) (s : State) : Host.Outcome State Fault Refusal :=
  if m.grants.length ≠ 16 then .refused .illFormed
  else linkDo l (s.lk.get l).phase.hears (fun s => if (s.lk.get l).phase = .init then takeInit l m s else s) s

/-- Sends an INIT flit. -/
def sendInit (i : LinkId) (s : State) : State :=
  let l := s.lk.get i
  let m := ownInit s i
  let s1 := setLink i { l with sentSeen := l.sentSeen || l.seen } s
  tryUp i (putFlit i flitInit 0 l.txSeq (initBytes m) s1)

/-- INIT_SEND (R578). -/
def execInitSend (l : LinkId) (s : State) : Host.Outcome State Fault Refusal :=
  linkDo l ((s.lk.get l).phase == .init) (sendInit l) s

/-- FLIT_BOUNDARY_LOCATED (R579): step 3 of the training ends. -/
def execFlitBoundaryLocated (l : LinkId) (s : State) : Host.Outcome State Fault Refusal :=
  linkDo l ((s.lk.get l).phase == .phy) (setPhase l .init) s

/-- TRAINING_TIMEOUT (R579). -/
def execTrainingTimeout (l : LinkId) (s : State) : Host.Outcome State Fault Refusal :=
  let p := (s.lk.get l).phase
  linkDo l (p == .phy || p == .init) (startTraining l .phy) s

/-- A PHY PLL loses lock: its own link goes down to retrain (R676). -/
def losePll (i : LinkId) (s : State) : State :=
  let s1 := { s with rst := { s.rst with pllLosses := satInc s.rst.pllLosses } }
  if (s.lk.get i).phase = .down then s1 else startTraining i .phy s1

/-- LINK_PLL_LOCK_LOSS (R676). -/
def execLinkPllLockLoss (l : LinkId) (s : State) : Host.Outcome State Fault Refusal :=
  linkDo l true (losePll l) s

end Sys2Proof.Machine
end

