-- ==== Sys2Proof/Machine/MlDsa.lean ====
section
/-! DEFINITION. ML-DSA-87 as FIPS 204 gives it (R655, R656, R659): the public key of a seed, signing and verification of a message that
already holds its context. PRESUMED: the standard's algorithms are not in the manual (LOG 16). A polynomial is its 256 coefficients
below q. -/

namespace Sys2Proof.Machine

def mlQ : Nat := 8380417
def mlGamma1 : Nat := 2 ^ 19
def mlGamma2 : Nat := (mlQ - 1) / 32
def mlBeta : Nat := 120
def mlOmega : Nat := 75
/-- Rows and columns of the matrix. -/
def mlK : Nat := 8
def mlL : Nat := 7

/-! ### Polynomials and the transform -/

def polyAdd (a b : List Nat) : List Nat := List.zipWith (fun x y => (x + y) % mlQ) a b
def polySub (a b : List Nat) : List Nat := List.zipWith (fun x y => (x + mlQ - y) % mlQ) a b
def polyMul (a b : List Nat) : List Nat := List.zipWith (fun x y => x * y % mlQ) a b
def polyScale (z : Nat) (a : List Nat) : List Nat := a.map fun x => z * x % mlQ

/-- A number's eight bits in reverse. -/
def reverse8 (m : Nat) : Nat := (List.range 8).foldl (fun r i => 2 * r + m / 2 ^ i % 2) 0

/-- The transform of 2^n coefficients under node m. -/
def ntt : (n m : Nat) → List Nat → List Nat
  | 0, _, l => l
  | n + 1, m, l =>
    let a := l.take (2 ^ n)
    let t := polyScale (1753 ^ reverse8 m % mlQ) (l.drop (2 ^ n))
    ntt n (2 * m) (polyAdd a t) ++ ntt n (2 * m + 1) (polySub a t)

/-- Its inverse, but for the factor 2^n. -/
def unNtt : (n m : Nat) → List Nat → List Nat
  | 0, _, l => l
  | n + 1, m, l =>
    let a := unNtt n (2 * m) (l.take (2 ^ n))
    let b := unNtt n (2 * m + 1) (l.drop (2 ^ n))
    polyAdd a b ++ polyScale (1753 ^ (512 - reverse8 m) % mlQ) (polySub a b)

def toNtt (l : List Nat) : List Nat := ntt 8 1 l
def fromNtt (l : List Nat) : List Nat := polyScale 8347681 (unNtt 8 1 l)

def zeroPoly : List Nat := List.replicate 256 0

/-- A matrix by a vector, both transformed. -/
def matVec (a : List (List (List Nat))) (v : List (List Nat)) : List (List Nat) :=
  a.map fun row => (List.zipWith polyMul row v).foldl polyAdd zeroPoly

/-! ### Rounding and hints -/

/-- The representative of x modulo m nearest to 0, the positive one of two. -/
def centred (x m : Nat) : Int := if m / 2 < x % m then (x % m : Int) - m else x % m

def ofInt (x : Int) : Nat := (x % mlQ).toNat

def polyNorm (l : List Nat) : Nat := l.foldl (fun n x => max n (centred x mlQ).natAbs) 0
def vecNorm (v : List (List Nat)) : Nat := v.foldl (fun n l => max n (polyNorm l)) 0

/-- Power2Round: the high and low part by 2^13. -/
def power2Round (r : Nat) : Nat × Int := (((r - centred r 8192) / 8192).toNat, centred r 8192)

/-- Decompose: the high and low part by twice γ2. -/
def decompose (r : Nat) : Nat × Int :=
  let r0 := centred r (2 * mlGamma2)
  if (r : Int) - r0 = mlQ - 1 then (0, r0 - 1) else (((r : Int) - r0).toNat / (2 * mlGamma2), r0)

/-- UseHint. -/
def useHint (h : Bool) (r : Nat) : Nat :=
  let d := decompose r
  if !h then d.1 else if 0 < d.2 then (d.1 + 1) % 16 else (d.1 + 15) % 16

/-! ### Bytes -/

/-- Coefficients of w bits each, the first in the lowest bits. -/
def packBits (w : Nat) (l : List Nat) : List Byte := leBytes (w * l.length / 8) (l.foldr (fun x acc => x + 2 ^ w * acc) 0)
def unpackBits (w : Nat) (bs : List Byte) : List Nat :=
  let v := leNat bs
  (List.range 256).map fun i => v / 2 ^ (w * i) % 2 ^ w

/-- Coefficients from -b + 1 (or less) to b, kept as their distance below b. -/
def packBelow (w b : Nat) (l : List Nat) : List Byte := packBits w (l.map fun x => ((b : Int) - centred x mlQ).toNat)
def unpackBelow (w b : Nat) (bs : List Byte) : List Nat := (unpackBits w bs).map fun (x : Nat) => ofInt ((b : Int) - (x : Int))

/-- Consecutive pieces of n bytes. -/
def piecesOf (n count : Nat) (bs : List Byte) : List (List Byte) := (List.range count).map fun i => (bs.drop (n * i)).take n

/-- HintBitPack. -/
def packHints (h : List (List Bool)) : List Byte :=
  let places := h.map fun l => (l.zipIdx.filter fun p => p.1).map fun p => p.2
  let ends := places.foldl (fun (a : List Nat) p => a ++ [a.getLastD 0 + p.length]) []
  let all := places.flatten
  (all ++ List.replicate (mlOmega - all.length) 0 ++ ends).map fun n => BitVec.ofNat 8 n

def rising : List Nat → Bool
  | a :: b :: t => decide (a < b) && rising (b :: t)
  | _ => true

/-- HintBitUnpack of 83 bytes: the hints, where they are well formed. -/
def unpackHints (bs : List Byte) : Option (List (List Bool)) :=
  let y := bs.map BitVec.toNat
  let ends := y.drop mlOmega
  let begins := 0 :: ends.dropLast
  let places := List.zipWith (fun b e => (y.drop b).take (e - b)) begins ends
  if (List.zipWith (fun b e => decide (b ≤ e ∧ e ≤ mlOmega)) begins ends).all id && places.all rising
      && ((y.take mlOmega).drop (ends.getLastD 0)).all (· == 0) then
    some (places.map fun p => (List.range 256).map fun j => p.contains j)
  else none

/-! ### Sampling -/

/-- RejNTTPoly: 1,008 bytes of SHAKE128 hold 256 coefficients below q. -/
def uniformPoly (seed : List Byte) : List Nat :=
  (((piecesOf 3 336 (shake 168 1008 seed)).map fun b => leNat b % 2 ^ 23).filter fun x => decide (x < mlQ)).take 256

/-- ExpandA. -/
def expandA (rho : List Byte) : List (List (List Nat)) :=
  (List.range mlK).map fun r => (List.range mlL).map fun c => uniformPoly (rho ++ [BitVec.ofNat 8 c, BitVec.ofNat 8 r])

/-- RejBoundedPoly: half bytes below 15 give coefficients from -2 to 2. -/
def boundedPoly (seed : List Byte) : List Nat :=
  let halves := (shake 136 544 seed).flatMap fun b => [b.toNat % 16, b.toNat / 16]
  ((halves.filter fun x => decide (x < 15)).take 256).map fun x => ofInt (2 - ((x % 5 : Nat) : Int))

/-- ExpandS. -/
def expandS (seed : List Byte) (first count : Nat) : List (List Nat) :=
  (List.range count).map fun r => boundedPoly (seed ++ leBytes 2 (first + r))

/-- ExpandMask. -/
def expandMask (seed : List Byte) (kappa : Nat) : List (List Nat) :=
  (List.range mlL).map fun r => unpackBelow 20 mlGamma1 (shake 136 640 (seed ++ leBytes 2 (kappa + r)))

/-- The rest of SampleInBall from coefficient 256 - left on: signs in order, bytes that choose places. -/
def ballFrom : (left : Nat) → List Nat → List Byte → List Nat → List Nat
  | left + 1, sign :: signs, bs, c =>
    let i := 255 - left
    let rest := bs.dropWhile fun b => decide (i < b.toNat)
    match rest with
    | b :: t => ballFrom left signs t ((c.set i (c.getD b.toNat 0)).set b.toNat (if sign = 1 then mlQ - 1 else 1))
    | [] => c
  | _, _, _, c => c

/-- SampleInBall: 60 coefficients 1 or -1. -/
def sampleInBall (seed : List Byte) : List Nat :=
  let bs := shake 136 544 seed
  let signs := leNat (bs.take 8)
  ballFrom 60 ((List.range 60).map fun i => signs / 2 ^ i % 2) (bs.drop 8) zeroPoly

/-! ### Keys -/

/-- A key pair. -/
structure MlKey where
  rho : List Byte
  k : List Byte
  s1 : List (List Nat)
  s2 : List (List Nat)
  t0 : List (List Nat)
  t1 : List (List Nat)

def polyOf (f : Nat → Nat) (v : List (List Nat)) : List (List Nat) := v.map fun l => l.map f

/-- ML-DSA.KeyGen from its seed. -/
def mlKeyGen (seed : List Byte) : MlKey :=
  let x := shake 136 128 (seed ++ [BitVec.ofNat 8 mlK, BitVec.ofNat 8 mlL])
  let rho := x.take 32
  let sec := (x.drop 32).take 64
  let s1 := expandS sec 0 mlL
  let s2 := expandS sec mlL mlK
  let t := List.zipWith polyAdd ((matVec (expandA rho) (s1.map toNtt)).map fromNtt) s2
  { rho := rho, k := x.drop 96, s1 := s1, s2 := s2, t0 := polyOf (fun r => ofInt (power2Round r).2) t,
    t1 := polyOf (fun r => (power2Round r).1) t }

/-- The 2,592 bytes of a public key. -/
def MlKey.publicKey (x : MlKey) : List Byte := x.rho ++ x.t1.flatMap (packBits 10)

/-- The device key pair (R655; LOG 16). -/
def deviceKey : MlKey := mlKeyGen ((List.range 32).map Config.deviceSeed)

/-! ### Signing and verification -/

def packHigh (w : List (List Nat)) : List Byte := w.flatMap (packBits 4)

/-- What a message is signed as under a public key. -/
def mlMu (pk message : List Byte) : List Byte := shake 136 64 (shake 136 64 pk ++ message)

/-- One attempt at a signature. -/
def mlAttempt (x : MlKey) (a : List (List (List Nat))) (mu mask : List Byte) (kappa : Nat) : Option (List Byte) :=
  let y := expandMask mask kappa
  let w := (matVec a (y.map toNtt)).map fromNtt
  let ct := shake 136 64 (mu ++ packHigh (polyOf (fun r => (decompose r).1) w))
  let c := toNtt (sampleInBall ct)
  let by' := fun v => v.map fun l => fromNtt (polyMul c (toNtt l))
  let z := List.zipWith polyAdd y (by' x.s1)
  let low := List.zipWith polySub w (by' x.s2)
  let ct0 := by' x.t0
  let hints := List.zipWith (List.zipWith fun r t => (decompose ((r + t) % mlQ)).1 != (decompose r).1) low ct0
  let r0 := low.foldl (fun n l => l.foldl (fun n r => max n (decompose r).2.natAbs) n) 0
  if mlGamma1 - mlBeta ≤ vecNorm z ∨ mlGamma2 - mlBeta ≤ r0 ∨ mlGamma2 ≤ vecNorm ct0
      ∨ mlOmega < (hints.flatten.filter id).length then none
  else some (ct ++ z.flatMap (packBelow 20 mlGamma1) ++ packHints hints)

/-- Attempts until one succeeds. -/
def mlAttempts (x : MlKey) (a : List (List (List Nat))) (mu mask : List Byte) : (left kappa : Nat) → Option (List Byte)
  | 0, _ => none
  | n + 1, kappa => match mlAttempt x a mu mask kappa with
    | some g => some g
    | none => mlAttempts x a mu mask n (kappa + mlL)

/-- ML-DSA.Sign with 32 random bytes; FIPS 204 lets an implementation give up after 814 attempts. -/
def mlSign (x : MlKey) (message rnd : List Byte) : Option (List Byte) :=
  let mu := mlMu x.publicKey message
  mlAttempts x (expandA x.rho) mu (shake 136 64 (x.k ++ rnd ++ mu)) 814 0

/-- ML-DSA.Verify. -/
def mlVerify (pk message sig : List Byte) : Bool :=
  match unpackHints (sig.drop 4544) with
  | none => false
  | some h =>
    let ct := sig.take 64
    let z := (piecesOf 640 mlL (sig.drop 64)).map (unpackBelow 20 mlGamma1)
    let t1 := (piecesOf 320 mlK (pk.drop 32)).map fun b => toNtt (polyScale 8192 (unpackBits 10 b))
    let c := toNtt (sampleInBall ct)
    let w := List.zipWith polySub (matVec (expandA (pk.take 32)) (z.map toNtt)) (t1.map (polyMul c))
    let high := List.zipWith (List.zipWith useHint) h (w.map fromNtt)
    pk.length == 2592 && sig.length == 4627 && decide (vecNorm z < mlGamma1 - mlBeta)
      && shake 136 64 (mlMu pk message ++ packHigh high) == ct

end Sys2Proof.Machine
end

