-- ==== Sys2Proof/Machine/Bundle.lean ====
section
/-! DEFINITION. Firmware bundles: their layout and checks (R658 to R660), staging (R662, R663) and the offer onward (R604). -/

namespace Sys2Proof.Machine

/-! ### Layout (R658) -/

def bundleMax : Nat := 2 ^ 28
def bundleHead : Nat := 384
def bundleSig : Nat := 4627

/-- n bytes of a header from byte i, as a number. -/
def hdrNat (h : List Byte) (i n : Nat) : Nat := leNat ((h.drop i).take n)

/-- An image entry: offset, length, version, digest. -/
structure ImageEntry where
  off : Nat
  len : Nat
  version : W32
  digest : List Byte
  deriving DecidableEq, Repr

/-- The entry of image k: 0 Hall, 1 kiosk, 2 ground floor. -/
def imageEntry (h : List Byte) (k : Nat) : ImageEntry :=
  let b := 112 + 84 * k
  { off := hdrNat h b 4, len := hdrNat h (b + 4) 4, version := BitVec.ofNat 32 (hdrNat h (b + 8) 4), digest := (h.drop (b + 20)).take 64 }

def imageEntries (h : List Byte) : List ImageEntry := (List.range 3).map (imageEntry h)

/-- Where the signature lies: directly after the last image. -/
def signatureAt (h : List Byte) : Nat := (imageEntries h).foldl (fun m e => max m (e.off + e.len)) bundleHead

def bundleLength (h : List Byte) : Nat := signatureAt h + bundleSig

def allZero (l : List Byte) : Bool := l.all fun b => b == 0

/-- Images lie after the header, each at a multiple of 4 KiB, without overlapping. -/
def imagesOk (l : List ImageEntry) : Bool :=
  (l.all fun e => e.off % 4096 == 0 && bundleHead ≤ e.off)
  && (l.zipIdx.all fun x => (l.take x.2).all fun y => x.1.off + x.1.len ≤ y.off || y.off + y.len ≤ x.1.off)

/-- Length and layout, FORMAT and HW_TYPE, for a bundle in a region of `room` bytes. -/
def layoutOk (h : List Byte) (room : Nat) : Bool :=
  let n := hdrNat h 6 1
  hdrNat h 0 4 == 0x100 && hdrNat h 4 2 == 0x8032 && 1 ≤ n && n ≤ 16 && hdrNat h 7 1 ≤ 3
  && allZero ((h.drop 35).take 1) && allZero ((h.drop (44 + 4 * n)).take (4 * (16 - n))) && allZero ((h.drop 108).take 4)
  && ((List.range 3).all fun k => allZero ((h.drop (112 + 84 * k + 12)).take 8)) && allZero ((h.drop 364).take 20)
  && imagesOk (imageEntries h) && bundleLength h ≤ bundleMax && bundleLength h ≤ room

/-- A digest as a number. -/
def digestOf (l : List Byte) : BitVec 512 := BitVec.ofNat 512 (leNat l)

/-- The bytes of an image in a bundle. -/
def imageBytes (bs : List Byte) (e : ImageEntry) : List Byte := (bs.drop e.off).take e.len

/-- What a bundle's header says, with the digests of its bytes before the signature and of its images as they are loaded (R657). -/
def bundleInfo (bs : List Byte) : BundleInfo :=
  let h := bs.take bundleHead
  let img := fun k => imageEntry h k
  let measured := fun k => digestOf (sha3_512 (imageBytes bs (img k)))
  { sv := BitVec.ofNat 32 (hdrNat h 8 4), version := BitVec.ofNat 32 (hdrNat h 12 4), vkey := hdrNat h 7 1,
    serial := BitVec.ofNat 128 (hdrNat h 16 16), schema := BitVec.ofNat 16 (hdrNat h 32 2), revoke := BitVec.ofNat 8 (hdrNat h 34 1),
    catalogue := BitVec.ofNat 32 (hdrNat h 36 4), protocol := BitVec.ofNat 32 (hdrNat h 40 4),
    steppings := (List.range (hdrNat h 6 1)).map fun i => BitVec.ofNat 32 (hdrNat h (44 + 4 * i) 4),
    hallVersion := (img 0).version, kioskVersion := (img 1).version, gfVersion := (img 2).version,
    bundleDigest := digestOf (sha3_512 (bs.take (signatureAt h))), hallDigest := measured 0, kioskDigest := measured 1,
    gfDigest := measured 2 }

/-! ### Checks (R659, R660) -/

/-- A bit of the Omcen key revocation fuses. -/
def omcenRevoked (p : Persist) (k : Nat) : Bool := p.omcenRevoked.toNat / 2 ^ k % 2 == 1

/-- The message that FIPS 204's ML-DSA signs in its pure form: the context string is a part of it. -/
def pureMessage (context : String) (m : List Byte) : List Byte :=
  [0, BitVec.ofNat 8 (asciiBytes context).length] ++ asciiBytes context ++ m

/-- The same in its pre-hash form with SHA3-512, whose object identifier stands before the digest. -/
def hashMessage (context : String) (m : List Byte) : List Byte :=
  [1, BitVec.ofNat 8 (asciiBytes context).length] ++ asciiBytes context
    ++ [0x06, 0x09, 0x60, 0x86, 0x48, 0x01, 0x65, 0x03, 0x04, 0x02, 0x0A] ++ sha3_512 m

/-- The signature of a bundle under the Omcen key that it names (R659). -/
def signatureOk (bs : List Byte) : Bool :=
  let h := bs.take bundleHead
  let sig := signatureAt h
  mlVerify (Config.omcenKey (hdrNat h 7 1)) (hashMessage "GLOFATHAL BUNDLE" (bs.take sig)) ((bs.drop sig).take bundleSig)

/-- The verified level, as an outcome code of R663: 0 passed, 1 digest mismatch, 2 layout, type, key or signature refused. -/
def verifyBytes (p : Persist) (bs : List Byte) : Nat :=
  let h := bs.take bundleHead
  if !layoutOk h bs.length || omcenRevoked p (hdrNat h 7 1) then 2
  else if !((imageEntries h).all fun e => sha3_512 (imageBytes bs e) == e.digest) then 1
  else if signatureOk bs then 0
  else 2

/-- The bytes of the bundle at an address, as far as a region of `room` bytes holds them. -/
def bundleAt (s : State) (a room : Nat) : List Byte := peekList s a (min (bundleLength (peekList s a bundleHead)) room)

/-- What the stageable level adds, as an outcome code: 3 security version below the fuse, 4 bound to another serial, or a binding
required. -/
def stageable (p : Persist) (b : BundleInfo) : Nat :=
  if b.sv < p.fuseSv then 3
  else if (b.serial ≠ 0 ∧ b.serial ≠ p.serial) ∨ (p.serialBinding = true ∧ b.serial = 0) then 4
  else 0

/-- The steppings of the full-service level. -/
def steppingOk (p : Persist) (b : BundleInfo) : Bool := b.steppings.contains p.steppings

/-! ### The offer onward (R602 to R604) -/

def avenueOf (b : Byte) : Option (Fin 8) := if h : b.toNat < 8 then some ⟨b.toNat, h⟩ else none

/-- Offers the bundle in the receive region onward on the chain's next avenue, where there is one. -/
def offerOnward (len : Nat) (digest : List Byte) (s : State) : State :=
  match avenueOf s.lk.chainNext with
  | none => s
  | some av =>
    let n := s.lk.fwNum + 1
    let s1 := { s with lk := { s.lk with fwNum := n, fwTx := some ⟨av, n, len, digest, false⟩,
                                         fwOffered := s.lk.fwOffered ++ [digest] } }
    sendPacket av (toNeighbour s1 av 3 0x40 n 0 (leBytes 8 len ++ digest)) s1

/-! ### Staging (R662, R663) -/

/-- The outcome of staging from its verified and stageable checks and from flash. -/
def stagingOutcome (s : State) (v : Nat) (bs : List Byte) : Nat :=
  if v ≠ 0 then v
  else if stageable s.persist (bundleInfo bs) ≠ 0 then stageable s.persist (bundleInfo bs)
  else if Config.flashOk s.freeCtr then 0
  else 5

/-- Staging begins: the checks are made on the bundle as it lies now, it is offered onward once verified, and the result waits for
STAGING_COMPLETE (LOG 39). -/
def startStaging (fromChain : Bool) (s0 : State) : State :=
  let a := s0.lk.rxBase.toNat
  let h := peekList s0 a bundleHead
  let x := readByHall a (min (bundleLength h) s0.lk.rxBytes.toNat) s0
  let s := x.2
  let bs := bundleAt s a s.lk.rxBytes.toNat
  let v := if x.1 then 1 else verifyBytes s.persist bs
  let whole := sha3_512 bs
  let w : StagingWork :=
    { outcome := stagingOutcome s v bs, info := if v = 0 then some (bundleInfo bs) else none, bytes := bs, digest := whole,
      fromChain := fromChain }
  let s1 := { s with sec := { s.sec with stagingState := 1, stagingWork := some w }, freeCtr := s.freeCtr + 1 }
  if v = 0 then offerOnward (bundleLength h) whole s1 else s1

/-- The slot that is not the running one. -/
def FlashSlot.other : FlashSlot → FlashSlot
  | .a => .b
  | .b => .a

def Persist.slot (p : Persist) : FlashSlot → Option (List Byte)
  | .a => p.slotA
  | .b => p.slotB

def Persist.setSlot (p : Persist) (x : FlashSlot) (b : Option (List Byte)) : Persist :=
  match x with
  | .a => { p with slotA := b }
  | .b => { p with slotB := b }

/-- Staging ends: the staging slot holds the bundle, or it is refused, which raises FIRMWARE (R722); a flash failure leaves no bundle in the
slot (LOG 39). -/
def endStaging (w : StagingWork) (s : State) : State :=
  let st := s.sec.runningSlot.other
  let sec := { s.sec with stagingWork := none, stagingOutcome := BitVec.ofNat 8 w.outcome }
  match w.outcome, w.info with
  | 0, some b =>
    { s with sec := { sec with stagingState := 2, stagedVersion := b.version, stagedSv := b.sv },
             persist := s.persist.setSlot st (some w.bytes), lk := { s.lk with fwStaged := s.lk.fwStaged ++ [w.digest] } }
  | 5, _ => raiseAlert 256 { s with sec := { sec with stagingState := 3 }, persist := s.persist.setSlot st none }
  | _, _ => raiseAlert 256 { s with sec := { sec with stagingState := 3 } }

/-- STAGING_COMPLETE (R663). -/
def execStagingComplete (s : State) : Host.Outcome State Fault Refusal :=
  if !running s then .fault .notRunning
  else match s.sec.stagingWork with
    | some w => .next (endStaging w s)
    | none => .next s

end Sys2Proof.Machine
end

