-- ==== Sys2Proof/Machine/Care.lean ====
section
/-! DEFINITION. CARE: the caretakers' update, emission and scan passes (spec/10). -/

namespace Sys2Proof.Machine

/-! ### The descriptor (R405, R407) -/

structure CareFields where
  list : Nat
  count : Nat
  hyper : Nat
  phase : Nat
  clip : Nat
  csmode : Nat
  amaxsrc : Nat
  rnd : Nat
  ovf : Nat
  hdr : Nat
  ncell : Nat
  stream : W32
  gamax : F32
  holdWin : Nat
  deriving DecidableEq, Repr, Inhabited

def careFields (d : Desc) : CareFields :=
  { list := fld d.w2 63 16, count := fld d.w2 15 0, hyper := fld d.w3 63 16, phase := fld d.w3 15 12, clip := fld d.w3 11 10,
    csmode := fld d.w3 9 8, amaxsrc := fld d.w3 7 6, rnd := fld d.w3 3 2, ovf := fld d.w3 1 0, hdr := fld d.w4 63 16,
    ncell := fld d.w5 63 16, stream := BitVec.ofNat 32 (fld d.w6 63 32), gamax := BitVec.ofNat 32 (fld d.w6 31 0),
    holdWin := fld d.w7 63 56 }

def CareFields.updates (f : CareFields) : Bool := f.phase == 0 || f.phase == 2
def CareFields.emits (f : CareFields) : Bool := f.phase == 1 || f.phase == 2

def isCare (phase : Nat) (d : Desc) : Bool := descClass d == clsCare && (careFields d).phase == phase

/-- The field checks of R408's first row. -/
def careFieldsOk (d : Desc) (f : CareFields) : Bool :=
  fld d.w3 5 4 == 0 && fld d.w4 15 0 == 0 && fld d.w5 15 0 == 0 && fld d.w7 55 0 == 0 && f.phase ≤ 3 && f.clip ≤ 2 && f.csmode ≤ 1
  && f.amaxsrc ≤ 2 && f.rnd != 3 && f.ovf != 3 && 1 ≤ f.count && f.hyper % 64 == 0 && f.hdr % 64 == 0 && f.ncell % 16 == 0
  && (f.updates || (f.hyper == 0 && f.clip == 0 && f.hdr == 0)) && (f.emits || (f.csmode == 0 && f.amaxsrc == 0))
  && (f.clip != 0 || f.ncell == 0)
  && (if f.amaxsrc = 2 then f32FiniteNonneg f.gamax else f.gamax == 0)
  && (if f.csmode = 1 then 1 ≤ f.holdWin && f.holdWin ≤ 64 else f.holdWin == 0)

/-! ### Care records and hyperparameters (R383 to R387) -/

structure CareRec where
  addr : Nat
  opt : Nat
  base : Nat
  master : Nat
  n : Nat
  m1 : TRec
  m2 : Option TRec
  grad : TRec
  pair : Pair
  avalid : Bool
  amax : F32
  utag : W32
  stack : Nat
  deriving Repr

/-- The ranges that R384 wants in one stack-local region. -/
def careRanges (a master n : Nat) (ts : List TRec) : List (Nat × Nat) := [(a, 64), (master, 4 * n)] ++ ts.flatMap planeRanges

/-- The next buffer of a working copy: planes and coarse scale. -/
def nextOfPair (p : Pair) : List (Nat × Nat) :=
  [(p.next.elem, p.next.elemBytes), (p.next.scale, p.next.scaleBytes), (p.next.addr + 28, 4)]

/-- A gradient format: any format a kernel may read (R150). -/
def gradFmt (f : Fmt) : Bool := f != .l8 && f != .a34

/-- The own fields of a care record against R383, R395 and R400. -/
def careWordsOk (f : CareFields) (tag : W32) (w : List W64) : Bool :=
  let g := fun i => w.getD i 0
  let opt := fld (g 0) 55 54
  kindOf (g 0) == 0xCA && opt != 3 && fld (g 0) 53 52 == 0 && fld (g 0) 43 40 == 0 && fld (g 1) 15 0 == 0 && fld (g 2) 15 0 == 0
    && fld (g 3) 15 0 == 0 && fld (g 4) 15 0 == 0 && fld (g 5) 11 0 == 0 && 1 ≤ fld (g 6) 63 24 && fld (g 6) 23 1 == 0
    && fld (g 0) 51 48 ≤ 1
    && (if opt = 0 then fld (g 0) 47 44 == 0 || fld (g 0) 47 44 == 5 else fld (g 0) 47 44 == 0 && fld (g 3) 63 16 == 0)
    && (fld (g 5) 15 12 == 2 || fld (g 5) 15 12 == 4)
    && (!f.updates || BitVec.ofNat 32 (fld (g 7) 31 0) != tag) && (f.phase != 1 || f.amaxsrc == 2 || bit (g 6) 0)

/-- What a care record names, as far as it can be read; M2 only where there is one; of the pair, its records that can be read and the
whole. -/
structure CareNames where
  m1 : Except Nat TRec
  m2 : Option (Except Nat TRec)
  grad : Except Nat TRec
  pair : List TRec × Except Nat Pair

/-- The tensor records and the pair that the words of a care record name. -/
def getCareNames (w : List W64) : M CareNames := do
  let g := fun i => w.getD i 0
  let m1 ← soften (getTRec (fld (g 2) 63 16))
  let m2 ← if fld (g 0) 55 54 = 0 then (do return some (← soften (getTRec (fld (g 3) 63 16)))) else pure none
  let grad ← soften (getTRec (fld (g 4) 63 16))
  return ⟨m1, m2, grad, ← softPair (fld (g 5) 63 16)⟩

/-- A check on every tensor that could be read. -/
def CareNames.all (x : CareNames) (m1 m2 grad buffer : TRec → Bool) : Bool :=
  softly m1 x.m1 && x.m2.all (softly m2) && softly grad x.grad && x.pair.1.all buffer

/-- Their shapes and formats; 1 ÷ a moment's coarse scale matters only where the moment is written (R74). -/
def careShapesOk (f : CareFields) (w : List W64) (x : CareNames) : Bool :=
  let g := fun i => w.getD i 0
  let plain := fun (t : TRec) => !t.coded && flatOk t (fld (g 6) 63 24)
  let written := fun (t : TRec) => !f.updates || f32FiniteNormal (recipFactor t.cs)
  x.all (fun t => plain t && t.fmt.code == fld (g 0) 51 48 && written t)
    (fun t => plain t && t.fmt.code == fld (g 0) 47 44 && written t) (fun t => plain t && gradFmt t.fmt)
    (fun t => plain t && t.fmt.code == fld (g 5) 15 12)

/-- Everything lies in the stack-local region of one stack: the record and the master, and each tensor that could be read (R384). -/
def carePlacesOk (s : State) (a st : Nat) (w : List W64) (x : CareNames) : Bool :=
  let g := fun i => w.getD i 0
  let here := fun (l : List (Nat × Nat)) => l.all fun r => stackLocal s r.1 r.2 == some st
  let planes := fun (t : TRec) => here (planeRanges t)
  here (careRanges a (fld (g 1) 63 16) (fld (g 6) 63 24) []) && x.all planes planes planes planes

/-- The care record of its words and of what they name; UNIT_ABSENT where some of that could not be read. -/
def careRecOf (a st : Nat) (w : List W64) (x : CareNames) : M CareRec := do
  let g := fun i => w.getD i 0
  let m1 ← hardened x.m1
  let m2 ← x.m2.mapM hardened
  let grad ← hardened x.grad
  let pair ← hardened x.pair.2
  return { addr := a, opt := fld (g 0) 55 54, base := fld (g 0) 39 0, master := fld (g 1) 63 16, n := fld (g 6) 63 24, m1 := m1, m2 := m2,
           grad := grad, pair := pair, avalid := bit (g 6) 0, amax := BitVec.ofNat 32 (fld (g 7) 63 32),
           utag := BitVec.ofNat 32 (fld (g 7) 31 0), stack := st }

/-- The words of a care record. -/
def getCareWords (a : Nat) : M (List W64) := (List.range 8).mapM fun i => readU64 (a + 8 * i)

/-- An entry of a care list: the OPT of its record and the record, as far as they can be read. -/
structure CareItem where
  opt : Option Nat
  rec' : Except Nat CareRec

/-- Reads a care record and checks it against R383, R384, R395 and R400. What of it lies in an absent stack is UNIT_ABSENT only after
every check that can be made (R408). -/
def getCareRec (f : CareFields) (a : Nat) : M CareItem := do
  match stackLocal (← getS) a 64 with
  | none => fail .badDescriptor
  | some st => match ← soften (getCareWords a) with
    | .error x => return ⟨none, .error x⟩
    | .ok w =>
      needDesc (careWordsOk f (← getS).stash.tag w)
      let x ← getCareNames w
      needDesc (careShapesOk f w x && carePlacesOk (← getS) a st w x)
      return ⟨some (fld (w.getD 0 0) 55 54), ← soften (careRecOf a st w x)⟩

structure Hyper where
  lr : F32
  b1 : F32
  b2 : F32
  eps : F32
  wd : F32
  c1 : F32
  c2 : F32
  gscale : F32
  maxnorm : F32
  reservedOk : Bool
  deriving DecidableEq, Repr, Inhabited

def getHyper (a : Nat) : M Hyper := do
  needMapped a 64
  let b ← readBytes a 64
  let w := fun i => (BitVec.ofNat 32 (leNat ((b.drop (4 * i)).take 4)) : F32)
  return { lr := w 0, b1 := w 1, b2 := w 2, eps := w 3, wd := w 4, c1 := w 5, c2 := w 6, gscale := w 7, maxnorm := w 8,
           reservedOk := (b.drop 36).all fun x => x == 0 }

/-- From 0 to below 1. -/
def unitBelow (x : F32) : Bool := f32FiniteNonneg x && f32Lt x f32One

/-- A hyperparameter record against R387 for the optimiser of a record. -/
def hyperOk (h : Hyper) (clip opt : Nat) : Bool :=
  h.reservedOk && f32PosFinite h.lr && f32FiniteNonneg h.wd && f32PosNormal h.gscale && (clip == 0 || f32PosNormal h.maxnorm)
  && match opt with
    | 0 => unitBelow h.b1 && unitBelow h.b2 && f32PosNormal h.eps && f32PosFinite h.c1 && f32PosFinite h.c2
    | 1 => f32FiniteNonneg h.b1 && !f32Lt f32One h.b1 && h.b2 == 0 && h.eps == 0 && h.c1 == 0 && h.c2 == 0
    | _ => unitBelow h.b1 && unitBelow h.b2 && h.eps == 0 && h.c1 == 0 && h.c2 == 0

/-! ### Header, norm cell and gradient factor (R393, R394, R397 to R399) -/

/-- What an update takes from its bucket header and norm cell. -/
structure CareGate where
  ready : Bool
  nonfinite : Nat
  normTag : W32
  nsq : F32
  deriving DecidableEq, Repr, Inhabited

def getCareGate (f : CareFields) : M CareGate := do
  needInStacks f.hdr 64
  let w0 ← readU64 f.hdr
  let w3 ← readU64 (f.hdr + 24)
  let w4 ← readU64 (f.hdr + 32)
  needDesc (kindOf w0 == 0xBC)
  let ready := fld w3 31 28 == 2 && fld w3 63 32 == (← getS).stash.tag.toNat
  if f.clip = 0 then return ⟨ready, fld w4 63 32, 0, f32Zero⟩
  else
    needMapped f.ncell 16
    let c ← readU64 f.ncell
    return ⟨ready, fld w4 63 32, BitVec.ofNat 32 (fld c 63 32), BitVec.ofNat 32 (fld c 31 0)⟩

/-- Does the norm cell enter GS (R398)? -/
def normUsed (f : CareFields) (g : CareGate) : Bool := f.clip == 1 || (f.clip == 2 && g.normTag != 0)

/-- GS, and whether it clips (R398). -/
def gradFactor (f : CareFields) (h : Hyper) (g : CareGate) : F32 × Bool :=
  if normUsed f g then
    let c := f32Mul (f32Mul h.maxnorm (f32Rsqrt g.nsq)) (f32Recip h.gscale)
    if f32Lt c f32One then (f32Mul h.gscale c, true) else (f32Mul h.gscale f32One, false)
  else (h.gscale, false)

/-! ### Elements (R388 to R390) -/

/-- One element's master and moments. -/
structure CareElem where
  p : F32
  m : F32
  v : F32
  deriving DecidableEq, Repr, Inhabited

/-- What an update computes once: ob1, ob2 and GS (R388). -/
structure CareOnce where
  ob1 : F32
  ob2 : F32
  gs : F32
  deriving DecidableEq, Repr, Inhabited

/-- The formulas of R388. -/
def careFormula (opt : Nat) (h : Hyper) (o : CareOnce) (grad : F32) (e : CareElem) : CareElem :=
  let g := f32Mul grad o.gs
  match opt with
  | 0 =>
    let m := f32Fma h.b1 e.m (f32Mul o.ob1 g)
    let v := f32Fma h.b2 e.v (f32Mul o.ob2 (f32Mul g g))
    let mh := f32Mul m h.c1
    let vh := f32Mul v h.c2
    let sq := if vh = f32Zero then f32Zero else f32Mul vh (f32Rsqrt vh)
    let u := f32Mul mh (f32Recip (f32Add sq h.eps))
    ⟨f32Fma (f32Neg h.lr) (f32Fma h.wd e.p u) e.p, m, v⟩
  | 1 =>
    let m := f32Fma h.b1 e.m g
    ⟨f32Fma (f32Neg h.lr) (f32Fma h.wd e.p m) e.p, m, e.v⟩
  | _ =>
    let c := f32Fma h.b1 e.m (f32Mul o.ob1 g)
    let u := if f32Lt f32Zero c then f32One else if f32Lt c f32Zero then f32Neg f32One else f32Zero
    ⟨f32Fma (f32Neg h.lr) (f32Fma h.wd e.p u) e.p, f32Fma h.b2 e.m (f32Mul o.ob2 g), e.v⟩

/-- One element with R390: a result that is not finite is not taken; answers the exception bits. -/
def careElem (opt : Nat) (h : Hyper) (o : CareOnce) (grad : F32) (e : CareElem) : CareElem × W16 :=
  let r := careFormula opt h o grad e
  let l := [r.p, r.m] ++ if opt = 0 then [r.v] else []
  if l.all f32IsFinite then (r, 0) else (e, if l.any f32IsNan then excInvalid else excInfinite)

/-! ### Passes -/

/-- Flat values of a record (R81, R725). -/
def flatValues (t : TRec) (n : Nat) : M (List F32) := do
  let o ← openRec t t.rows t.cols
  return (List.range n).map o.flat

/-- Rounding at a flat index (R225). -/
def rndFlat (st : Bool) (seed : Nat) (stream : W32) (i : Nat) : Rnd := if st then .sr (windowFlat seed stream i).toNat else .rne

/-- Writes a record from flat values, each multiplied by 1 ÷ its coarse scale (R74). -/
def writeFlat (t : TRec) (prop : Bool) (rnd : Nat → Rnd) (v : List F32) : M Bool :=
  let a := v.toArray
  let f := f32Dec (recipFactor t.cs)
  writeTensor t { prop := prop, rnd := fun r c => rnd (r * t.cols + c) } t.rows t.cols
    fun r c => Num.mul (f32Dec (a.getD (r * t.cols + c) 0)) f

/-- The F32 values of a plain plane. -/
def f32Plane (a n : Nat) : M (List F32) := do
  let b ← readBytes a (4 * n)
  return (chunksOf 4 b.length b).map fun x => (BitVec.ofNat 32 (leNat x) : F32)

def f32Bytes (l : List F32) : List Byte := l.flatMap fun x => leBytes 4 x.toNat

/-- Writes AMAX, AVALID and UTAG of a record (R392, R403). -/
def writeAmax (r : CareRec) (amax : F32) (utag : W32) : M Unit := do
  writeBytes (r.addr + 48) (leBytes 8 (r.n * 2 ^ 24 + 1))
  writeBytes (r.addr + 56) (leBytes 4 utag.toNat ++ leBytes 4 amax.toNat)

/-- The ranges an update writes. -/
def CareRec.updateRanges (r : CareRec) : List (Nat × Nat) := careRanges r.addr r.master r.n (r.m1 :: r.m2.toList)
/-- The next buffer of a record's working copy. -/
def CareRec.nextRanges (r : CareRec) : List (Nat × Nat) := nextOfPair r.pair
/-- The ranges an emission writes. -/
def CareRec.emitRanges (r : CareRec) : List (Nat × Nat) := r.nextRanges ++ [(r.pair.addr + 16, 8)]
/-- Work on a record in its turn among the CAREs that name it (R396, R546). -/
def CareRec.inTurn {α : Type} (r : CareRec) (m : M α) : M α := Machine.inTurn (turnCare r.addr) m

/-- The computing half of a record's update: its new elements and exception bits (R388 to R391). -/
def updateCalc (h : Hyper) (o : CareOnce) (r : CareRec) : M (List CareElem × W16) := do
  let ps ← f32Plane r.master r.n
  let ms ← flatValues r.m1 r.n
  let vs ← match r.m2 with
    | some t => flatValues t r.n
    | none => pure (ps.map fun _ => f32Zero)
  let gs ← flatValues r.grad r.n
  let res := (List.zip gs (ps.zip (ms.zip vs))).map fun x => careElem r.opt h o x.1 ⟨x.2.1, x.2.2.1, x.2.2.2⟩
  return (res.map Prod.fst, res.foldl (fun e x => e ||| x.2) 0)

/-- AMAX of new master elements (R392). -/
def elemsAmax (es : List CareElem) : F32 := f32MaxOf (es.map fun e => f32Abs e.p)

/-- The writing half of a record's update (R388 to R392). -/
def updateWrite (r : CareRec) (es : List CareElem) : M Unit := do
  writeBytes r.master (f32Bytes (es.map CareElem.p))
  let _ ← writeFlat r.m1 true (fun _ => .rne) (es.map CareElem.m)
  match r.m2 with
  | some t => let _ ← writeFlat t true (fun _ => .rne) (es.map CareElem.v)
  | none => pure ()
  writeAmax r (elemsAmax es) (← getS).stash.tag
  modS fun s => { s with care := { s.care with elements := satAdd s.care.elements r.n } }

/-- The smallest E in −126 to 127 with a ≤ 2^E; 127 where there is none (R401). -/
def freshExp (a : F32) : Int :=
  match (List.range 254).find? fun (i : Nat) => (f32Dec a).le (Num.one.scale ((i : Int) - 126)) with
  | some i => (i : Int) - 126
  | none => 127

/-- The coarse scale 2^E. -/
def csOfExp (e : Int) : F32 := f32Rnd (Num.one.scale e)

/-- cY under FRESH for an amax; of a NaN amax, which no rule orders, E is a free choice (LOG 36). -/
def freshScale (free : Nat) (a : F32) : F32 :=
  if f32IsZero a then f32One
  else if f32IsNan a then csOfExp (((Config.freePick free % 254 : Nat) : Int) - 126)
  else csOfExp (freshExp a)

/-- cY and CS_CHANGED (R401). -/
def emitScale (f : CareFields) (free : Nat) (a c0 : F32) : F32 × Bool :=
  if f.csmode = 0 then
    let c := freshScale free a
    (c, c != c0)
  else if f32IsZero a || (((f32Dec c0).scale (-(f.holdWin : Int))).lt (f32Dec a) && (f32Dec a).le (f32Dec c0)) then (c0, false)
  else (freshScale free a, true)

/-- An emission pass that has its coarse scale. -/
structure Emission where
  r : CareRec
  cs : F32
  changed : Bool
  deriving Repr

/-- The emission pass of a record; answers "saturated" (R402). -/
def emitRec (f : CareFields) (seed : Nat) (e : Emission) : M Bool := do
  let s ← getS
  let ps ← f32Plane e.r.master e.r.n
  let t := { e.r.pair.next with cs := e.cs }
  let st := stochOf s f.rnd
  let sat ← writeFlat t (propOf s t.fmt f.ovf) (fun i => rndFlat st seed f.stream (e.r.base + i)) ps
  writeBytes (t.addr + 28) (leBytes 4 e.cs.toNat)
  setNextTag e.r.pair s.stash.tag
  modS fun s => { s with care := { s.care with csChanges := if e.changed then satInc s.care.csChanges else s.care.csChanges } }
  return sat

/-- A scan of a record (R403). -/
def scanRec (r : CareRec) : M F32 := do
  let ps ← f32Plane r.master r.n
  let amax := f32MaxOf (ps.map f32Abs)
  writeAmax r amax r.utag
  return amax

/-! ### The whole of a CARE -/

/-- Sets bytes 18 to 31 of a record. -/
def setInfoRest (l : List Byte) : M Unit := modify fun w => { w with info := w.info.take 2 ++ l.drop 2 }

/-- Bytes 16 to 31 of a CARE record (R410). -/
def careInfo (exc : W16) (skipped changed clipped : Bool) (gs amax : F32) (nonfinite : Nat) : List Byte :=
  leBytes 2 exc.toNat
    ++ leBytes 1 ((if skipped then 1 else 0) + (if changed then 2 else 0) + (if clipped then 4 else 0)) ++ [0]
    ++ leBytes 4 gs.toNat ++ leBytes 4 amax.toNat ++ leBytes 4 nonfinite

/-- A checked CARE. -/
structure CareReady where
  f : CareFields
  rs : List CareRec
  h : Hyper
  g : CareGate

/-- The address that a softened read found absent. -/
def absentAt {α : Type} : Except Nat α → Option Nat
  | .ok _ => none
  | .error a => some a

/-- What a softened read found. -/
def foundIn {α : Type} : Except Nat α → Option α
  | .ok x => some x
  | .error _ => none

/-- Reads the records of a list, as far as its entries and they can be read, with the address of an entry that cannot (R386, R408). -/
def getCareList (f : CareFields) : M (List CareItem × Option Nat) := do
  needMapped f.list (8 * f.count)
  let ws ← (List.range f.count).mapM fun i => soften (readU64 (f.list + 8 * i))
  let found := ws.filterMap foundIn
  let as := found.map fun w => fld w 47 0
  needDesc (found.all (fun w => fld w 63 48 == 0) && as.all (fun a => a % 64 == 0 && a < stackEnd)
    && as.zipIdx.all fun x => !((as.take x.2).contains x.1))
  return (← as.mapM fun a => inTurn (turnCare a) (getCareRec f a), ws.findSome? absentAt)

/-- A hyperparameter record holds for the records of a list: where the OPT of one cannot be read, for some OPT (R387, R408). -/
def hyperFor (h : Hyper) (clip : Nat) (l : List CareItem) : Bool :=
  (List.range 3).any (hyperOk h clip) && l.all fun x => match x.opt with
    | some o => hyperOk h clip o
    | none => true

/-- Is a phase allowed in a turn state (R405)? -/
def phaseTurn (f : CareFields) (t : Turn) : Bool := t == .learn || (t == .switchGenerate && (f.phase == 1 || f.phase == 3))

/-- The largest AMAX over a list of values; 0 of none. -/
def amaxOf (l : List F32) : F32 := if l.isEmpty then f32Zero else f32MaxOf l

/-- Counts and reports a skipped bucket (R394, R399). -/
def skipCare (r : CareReady) (n : Nat) : M Unit := do
  setInfo (careInfo 0 true false false 0 (amaxOf (r.rs.map CareRec.amax)) n)
  modS fun s => raiseAlert 16 { s with care := { s.care with skipped := satInc s.care.skipped, lastSkipped := BitVec.ofNat 64 r.f.hdr } }
  fail .nonfiniteSkipped

/-- Every range a CARE writes. -/
def CareReady.ranges (r : CareReady) : List (Nat × Nat) := r.rs.flatMap fun x =>
  (if r.f.updates then x.updateRanges else if r.f.emits then [] else [(x.addr, 64)]) ++ if r.f.emits then x.emitRanges else []

/-- R408's first row: what a CARE names, and the first address of it that is absent. HYPER, LIST and the header may be so too. -/
def careNames (d : Desc) : M (CareReady × Option Nat) := do
  let f := careFields d
  needDesc (careFieldsOk d f)
  let h ← if f.updates then soften (getHyper f.hyper) else pure (.ok default)
  let (items, absent) ← getCareList f
  needDesc (!f.updates || softly (fun h => hyperFor h f.clip items) h)
  let g ← if f.updates then soften (getCareGate f) else pure (.ok default)
  return (⟨f, items.filterMap fun x => foundIn x.rec', (foundIn h).getD default, (foundIn g).getD default⟩,
    absentAt h <|> absent <|> items.findSome? (fun x => absentAt x.rec') <|> absentAt g)

/-- Eight bytes, where they can be read. -/
def shownWord (a : Nat) : M (Option W64) := do
  let s ← getS
  if (locOf s a).isSome ∧ (locOf s (a + 7)).isSome ∧ !unreadable s a ∧ !unreadable s (a + 7) then
    return (← attempt (readU64 a)).toOption
  else return none

/-- What a CARE that fails its first checks reports: what can be read of the list's AMAXs and the header's count (R410). -/
def careShown (f : CareFields) : M (List Byte) := do
  let as ← (List.range f.count).mapM fun i => shownWord (f.list + 8 * i)
  let ws ← (as.filterMap id).mapM fun w => inTurn (turnCare (fld w 47 0)) (shownWord (fld w 47 0 + 56))
  let n ← if f.updates then shownWord (f.hdr + 32) else pure none
  return careInfo 0 false false false 0 (amaxOf ((ws.filterMap id).map fun w => BitVec.ofNat 32 (fld w 63 32)))
    ((n.map fun w => fld w 63 32).getD 0)

/-- Checks in the order of R408. The phase is checked against the turn state in force, during a transition too (LOG 60). What the record
reports of the list and the header stands from when they are read (R410). -/
def careChecks (d : Desc) : M CareReady := do
  let x ← tryCatch (careNames d) fun e => do
    if !e.waits then setInfo (← careShown (careFields d))
    throw e
  let r := x.1
  let f := r.f
  setInfo (careInfo 0 false false false 0 (amaxOf (r.rs.map CareRec.amax)) r.g.nonfinite)
  match x.2 with
  | some a => failAt .unitAbsent a
  | none => pure ()
  let s ← getS
  need (phaseTurn f s.turn.cur) .wrongTurn
  need (s.stash.state != .exhausted) .stashExhausted
  if f.updates then
    need (r.g.ready && (f.clip != 1 || r.g.normTag == s.stash.tag)) .bucketNotReady
    if r.g.nonfinite ≠ 0 then skipCare r r.g.nonfinite
    if normUsed f r.g && !f32IsFinite r.g.nsq then skipCare r 0
  needOutWritable r.ranges
  return r

/-- What an uncorrectable read leaves unspecified: masters, moments, care records and next buffers of the whole list (R411). -/
def careSpoils (rs : List CareRec) : List (Nat × Nat) := rs.flatMap fun x => x.updateRanges ++ x.nextRanges

/-- What can be found out of that where a check fails. -/
def careReach (d : Desc) : M (List (Nat × Nat)) := do
  let f := careFields d
  let as ← orNone (do return (← (List.range f.count).mapM fun i => readU64 (f.list + 8 * i)).map fun w => fld w 47 0)
  let l ← as.mapM fun a => orNone (do
    let w ← getCareWords a
    let g := fun i => w.getD i 0
    if kindOf (g 0) ≠ 0xCA then return []
    else
      let t := fun (a : Nat) => orNone (do return planeRanges (← getTRec a))
      let ms ← ([fld (g 2) 63 16] ++ if fld (g 0) 55 54 = 0 then [fld (g 3) 63 16] else []).mapM t
      let next ← orNone (do return nextOfPair (← getPair (fld (g 5) 63 16)))
      return careRanges a (fld (g 1) 63 16) (fld (g 6) 63 24) [] ++ ms.flatten ++ next)
  return l.flatten

/-- Coarse scales of every emission, before the first is written (R400, R401, R74). -/
def emissions (f : CareFields) (rs : List (CareRec × F32)) : M (List Emission) := do
  let s ← getS
  let all := amaxOf (rs.map Prod.snd)
  let es := rs.zipIdx.map fun x =>
    let a := if f.amaxsrc = 0 then x.1.2 else if f.amaxsrc = 1 then all else f.gamax
    let c := emitScale f (s.freeCtr + x.2) a x.1.1.pair.current.cs
    (⟨x.1.1, c.1, c.2⟩ : Emission)
  modS fun s => { s with freeCtr := s.freeCtr + rs.length }
  needDesc (es.all fun e => f32FiniteNormal (recipFactor e.cs))
  return es

/-- The emission passes, one by one; SATURATED joins the record's exception word (R402, R409). -/
def emitAll (f : CareFields) (seed : Nat) (es : List Emission) : M Unit := es.forM fun e => do
  orExc (excIf (← e.r.inTurn (emitRec f seed e)) excSaturated)

/-- The work of a CARE (R404). -/
def careCompute (r : CareReady) : M Unit := do
  let f := r.f
  let seed := (← getS).rng.seed.toNat
  let gf := if f.updates then gradFactor f r.h r.g else (0, false)
  let o : CareOnce := ⟨f32Sub f32One r.h.b1, f32Sub f32One r.h.b2, gf.1⟩
  let ups ← if f.updates then r.rs.mapM (fun x => do
      let u ← x.inTurn (updateCalc r.h o x)
      orExc u.2
      return u.1)
    else pure []
  let amaxes ← if f.updates then pure (ups.map elemsAmax)
    else if f.emits then pure (r.rs.map CareRec.amax)
    else r.rs.mapM fun x => x.inTurn (scanRec x)
  let es ← if f.emits then emissions f (r.rs.zip amaxes) else pure []
  setInfoRest (careInfo 0 false (es.any Emission.changed) gf.2 gf.1 (amaxOf amaxes) (if f.updates then r.g.nonfinite else 0))
  (r.rs.zip ups).forM fun x => x.1.inTurn (updateWrite x.1 x.2)
  emitAll f seed es
  if f.updates then modS fun s => { s with care := { s.care with lastGs := gf.1 } }

def careBody (d : Desc) : M Unit := do
  inStartOrder d
  let r ← orUnread (careReach d) (careChecks d)
  useUnits (((List.finRange 32).filter fun n => r.rs.any fun x => x.stack == n.val).map UnitId.stack)
  tryCatch (careCompute r) fun e => do
    if e.status = .uncorrectableMem then modS (scrambleAll (careSpoils r.rs))
    throw e

/-- UPDATE (R388). -/
def execUpdate (qp : Fin 64) (d : Desc) (s : State) : Host.Outcome State Fault Refusal := startDesc (isCare 0 d) qp d (careBody d) s
/-- EMIT (R402). -/
def execEmit (qp : Fin 64) (d : Desc) (s : State) : Host.Outcome State Fault Refusal := startDesc (isCare 1 d) qp d (careBody d) s
/-- UPDATE_EMIT (R404). -/
def execUpdateEmit (qp : Fin 64) (d : Desc) (s : State) : Host.Outcome State Fault Refusal :=
  startDesc (isCare 2 d) qp d (careBody d) s
/-- SCAN (R403). -/
def execScan (qp : Fin 64) (d : Desc) (s : State) : Host.Outcome State Fault Refusal := startDesc (isCare 3 d) qp d (careBody d) s

end Sys2Proof.Machine
end

