-- ==== Sys2Proof/Machine/Move.lean ====
section
/-! DEFINITION. MOVE, the prefetchers, the scrubbers and self-refresh (spec/13). -/

namespace Sys2Proof.Machine

/-! ### The descriptor (R517) -/

structure MoveFields where
  src : Nat
  op : Nat
  dst : Nat
  len : Nat
  run : Nat
  count : Nat
  stride : Nat
  ahead : Nat
  handle : Nat
  deriving Repr

def moveFields (d : Desc) : MoveFields :=
  { src := fld d.w2 63 16, op := fld d.w2 15 12, dst := fld d.w3 63 16, len := d.w4.toNat, run := fld d.w5 63 32,
    count := fld d.w5 31 0, stride := fld d.w6 63 16, ahead := fld d.w6 15 8, handle := fld d.w6 7 0 }

def isMove (op : Nat) (d : Desc) : Bool := descClass d == clsMove && (moveFields d).op == op

/-- The field checks of R521's first row. -/
def moveFieldsOk (d : Desc) (f : MoveFields) : Bool :=
  fld d.w2 11 0 == 0 && fld d.w3 15 0 == 0 && d.w7 == 0
  && (f.op == 0 || f.len == 0) && (f.op == 2 || (f.run == 0 && f.count == 0 && f.stride == 0 && f.ahead == 0))
  && (f.op == 3 || f.handle == 0)
  && match f.op with
    | 0 => f.len % 16 == 0 && 16 ≤ f.len && f.len ≤ 2 ^ 40 && f.src % 16 == 0 && f.dst % 16 == 0
        && (f.src + f.len ≤ f.dst || f.dst + f.len ≤ f.src)
    | 1 => true
    | 2 => f.dst == 0 && f.run % 256 == 0 && 256 ≤ f.run && 1 ≤ f.count && f.stride % 256 == 0
        && (f.count == 1 || f.run ≤ f.stride) && 1 ≤ f.ahead
    | 3 => f.src == 0 && f.dst == 0
    | _ => false

/-- Bytes 16 to 31 of a MOVE record (R522). -/
def moveInfo (bytes handle : Nat) : List Byte := leBytes 8 bytes ++ leBytes 1 handle ++ List.replicate 7 0

/-! ### COPY and COPY_TENSOR (R518, R519) -/

def copyBody (f : MoveFields) : M Unit := do
  needMapped f.src f.len
  needMapped f.dst f.len
  needBacked f.src f.len
  needBacked f.dst f.len
  needWritable f.dst f.len
  orScramble [(f.dst, f.len)] do
    writeBytes f.dst (← readBytes f.src f.len)
    setInfo (moveInfo f.len 0)

/-- The source of a COPY_TENSOR: a tensor record, or the current buffer of a pair; with the records of it that could be read. -/
def moveSource (a : Nat) : M (List TRec × Except Nat TRec) := do
  needDesc (a % 32 == 0)
  needMapped a 32
  match ← soften (readU64 a) with
  | .error x => return ([], .error x)
  | .ok w =>
    if kindOf w = 0xB2 then
      let p ← softPair a
      return (p.1, p.2.map Pair.current)
    else
      let t ← soften (getTRec a)
      return (t.toOption.toList, t)

/-- What a COPY_TENSOR writes of a pair's next buffer: its planes and its coarse scale (R519). -/
def nextParts (p : Pair) : List (Nat × Nat) := planeRanges p.next ++ [(p.next.addr + 28, 4)]

/-- Copies planes and coarse scale into the next buffer, and marks the pair (R519). A copy that fails leaves NEXT_TAG at 0 (R523). -/
def fillNext (p : Pair) (src : TRec) (bytes : List Byte) (scales : List Byte) : M Unit := do
  let t := p.next
  writeBytes t.elem bytes
  writeBytes t.scale scales
  writeBytes (t.addr + 28) (leBytes 4 src.cs.toNat)
  setNextTag p (← getS).stash.tag

/-- The formats a MOVE takes (R59): neither L8 nor A34. -/
def movable (t : TRec) : Bool := t.fmt != .l8 && t.fmt != .a34

/-- What a COPY_TENSOR that meets an uncorrectable read in its checks was to write: the next buffer; its pair is left unmarked (R523). -/
def spoilNext (f : MoveFields) : M (State → State) := do
  let p ← getPair f.dst
  return fun s => writeLate (p.addr + 16) (leBytes 8 (if p.cur then 1 else 0)) (scrambleAll (nextParts p) s)

/-- Every two of some records agree (R519). -/
def allAgree : List TRec → Bool
  | [] => true
  | t :: l => l.all (sameShape t) && allAgree l

/-- The source and destination of a COPY_TENSOR, checked against R376, R512, R519 and R59; every record that can be read is checked
before an unbacked one ends the descriptor (R521). -/
def copyChecks (f : MoveFields) : M (TRec × Pair) := do
  let src ← moveSource f.src
  let p ← softPair f.dst
  let all' := src.1 ++ p.1
  needDesc (all'.all (fun t => movable t && !t.coded) && allAgree all')
  return (← hardened src.2, ← hardened p.2)

def copyTensorBody (f : MoveFields) : M Unit := do
  let x ← orUnreadBy (spoilNext f) (copyChecks f)
  let src := x.1
  let p := x.2
  let t := p.next
  needOutBacked (planeRanges src)
  needOutBacked (planeRanges t)
  needOutWritable (planeRanges t ++ [(t.addr, 32), (p.addr, 32)])
  setNextTag p 0
  orScramble (nextParts p) do
    let a ← asData (readBytes src.elem src.elemBytes)
    let b ← asData (readBytes src.scale src.scaleBytes)
    fillNext p src a b
  setInfo (moveInfo (rangeBytes (nextParts p)) 0)

/-! ### Streams (R506 to R508, R520) -/

/-- The first free prefetcher of `n` from number `first`. -/
def freeFrom (s : State) (first n : Nat) : Option Nat :=
  ((List.range n).map fun i => first + i).find? fun p => !(s.stk.streams.any fun x => x.num.val == p)

/-- The bytes from a stream's start to its end. -/
def streamSpan (f : MoveFields) : Nat := (f.count - 1) * f.stride + f.run

/-- A free prefetcher for a stream that lies in one window: stack prefetchers of stack n are numbers 2n and 2n + 1, district prefetchers of
district d are 64 + 4d on, while it is in service (R506). None serves a stream that lies across two windows (LOG 12). -/
def freePrefetcher (s : State) (a span : Nat) : Option Nat :=
  let dist := 32 * s.stk.k * gib
  let ends := 32 * (s.stk.k + s.stk.j) * gib
  let ofDistrict := fun d => if (districtsUp s).contains d then freeFrom s (64 + 4 * d) 4 else none
  if companionBase ≤ a ∨ a + span ≤ dist then
    match (cacheDistrict s (lineKey s a)).bind ofDistrict with
    | some p => some p
    | none => (districtsUp s).findSome? ofDistrict
  else if dist ≤ a ∧ a + span ≤ ends then
    let w := 4 * s.stk.j * gib
    if (a - dist) / w = (a + span - 1 - dist) / w then ofDistrict ((a - dist) / w) else none
  else (stackLocal s a span).bind fun n => freeFrom s (2 * n) 2

/-- The handle an ARM answers for a prefetcher, never 0xFF (R520; LOG 12). -/
def handleOf (p : Nat) : Nat := (p + Config.handleSalt) % 255

def armBody (f : MoveFields) : M Unit := do
  let runs := (List.range f.count).map fun i => (f.src + i * f.stride, f.run)
  runs.forM fun r => needMapped r.1 r.2
  runs.forM fun r => needBacked r.1 r.2
  match freePrefetcher (← getS) f.src (streamSpan f) with
  | some p =>
    if h : p < 96 then
      modS fun s => { s with stk := { s.stk with streams := s.stk.streams ++
        [{ num := ⟨p, h⟩, src := f.src, run := f.run, count := f.count, stride := f.stride, ahead := f.ahead, fetched := 0,
           demanded := 0 }] } }
      setInfo (moveInfo 0 (handleOf p))
    else setInfo (moveInfo 0 0xFF)
  | none => setInfo (moveInfo 0 0xFF)

def disarmBody (f : MoveFields) : M Unit := do
  setInfo (moveInfo 0 0)
  modS fun s => { s with stk := { s.stk with streams := s.stk.streams.filter fun x => handleOf x.num.val != f.handle } }

/-- A MOVE's checks and work (R521). -/
def moveBody (d : Desc) : M Unit := do
  let f := moveFields d
  setInfo (moveInfo 0 0)
  needDesc (moveFieldsOk d f)
  match f.op with
  | 0 => copyBody f
  | 1 => copyTensorBody f
  | 2 => armBody f
  | _ => disarmBody f

/-- COPY (R518). -/
def execCopy (qp : Fin 64) (d : Desc) (s : State) : Host.Outcome State Fault Refusal := startDesc (isMove 0 d) qp d (moveBody d) s
/-- COPY_TENSOR (R519). -/
def execCopyTensor (qp : Fin 64) (d : Desc) (s : State) : Host.Outcome State Fault Refusal :=
  startDesc (isMove 1 d) qp d (moveBody d) s
/-- ARM (R520). -/
def execArm (qp : Fin 64) (d : Desc) (s : State) : Host.Outcome State Fault Refusal := startDesc (isMove 2 d) qp d (moveBody d) s
/-- DISARM (R520). -/
def execDisarm (qp : Fin 64) (d : Desc) (s : State) : Host.Outcome State Fault Refusal := startDesc (isMove 3 d) qp d (moveBody d) s

/-! ### Fetching (R496, R504, R507) -/

def Stream.lines (x : Stream) : Nat := x.count * x.perRun

/-- The address of line i of a stream. -/
def Stream.line (x : Stream) (i : Nat) : Nat := x.src / 256 * 256 + i / x.perRun * x.stride + i % x.perRun * 256

/-- How many lines one read request may take next: in one run, in one aligned 1 KiB, and no further ahead than R507 lets it. -/
def Stream.nextCount (x : Stream) : Nat :=
  let a := x.line x.fetched
  min (min 4 (x.perRun - x.fetched % x.perRun)) (min (4 - a / 256 % 4) (x.demanded + 16 * x.ahead - x.fetched))

/-- A prefetched line: a stack line is read and kept; a companion line is asked for with RD_SHARED. -/
def fetchLine (num : Fin 96) (a : Nat) (tag : BitVec 12) (s : State) : State :=
  match resolve s a with
  | .stack _ _ =>
    let r := readCodewords a 256 3 s
    if r.1 then r.2 else useLine (lineKey s a) r.2
  | .companion _ => readLine (.stream num) a tag s
  | _ => s

/-- Distinct values. -/
def distinct {α : Type} [BEq α] : List α → Bool
  | [] => true
  | a :: t => !t.contains a && distinct t

/-- Do tags suit a fetch: one free tag for each companion line, of which at most 2,048 are in flight (R505), none for stack lines? -/
def tagsSuit (s : State) (x : Stream) (tags : List (BitVec 12)) : Bool :=
  if companionBase ≤ x.src then
    tags.length == x.nextCount && distinct tags && tags.all (tagFree s) && s.stk.rdShared.length + x.nextCount ≤ 2048
  else tags.isEmpty

/-- A read request made and answered at once counts in the peak (R504, R524). -/
def noteFetch (x : Stream) (s : State) : State :=
  if x.src < stackEnd then { s with stk := { s.stk with peakReads := max s.stk.peakReads (requestsHeld s + 1) } } else s

/-- The next request of a stream waits: its stack is in reset, or holds 512 (R504, R515). -/
def fetchWaits (s : State) (x : Stream) : Bool :=
  match resolve s (x.line x.fetched) with
  | .stack n _ => stackInReset s n || decide (512 ≤ requestsAt s n)
  | _ => false

/-- The stream fetches its next lines; after its last line it ends (R507, R508). -/
def fetchNext (x : Stream) (tags : List (BitVec 12)) (s : State) : State :=
  let n := x.nextCount
  let s1 := (List.range n).foldl (fun s i => fetchLine x.num (x.line (x.fetched + i)) (tags.getD i 0) s) (noteFetch x s)
  let x' := { x with fetched := x.fetched + n }
  let rest := if x.lines ≤ x'.fetched then s1.stk.streams.filter fun y => y.num != x.num
    else s1.stk.streams.map fun y => if y.num = x.num then x' else y
  transmit .cl { s1 with stk := { s1.stk with streams := rest } }

/-- PREFETCH_FETCH (R507). -/
def execPrefetchFetch (prefetcher : Fin 96) (tags : List (BitVec 12)) (s : State) : Host.Outcome State Fault Refusal :=
  if !running s then .fault .notRunning
  else match s.stk.streams.find? fun x => x.num == prefetcher with
    | some x => if x.nextCount ≠ 0 ∧ tagsSuit s x tags ∧ !fetchWaits s x then .next (fetchNext x tags s) else .next s
    | none => .next s

/-! ### Scrubbing and self-refresh (R498, R499, R516) -/

/-- May a ground floor scrub (R498, R499, R516)? -/
def scrubs (s : State) (n : Fin 32) : Bool :=
  unitEnabled s (.stack n) && s.stk.scrubPeriod != 0 && !(s.stk.selfRefresh[n]) && s.power.current != .park

/-- Reads the codeword of stack `n` at address `a`, its place `loc`, and counts what it finds (R499); the first of a line counts the line
(R635). -/
def scrubRead (n a loc : Nat) (s : State) : State :=
  let s0 := if loc % 256 = 0 then markStack n s else s
  match eccAt s0 loc with
  | none => s0
  | some false => countCorrected n loc s0
  | some true => countUncorrectable n a 4 s0

/-- Moves a stack's scrub position on from an offset; the end of the stack ends a pass. -/
def moveScrub (n : Fin 32) (off : Nat) (s : State) : State :=
  let ended := stackBytes ≤ off + 16
  { s with stk := { s.stk with
      scrubPos := s.stk.scrubPos.set n (if ended then 0 else off + 16),
      passes := if ended then satInc s.stk.passes else s.stk.passes } }

/-- Reads the codeword at the scrub position and moves on (R493, R496 to R499). -/
def scrubOne (n : Fin 32) (s : State) : State :=
  let off := s.stk.scrubPos[n]
  moveScrub n off
    (scrubRead n.val (stackAddress s.stk.k s.stk.j s.persist.variant.stacks n.val off) (n.val * stackBytes + off) s)

/-- SCRUB_READ (R498). -/
def execScrubRead (stack : Fin 32) (s : State) : Host.Outcome State Fault Refusal :=
  if !running s then .fault .notRunning
  else if scrubs s stack then .next (scrubOne stack s)
  else .next s

/-- SELF_REFRESH_RETURN (R516). -/
def execSelfRefreshReturn (stack : Fin 32) (s : State) : Host.Outcome State Fault Refusal :=
  if !running s then .fault .notRunning
  else if unitPresent s.persist.variant (.stack stack) ∧ s.power.current = .park ∧ !(s.stk.selfRefresh[stack]) then
    .next { s with stk := { s.stk with selfRefresh := s.stk.selfRefresh.set stack true } }
  else .next s

end Sys2Proof.Machine
end

