-- ==== Sys2Proof/Machine/Sample.lean ====
section
/-! DEFINITION. SAMPLE: the Crossing sampler and the gate (spec/08). -/

namespace Sys2Proof.Machine

/-! ### The descriptor and its list (R330 to R334) -/

structure SampleFields where
  logits : Nat
  lFmt : Nat
  slist : Nat
  entries : Nat
  dlogits : Nat
  dFmt : Nat
  mode : Nat
  stream : W32
  vocab : Nat
  out : Nat
  firstPlaza : Nat
  plazas : Nat
  deriving Repr

def sampleFields (d : Desc) : SampleFields :=
  { logits := fld d.w2 63 16, lFmt := fld d.w2 15 12, slist := fld d.w3 63 16, entries := fld d.w3 15 0, dlogits := fld d.w4 63 16,
    dFmt := fld d.w4 15 12, mode := fld d.w4 11 10, stream := BitVec.ofNat 32 (fld d.w5 63 32), vocab := fld d.w5 31 0,
    out := fld d.w6 63 16, firstPlaza := fld d.w7 63 56, plazas := fld d.w7 55 48 }

/-- The first row of R336. -/
def sampleFieldsOk (d : Desc) (f : SampleFields) : Bool :=
  fld d.w2 11 0 == 0 && fld d.w4 9 0 == 0 && fld d.w6 15 0 == 0 && fld d.w7 47 0 == 0 && f.mode ≤ 1 && f.lFmt ≤ 1
  && (f.mode == 1 || (f.dlogits == 0 && f.dFmt == 0)) && f.dFmt ≤ 1 && f.slist % 64 == 0 && f.out % 128 == 0
  && 1 ≤ f.entries && f.entries ≤ 16384 && 1 ≤ f.vocab && f.vocab ≤ 262144 && 1 ≤ f.plazas && f.firstPlaza + f.plazas ≤ 64

/-- A sampling record (R312) as the Crossing uses it. -/
structure SRec where
  rho : F32
  topP : F32
  topK : Nat
  gate : Nat
  start : Nat
  deriving Repr

def getSRec (a : Nat) : M SRec := do
  needDesc (a % 32 == 0)
  needMapped a 32
  let w0 ← readU64 a
  let w1 ← readU64 (a + 8)
  let w2 ← readU64 (a + 16)
  let w3 ← readU64 (a + 24)
  let temp : F32 := BitVec.ofNat 32 (fld w0 31 0)
  let topP : F32 := BitVec.ofNat 32 (fld w0 63 32)
  let r : SRec := { rho := f32Recip temp, topP := topP, topK := fld w1 31 0, gate := fld w2 63 16, start := fld w1 63 32 }
  needDesc (f32PosNormal temp && 1 ≤ topP.toNat && topP.toNat ≤ f32One.toNat && r.topK ≤ 262144 && (r.gate != 0 || r.start == 0)
    && fld w2 15 0 == 0 && w3 == 0)
  return r

/-- A sampling-list entry (R334) with its record. -/
structure SEntry where
  seqNo : Nat
  t : Nat
  mrow : Nat
  drow : Nat
  slot : Nat
  jd : Nat
  commit : Bool
  dtok : List Nat
  srec : SRec
  deriving Repr

/-- A slot an entry may name (R319): in READY, or by the scheduler, below 2800:10. -/
def slotOk (s : State) (sched : Bool) (slot : Nat) : Bool :=
  slot == 0xFFFF || ((sched || s.turn.cur == .ready) && decide (slot < s.sched.slotsInService.toNat))

/-- Reads and checks entry n of the list (R319, R334, R336). -/
def getSEntry (f : SampleFields) (sched : Bool) (main : TRec) (draft : Option TRec) (n : Nat) : M SEntry := do
  let a := f.slist + 64 * n
  let w0 ← readU64 a
  let w1 ← readU64 (a + 8)
  let w2 ← readU64 (a + 16)
  let w3 ← readU64 (a + 24)
  let ts ← (List.range 8).mapM fun i => readU32 (a + 32 + 4 * i)
  let verify := f.mode == 1
  let jd := fld w3 7 0
  let mrow := fld w1 31 0
  let drow := fld w1 63 32
  let commit := bit w3 8
  let slot := fld w2 15 0
  needDesc (fld w0 31 0 < 2 ^ 19 && fld w0 63 32 < 2 ^ 20 && jd ≤ 8 && fld w3 63 9 == 0 && slotOk (← getS) sched slot)
  if verify then
    needDesc (!commit && (ts.take jd).all (fun x => x < f.vocab) && (ts.drop jd).all (fun x => x == 0)
      && holds main (mrow + jd + 1) f.vocab && (jd == 0 || match draft with
        | some t => holds t (drow + jd) f.vocab
        | none => false))
  else
    needDesc (drow == 0 && ts.all (fun x => x == 0) && holds main (mrow + 1) f.vocab && (jd != 8 || commit))
  let r ← getSRec (fld w2 63 16)
  return { seqNo := fld w0 31 0, t := fld w0 63 32, mrow := mrow, drow := drow, slot := slot, jd := jd, commit := commit, dtok := ts,
           srec := r }

/-! ### Held states (R316, R317) -/

def gateGet (l : List GateCell) (slot j : Nat) : Nat :=
  match l.find? fun c => c.slot == slot && c.j == j with
  | some c => c.state
  | none => 0

/-! ### Gate tables (R313 to R315, R320) -/

structure GState where
  mask : Nat
  trans : List (Nat × Nat)
  dflt : Nat
  final : Bool
  deriving Repr

/-- Transition entries in strictly increasing token order. -/
def transOk (ns : Nat) : List (Nat × Nat) → Bool
  | a :: b :: t => decide (a.1 < b.1) && decide (a.2 < ns) && transOk ns (b :: t)
  | [a] => decide (a.2 < ns)
  | [] => true

/-- Reads and checks state n of a gate table. -/
def getGState (gate n : Nat) : M GState := do
  needMapped gate 16
  let h0 ← readU64 gate
  let h1 ← readU64 (gate + 8)
  let ns := fld h0 31 0
  needDesc (fld h0 63 32 == 0 && fld h1 15 0 == 0 && 1 ≤ ns && ns ≤ 2 ^ 24 && decide (n < ns))
  let a := fld h1 63 16 + 32 * n
  needMapped a 32
  let w0 ← readU64 a
  let w1 ← readU64 (a + 8)
  let w2 ← readU64 (a + 16)
  let w3 ← readU64 (a + 24)
  let nt := fld w2 31 0
  needDesc (fld w0 15 0 == 0 && fld w0 63 16 % 256 == 0 && fld w1 15 0 == 0 && decide (fld w2 63 32 < ns) && fld w3 63 1 == 0)
  let ta := fld w1 63 16
  if nt ≠ 0 then needMapped ta (8 * nt)
  let trans ← (List.range nt).mapM fun i => do
    let x ← readU32 (ta + 8 * i)
    let y ← readU32 (ta + 8 * i + 4)
    return (x, y)
  needDesc (transOk ns trans)
  return { mask := fld w0 63 16, trans := trans, dflt := fld w2 63 32, final := bit w3 0 }

/-- The next state of a token (R315); every state is 0 without a gate (R316). -/
def gateNext (gate n x : Nat) : M Nat := do
  if gate = 0 then return 0
  else
    let g ← getGState gate n
    return ((g.trans.find? fun p => p.1 == x).map Prod.snd).getD g.dflt

/-- Has a state FINAL set (R315)? -/
def gateFinal (gate n : Nat) : M Bool := do
  if gate = 0 then return false
  else return (← getGState gate n).final

/-! ### The mask cache (R322, R323, R325) -/

/-- A bitmap through the cache; without U1 it is read from the stacks. -/
def maskBytes (a : Nat) : M (List Byte) := do
  let s ← getS
  if !s.persist.variant.has 1 then
    needMapped a 32768
    readBytes a 32768
  else
    match s.gate.cache.find? fun c => c.addr == a with
    | some c =>
      modS fun s => { s with gate := { s.gate with hits := satInc s.gate.hits, cache := c :: s.gate.cache.filter fun x => x.addr != a } }
      return c.bits
    | none =>
      needMapped a 32768
      let bs ← readBytes a 32768
      modS fun s => { s with gate := { s.gate with misses := satInc s.gate.misses, cache := (⟨a, bs⟩ :: s.gate.cache).take 128 } }
      return bs

/-- Allowed tokens as one flag each, for the first `v` tokens (R314). -/
def maskFlags (bits : List Byte) (v : Nat) : List Bool :=
  ((bits.take (ceilDiv v 8)).flatMap fun b => (List.range 8).map fun i => b.toNat / 2 ^ i % 2 == 1).take v

/-- The parts of a gate table: header, states, and each state's bitmap and transition list (R313, R314). -/
def gateParts (s : State) (gate : Nat) : List (Nat × Nat) :=
  let w := fun a => (BitVec.ofNat 64 (leNat (peekList s a 8)) : W64)
  let ns := fld (w gate) 31 0
  let sa := fld (w (gate + 8)) 63 16
  [(gate, 16), (sa, 32 * ns)] ++ (List.range ns).flatMap fun n =>
    let a := sa + 32 * n
    [(fld (w a) 63 16, 32768), (fld (w (a + 8)) 63 16, 8 * fld (w (a + 16)) 31 0)]

/-- Keeps a table as it stands at the admission of the sequence in a slot (R321). -/
def keepTable (slot gate : Nat) (s : State) : State :=
  let rest := s.gate.tables.filter fun t => t.slot != slot
  { s with gate := { s.gate with
      tables := if gate = 0 then rest else rest ++ [⟨slot, gate, saveRanges s (gateParts s gate)⟩] } }

/-- A table was changed while a sequence that holds a slot names it (R321). -/
def tableChanged (s : State) (gate : Nat) : Bool := s.gate.tables.any fun t =>
  t.gate == gate && (s.sched.slots.any fun x => x.num == t.slot)
  && t.parts.any fun p => peekList s p.1 p.2.length != p.2

/-- The row's mask under a gate state; every token without a gate. Of a table changed in use, it is unspecified: free (R321). -/
def gateMask (gate st v : Nat) : M (List Bool) := do
  if gate = 0 then return List.replicate v true
  else
    let g ← getGState gate st
    let m := maskFlags (← maskBytes g.mask) v
    let s ← getS
    if tableChanged s gate then
      let k ← freeBlock v
      return (List.range v).map fun i => Config.freePick (k + i) % 2 == 1
    else return m

/-! ### One row (R299 to R304) -/

/-- The order key of R300. -/
def orderKey (x : F32) : Nat :=
  let y := if f32IsZero x then f32Zero else x
  if y.toNat < 2 ^ 31 then (y ^^^ 0x80000000).toNat else (~~~y).toNat

/-- p · 2^149 (R302). -/
def weight149 (x : F32) : Nat :=
  match f32Dec x with
  | .fin false m e => shiftBy m (e + 149)
  | _ => 0

/-- A row after R299 to R302: z, zs and e by token, the maximum, and the weights of the final set F in index order. -/
structure SRow where
  z : List F32
  zs : List F32
  m : F32
  e : List F32
  w : List (Nat × Nat)
  total : Nat
  deriving Repr

/-- Candidates with their zs (R299). -/
def candidates (mask : List Bool) (zs : List F32) : List (Nat × F32) :=
  (zs.zip mask).zipIdx.filterMap fun x => if x.1.2 && f32IsFinite x.1.1 then some (x.2, x.1.1) else none

/-- Candidates that survive top-k: fewer than TOP_K candidates lie above them (R300). -/
def topK (k : Nat) (c : List (Nat × F32)) : List (Nat × F32) :=
  if k = 0 ∨ c.length ≤ k then c
  else
    let keys := c.map fun x => orderKey x.2
    c.filter fun x => decide ((keys.filter fun y => decide (orderKey x.2 < y)).length < k)

/-- The final set: survivors above which less than TOP_P of mass lies (R302). -/
def topP (p : F32) (w : List (Nat × Nat)) : List (Nat × Nat) :=
  if p = f32One then w
  else w.filter fun x => decide ((w.filter fun y => decide (x.2 < y.2)).foldl (fun a y => a + y.2) 0 < weight149 p)

def massOf (w : List (Nat × Nat)) : Nat := w.foldl (fun a x => a + x.2) 0

/-- The whole of R299 to R302 on a row; `none` without candidates (R304). -/
def sampleRow (r : SRec) (mask : List Bool) (z : List F32) : Option SRow :=
  let zs := (z.zip mask).map fun x => if x.2 then f32Mul x.1 r.rho else f32NegInf
  let c := candidates mask zs
  if c.isEmpty then none
  else
    let sv := topK r.topK c
    let m := f32MaxOf (sv.map Prod.snd)
    let e := zs.zipIdx.map fun x => if sv.any (fun y => y.1 == x.2) then f32Exp (f32Sub x.1 m) else f32Zero
    let rs := f32Recip (kredAdd e)
    let w := topP r.topP (sv.map fun x => (x.1, weight149 (f32Mul (e.getD x.1 0) rs)))
    some { z := z, zs := zs, m := m, e := e, w := w, total := massOf w }

/-- Events of R299 on a row, with its NaN tokens. -/
def rowSampleEvents (r : SRec) (mask : List Bool) (z : List F32) (row : Nat) (main : Bool) : AttnEv :=
  let zs := (z.zip mask).zipIdx.filterMap fun x => if x.1.2 then some (f32Mul x.1.1 r.rho, x.2) else none
  let nan := zs.filter fun x => f32IsNan x.1
  ⟨excIf (!nan.isEmpty) excInvalid ||| excIf (zs.any fun x => x.1 == f32Inf false) excInfinite,
   if main then nan.head?.map fun x => ⟨row, x.2, 0⟩ else none, 0⟩

/-- The least index whose running weight passes the target of window y (R303). -/
def pickFrom (g : Nat) : (acc : Nat) → List (Nat × Nat) → Option Nat
  | _, [] => none
  | acc, (i, w) :: t => if g < acc + w then some i else pickFrom g (acc + w) t

def pickToken (w : List (Nat × Nat)) (y : W32) : Option Nat := pickFrom (y.toNat * massOf w / 2 ^ 32) 0 w

def SRow.weight (r : SRow) (x : Nat) : Nat := ((r.w.find? fun p => p.1 == x).map Prod.snd).getD 0

/-- Residual weights (R309). -/
def residual (m d : SRow) : List (Nat × Nat) := m.w.map fun p => (p.1, p.2 * d.total - d.weight p.1 * m.total)

/-- LP_SAMPLE (R305). -/
def lpSample (r : SRow) (x : Nat) : F32 :=
  let s2 := kredAdd (r.e.zipIdx.map fun p => if r.w.any (fun q => q.1 == p.2) then p.1 else f32Zero)
  f32Sub (f32Sub (r.zs.getD x 0) r.m) (f32Ln s2)

/-- LP_RAW (R306). -/
def lpRaw (r : SRow) (x : Nat) : F32 := (tokenLogprobRow r.z f32One x).1

/-! ### Entries (R303, R307 to R310, R317, R335) -/

/-- A yielded token. -/
structure STok where
  index : Nat
  drafted : Bool
  final : Bool
  lpS : F32
  lpR : F32
  deriving Repr

/-- What one entry gives. -/
structure SOut where
  toks : List STok
  accepted : Nat
  noToken : Bool
  gstate : Nat
  written : Option (Nat × Nat)
  ev : AttnEv
  deriving Repr

/-- What an entry's rows are read from. -/
structure SCtx where
  seed : Nat
  stream : W32
  v : Nat
  main : Operand
  draft : Operand

/-- Passes one logit row through R299 to R302, reports its events and counts it (R324, R337). -/
def passRow (c : SCtx) (e : SEntry) (main : Bool) (row st : Nat) : M (Option SRow × AttnEv) := do
  let mask ← gateMask e.srec.gate st c.v
  let z := (if main then c.main else c.draft).row row c.v
  let r := sampleRow e.srec mask z
  let ev := rowSampleEvents e.srec mask z row main
  modS fun s => { s with gate := { s.gate with rows := satInc s.gate.rows,
                                               noToken := if r.isNone then satInc s.gate.noToken else s.gate.noToken } }
  let ev := if r.isNone then ev.merge ⟨excEmptyRow, none, 1⟩ else ev
  addEv ev
  return (r, ev)

/-- The window of a column of the entry's row (R298). -/
def SEntry.y (e : SEntry) (c : SCtx) (col : Nat) : W32 := window c.seed c.stream (2 ^ 20 * e.seqNo + e.t) col 0

/-- A token of a row with its next state. -/
def mkTok (e : SEntry) (r : SRow) (st x : Nat) (drafted : Bool) : M (STok × Nat) := do
  let n ← gateNext e.srec.gate st x
  let fin ← gateFinal e.srec.gate n
  return ({ index := x, drafted := drafted, final := fin, lpS := lpSample r x, lpR := lpRaw r x }, n)

/-- DRAW (R303, R317). -/
def drawEntry (c : SCtx) (cells : List GateCell) (e : SEntry) : M SOut := do
  let held := e.slot != 0xFFFF
  let used := if e.srec.gate = 0 then 0 else if held then gateGet cells e.slot e.jd else e.srec.start
  let r ← passRow c e true e.mrow used
  match r.1 with
  | none => return { toks := [], accepted := 0, noToken := true, gstate := used, written := none, ev := r.2 }
  | some row =>
    match pickToken row.w (e.y c e.jd) with
    | none => return { toks := [], accepted := 0, noToken := true, gstate := used, written := none, ev := r.2 }
    | some x =>
      let t ← mkTok e row used x false
      return { toks := [t.1], accepted := 0, noToken := false, gstate := if held then t.2 else used,
               written := if held then some (if e.commit then 0 else e.jd + 1, t.2) else none, ev := r.2 }

/-- VERIFY from slot j on (R307 to R310): tokens so far, gate state, events. -/
def verifyFrom (c : SCtx) (e : SEntry) : (left : Nat) → (st : Nat) → (toks : List STok) → AttnEv → M (List STok × Nat × Bool × AttnEv)
  | 0, st, toks, ev => do
    let m ← passRow c e true (e.mrow + e.jd) st
    match m.1 with
    | none => return (toks, st, true, ev.merge m.2)
    | some row =>
      match pickToken row.w (e.y c e.jd) with
      | none => return (toks, st, true, ev.merge m.2)
      | some x =>
        let t ← mkTok e row st x false
        return (toks ++ [t.1], t.2, false, ev.merge m.2)
  | n + 1, st, toks, ev => do
    let j := e.jd - (n + 1)
    let m ← passRow c e true (e.mrow + j) st
    match m.1 with
    | none => return (toks, st, true, ev.merge m.2)
    | some row =>
      let d ← passRow c e false (e.drow + j) st
      let ev := (ev.merge m.2).merge d.2
      let dr := d.1.getD { z := [], zs := [], m := 0, e := [], w := [], total := 0 }
      let x := e.dtok.getD j 0
      if (e.y c (16 + j)).toNat / 256 * dr.weight x * row.total < 2 ^ 24 * row.weight x * dr.total then
        let t ← mkTok e row st x true
        verifyFrom c e n t.2 (toks ++ [t.1]) ev
      else
        match pickToken (residual row dr) (e.y c j) with
        | some x =>
          let t ← mkTok e row st x false
          return (toks ++ [t.1], t.2, false, ev)
        | none =>
          addEv ⟨excEmptyRow, none, 0⟩
          return (toks, st, true, ev.merge ⟨excEmptyRow, none, 0⟩)

/-- VERIFY (R307, R317). -/
def verifyEntry (c : SCtx) (cells : List GateCell) (e : SEntry) : M SOut := do
  let held := e.slot != 0xFFFF
  let used := if e.srec.gate = 0 then 0 else if held then gateGet cells e.slot 0 else e.srec.start
  let r ← verifyFrom c e e.jd used [] AttnEv.none
  let acc := (r.1.filter fun t => t.drafted).length
  return { toks := r.1, accepted := acc, noToken := r.2.2.1, gstate := if r.1.isEmpty || !held then used else r.2.1,
           written := if held && !r.1.isEmpty then some (0, r.2.1) else none, ev := r.2.2.2 }

/-- The 128 bytes of an output entry (R335). -/
def sOutBytes (o : SOut) : List Byte :=
  let toks := o.toks.flatMap fun t => leBytes 4 ((if t.drafted then 2 ^ 29 else 0) + (if t.final then 2 ^ 28 else 0) + t.index)
    ++ leBytes 4 t.lpS.toNat ++ leBytes 4 t.lpR.toNat
  let l := [BitVec.ofNat 8 o.toks.length, BitVec.ofNat 8 o.accepted, if o.noToken then 10 else 0, 0] ++ leBytes 4 o.gstate ++ toks
  l ++ List.replicate (128 - l.length) 0

/-! ### The whole of a SAMPLE -/

/-- A SAMPLE that passed the checks of R336 that come before its work. -/
structure SampleReady where
  f : SampleFields
  main : TRec
  draft : Option TRec
  es : List SEntry

def logitRec (a fmt : Nat) : M TRec := do
  let t ← getTRec a
  needDesc (t.fmt.code == fmt && !t.coded && !t.linear)
  return t

/-- The records and entries of the third row of R336. -/
def sampleNames (d : Desc) (sched : Bool) : M SampleReady := do
  let f := sampleFields d
  let main ← logitRec f.logits f.lFmt
  let draft ← if f.mode = 1 then (do return some (← logitRec f.dlogits f.dFmt)) else pure none
  needMapped f.slist (64 * f.entries)
  needMapped f.out (128 * f.entries)
  return ⟨f, main, draft, ← (List.range f.entries).mapM (getSEntry f sched main draft)⟩

/-- Checks in the order of R336; an unbacked (R487) and a protected (R456) output come last (LOG 63). -/
def sampleChecks (d : Desc) (sched : Bool) : M SampleReady := do
  let f := sampleFields d
  needDesc (sampleFieldsOk d f)
  let s ← getS
  if !s.persist.variant.has 1 then needPlazas f.firstPlaza f.plazas
  let r ← sampleNames d sched
  needBacked f.out (128 * f.entries)
  needWritable f.out (128 * f.entries)
  return r

/-- Entries in list order, each with the states earlier ones wrote (R318). -/
def runEntries (c : SCtx) (verify : Bool) : List SEntry → List GateCell → List SOut → M (List SOut × List GateCell)
  | [], cells, acc => pure (acc, cells)
  | e :: t, cells, acc => do
    let o ← if verify then verifyEntry c cells e else drawEntry c cells e
    let cells' := match o.written with
      | some (j, v) => gateSet e.slot j v cells
      | none => cells
    runEntries c verify t cells' (acc ++ [o])

/-- What an uncorrectable read leaves unspecified: the output entries and the gate states of the slots named (R339). -/
def spoilSample (f : SampleFields) (slots : List Nat) (s : State) : State := scrambleGate slots (scramble f.out (128 * f.entries) s)

/-- The same, with the slots that the sampling list names, whatever else of it could be read. -/
def sampleReach (d : Desc) : M (State → State) := do
  let f := sampleFields d
  return spoilSample f (← orNone do
    needMapped f.slist (64 * f.entries)
    (List.range f.entries).mapM fun i => readU 2 (f.slist + 64 * i + 16))

def sampleReady (d : Desc) (sched : Bool) : M SampleReady := orUnreadBy (sampleReach d) (sampleChecks d sched)

/-- A SAMPLE that started after a flush was asked for finds the cache empty, though those before it still run (R323). -/
def emptyForFlush : M Unit := modify fun w =>
  if w.s.gate.flushPending.any fun x => x.before ≤ w.order then { w with s := { w.s with gate := { w.s.gate with cache := [] } } } else w

/-- The work; answers each entry's output, which the scheduler takes too. SAMPLEs are taken in the order in which they start (R318). -/
def sampleWork (d : Desc) (r : SampleReady) : M (List SOut) := do
  let f := r.f
  let s ← getS
  if !s.persist.variant.has 1 then awaitPlazas f.firstPlaza f.plazas
  inStartOrder d
  emptyForFlush
  if !s.persist.variant.has 1 then useUnits (plazaUnits f.firstPlaza f.plazas)
  tryCatch (do
    let mr := r.es.foldl (fun m e => max m (e.mrow + (if f.mode = 1 then e.jd else 0) + 1)) 0
    let dr := r.es.foldl (fun m e => if e.jd = 0 then m else max m (e.drow + e.jd)) 0
    let main ← openRec r.main mr f.vocab
    let draft ← match r.draft with
      | some t => openRec t dr f.vocab
      | none => openRec r.main 0 0
    let res ← runEntries { seed := s.rng.seed.toNat, stream := f.stream, v := f.vocab, main := main, draft := draft } (f.mode == 1)
      r.es s.gate.states []
    modS fun s => { s with gate := { s.gate with states := res.2 } }
    writeBytes f.out (res.1.flatMap sOutBytes)
    return res.1)
    fun e => do
      if e.status = .uncorrectableMem then modS (spoilSample f (r.es.map SEntry.slot))
      throw e

/-- A SAMPLE of a queue is known by the gate tables it uses, as long as it has not completed (R321). -/
def noteRun (r : SampleReady) : M Unit := modify fun w =>
  let gates := (r.es.filter fun e => e.srec.gate != 0).map fun e => e.srec.gate
  { w with s := { w.s with gate := { w.s.gate with runs := w.s.gate.runs ++
      [⟨w.order, gates.eraseDups.flatMap (gateParts w.s), r.es.map SEntry.slot, (r.f.out, 128 * r.f.entries)⟩] } } }

def sampleBody (d : Desc) : M Unit := do
  let r ← sampleReady d false
  let _ ← sampleWork d r
  noteRun r

def isSample (mode : Nat) (d : Desc) : Bool := descClass d == clsSample && (sampleFields d).mode == mode

/-- DRAW (R303). -/
def execDraw (qp : Fin 64) (d : Desc) (s : State) : Host.Outcome State Fault Refusal := startDesc (isSample 0 d) qp d (sampleBody d) s

/-- VERIFY (R307). -/
def execVerify (qp : Fin 64) (d : Desc) (s : State) : Host.Outcome State Fault Refusal := startDesc (isSample 1 d) qp d (sampleBody d) s

/-- A SAMPLE started before order `n` still runs. -/
def sampleRuns (s : State) (n : Nat) : Bool := s.q.inflight.any fun e => e.cls == clsSample && e.order < n

end Sys2Proof.Machine
end

