-- ==== Sys2Proof/Machine/Coherent.lean ====
section
/-! DEFINITION. The device-memory and coherent channels of the Carard link, and its doorbells (R502, R516, R529, R530, R584 to
R593). -/

namespace Sys2Proof.Machine

/-- The Carard link carries a channel: the coherent and device-memory channels only while it is UP (R600, R668). -/
def clCarries (s : State) (ch : Nat) : Bool := chCarried s .cl ch

/-- A message of the companion on a channel: refused where its form is not the row's; a link that does not carry it brings nothing
(LOG 58). -/
def clMessage (wellFormed : Bool) (ch : Nat) (f : State → State) (s : State) : Host.Outcome State Fault Refusal :=
  if !wellFormed then .refused .illFormed
  else if !running s then .fault .notRunning
  else if clCarries s ch then .next (f s)
  else .next s

/-! ### Device memory (R586, R588, R494, R496) -/

/-- A companion access in PARK wakes the stack it needs (R516); one to a stack in reset does not come this far. -/
def wakeStack (a : Nat) (s : State) : State :=
  match resolve s a with
  | .stack n _ =>
    if h : n < 32 then { s with stk := { s.stk with selfRefresh := s.stk.selfRefresh.set n false } } else s
  | _ => s

/-- The line of a DRD: its status (R588), its bytes, and the counts of R493 and R497. -/
def readForCompanion (a : Nat) (s : State) : Nat × List Byte × State :=
  match resolve s a with
  | .unbacked => (2, [], s)
  | .unmapped | .companion _ => (1, [], s)
  | .stack _ _ =>
    let r := readCached a 256 2 (wakeStack a s)
    if r.1 then (4, [], r.2) else (0, peekList r.2 a 256, r.2)

/-- Answers a DRD. -/
def answerDrd (tag : BitVec 12) (a : Nat) (s : State) : State :=
  let r := readForCompanion a s
  clResponse 1 0x91 r.1 a tag.toNat r.2.1
    { r.2.2 with outbox := r.2.2.outbox ++ [.drdData tag (BitVec.ofNat 8 r.1) r.2.1] }

/-- A write of the companion or a peer, codeword by codeword; the error it meets, if any. -/
def outsideWrite (source a : Nat) (bs : List Byte) (s : State) : Option Fail × State :=
  let r := runWork (storeFrom source a bs) (markRange a bs.length s)
  (match r.1 with
    | .ok _ => none
    | .error e => some e, spoilRuns none [(a, bs.length)] r.2.s)

/-- A write that meets a protected range: refused whole and counted (R455, R456). -/
def refuseOutside (s : State) : State := { s with shard := { s.shard with refused := satInc s.shard.refused } }

/-- Carries out a DWR and answers its status (R588). -/
def writeForCompanion (a : Nat) (bs : List Byte) (s : State) : Nat × State :=
  match resolve s a with
  | .unbacked => (2, s)
  | .unmapped | .companion _ => (1, s)
  | .stack _ _ =>
    if (firstProtected s.prot a bs.length).isSome then (3, refuseOutside s)
    else
      let r := outsideWrite 2 a bs (wakeStack a s)
      (if r.1.isSome then 4 else 0, r.2)

/-- Answers a DWR. -/
def answerDwr (tag : BitVec 12) (a : Nat) (bs : List Byte) (s : State) : State :=
  let r := writeForCompanion a bs s
  clResponse 1 0x92 r.1 a tag.toNat [] { r.2 with outbox := r.2.outbox ++ [.dwrDone tag (BitVec.ofNat 8 r.1)] }

/-- 16 to 256 bytes, a multiple of 16, within one 256-byte line (R584). -/
def dwrForm (a : BitVec 48) (n : Nat) : Bool := 16 ≤ n && n ≤ 256 && n % 16 == 0 && a.toNat % 256 + n ≤ 256

/-- Puts a request behind those that wait for a stack in reset. -/
def holdRequest (r : HeldRequest) (s : State) : State := { s with stk := { s.stk with heldRequests := s.stk.heldRequests ++ [r] } }

/-- Is a request of the device-memory channel? -/
def HeldRequest.isDevice : HeldRequest → Bool
  | .drd _ _ | .dwr _ _ _ => true
  | _ => false

/-- A request of the device-memory channel waits: its stack is in reset, or one before it waits (R515, R586). -/
def deviceWaits (a : Nat) (s : State) : Bool := inResetAt s a || s.stk.heldRequests.any HeldRequest.isDevice

def takeDrd (tag : BitVec 12) (a : Nat) (s : State) : State :=
  if deviceWaits a s then holdRequest (.drd tag a) s else answerDrd tag a s

def takeDwr (tag : BitVec 12) (a : Nat) (bs : List Byte) (s : State) : State :=
  if deviceWaits a s then holdRequest (.dwr tag a bs) s else answerDwr tag a bs s

/-- DRD (R586). -/
def execDrd (tag : BitVec 12) (addr : BitVec 48) (s : State) : Host.Outcome State Fault Refusal :=
  clMessage (addr.toNat % 256 == 0) 1 (fun s => takeDrd tag addr.toNat (arrived .cl 1 (unitsOf 16) s)) s

/-- DWR (R586). -/
def execDwr (tag : BitVec 12) (addr : BitVec 48) (data : List Byte) (s : State) : Host.Outcome State Fault Refusal :=
  clMessage (dwrForm addr data.length) 1
    (fun s => takeDwr tag addr.toNat data (arrived .cl 1 (unitsOf (16 + data.length)) s)) s

/-! ### Doorbells (R529, R530, R587) -/

/-- Acts on a doorbell by its KIND. -/
def ringDoorbell (w : W64) (s : State) : State := if bit w 7 then ringHead w s else ringTail w s

/-- Takes a doorbell; it waits while a DWR before it does (R587). -/
def takeDoorbell (w : W64) (s : State) : State :=
  if s.stk.heldRequests.any HeldRequest.isDevice then holdRequest (.doorbell w) s else ringDoorbell w s

/-- The mailbox message of a doorbell: its room is free again (R577, R584). -/
def doorbell (w : W64) (s : State) : Host.Outcome State Fault Refusal :=
  if !running s then .fault .notRunning
  else .next (takeDoorbell w (arrived .cl 2 (unitsOf 24) s))

/-- SUBMISSION_TAIL (R530). -/
def execSubmissionTail (word : W64) (s : State) : Host.Outcome State Fault Refusal :=
  if bit word 7 then .refused .illFormed else doorbell word s

/-- COMPLETION_HEAD (R530). -/
def execCompletionHead (word : W64) (s : State) : Host.Outcome State Fault Refusal :=
  if !bit word 7 then .refused .illFormed else doorbell word s

/-! ### Coherence (R502, R585, R590 to R592) -/

/-- Invalidates a companion line, and keeps a DATA in flight for it from being installed. -/
def snoop (a : Nat) (s : State) : State :=
  { s with stk := { s.stk with
      dcache := s.stk.dcache.filter fun l => l != a,
      rdShared := s.stk.rdShared.map fun r => if r.line = a then { r with install := false } else r } }

/-- SNP_INV (R591). -/
def execSnpInv (tag : BitVec 12) (addr : BitVec 48) (s : State) : Host.Outcome State Fault Refusal :=
  clMessage (addr.toNat % 256 == 0) 0
    (fun s =>
      let s1 := snoop addr.toNat (arrived .cl 0 (unitsOf 16) s)
      clResponse 0 0x03 0 addr.toNat tag.toNat [] { s1 with outbox := s1.outbox ++ [.snpAck tag] }) s

/-- A line that has come: companion memory is what the companion answered (LOG 4), but for what the module has written since it asked
(R590). The line is fetched into its cache, as the one used last, unless it was refused or snooped; while no district is in service,
companion lines are read uncached (R500, R524, R592). -/
def installLine (r : RdShared) (status : Byte) (data : List Byte) (s : State) : State :=
  let t := if status = 0 then sparing r.written (fun s => poke s r.line data) s else s
  if (districtsUp s).isEmpty ∨ status ≠ 0 ∨ r.install = false then t
  else fillLine r.line { t with stk := { t.stk with dcache := t.stk.dcache.filter fun l => l != r.line } }

/-- Gives a line to what asked for it (R588, R592). -/
def deliver (r : RdShared) (status : Byte) (s : State) : State :=
  let got : GotLine := ⟨r.line, status⟩
  match r.reader with
  | .stream _ => s
  | .queue qp =>
    let p := s.q.qps[qp]
    { s with q := { s.q with qps := s.q.qps.set qp { p with ring := p.ring ++ [got] } } }
  | .sched => { s with sched := { s.sched with lines := s.sched.lines ++ [got] } }
  | .desc qp idx => match findInFlight s qp idx with
    | some e => setInFlight { e with lines := e.lines ++ [got] } s
    | none => s

/-- Statuses that a companion sends (R588). -/
def companionStatus (x : Byte) : Bool := x == 0 || x == 1 || x == 5

/-- Takes the DATA of the RD_SHARED with its tag. -/
def takeData (r : RdShared) (status : Byte) (data : List Byte) (s : State) : State :=
  nextWr (installLine r status data (deliver r status
    { s with stk := { s.stk with rdShared := s.stk.rdShared.filter fun x => x.tag != r.tag } }))

/-- DATA (R592). -/
def execDataResponse (tag : BitVec 12) (status : Byte) (data : List Byte) (s : State) : Host.Outcome State Fault Refusal :=
  if data.length ≠ (if status = 0 then 256 else 0) then .refused .illFormed
  else if !running s then .fault .notRunning
  else if !clCarries s 0 || !companionStatus status then .next s
  else match s.stk.rdShared.find? fun r => r.tag == tag with
    | some r => .next (takeData r status data (arrived .cl 0 0 s))
    | none => .next s

/-- The descriptor that wrote completes with the companion's refusal, unless it has failed already; its pair is left unmarked. -/
def failWriter (w : WrInFlight) (status : Byte) (s : State) : State :=
  match w.owner.bind fun o => findInFlight s o.1 o.2 with
  | some e =>
    if e.status = .ok then setInFlight { e with status := companionFailure status, faultAddr := some w.addr } (dropPair e s) else s
  | none => s

/-- Takes a WR_DONE: the write is complete; a refused one leaves its bytes unspecified (LOG 23). -/
def takeWrDone (w : WrInFlight) (status : Byte) (s : State) : State :=
  let s1 := { s with stk := { s.stk with wr := s.stk.wr.erase w } }
  nextWr (if status = 0 then s1 else scramble w.addr w.len (failWriter w status s1))

/-- WR_DONE (R590). -/
def execWrDone (tag : BitVec 12) (status : Byte) (s : State) : Host.Outcome State Fault Refusal :=
  if !running s then .fault .notRunning
  else if !clCarries s 0 || !companionStatus status then .next s
  else match s.stk.wr.find? fun w => w.tag == tag with
    | some w => .next (takeWrDone w status (arrived .cl 0 0 s))
    | none => .next s

end Sys2Proof.Machine
end

