-- ==== Sys2Proof/Machine/Batch.lean ====
section
/-! DEFINITION. Step batch records and their ring (R287 to R291), and how sequences leave their slots (R32, R246, R261). -/

namespace Sys2Proof.Machine

/-! ### Ranges of a ring in companion memory -/

/-- Writes bytes for the scheduler to companion memory; a WR with no owning descriptor (R590). -/
def schedWrite (a : Nat) (bs : List Byte) (s : State) : State := sendWr none a bs (poke s a bs)

/-- CONSUMED of the record ring, as memory last showed it (R287). -/
def ringConsumed (s : State) : Nat := leNat (peekList s s.sched.recBase.toNat 8)

/-- Bytes free in the record ring where CONSUMED is a number (R288). -/
def roomFor (s : State) (consumed : Nat) : Nat :=
  s.sched.recBytes.toNat - (s.sched.recProduced - BitVec.ofNat 64 consumed).toNat

def ringRoom (s : State) : Nat := roomFor s (ringConsumed s)

/-- Byte n of the stream lies at offset 256 + (n mod B) (R287): the pieces of a record, at most two. -/
def ringPieces (base B n : Nat) (bs : List Byte) : List (Nat × List Byte) :=
  let o := n % B
  if o + bs.length ≤ B then [(base + 256 + o, bs)]
  else [(base + 256 + o, bs.take (B - o)), (base + 256, bs.drop (B - o))]

/-! ### Entries (R290, R291) -/

/-- A token entry (R291). -/
structure Tok where
  vslot : Nat
  drafted : Bool
  index : Nat
  lpSample : F32
  lpRaw : F32
  deriving DecidableEq, Repr, Inhabited

def Tok.bytes (t : Tok) : List Byte :=
  leBytes 4 (t.vslot * 2 ^ 30 + (if t.drafted then 2 ^ 29 else 0) + t.index % 2 ^ 18)
    ++ leBytes 4 t.lpSample.toNat ++ leBytes 4 t.lpRaw.toNat

/-- An entry of a step batch record (R290). -/
structure BatchEntry where
  seqNo : Nat
  slot : Nat
  tenant : Nat
  endCode : Nat
  vserial : Nat
  vslot : Nat
  toks : List Tok
  proposed : Nat
  accepted : Nat
  agen : Nat
  akey : Nat
  flags : Nat
  length : Nat
  step : Nat
  deriving DecidableEq, Repr, Inhabited

/-- Pads to a multiple of 16 with zeros. -/
def pad16 (l : List Byte) : List Byte := l ++ List.replicate ((16 - l.length % 16) % 16) 0

def BatchEntry.bytes (e : BatchEntry) : List Byte :=
  pad16 (leBytes 4 e.seqNo ++ leBytes 2 e.slot ++ leBytes 1 e.tenant ++ leBytes 1 e.endCode ++ leBytes 4 e.vserial
    ++ leBytes 1 e.vslot ++ leBytes 1 e.toks.length ++ leBytes 1 e.proposed ++ leBytes 1 e.accepted ++ leBytes 4 e.agen
    ++ leBytes 2 e.akey ++ leBytes 2 e.flags ++ leBytes 4 e.length ++ leBytes 4 e.step ++ e.toks.flatMap Tok.bytes)

def flagPrefill : Nat := 1
def flagDraftOff : Nat := 2
def flagDraftOn : Nat := 4
def flagMoved : Nat := 8
def flagSuspended : Nat := 16
def flagResumed : Nat := 32

/-- End reason codes (R263). -/
def endStop : Nat := 1
def endMaxNew : Nat := 2
def endMaxLen : Nat := 3
def endTurn' : Nat := 4
def endCancelled : Nat := 5
def endVersion : Nat := 6
def endAdapter : Nat := 7
def endNoPage : Nat := 8
def endFault : Nat := 9
def endNoToken : Nat := 10
def endRefused : Nat := 11

/-- Serial of a version slot, generation of an adapter slot; 0 for none. -/
def versionSerial (s : State) (v : Nat) : Nat := if h : v < 4 then (s.vers[v]).gen.toNat else 0
def adapterGen (s : State) (a : Option Nat) : Nat :=
  match a with
  | some a => if h : a < 256 then (s.adapters[a]).gen.toNat else 0
  | none => 0

/-- Tokens in a sequence, prompt included (R290). -/
def SeqSlot.length (x : SeqSlot) : Nat := x.promptLen + x.yielded

/-- Page groups that no sequence holds (R261). -/
def groupsHeld (s : State) : List Nat := s.sched.slots.flatMap fun x => x.groups
def groupsFree (s : State) : Nat := s.sched.groups.toNat - (groupsHeld s).length

/-- The entry of a sequence with no tokens in this step. -/
def plainEntry (s : State) (x : SeqSlot) (endCode flags : Nat) : BatchEntry :=
  { seqNo := x.seqNo.toNat, slot := x.num, tenant := x.tenant, endCode := endCode, vserial := versionSerial s x.vslot,
    vslot := x.vslot, toks := [], proposed := 0, accepted := 0, agen := adapterGen s x.adapter, akey := x.adapterKey,
    flags := flags + (match x.state with
      | .prefill => flagPrefill
      | .decode => 0), length := x.length, step := x.yielded }

/-! ### The record (R289) -/

/-- What the header says besides its counts. -/
structure BatchHead where
  prefillTokens : Nat
  exc : W16
  paused : Bool
  last : Bool
  status : Nat
  deriving DecidableEq, Repr, Inhabited

def batchBytes (s : State) (h : BatchHead) (es : List BatchEntry) : List Byte :=
  let body := es.flatMap BatchEntry.bytes
  let serial := match s.sched.startVersion with
    | some v => (s.vers[v]).gen.toNat
    | none => 0
  leBytes 8 (s.sched.steps.toNat + 1) ++ leBytes 4 s.turn.seq.toNat ++ leBytes 4 es.length ++ leBytes 4 (64 + body.length)
    ++ leBytes 4 (es.foldl (fun n e => n + e.toks.length) 0) ++ leBytes 4 h.prefillTokens ++ leBytes 2 h.exc.toNat
    ++ leBytes 2 ((if h.paused then 1 else 0) + (if h.last then 2 else 0)) ++ leBytes 4 h.status ++ leBytes 4 serial
    ++ List.replicate 24 0 ++ body

/-- Writes the record, then PRODUCED (R288); the step is counted and the free counts shown move (R718). -/
def writeBatch (h : BatchHead) (es : List BatchEntry) (s : State) : State :=
  let bs := batchBytes s h es
  let s1 := (ringPieces s.sched.recBase.toNat s.sched.recBytes.toNat s.sched.recProduced.toNat bs).foldl
    (fun s p => schedWrite p.1 p.2 s) s
  let n := s.sched.recProduced + BitVec.ofNat 64 bs.length
  let s2 := schedWrite (s.sched.recBase.toNat + 128) (leBytes 8 n.toNat) s1
  { s2 with sched := { s2.sched with recProduced := n, steps := satInc s2.sched.steps } }

/-! ### Slots -/

/-- Takes a sequence out of its slot: its page groups return to the pool (R246). -/
def freeSlot (n : Nat) (s : State) : State :=
  { s with sched := { s.sched with slots := s.sched.slots.filter fun y => y.num != n } }

/-- The free slots and page groups the dictionary shows: as at the last step boundary (R718). -/
def showFree (s : State) : State :=
  { s with sched := { s.sched with
      shownFree := BitVec.ofNat 32 (s.sched.slotsInService.toNat - s.sched.slots.length),
      shownGroups := BitVec.ofNat 32 (groupsFree s) } }

/-- Suspends a sequence (R32, R33). -/
def suspendSlot (n : Nat) (s : State) : State :=
  { s with sched := { s.sched with slots := s.sched.slots.map fun x => if x.num = n then { x with suspended := true } else x } }

/-- Slots in slot order. -/
def insertSlot (x : SeqSlot) : List SeqSlot → List SeqSlot
  | [] => [x]
  | y :: t => if x.num ≤ y.num then x :: y :: t else y :: insertSlot x t

def slotsInOrder (l : List SeqSlot) : List SeqSlot := l.foldl (fun acc x => insertSlot x acc) []

/-! ### Leaving GENERATE (R32) -/

/-- Does a TURN that leaves GENERATE end the unfinished sequences (R32)? -/
def TurnReq.ends (r : TurnReq) : Bool := r.retire || r.target == 0

/-- The sequences a TURN that leaves GENERATE still has to set aside, in slot order. -/
def unsettled (r : TurnReq) (s : State) : List SeqSlot :=
  (slotsInOrder s.sched.slots).filter fun x => r.ends || !x.suspended

/-- Their entries (R290). -/
def settleEntries (r : TurnReq) (s : State) : List BatchEntry :=
  (unsettled r s).map fun x => if r.ends then plainEntry s x endTurn' 0 else plainEntry s x 0 flagSuspended

/-- Suspends or ends them, counting on the TURN in transition (R32, R52). -/
def settle (r : TurnReq) (s : State) : State :=
  let l := unsettled r s
  let s1 := l.foldl (fun s x => if r.ends then freeSlot x.num s else suspendSlot x.num s) s
  { s1 with turn := { s1.turn with trans := s1.turn.trans.map fun t =>
      if r.ends then { t with ended := t.ended + BitVec.ofNat 32 l.length }
      else { t with suspended := t.suspended + BitVec.ofNat 32 l.length } } }

/-- Bytes of the record that reports them. -/
def settleBytes (r : TurnReq) (s : State) : Nat := (batchBytes s default (settleEntries r s)).length

/-- Sets aside what is left when the drain ends. Where no step was in progress that could report it, a record of its own does, which takes
the next STEP_SEQ and counts in 2800:18: the model's choice (LOG 60). -/
def settleAll (r : TurnReq) (s : State) : State :=
  if (unsettled r s).isEmpty then s
  else showFree (settle r (writeBatch { (default : BatchHead) with last := true } (settleEntries r s) s))

end Sys2Proof.Machine
end

