-- ==== Sys2Proof/Machine/StepFence.lean ====
section
/-! DEFINITION. What STEP and DRAIN fences wait for (R554, R556), the step fence (R380, R381) and how a TURN that leaves LEARN awaits
it (R34). -/

namespace Sys2Proof.Machine

/-! ### What each kind waits for (R554, R556) -/

/-- Nothing earlier of the pair is uncompleted. -/
def pairQuiet (s : State) (qp : Fin 64) (order : Nat) : Bool := !(s.q.inflight.any fun x => x.qp == qp && x.order < order)

/-- Does a STEP or DRAIN pass over an entry: a TURN or a WAIT fence (R556)? -/
def passedOver (e : InFlight) : Bool :=
  e.cls == clsTurn || match e.await with
    | .waitFence _ _ | .waitRefused _ => true
    | _ => false

/-- Nothing started earlier is uncompleted, TURNs and WAIT fences apart. -/
def allQuiet (s : State) (order : Nat) : Bool := !(s.q.inflight.any fun x => x.order < order && !passedOver x)

/-- Has pair `q` retired index `w` (R554)? -/
def hasRetired (s : State) (q : Fin 64) (w : W32) : Bool := ((s.q.qps[q]).retired - w).toNat < 2 ^ 31

/-! ### The step fence (R380, R381) -/

/-- The next step tag: one more, skipping 0 (R367). -/
def nextTag (t : W32) : W32 := if t + 1 = 0 then 1 else t + 1

/-- Bytes 16 to 31 of its record (R381), for the state it acted on. -/
def stepInfo (s : State) : List Byte :=
  leBytes 4 s.stash.tag.toNat ++ leBytes 4 s.stash.unitsDropped.toNat ++ leBytes 4 (s.stash.peak.toNat / 4096)
    ++ leBytes 2 s.terr.tiles.length ++ leBytes 2 0

/-- Bytes 16 to 31 of a STEP that failed its own checks: it examined no step (R381; LOG 61). -/
def refusedStepInfo (s : State) : List Byte :=
  leBytes 4 0 ++ leBytes 4 s.stash.unitsDropped.toNat ++ leBytes 4 (s.stash.peak.toNat / 4096) ++ leBytes 4 0

/-- Writes COPY 0 into the entries of the copies that are freed (R347); answers the first such write that failed (R456, R494). -/
def forgetCopies (s : State) : Option Fail × State :=
  s.stash.copies.foldl (fun r c =>
    let w := runWork (writeSerial (c.entry + 16) (List.replicate 6 0)) r.2
    (r.1 <|> match w.1 with
      | .ok _ => none
      | .error f => some f, w.2.s)) (none, s)

/-- No entry that it writes to lies in a stack in reset, whose release it would wait for (R515). -/
def copiesThere (s : State) : Bool := !(s.stash.copies.any fun c => inResetAt s (c.entry + 16))

/-- Frees every copy, takes the next tag and closes the step (R355, R380). -/
def closeStep (s : State) : State :=
  { s with stash := { s.stash with copies := [], fill := 0, tag := nextTag s.stash.tag, state := .closed, units := [], readUnits := [] },
           turn := { s.turn with steps := if s.turn.cur = .learn then satInc s.turn.steps else s.turn.steps } }

/-- Ends the step with a status, or, in place of OK, with that of the first write that failed and its address. -/
def endStep (st : Status) (s : State) : (Status × Option Nat) × State :=
  let r := forgetCopies s
  (match r.1 with
    | some f => if st = .ok then (f.status, f.addr) else (st, none)
    | none => (st, none), closeStep r.2)

/-- The three cases of R380: status and address, and the state after. -/
def stepFenceAct (s : State) : (Status × Option Nat) × State :=
  if s.stash.state = .exhausted then
    endStep .stashExhausted (raiseAlert 8 { s with
      terr := { s.terr with tiles := [] }, stash := { s.stash with stepsExhausted := satInc s.stash.stepsExhausted } })
  else if !s.terr.tiles.isEmpty then ((.stepIncomplete, none), s)
  else if s.stash.state = .downgrading then
    endStep .ok { s with stash := { s.stash with stepsDowngraded := satInc s.stash.stepsDowngraded } }
  else endStep .ok s

/-- What acting leaves in its entry, for the state it acted on. -/
def InFlight.acted (e : InFlight) (r : Status × Option Nat) (s : State) : InFlight :=
  { e with status := r.1, faultAddr := r.2, info := stepInfo s }

/-- Acts for a started STEP fence. It then waits as a DRAIN does: nothing starts until its record is written. -/
def actStep (e : InFlight) (s : State) : State :=
  let r := stepFenceAct s
  setInFlight { e.acted r.1 s with await := .drainFence } r.2

/-- A STEP or DRAIN has nothing to wait for (R515, R554). -/
def fenceReady (e : InFlight) (s : State) : Bool := allQuiet s e.order && (e.await != .stepFence || copiesThere s)

/-- Completes a step fence that has nothing to wait for: one that acted at its start, or one that acts now. -/
def finishStep (e : InFlight) (s : State) : State :=
  match e.await with
  | .stepFence =>
    let r := stepFenceAct s
    finish (e.acted r.1 s) r.2
  | _ => finish e s

/-- Would a fence, completed now, be one that ended the learning step (R380, cases 1 and 3)? -/
def endsStep (e : InFlight) (s : State) : Bool :=
  match e.await with
  | .stepFence => (stepFenceAct s).1.1 != .stepIncomplete
  | .drainFence => s.stash.state == .closed
  | _ => false

/-- The uncompleted step fence that a TURN leaving LEARN awaits, once it has nothing to wait for (R34). -/
def awaitedFence (s : State) : Option InFlight := s.q.inflight.find? fun e => endsStep e s && fenceReady e s

/-- Does a fence's completion wait for TURN_ENTRY, with which it is one event (R34; LOG 60)? -/
def withEntry (e : InFlight) (s : State) : Bool :=
  match s.turn.trans with
  | some t => t.needFence && endsStep e s
  | none => false

end Sys2Proof.Machine
end

