-- ==== Sys2Proof/Machine/TurnOps.lean ====
section
/-! DEFINITION. Changing turn (spec/01): TURN, TURN_WAIT_RESUME, TURN_ENTRY, TURN_DRAIN_TIMEOUT. -/

namespace Sys2Proof.Machine

/-- The checks of R51. -/
def turnFieldsOk (d : Desc) : Bool :=
  let version := fld d.w2 23 16
  fld d.w2 31 24 == 0 && fld d.w2 14 3 == 0 && fld d.w3 63 32 == 0 && d.w4 == 0 && fld d.w3 31 0 ≤ 600000
  && (if fld d.w2 2 0 = 1 then version < 4 || version == 0xFF else version == 0)

/-- The fields of a TURN descriptor (R48, R49). -/
def turnReq (qp : Fin 64) (idx : W32) (d : Desc) : TurnReq :=
  { qp := qp, idx := idx, seq := BitVec.ofNat 32 (fld d.w2 63 32), target := fld d.w2 2 0, version := fld d.w2 23 16,
    retire := bit d.w2 15, timeoutMs := BitVec.ofNat 32 (fld d.w3 31 0), fieldsOk := turnFieldsOk d }

/-- The table of R22. READY to READY is accepted; what its "no action" leaves of a transition is the model's choice: it drains, and entry
counts it in 2200:03 and 2200:08 (LOG 60). -/
def transitionOk (cur : Turn) (target : Nat) : Bool :=
  match cur, target with
  | _, 0 => true
  | .ready, 2 | .ready, 4 => true
  | .generate, 2 => true
  | .switchLearn, 3 => true
  | .learn, 4 => true
  | .switchGenerate, 1 => true
  | _, _ => false

/-- Bytes 16 to 31 of a TURN record (R52, R565). -/
def turnInfo (cur : Turn) (suspended ended : W32) : List Byte :=
  leBytes 4 cur.code ++ leBytes 4 suspended.toNat ++ leBytes 4 ended.toNat ++ leBytes 4 0

/-- Sets 2200:09 (R45). -/
def noteRefusal (st : Status) (s : State) : State := { s with turn := { s.turn with lastRefusal := BitVec.ofNat 32 st.code } }

/-- Completes a TURN with a status (R40, R52). -/
def endTurn (qp : Fin 64) (idx : W32) (st : Status) (suspended ended : W32) (s : State) : State :=
  match findInFlight s qp idx with
  | none => s
  | some e => finish { e with await := .nothing, status := st, info := turnInfo s.turn.cur suspended ended } s

/-- Accepts a TURN: the drain begins (R30 to R34). -/
def acceptTurn (r : TurnReq) (s : State) : State :=
  let t : TurnTrans :=
    { req := r, needFence := s.turn.cur == .learn && s.stash.state != .closed, before := s.q.nextOrder, suspended := 0, ended := 0 }
  { s with turn := { s.turn with trans := some t } }

/-- How the checks of R51, and then the remaining ones of R39, against the state the module holds, decide a TURN. -/
def turnVerdict (r : TurnReq) (s : State) : Status :=
  if !r.fieldsOk then .badDescriptor
  else if r.seq = s.turn.seq + 1 ∧ transitionOk s.turn.cur r.target then .ok
  else .badTransition

/-- Decides a TURN that waited (R38). -/
def decideTurn (r : TurnReq) (s : State) : State :=
  match turnVerdict r s with
  | .ok => acceptTurn r s
  | st => noteRefusal st (endTurn r.qp r.idx st 0 0 s)

/-- The class checks of a TURN that has passed checks 1 to 5 (R51, R39); it waits while another is in transition or waits before it
(R38). The record of one refused shows the turn state at its completion (R52). -/
def turnBody (qp : Fin 64) (idx : W32) (d : Desc) : M Unit := do
  let s ← getS
  let r := turnReq qp idx d
  if s.turn.trans.isSome || !s.turn.waiting.isEmpty then
    setAwait .turn
    modS fun s => { s with turn := { s.turn with waiting := s.turn.waiting ++ [r] } }
  else match turnVerdict r s with
    | .ok =>
      setAwait .turn
      modS (acceptTurn r)
    | st =>
      setAwait .turnRefused
      modS (noteRefusal st)
      fail st

/-- A TURN that failed checks 1 to 5 also shows at 2200:09 (R39, R45). -/
def noteHeadRefusal (qp : Fin 64) (d : Desc) (s : State) : State :=
  let c := headChecks (advanceHead qp 1 s) s.q.qps[qp].head d
  let t := startOne qp d (turnBody qp s.q.qps[qp].head d) s
  if c.1 = .ok then t else noteRefusal c.1 t

def isTurn (d : Desc) : Bool := descClass d == clsTurn

/-- TURN (R39). -/
def execTurn (qp : Fin 64) (d : Desc) (s : State) : Host.Outcome State Fault Refusal :=
  if !isTurn d then .refused .illFormed
  else if !running s then .fault .notRunning
  else if canStart s qp d 1 then .next (noteHeadRefusal qp d s)
  else .next (showFront qp d s)

/-- TURN_WAIT_RESUME (R38): the first waiting TURN, once no other is in transition. -/
def execTurnWaitResume (s : State) : Host.Outcome State Fault Refusal :=
  if !running s then .fault .notRunning
  else match s.turn.trans, s.turn.waiting with
    | none, r :: rest => .next (decideTurn r { s with turn := { s.turn with waiting := rest } })
    | _, _ => .next s

/-! ### Entering (R40 to R42) -/

/-- Every descriptor started before a TURN was accepted has completed, FENCEs and TURNs apart (R30). -/
def drained (t : TurnTrans) (s : State) : Bool :=
  s.q.inflight.all fun e => e.cls == clsFence || e.cls == clsTurn || decide (t.before ≤ e.order)

/-- The LIVE version slot published last (R41). -/
def newestLive (s : State) : Option (Fin 4) :=
  ([0, 1, 2, 3] : List (Fin 4)).foldl (fun acc v =>
    if (s.vers[v]).state = .live then
      match acc with
      | none => some v
      | some w => if (s.vers[w]).order < (s.vers[v]).order then some v else some w
    else acc) none

/-- The start version a TURN to GENERATE names (R41). -/
def namedStart (r : TurnReq) (s : State) : Option (Fin 4) :=
  if r.version = 0xFF then newestLive s
  else if h : r.version < 4 then (if (s.vers[(⟨r.version, h⟩ : Fin 4)]).state = .live then some ⟨r.version, h⟩ else none)
  else none

/-- Ends the transition with a status for its TURN. -/
def endTransition (t : TurnTrans) (st : Status) (s : State) : State :=
  endTurn t.req.qp t.req.idx st t.suspended t.ended { s with turn := { s.turn with trans := none } }

/-- The scheduler as the module leaves GENERATE: stopped, its start version cleared (R267). -/
def leaveGenerate (s : State) : State :=
  if s.turn.cur = .generate then
    { s with sched := { s.sched with state := .stopped, startVersion := none, follows := false, stalled := false } }
  else s

/-- The target state is entered (R40), steps counted from 0 on entry into LEARN (R42); READY is entered from READY alike (LOG 60). -/
def enterTurn (t : TurnTrans) (x : Turn) (slowCycles : W64) (s : State) : State :=
  endTransition t .ok
    { s with turn := { s.turn with cur := x, seq := satInc s.turn.seq, lastLength := slowCycles,
                                   steps := if x = .learn then 0 else s.turn.steps } }

/-- What entry does once the drain has ended; on entry into GENERATE the mask cache is emptied (R323). -/
def doEntry (t : TurnTrans) (slowCycles : W64) (s0 : State) : State :=
  let s := leaveGenerate (if s0.turn.cur = .generate then settleAll t.req s0 else s0)
  let t := s.turn.trans.getD t
  match Turn.ofCode t.req.target with
  | some .generate =>
    match namedStart t.req s with
    | none => noteRefusal .versionRetired (endTransition t .versionRetired s)
    | some v =>
      enterTurn t .generate slowCycles { s with
        gate := { s.gate with cache := [] },
        sched := { s.sched with
          state := .running, startVersion := some v, follows := t.req.version == 0xFF, checked := false } }
  | some x => enterTurn t x slowCycles s
  | none => endTransition t .badTransition s

/-- The state in which a transition ends: where a step fence is awaited, the one after its completion (R34); none while that fence
has not come or what it waits for has not completed. -/
def afterAwaited (t : TurnTrans) (s : State) : Option State :=
  if t.needFence then (awaitedFence s).map fun e => finishStep e s else some s

/-- The room that the record of what is set aside needs on leaving GENERATE is there (R32). -/
def settleRoom (t : TurnTrans) (s : State) : Bool :=
  s.turn.cur != .generate || (unsettled t.req s).isEmpty || settleBytes t.req s ≤ ringRoom s

/-- Has the drain of a transition ended (R30 to R35)? -/
def canEnter (t : TurnTrans) (s : State) : Bool := drained t s && (afterAwaited t s).isSome && settleRoom t s

/-- TURN_ENTRY (R40); an awaited step fence completes in the same event (R34). A drain that has not ended goes on: nothing changes. -/
def execTurnEntry (slowCycles : W64) (s : State) : Host.Outcome State Fault Refusal :=
  if !running s then .fault .notRunning
  else match s.turn.trans with
    | some t =>
      match afterAwaited t s with
      | some s1 => if drained t s && settleRoom t s then .next (doEntry t slowCycles s1) else .next s
      | none => .next s
    | none => .next s

/-- Does a drain still have something to wait for: in GENERATE, also sequences to set aside (R32, R36)? -/
def stillDraining (t : TurnTrans) (s : State) : Bool :=
  !canEnter t s || (s.turn.cur == .generate && !(unsettled t.req s).isEmpty)

/-- TURN_DRAIN_TIMEOUT (R36, R37): of a drain that has not ended. -/
def execTurnDrainTimeout (s : State) : Host.Outcome State Fault Refusal :=
  if !running s then .fault .notRunning
  else match s.turn.trans with
    | some t => if stillDraining t s then .next (noteRefusal .timeout (endTransition t .timeout s)) else .next s
    | none => .next s

end Sys2Proof.Machine
end

