-- ==== Sys2Proof/Machine/Fence.lean ====
section
/-! DEFINITION. FENCE descriptors (R553 to R557). -/

namespace Sys2Proof.Machine

/-! ### Fields (R553, R555) -/

def fenceKind (d : Desc) : Nat := fld d.w2 1 0
def fenceW (d : Desc) : W32 := BitVec.ofNat 32 (fld d.w2 63 32)
def fenceQid (d : Desc) : Fin 64 := ⟨fld d.w2 13 8 % 64, by omega⟩

def isFenceKind (k : Nat) (d : Desc) : Bool := descClass d == clsFence && fenceKind d == k

def fenceFieldsOk (qp : Fin 64) (d : Desc) : Bool :=
  let wait := fenceKind d == 1
  fld d.w2 31 14 == 0 && fld d.w2 7 2 == 0 && fld d.w3 63 32 == 0 && d.w4 == 0 && d.w5 == 0 && d.w6 == 0 && d.w7 == 0
  && fld d.w3 31 0 ≤ 600000 && (wait || (fld d.w2 63 32 == 0 && fld d.w2 13 8 == 0 && fld d.w3 31 0 == 0))
  && (!wait || fenceQid d != qp)

/-! ### Starting -/

/-- The class checks of a FENCE and what it waits for; a STEP that fails them shows 2700:07 and 2700:05 at its
completion (R381), a WAIT RETIRED of the pair it names (R557). -/
def fenceBody (qp : Fin 64) (d : Desc) : M Unit := do
  setAwait (match fenceKind d with
    | 1 => .waitRefused (fenceQid d)
    | 2 => .stepRefused
    | _ => .nothing)
  needDesc (fenceFieldsOk qp d)
  setAwait (match fenceKind d with
    | 0 => .queueFence
    | 1 => .waitFence (fenceQid d) (fenceW d)
    | 2 => .stepFence
    | _ => .drainFence)

/-- A STEP fence with nothing to wait for acts at once (R380). -/
def startStep (qp : Fin 64) (d : Desc) (s : State) : State :=
  let idx := (s.q.qps[qp]).head
  let t := startOne qp d (fenceBody qp d) s
  match findInFlight t qp idx with
  | some e => if e.await = .stepFence ∧ fenceReady e t then actStep e t else t
  | none => t

/-- QUEUE_FENCE (R554). -/
def execQueueFence (qp : Fin 64) (d : Desc) (s : State) : Host.Outcome State Fault Refusal :=
  startDesc (isFenceKind 0 d) qp d (fenceBody qp d) s

/-- WAIT_FENCE (R554). -/
def execWaitFence (qp : Fin 64) (d : Desc) (s : State) : Host.Outcome State Fault Refusal :=
  startDesc (isFenceKind 1 d) qp d (fenceBody qp d) s

/-- STEP_FENCE (R380). -/
def execStepFence (qp : Fin 64) (d : Desc) (s : State) : Host.Outcome State Fault Refusal :=
  if !isFenceKind 2 d then .refused .illFormed
  else if !running s then .fault .notRunning
  else if canStart s qp d 1 then .next (startStep qp d s)
  else .next (showFront qp d s)

/-- DRAIN_FENCE (R554). -/
def execDrainFence (qp : Fin 64) (d : Desc) (s : State) : Host.Outcome State Fault Refusal :=
  startDesc (isFenceKind 3 d) qp d (fenceBody qp d) s

/-! ### Completing -/

/-- Bytes 16 to 31 of a WAIT's record: RETIRED of the pair it names (R557). -/
def waitInfo (s : State) (q : Fin 64) : List Byte := leBytes 4 (s.q.qps[q]).retired.toNat ++ List.replicate 12 0

/-- Completes a fence whose condition holds; none while it does not, and none for a step fence that completes with TURN_ENTRY. -/
def completeFence (e : InFlight) (s : State) : Option State :=
  match e.await with
  | .queueFence => if pairQuiet s e.qp e.order then some (finish e s) else none
  | .waitFence q w =>
    if pairQuiet s e.qp e.order && hasRetired s q w then some (finish { e with info := waitInfo s q } s) else none
  | .stepFence | .drainFence => if fenceReady e s && !withEntry e s then some (finishStep e s) else none
  | .stepRefused => some (finish { e with info := refusedStepInfo s } s)
  | .waitRefused q => some (finish { e with info := waitInfo s q } s)
  | _ => none

/-- WAIT_TIMEOUT (R555): of a WAIT that is not satisfied. -/
def execWaitTimeout (qp : Fin 64) (idx : W32) (s : State) : Host.Outcome State Fault Refusal :=
  if !running s then .fault .notRunning
  else match findInFlight s qp idx with
    | some e => match e.await with
      | .waitFence q w =>
        if pairQuiet s e.qp e.order && hasRetired s q w then .next s
        else .next (finish { e with status := .timeout, info := waitInfo s q } s)
      | _ => .next s
    | none => .next s

end Sys2Proof.Machine
end

