-- ==== Sys2Proof/Machine/Exchange.lean ====
section
/-! DEFINITION. Groups (R413, R414), routes (R597, R598), and the exchange of a REDUCE's vectors or a GATHER's slices between members:
what is sent when, and the fixed order of every sum (R415, R418, R422, R423, R426, R437, R461). -/

namespace Sys2Proof.Machine

/-! ### Group records (R413, R414) -/

def Group.n (g : Group) : Nat := g.nb * g.nm
def Group.rank (g : Group) : Nat := g.nm * g.board + g.mod

def groupOk (s : State) (w0 w1 : W64) (g : Group) : Bool :=
  let maps := g.positions.take g.nm
  fld w0 7 0 == 0 && fld w1 31 0 == 0 && 1 ≤ g.nb && g.nb ≤ 256 && 1 ≤ g.nm && g.nm ≤ 16 && g.board < g.nb && g.mod < g.nm
  && maps.all (fun m => m < 16) && (maps.zipIdx.all fun x => !((maps.take x.2).contains x.1))
  && (g.positions.drop g.nm).all (fun m => m == 0xFF) && maps.getD g.mod 16 == s.rst.position.toNat
  && (if g.nb = 1 then g.bridge == 0xFF else g.bridge ≤ 7 || g.bridge == 0xFF)

/-- Reads and checks the group record at an address. A BRIDGE_AV of 0xFF in a group of several boards is left to `bridgeUp` (R598). -/
def getGroup (a : Nat) : M Group := do
  needDesc (a % 32 == 0)
  needMapped a 32
  let w0 ← readU64 a
  let w1 ← readU64 (a + 8)
  let maps ← readBytes (a + 16) 16
  let g : Group :=
    { id := BitVec.ofNat 32 (fld w0 63 32), nb := fld w0 31 16, nm := fld w0 15 8, board := fld w1 63 48, mod := fld w1 47 40,
      bridge := fld w1 39 32, positions := maps.map fun b => b.toNat }
  needDesc (groupOk (← getS) w0 w1 g)
  return g

/-- An avenue that packets can leave on, now or when it is trained (R551, R598). -/
def avenueUsable (s : State) (a : Nat) : Bool :=
  if h : a < 8 then unitReturning s (.avenue ⟨a, h⟩) && (s.lk.avs[a]'h).phase != .upLimited else false

/-- BRIDGE_AV is present, not disabled and not UP_LIMITED, where the group spans boards (R440, R598). -/
def bridgeUp (s : State) (g : Group) : Bool := g.nb == 1 || avenueUsable s g.bridge

/-! ### Routes (R597, R598) -/

/-- Route entry n of 2D02. -/
def routeEntry (s : State) (n : Nat) : Nat := (s.lk.routes.getD n 0xFF).toNat

/-- The avenue toward a member. -/
def memberRoute (s : State) (g : Group) (dst : Nat) : Nat :=
  if dst / g.nm = g.board then routeEntry s (g.positions.getD (dst % g.nm) 16) else routeEntry s 16

def discardPackets (n : Nat) (s : State) : State := { s with lk := { s.lk with discarded := satAdd s.lk.discarded n } }
def discardPacket (s : State) : State := discardPackets 1 s

/-- Payload bytes of what is sent: of the data it carries; where the manual does not give its payload, a free number of them (LOG 17). -/
def payloadCount (n : Option Nat) (s : State) : Nat × State :=
  match n with
  | some n => (n, s)
  | none => (1 + Config.freePick s.freeCtr % 4064, { s with freeCtr := s.freeCtr + 1 })

/-- The virtual lane of an exchange (R595). -/
def XKind.lane : XKind → BitVec 3
  | .reduce => 0
  | _ => 2

/-- A packet of an exchange to a member: `n` bytes of payload, which are free since their layout is not in the manual (R594, R595; LOG
17). -/
def memberPkt (x : Exchange) (dst : Nat) (ptype : Byte) (offset n : Nat) (s : State) : Packet :=
  let b := dst / x.group.nm
  { srcBoard := s.lk.board, srcPos := BitVec.ofNat 5 s.rst.position.toNat,
    dstBoard := if b = x.group.board then s.lk.board else Config.boardNumber b,
    dstPos := BitVec.ofNat 5 (x.group.positions.getD (dst % x.group.nm) 0), hop := false, vl := x.kind.lane, ptype := ptype,
    groupId := x.group.id, epoch := x.epoch, obj := x.obj, offset := BitVec.ofNat 64 offset,
    payload := (List.range n).map fun i => Config.freeByte (s.freeCtr + i) }

/-- Puts `left` bytes of payload before an avenue, in packets of at most 4,064 bytes each (R594). -/
def queueParts (av : Fin 8) (x : Exchange) (dst : Nat) (ptype : Byte) : (fuel left offset : Nat) → Option OutEvent → State → State
  | 0, _, _, _, s => s
  | k + 1, left, offset, note, s =>
    let n := min 4064 left
    queueParts av x dst ptype k (left - n) (offset + n) none
      (linkQueue (.av av) (packetMsg (memberPkt x dst ptype offset n s) note) { s with freeCtr := s.freeCtr + n })

/-- Sends data to a member, or discards it where its route leads nowhere (R598). It goes out with the next `transmit`. -/
def sendMember (x : Exchange) (dst : Nat) (ptype : Byte) (payload : Option Nat) (offset : Nat) (ev : OutEvent) (s : State) : State :=
  let a := memberRoute s x.group dst
  let r := payloadCount payload s
  let k := max 1 (ceilDiv r.1 4064)
  if h : a < 8 then
    if avenueUsable s a then queueParts ⟨a, h⟩ x dst ptype k r.1 offset (some ev) r.2 else discardPackets k r.2
  else discardPackets k r.2

/-! ### Slices (R418, R448) -/

def sliceOf (unit size n r : Nat) : Nat × Nat :=
  let l := unit * ceilDiv size (unit * n)
  (min (r * l) size, min ((r + 1) * l) size)

/-! ### Pieces -/

/-- The elements from `pos` up to `hi` that pieces in any order give, each piece starting where one before it ended. -/
def coverFrom {α : Type} (ps : List (Nat × List α)) : (fuel pos hi : Nat) → Option (List α)
  | 0, pos, hi => if hi ≤ pos then some [] else none
  | n + 1, pos, hi =>
    if hi ≤ pos then some []
    else match ps.find? fun p => p.1 == pos && !p.2.isEmpty with
      | none => none
      | some p => (coverFrom ps n (pos + p.2.length) hi).map (p.2 ++ ·)

def cover {α : Type} (ps : List (Nat × List α)) (lo hi : Nat) : Option (List α) :=
  (coverFrom ps ps.length lo hi).map fun l => l.take (hi - lo)

/-- The pieces of a kind from a rank, for a round of an entry. -/
def Exchange.from' (x : Exchange) (k : PieceKind) (rank round entry : Nat) : List Piece :=
  x.pieces.filter fun p => p.kind == k && p.rank == rank && p.round == round && p.entry == entry

def Exchange.vals (x : Exchange) (k : PieceKind) (rank round entry lo hi : Nat) : Option (List F32) :=
  cover ((x.from' k rank round entry).map fun p => (p.first, p.vals)) lo hi

/-- Bytes of elements lo to hi − 1 of width `w`. -/
def Exchange.bytes (x : Exchange) (k : PieceKind) (rank round entry w lo hi : Nat) : Option (List Byte) :=
  cover ((x.from' k rank round entry).map fun p => (p.first * w, p.elems)) (lo * w) (hi * w)

/-- S8 of blocks lo to hi − 1; a piece that starts at element 32b gives block b's first. -/
def Exchange.s8s (x : Exchange) (k : PieceKind) (rank round entry lo hi : Nat) : Option (List Byte) :=
  cover ((x.from' k rank round entry).map fun p => (p.first / 32, p.scales)) lo hi

/-! ### Posting -/

/-- Bytes of n elements in a format, with their S8s. -/
def elementBytes (f : Fmt) (n : Nat) : Nat := n * f.width + if f.narrow then ceilDiv n 32 else 0

/-- The bytes of the data a packet of the reduction engine carries (R423, R445): contributions in IN_FMT, board sums in F32, results in
OUT_FMT; the payload of a COUNT is not in the manual. -/
def Piece.payload (inFmt : Option Nat) (p : Piece) : Option Nat :=
  match p.kind with
  | .contrib => if p.round = 0 then inFmt.map fun c => elementBytes ((Fmt.ofCode c).getD .f32) p.vals.length else some (4 * p.vals.length)
  | .boardSum => some (4 * p.vals.length)
  | .result | .slice => some (p.elems.length + p.scales.length)
  | .count => none

def Exchange.payload (x : Exchange) (p : Piece) : Option Nat :=
  p.payload ((x.entries.find? fun e => e.index == p.entry).map XEntry.inFmt)

/-- The packet types of members' data and FIELDS (R595). -/
def PieceKind.ptype : PieceKind → Byte
  | .contrib => 0x11
  | .boardSum => 0x12
  | .result => 0x13
  | .count => 0x14
  | .slice => 0x31
def XKind.fieldsType : XKind → Byte
  | .reduce => 0x10
  | _ => 0x30

/-- The byte offset of a REDUCE's data within the bucket's flat order, in the format that they travel in (R418, R595; LOG 17). -/
def Exchange.offset (x : Exchange) (p : Piece) : Nat :=
  match x.entries.find? fun e => e.index == p.entry with
  | none => 0
  | some e =>
    let w := fun c => ((Fmt.ofCode c).getD .f32).width
    match p.kind with
    | .contrib => (e.base + p.first) * if p.round = 0 then w e.inFmt else 4
    | .boardSum => (e.base + p.first) * 4
    | .result => (e.base + p.first) * if p.round = 0 then w e.outFmt else 4
    | _ => 0

/-- An exchange and the state it runs in. -/
abbrev XS := Exchange × State

/-- Gives a piece to a member; one for this module itself goes nowhere. -/
def post (dst : Nat) (p : Piece) (x : XS) : XS :=
  if dst = x.1.group.rank then ({ x.1 with pieces := x.1.pieces ++ [p] }, x.2)
  else
    (x.1, sendMember x.1 dst p.kind.ptype (x.1.payload p) (x.1.offset p) (.piece dst x.1.group.id x.1.epoch x.1.obj p) x.2)

def postAll (dsts : List Nat) (p : Piece) (x : XS) : XS := dsts.foldl (fun x d => post d p x) x

/-- A vector in exchange: its entry, round and length. -/
structure XRef where
  e : XEntry
  round : Nat
  size : Nat
  deriving DecidableEq, Repr

/-! ### Adding (R422, R437) -/

def redOp (d : Desc) : Nat := fld d.w2 15 12
def redMode (d : Desc) : Nat := fld d.w2 11 10
def redTrigger (d : Desc) : Nat := fld d.w2 9 8

/-- A MEANVAR state: n, mean, sum of squares (R436). -/
structure MeanVar where
  n : Nat
  mean : F32
  ss : F32
  deriving DecidableEq, Repr, Inhabited

/-- The combination of R437. -/
def mvCombine (a b : MeanVar) : MeanVar :=
  if a.n = 0 then b
  else if b.n = 0 then a
  else
    let rn := f32Recip (f32OfNat (a.n + b.n))
    let d := f32Sub b.mean a.mean
    { n := a.n + b.n, mean := f32Fma d (f32Mul (f32OfNat b.n) rn) a.mean,
      ss := f32Add (f32Add a.ss b.ss) (f32Mul (f32Mul d d) (f32Mul (f32Mul (f32OfNat a.n) (f32OfNat b.n)) rn)) }

/-- A MEANVAR state as four 32-bit words (LOG 17). -/
def MeanVar.words (m : MeanVar) : List F32 := [BitVec.ofNat 32 m.n, BitVec.ofNat 32 (m.n / 2 ^ 32), m.mean, m.ss]
def MeanVar.ofWords (l : List F32) : MeanVar :=
  { n := (l.getD 0 0).toNat + (l.getD 1 0).toNat * 2 ^ 32, mean := l.getD 2 0, ss := l.getD 3 0 }

/-- The sum of two vectors, element by element; of two MEANVAR states, their combination. -/
def vecAdd (op : Nat) (a b : List F32) : List F32 :=
  if op = 2 then (mvCombine (MeanVar.ofWords a) (MeanVar.ofWords b)).words else List.zipWith f32Add a b

def vecSum (op : Nat) (l : List (List F32)) : List F32 := combine (vecAdd op) [] l

/-- Elements whose contributions are all finite, as bytes. -/
def finiteFlags (n : Nat) (addends : List (List F32)) : List Byte :=
  (List.range n).map fun i => if addends.all fun a => f32IsFinite (a.getD i 0) then 1 else 0

/-- Results that are not finite though every contribution, by each board's flags, is: the slice owner's events of R426. -/
def newNonfinite (sum : List F32) (flags : List (List Byte)) : Nat :=
  (sum.zipIdx.filter fun v => !f32IsFinite v.1 && flags.all fun a => a.getD v.2 0 == 1).length

def nonfiniteIn (l : List F32) : Nat := (l.filter fun v => !f32IsFinite v).length

/-! ### The rounds of a REDUCE

Member k of a board adds, for its board, every slice whose owner is member k of its own board; board sums go to the owner, which adds
them and, where every member takes results, sends the result to all. -/

/-- The vectors sent first: each entry in full, or the P of one that is thinned; then the Q of those (R431). -/
def Exchange.first (x : Exchange) : List XRef :=
  let op := redOp x.desc
  x.entries.map fun e =>
    if e.thin ≠ 0 then ⟨e, 1, e.thin * e.rows⟩ else ⟨e, 0, if op = 0 then e.rows * e.cols else if op = 2 then 4 else 1⟩
def Exchange.second (x : Exchange) : List XRef := (x.entries.filter fun e => e.thin != 0).map fun e => ⟨e, 2, e.thin * e.cols⟩

def Exchange.vec (x : Exchange) (entry round : Nat) : List F32 :=
  ((x.vecs.find? fun v => v.entry == entry && v.round == round).map XVec.vals).getD []

def setCount (i n : Nat) (x : Exchange) : Exchange :=
  { x with entries := x.entries.map fun e => if e.index == i then { e with count := e.count + n } else e }

/-- The slices this module adds for its board. -/
def Exchange.handled (x : Exchange) : List Nat := (List.range x.group.nb).map fun b => b * x.group.nm + x.group.mod

/-- Sends the contributions of a vector, slice by slice, to the member that adds them. -/
def postContrib (v : XRef) (x : XS) : XS :=
  (List.range x.1.group.n).foldl (fun x r =>
    let g := x.1.group
    let q := sliceOf 32 v.size g.n r
    if q.1 < q.2 then
      post (g.board * g.nm + r % g.nm)
        { kind := .contrib, rank := g.rank, round := v.round, entry := v.e.index, first := q.1,
          vals := ((x.1.vec v.e.index v.round).drop q.1).take (q.2 - q.1), elems := [], scales := [] } x
    else x) x

/-- The contributions of this board's members to a slice. -/
def boardParts (x : Exchange) (v : XRef) (r : Nat) : Option (List (List F32)) :=
  let q := sliceOf 32 v.size x.group.n r
  (List.range x.group.nm).mapM fun j => x.vals .contrib (x.group.board * x.group.nm + j) v.round v.e.index q.1 q.2

/-- Sends this board's sums of the slices this module adds. -/
def postBoard (v : XRef) (x : XS) : XS :=
  x.1.handled.foldl (fun x r =>
    let q := sliceOf 32 v.size x.1.group.n r
    match boardParts x.1 v r with
    | some ps =>
      if q.1 < q.2 then
        let sum := vecSum (redOp x.1.desc) ps
        post r { kind := .boardSum, rank := x.1.group.rank, round := v.round, entry := v.e.index, first := q.1, vals := sum,
                 elems := finiteFlags (q.2 - q.1) ps, scales := [] } x
      else x
    | none => x) x

/-- The board sums of this module's own slice. -/
def ownParts (x : Exchange) (v : XRef) : Option (List (List F32)) :=
  let q := sliceOf 32 v.size x.group.n x.group.rank
  (List.range x.group.nb).mapM fun b => x.vals .boardSum (b * x.group.nm + x.group.mod) v.round v.e.index q.1 q.2

/-- Of each board, whether the contributions to this module's own slice were finite. -/
def ownFlags (x : Exchange) (v : XRef) : List (List Byte) :=
  let q := sliceOf 32 v.size x.group.n x.group.rank
  (List.range x.group.nb).map fun b => (x.bytes .boardSum (b * x.group.nm + x.group.mod) v.round v.e.index 1 q.1 q.2).getD []

/-- Converted elements: their bytes, the S8 of their blocks, and "saturated". -/
structure Converted where
  elems : List Byte
  scales : List Byte
  sat : Bool

/-- Converts values at flat indices from `first`, a multiple of 32, each already multiplied by its factor (R74 to R80). -/
def convFlat (f : Fmt) (prop : Bool) (rnd : Nat → Rnd) (first : Nat) (ws : List Num) : Converted :=
  let els := ws.zipIdx.map fun x => (x.1, rnd (first + x.2))
  if f.narrow then
    let bs := (chunksOf 32 els.length els).map fun b => convBlock f prop (b ++ List.replicate (32 - b.length) (Num.zero, Rnd.rne))
    ⟨bs.flatMap fun b => blockBytesOf f b.codes, bs.map fun b => BitVec.ofNat 8 b.s8, bs.any Block.sat⟩
  else
    let es := els.map fun x => convWide f prop x.2 x.1
    ⟨es.flatMap fun e => leBytes f.width e.code, [], es.any Elem.sat⟩

/-- The owner's conversion of its slice into OUT_FMT (R425). -/
def convOwn (x : Exchange) (v : XRef) (first : Nat) (vals : List F32) : Converted :=
  if redOp x.desc = 0 ∧ v.round = 0 then
    let f := f32Dec (recipFactor v.e.outCs)
    let stream : W32 := BitVec.ofNat 32 (fld x.desc.w4 31 0)
    convFlat ((Fmt.ofCode v.e.outFmt).getD .f32) v.e.prop (fun i => rndFlat x.stoch x.seed stream (v.e.base + i)) first
      (vals.map fun y => Num.mul (f32Dec y) f)
  else ⟨f32Bytes vals, [], false⟩

/-- Does every member take this vector's results (R419, R431)? -/
def goesToAll (x : Exchange) (v : XRef) : Bool := redOp x.desc != 0 || v.round != 0 || redMode x.desc == 0

/-- Exception bits of values that are not finite (R442). -/
def valuesExc (l : List F32) : W16 :=
  excIf (l.any f32IsNan) excInvalid ||| excIf (l.any f32IsInf) excInfinite

/-- Adds the board sums of this module's slice and sends the result. -/
def postResult (v : XRef) (x : XS) : XS :=
  let g := x.1.group
  let q := sliceOf 32 v.size g.n g.rank
  match ownParts x.1 v with
  | some ps =>
    if q.1 < q.2 then
      let sum := vecSum (redOp x.1.desc) ps
      let n := if redOp x.1.desc ≠ 0 then 0 else if v.round = 0 then newNonfinite sum (ownFlags x.1 v) else nonfiniteIn sum
      let c := convOwn x.1 v q.1 sum
      let exc := excIf c.sat excSaturated ||| if redOp x.1.desc ≠ 2 ∧ v.round = 0 then valuesExc sum else 0
      let y := { setCount v.e.index n x.1 with exc := x.1.exc ||| exc }
      postAll (if goesToAll x.1 v then List.range g.n else [g.rank])
        { kind := .result, rank := g.rank, round := v.round, entry := v.e.index, first := q.1, vals := sum, elems := c.elems,
          scales := c.scales } (y, x.2)
    else x
  | none => x

/-- The format a vector's results travel in. -/
def resultFmt (x : Exchange) (v : XRef) : Fmt :=
  if redOp x.desc = 0 ∧ v.round = 0 then (Fmt.ofCode v.e.outFmt).getD .f32 else .f32

/-- The result of one slice, once it is here. -/
def sliceResult (x : Exchange) (v : XRef) (r : Nat) : Option (List Byte × List Byte) :=
  let f := resultFmt x v
  let q := sliceOf 32 v.size x.group.n r
  let w := if f.narrow then 1 else f.width
  let hi := if f.narrow then ceilDiv q.2 32 * 32 else q.2
  if q.1 < q.2 then do
    let e ← x.bytes .result r v.round v.e.index w q.1 hi
    let b ← if f.narrow then x.s8s .result r v.round v.e.index (q.1 / 32) (ceilDiv q.2 32) else some []
    return (e, b)
  else some ([], [])

/-- The slices whose results this module takes. -/
def takenSlices (x : Exchange) (v : XRef) : List Nat := if goesToAll x v then List.range x.group.n else [x.group.rank]

def resultsHere (x : Exchange) (v : XRef) : Bool := (takenSlices x v).all fun r => (sliceResult x v r).isSome

/-- F32 words of a vector whose results are all here. -/
def resultWords (x : Exchange) (v : XRef) : List F32 :=
  let bs := (takenSlices x v).flatMap fun r => ((sliceResult x v r).map Prod.fst).getD []
  (chunksOf 4 bs.length bs).map fun b => (BitVec.ofNat 32 (leNat b) : F32)

/-- Rows of a flat array. -/
def rowsOfFlat (cols : Nat) (l : List F32) : List (List F32) := chunksOf cols l.length l

/-- Round 2 of a thinned entry: ph from the reduced P, and ql (R431). -/
def secondRound (v : XRef) (x : Exchange) : Exchange :=
  if v.e.thin = 0 then x
  else
    let m := (rowsOfFlat v.e.cols (x.vec v.e.index 3))
    let o := orthonormalise (rowsOfFlat v.e.rows (resultWords x v))
    let ql := o.1.flatMap fun ph => (List.range v.e.cols).map fun b => kredDot (m.map fun row => row.getD b 0) ph
    { x with
      vecs := x.vecs ++ [⟨v.e.index, 2, ql⟩, ⟨v.e.index, 4, o.1.flatMap id⟩],
      entries := x.entries.map fun e =>
        if e.index == v.e.index then { e with count := e.count + nonfiniteIn ql, zeros := o.2 } else e }

/-- Sends this module's counts to every member (R426). -/
def postCounts (x : XS) : XS :=
  if redOp x.1.desc = 0 then
    x.1.entries.foldl (fun x e =>
      postAll (List.range x.1.group.n)
        { kind := .count, rank := x.1.group.rank, round := 0, entry := e.index, first := 0,
          vals := [BitVec.ofNat 32 (min e.count (2 ^ 32 - 1))], elems := [], scales := [] } x) x
  else x

/-- ECOUNT of an entry, once every member's count is here. -/
def entryCount (x : Exchange) (i : Nat) : Option Nat :=
  if redOp x.desc ≠ 0 then some 0
  else do
    let l ← (List.range x.group.n).mapM fun r => x.vals .count r 0 i 0 1
    return min (l.foldl (fun n v => n + (v.getD 0 0).toNat) 0) (2 ^ 32 - 1)

/-- Every member's fields are here. -/
def fieldsHere (x : Exchange) : Bool := (List.range x.group.n).all fun r => r == x.group.rank || x.peers.any fun p => p.1 == r

/-- One move of a REDUCE's exchange, where its next one can be made. -/
def reduceMove (x : XS) : Option XS :=
  let a := x.1.first
  let b := x.1.second
  let goTo := fun n (y : XS) => some (({ y.1 with stage := n }, y.2) : XS)
  let run := fun (f : XRef → XS → XS) (l : List XRef) => l.foldl (fun y v => f v y) x
  let boards := fun (l : List XRef) => l.all fun v => x.1.handled.all fun r => (boardParts x.1 v r).isSome
  match x.1.stage with
  | 0 => if fieldsHere x.1 then goTo 1 (run postContrib a) else none
  | 1 => if boards a then goTo 2 (run postBoard a) else none
  | 2 => if a.all fun v => (ownParts x.1 v).isSome then goTo 3 (run postResult a) else none
  | 3 =>
    if a.all (resultsHere x.1) then
      let y : XS := (a.foldl (fun y v => secondRound v y) x.1, x.2)
      goTo 4 (b.foldl (fun y v => postContrib v y) y)
    else none
  | 4 => if boards b then goTo 5 (run postBoard b) else none
  | 5 => if b.all fun v => (ownParts x.1 v).isSome then goTo 6 (run postResult b) else none
  | 6 => if b.all (resultsHere x.1) then goTo 7 (postCounts x) else none
  | 7 => if x.1.entries.all fun e => (entryCount x.1 e.index).isSome then goTo 8 x else none
  | _ => none

/-- Slices of a GATHER are counted in blocks (R448). -/
def gatherSlice (x : Exchange) (blocks r : Nat) : Nat × Nat := sliceOf 1 blocks x.group.n r

/-- Blocks of a GATHER's destination, and their bytes. -/
def gatherShape (x : Exchange) : Nat × Nat :=
  match x.own with
  | .gather _ b f _ => (b, ((Fmt.ofCode f).getD .f8a).blockBytes)
  | _ => (0, 0)

/-- The slice of a member, once it is here: elements and S8s. -/
def memberSlice (x : Exchange) (r : Nat) : Option (List Byte × List Byte) :=
  let sh := gatherShape x
  let q := gatherSlice x sh.1 r
  if q.1 < q.2 then do
    let e ← x.bytes .slice r 0 0 sh.2 q.1 q.2
    let b ← cover ((x.from' .slice r 0 0).map fun p => (p.first, p.scales)) q.1 q.2
    return (e, b)
  else some ([], [])

/-- One move of a GATHER's exchange. -/
def gatherMove (x : XS) : Option XS :=
  match x.1.stage with
  | 0 =>
    if fieldsHere x.1 then
      let y := (x.1.pieces.filter fun p => p.rank == x.1.group.rank).foldl (fun (y : XS) p => (List.range x.1.group.n).foldl (fun y r =>
        if r = x.1.group.rank then y
        else
          (y.1, sendMember x.1 r p.kind.ptype (some (p.elems.length + p.scales.length)) (p.first * (gatherShape x.1).2)
            (.piece r x.1.group.id x.1.epoch x.1.obj p) y.2))
        y) x
      some ({ y.1 with stage := 1 }, y.2)
    else none
  | 1 => if (List.range x.1.group.n).all fun r => (memberSlice x.1 r).isSome then some ({ x.1 with stage := 8 }, x.2) else none
  | _ => none

def xMove (x : XS) : Option XS :=
  match x.1.kind with
  | .reduce => reduceMove x
  | .gather => gatherMove x
  | .rebuild => none

/-- Every move that can be made. -/
def xMoves : (fuel : Nat) → XS → XS
  | 0, x => x
  | n + 1, x => match xMove x with
    | some y => xMoves n y
    | none => x

/-- All of an exchange's data are here. -/
def Exchange.ready (x : Exchange) : Bool := x.begun && x.stage == 8

/-- Two members' fields as they are compared (R415, R462): coarse scales only of nonempty sources. -/
def fieldsAgree (a b : PeerFields) : Bool :=
  match a, b with
  | .gather e1 n1 f1 c1, .gather e2 n2 f2 c2 => e1 == e2 && n1 == n2 && f1 == f2 && match c1, c2 with
    | some x, some y => x == y
    | _, _ => true
  | x, y => x == y

/-- Bytes that a GATHER has received from other members (R477). -/
def Exchange.received (x : Exchange) : Nat :=
  x.pieces.foldl (fun n p => if p.rank = x.group.rank then n else n + p.elems.length + p.scales.length) 0

/-- A difference this member sees, with its own fields or between two others'. -/
def Exchange.mismatch (x : Exchange) : Bool :=
  let l := x.own :: x.peers.map Prod.snd
  l.any fun a => l.any fun b => !fieldsAgree a b

/-- Sends this module's fields to every other member. -/
def sendFields (x : Exchange) (s : State) : State :=
  (List.range x.group.n).foldl (fun s r =>
    if r = x.group.rank then s
    else
      sendMember x r x.kind.fieldsType none 0 (.fields r x.group.id x.epoch x.obj x.own) s) s

/-- Is a field set of the kind an exchange compares? -/
def fieldsOfKind (k : XKind) : PeerFields → Bool
  | .reduce .. => k == .reduce
  | .gather .. => k == .gather

end Sys2Proof.Machine
end

