-- ==== Sys2Proof/Machine/Reduce.lean ====
section
/-! DEFINITION. REDUCE: SUM, SUMSQ and MEANVAR, their checks, what they contribute and what they write (spec/11). -/

namespace Sys2Proof.Machine

/-! ### The descriptor (R439) -/

structure RedFields where
  target : Nat
  op : Nat
  mode : Nat
  trigger : Nat
  norm : Bool
  rnd : Nat
  ovf : Nat
  group : Nat
  entry : Nat
  epoch : W32
  stream : W32
  source : Nat
  count : Nat
  eps : F32
  firstPlaza : Nat
  plazas : Nat
  deriving DecidableEq, Repr, Inhabited

def redFields (d : Desc) : RedFields :=
  { target := fld d.w2 63 16, op := redOp d, mode := redMode d, trigger := redTrigger d, norm := bit d.w2 7, rnd := fld d.w2 3 2,
    ovf := fld d.w2 1 0, group := fld d.w3 63 16, entry := fld d.w3 15 0, epoch := BitVec.ofNat 32 (fld d.w4 63 32),
    stream := BitVec.ofNat 32 (fld d.w4 31 0), source := fld d.w5 63 16, count := fld d.w5 15 0,
    eps := BitVec.ofNat 32 (fld d.w6 63 32), firstPlaza := fld d.w7 63 56, plazas := fld d.w7 55 48 }

def isReduce (op : Nat) (d : Desc) : Bool := descClass d == clsReduce && redOp d == op

/-- The field checks of R440's first row that need no record. -/
def redFieldsOk (d : Desc) (f : RedFields) : Bool :=
  fld d.w2 6 4 == 0 && fld d.w6 31 0 == 0 && fld d.w7 47 0 == 0 && f.op ≤ 2 && f.rnd != 3 && f.ovf != 3
  && (if f.op = 0 then f.mode ≤ 1 && f.trigger ≤ 1 else f.mode == 0 && f.trigger == 0 && f.firstPlaza == 0 && f.plazas == 0)
  && (f.op == 2 || (!f.norm && f.eps == 0)) && (f.op != 2 || f32FiniteNonneg f.eps)
  && (f.trigger == 1 || f.entry == 0) && (f.op != 0 || f.source == 0)
  && (if f.op = 1 then 1 ≤ f.count else f.count == 0) && f.firstPlaza + f.plazas ≤ 64

/-! ### Bucket headers and entries (R416, R417, R430) -/

structure Bucket where
  addr : Nat
  entries : Nat
  id : W32
  nent : Nat
  bytes : Nat
  tag : W32
  state : Nat
  done : Nat
  ssq : F32
  deriving DecidableEq, Repr, Inhabited

/-- Reads and checks a bucket header; its M fields are ordered by R441. -/
def getBucket (a : Nat) : M Bucket := do
  needDesc (a % 64 == 0)
  needInStacks a 64
  let w0 ← readU64 a
  let w1 ← readU64 (a + 8)
  let w2 ← readU64 (a + 16)
  let m ← readSerial (a + 24) 24
  let w3 : W64 := BitVec.ofNat 64 (leNat (m.take 8))
  let w5 : W64 := BitVec.ofNat 64 (leNat (m.drop 16))
  let r ← readBytes (a + 48) 16
  needDesc (kindOf w0 == 0xBC && fld w0 55 48 == 0 && fld w0 47 0 % 16 == 0 && fld w1 15 0 == 0 && fld w2 31 0 == 0
    && 1 ≤ fld w1 31 16 && fld w1 31 16 ≤ 4096 && 1 ≤ fld w2 63 32 && fld w2 63 32 ≤ 0x10000000 && r.all fun b => b == 0)
  needMapped (fld w0 47 0) (48 * fld w1 31 16)
  return { addr := a, entries := fld w0 47 0, id := BitVec.ofNat 32 (fld w1 63 32), nent := fld w1 31 16, bytes := fld w2 63 32,
           tag := BitVec.ofNat 32 (fld w3 63 32), state := fld w3 31 28, done := fld w3 15 0,
           ssq := BitVec.ofNat 32 (fld w5 63 32) }

/-- A low-rank state record (R430). -/
structure LowRank where
  rank : Nat
  ef : TRec
  q : Nat
  pscr : Nat
  qscr : Nat
  stream : W32
  deriving Repr

structure BEntry where
  addr : Nat
  inRec : TRec
  out : TRec
  lrs : Option LowRank
  rows : Nat
  cols : Nat
  etag : W32
  base : Nat
  deriving Repr

/-- A format a bucket's tensors may have (R417). -/
def bucketFmt (c : Nat) : Bool := c == 0 || c == 1 || c == 3

def getLowRank (a rows cols : Nat) : M LowRank := do
  needDesc (a % 64 == 0)
  needInStacks a 64
  let w0 ← readU64 a
  let w1 ← readU64 (a + 8)
  let w2 ← readU64 (a + 16)
  let w3 ← readU64 (a + 24)
  let w4 ← readU64 (a + 32)
  let r ← readBytes (a + 40) 24
  let ef ← getTRec (fld w0 47 0)
  let k := fld w0 55 48
  needDesc (kindOf w0 == 0x7C && (k == 4 || k == 8 || k == 16 || k == 32 || k == 64) && fld w1 15 0 == 0 && fld w2 15 0 == 0
    && fld w3 15 0 == 0 && fld w4 31 0 == 0 && r.all (fun b => b == 0) && ef.fmt == .f8g && flatOk ef (rows * cols))
  needMapped (fld w1 63 16) (4 * k * cols)
  needMapped (fld w2 63 16) (4 * k * rows)
  needMapped (fld w3 63 16) (4 * k * cols)
  return { rank := k, ef := ef, q := fld w1 63 16, pscr := fld w2 63 16, qscr := fld w3 63 16,
           stream := BitVec.ofNat 32 (fld w4 63 32) }

/-- The rank that an entry's shape and IN plane thin it to; 0 when it is sent in full (R431). -/
def rankOf (l : Option LowRank) (rows cols inBytes : Nat) : Nat :=
  match l with
  | none => 0
  | some l => if min rows cols < 512 ∨ inBytes < 2 ^ 20 then 0 else l.rank

def getBEntry (a base : Nat) : M BEntry := do
  let w0 ← readU64 a
  let w1 ← readU64 (a + 8)
  let w2 ← readU64 (a + 16)
  let w3 ← readU64 (a + 24)
  let m ← readSerial (a + 32) 16
  let rows := fld w3 63 32
  let cols := fld w3 31 0
  needDesc (fld w0 11 0 == 0 && fld w1 11 0 == 0 && fld w2 15 0 == 0 && bucketFmt (fld w0 15 12) && bucketFmt (fld w1 15 12)
    && 1 ≤ rows && rows ≤ 2 ^ 24 && 1 ≤ cols && cols ≤ 2 ^ 24)
  let i ← getTRec (fld w0 63 16)
  let o ← getTRec (fld w1 63 16)
  needDesc (i.fmt.code == fld w0 15 12 && o.fmt.code == fld w1 15 12 && !i.coded && !o.coded && flatOk i (rows * cols)
    && flatOk o (rows * cols))
  let l ← if fld w2 63 16 = 0 then pure none else (do return some (← getLowRank (fld w2 63 16) rows cols))
  needDesc (l.isNone || !((planeRanges i).any fun x => (planeRanges o).any (rangesMeet x)))
  return { addr := a, inRec := i, out := o, lrs := l, rows := rows, cols := cols,
           etag := BitVec.ofNat 32 (leNat ((m.drop 4).take 4)), base := base }

/-- Reads every entry of a bucket; `base` counts the elements of those before (R418). -/
def getBEntries : (n a base : Nat) → M (List BEntry)
  | 0, _, _ => pure []
  | n + 1, a, base => do
    let e ← getBEntry a base
    return e :: (← getBEntries n (a + 48) (base + e.rows * e.cols))

def thinRank (e : BEntry) : Nat := rankOf e.lrs e.rows e.cols e.inRec.elemBytes

/-- What an entry that is reduced is multiplied by: 1 ÷ the coarse scale of its OUT and, thinned, of its EF (R74). -/
def BEntry.factors (e : BEntry) : List F32 :=
  recipFactor e.out.cs :: if thinRank e = 0 then [] else (e.lrs.map fun l => recipFactor l.ef.cs).toList

/-! ### What a SUM writes -/

/-- The flat elements of an entry that this module writes (R419). -/
def writtenSlice (f : RedFields) (g : Group) (e : BEntry) : Nat × Nat :=
  if f.mode = 0 then (0, e.rows * e.cols) else sliceOf 32 (e.rows * e.cols) g.n g.rank

/-- Byte ranges of flat elements lo to hi − 1, lo a multiple of 32 (R725). -/
def flatRanges (t : TRec) (lo hi : Nat) : List (Nat × Nat) :=
  if hi ≤ lo then []
  else if t.fmt.narrow then
    [(t.elem + lo / 32 * t.fmt.blockBytes, (ceilDiv hi 32 - lo / 32) * t.fmt.blockBytes), (t.scale + lo / 32, ceilDiv hi 32 - lo / 32)]
  else [(t.elem + lo * t.fmt.width, (hi - lo) * t.fmt.width)]

/-- The ranges that hold a thinned entry's own state. -/
def lowRanges (e : BEntry) : List (Nat × Nat) :=
  match e.lrs with
  | none => []
  | some l => if thinRank e = 0 then []
    else planeRanges l.ef ++ [(l.q, 4 * l.rank * e.cols), (l.pscr, 4 * l.rank * e.rows), (l.qscr, 4 * l.rank * e.cols)]

def entryOuts (f : RedFields) (g : Group) (e : BEntry) : List (Nat × Nat) :=
  let q := writtenSlice f g e
  flatRanges e.out q.1 q.2 ++ lowRanges e

/-- A checked SUM. -/
structure SumReady where
  b : Bucket
  es : List BEntry

/-- The entries a SUM reduces, with their numbers (R421). -/
def SumReady.scope (r : SumReady) (f : RedFields) : List (BEntry × Nat) :=
  r.es.zipIdx.filter fun x => f.trigger == 0 || x.2 == f.entry

def SumReady.outs (r : SumReady) (f : RedFields) (g : Group) : List (Nat × Nat) :=
  [(r.b.addr, 64)] ++ (r.scope f).flatMap fun x => (x.1.addr, 48) :: entryOuts f g x.1

/-! ### Checks (R440) -/

/-- The first row of R440 for a SUM. -/
def checkSum (f : RedFields) : M SumReady := do
  let b ← getBucket f.target
  needDesc (f.trigger == 0 || f.entry < b.nent)
  let es ← getBEntries b.nent b.entries 0
  let r : SumReady := ⟨b, es⟩
  let tag := (← getS).stash.tag
  let need' := es.any fun e => e.lrs.isSome
  needDesc (es.foldl (fun n e => n + e.inRec.elemBytes) 0 == b.bytes
    && (if f.trigger = 0 then !(b.state == 2 && b.tag == tag) else (r.scope f).all fun x => x.1.etag != tag)
    && (if need' then 1 ≤ f.plazas else f.firstPlaza == 0 && f.plazas == 0)
    && (r.scope f).all fun x => x.1.factors.all f32FiniteNormal)
  return r

/-- The header list of a SUMSQ (R435). -/
def checkSumsq (f : RedFields) : M (List Bucket) := do
  needDesc (f.target % 16 == 0)
  needMapped f.target 16
  needMapped f.source (8 * f.count)
  let ws ← (List.range f.count).mapM fun i => readU64 (f.source + 8 * i)
  needDesc (ws.all fun w => fld w 63 48 == 0)
  ws.mapM fun w => getBucket (fld w 47 0)

/-- The input of a MEANVAR (R436). -/
def checkMeanvar (f : RedFields) : M TRec := do
  needMapped f.target 32
  let t ← getTRec f.source
  needDesc (t.fmt == .f32 && (!f.norm || f32FiniteNormal (recipFactor t.cs)))
  return t

/-- UNIT_ABSENT and WRITE_PROTECTED, which follow the first row. -/
def checkUnits (f : RedFields) (g : Group) (thins : Bool) (ins outs : List (Nat × Nat)) : M Unit := do
  needPlazas f.firstPlaza f.plazas
  let s ← getS
  need (bridgeUp s g) .unitAbsent
  needOutBacked (ins ++ outs)
  need (!thins || s.persist.variant.has 2) .unitAbsent

/-! ### Beginning: what this module contributes -/

/-- The exchange of a REDUCE before its data. -/
def redExchange (x : Exchange) (f : RedFields) (g : Group) (s : State) : Exchange :=
  { x with prepared := true, group := g, epoch := f.epoch, seed := s.rng.seed.toNat, stoch := stochOf s f.rnd }

def peerOf (f : RedFields) (bucketId : W32) (nent bytes : Nat) (es : List EntryShape) : PeerFields :=
  .reduce f.op f.mode f.trigger f.epoch f.stream bucketId nent bytes f.entry es

/-- What an entry contributes (R422, R426, R431): its elements; thinned, m and the local P as well. -/
def contribute (x : BEntry × Nat) (prop : Bool) (extra : Nat) : M (XEntry × List XVec) := do
  let e := x.1
  let g ← flatValues e.inRec (e.rows * e.cols)
  let r := thinRank e
  let c : XEntry :=
    { index := x.2, rows := e.rows, cols := e.cols, base := e.base, thin := r, inFmt := e.inRec.fmt.code, outFmt := e.out.fmt.code,
      outCs := e.out.cs,
      prop := prop, count := nonfiniteIn g + extra, zeros := 0 }
  match e.lrs with
  | none => return (c, [⟨x.2, 0, g⟩])
  | some l =>
    if r = 0 then return (c, [⟨x.2, 0, g⟩])
    else
      let ef ← flatValues l.ef (e.rows * e.cols)
      let q := rowsOfFlat e.cols (← f32Plane l.q (r * e.cols))
      let m := List.zipWith f32Add g ef
      let pl := q.flatMap fun qj => (rowsOfFlat e.cols m).map fun row => kredDot row qj
      return ({ c with count := c.count + nonfiniteIn pl }, [⟨x.2, 1, pl⟩, ⟨x.2, 3, m⟩])

def beginSum (x : Exchange) (f : RedFields) (g : Group) : M Exchange := do
  let r ← checkSum f
  let sc := r.scope f
  let outs := r.outs f g
  checkUnits f g (sc.any fun y => thinRank y.1 != 0) (sc.flatMap fun y => planeRanges y.1.inRec) outs
  needOutWritable outs
  outs.forM fun o => if o.2 = 64 ∧ o.1 = r.b.addr then pure () else noteWrite o.1 o.2
  let s ← getS
  let extra := fun i => if s.stash.state = .exhausted ∧ (sc.head?.map Prod.snd) = some i then 1 else 0
  let cs ← sc.mapM fun y => contribute y (propOf s y.1.out.fmt f.ovf) (extra y.2)
  let shapes := r.es.map fun e =>
    (⟨e.inRec.fmt.code, e.out.fmt.code, e.rows, e.cols, (e.lrs.map LowRank.rank).getD 0⟩ : EntryShape)
  return { redExchange x f g s with
    obj := r.b.id, own := peerOf f r.b.id r.b.nent r.b.bytes shapes, entries := cs.map Prod.fst, vecs := cs.flatMap Prod.snd }

/-- The one vector of a SUMSQ or MEANVAR. -/
def plainEntry' : XEntry :=
  { index := 0, rows := 1, cols := 1, base := 0, thin := 0, inFmt := 0, outFmt := 0, outCs := f32One, prop := true, count := 0, zeros := 0 }

def beginSumsq (x : Exchange) (f : RedFields) (g : Group) : M Exchange := do
  let hs ← checkSumsq f
  checkUnits f g false [] [(f.target, 16)]
  let s ← getS
  need (hs.all fun h => h.state == 2 && h.tag == s.stash.tag) .bucketNotReady
  needWritable f.target 16
  noteWrite f.target 16
  return { redExchange x f g s with
    own := peerOf f 0 0 0 [], entries := [plainEntry'], vecs := [⟨0, 0, [kredAdd (hs.map Bucket.ssq)]⟩] }

/-- The local state of a MEANVAR (R436). -/
def meanVarOf (xs : List F32) : MeanVar :=
  if xs.isEmpty then ⟨0, f32Zero, f32Zero⟩
  else
    let mu := f32Mul (kredAdd xs) (f32Recip (f32OfNat xs.length))
    let ds := xs.map fun v => f32Sub v mu
    ⟨xs.length, mu, kredDot ds ds⟩

def beginMeanvar (x : Exchange) (f : RedFields) (g : Group) : M Exchange := do
  let t ← checkMeanvar f
  let outs := (f.target, 32) :: if f.norm then planeRanges t else []
  checkUnits f g false (planeRanges t) outs
  needOutWritable outs
  outs.forM fun o => noteWrite o.1 o.2
  let xs ← flatValues t (t.rows * t.cols)
  return { redExchange x f g (← getS) with
    own := peerOf f 0 0 0 [], entries := [plainEntry'], vecs := [⟨0, 0, (meanVarOf xs).words⟩, ⟨0, 3, xs⟩] }

/-- Checks a REDUCE and takes what this module contributes (R440); ORTHONORM waits for the release of its plazas (R551). -/
def beginReduce (x : Exchange) : M Exchange := do
  let f := redFields x.desc
  needDesc (redFieldsOk x.desc f)
  let g ← getGroup f.group
  let y ← match f.op with
    | 0 => beginSum x f g
    | 1 => beginSumsq x f g
    | _ => beginMeanvar x f g
  awaitPlazas f.firstPlaza f.plazas
  if f.plazas ≠ 0 then useUnits (plazaUnits f.firstPlaza f.plazas ++ kioskUnits (← getS) f.firstPlaza f.plazas)
  return y

/-! ### Finishing a SUM (R419, R425 to R428, R431, R432) -/

/-- Decodes flat elements from their bytes (R81). -/
def decodeFlat (t : TRec) (elems scales : List Byte) : List F32 :=
  if t.fmt.narrow then
    elems.zipIdx.map fun b => readF32 t.cs (some (scales.getD (b.2 / 32) 0).toNat) (t.fmt.decode b.1.toNat)
  else (chunksOf t.fmt.width elems.length elems).map fun c => readF32 t.cs none (t.fmt.decode (leNat c))

/-- Reads flat elements lo to hi − 1, lo a multiple of 32. -/
def readFlat (t : TRec) (lo hi : Nat) : M (List F32) := do
  match flatRanges t lo hi with
  | [e] => return (decodeFlat t (← readSerial e.1 e.2) []).take (hi - lo)
  | [e, b] => return (decodeFlat t (← readSerial e.1 e.2) (← readSerial b.1 b.2)).take (hi - lo)
  | _ => return []

/-- Writes flat elements from `lo`, a multiple of 32, from their bytes. -/
def writeConverted (t : TRec) (lo : Nat) (elems scales : List Byte) : M Unit := do
  if t.fmt.narrow then
    writeBytes (t.elem + lo) elems
    writeBytes (t.scale + lo / 32) scales
  else writeBytes (t.elem + lo * t.fmt.width) elems

/-- Writes OUT of an entry sent in full: each slice as its owner converted it, its events before it (R419, R425, R442, R720). -/
def writeFull (x : Exchange) (e : BEntry) (v : XRef) : M Unit :=
  (takenSlices x v).forM fun r => do
    let q := sliceOf 32 v.size x.group.n r
    if q.1 < q.2 then
      let c := (sliceResult x v r).getD ([], [])
      let own := (x.vals .result r v.round v.e.index q.1 q.2).getD []
      orExc (valuesExc (if r = x.group.rank then own else (decodeFlat e.out c.1 c.2).take (q.2 - q.1)))
      writeConverted e.out q.1 c.1 c.2

/-- The reduced Q of a thinned entry (R431). -/
def reducedQ (x : Exchange) (l : LowRank) (v : XRef) (cols : Nat) : List F32 :=
  resultWords x { v with round := 2, size := l.rank * cols }

/-- Element k of the product of P̂ and some rows of an entry (R431). -/
def thinDot (x : Exchange) (e : BEntry) (i : Nat) (c : List F32) (k : Nat) : F32 :=
  kredDot ((rowsOfFlat e.rows (x.vec i 4)).map fun r => r.getD (k / e.cols) 0) ((rowsOfFlat e.cols c).map fun r => r.getD (k % e.cols) 0)

/-- Writes OUT and QSCR of a thinned entry (R431); PSCR is left unspecified. -/
def writeThinned (x : Exchange) (f : RedFields) (e : BEntry) (l : LowRank) (v : XRef) : M Unit := do
  let i := v.e.index
  let q := writtenSlice f x.group e
  let vals := (List.range (q.2 - q.1)).map fun k => thinDot x e i (reducedQ x l v e.cols) (q.1 + k)
  let fo := f32Dec (recipFactor e.out.cs)
  let c := convFlat e.out.fmt v.e.prop (fun k => rndFlat x.stoch x.seed f.stream (e.base + k)) q.1
    (vals.map fun y => Num.mul (f32Dec y) fo)
  orExc (valuesExc vals ||| excIf c.sat excSaturated)
  if q.1 < q.2 then writeConverted e.out q.1 c.elems c.scales
  modS (scramble l.pscr (4 * l.rank * e.rows))
  writeBytes l.qscr (f32Bytes (x.vec i 2))

/-- Writes EF and Q of a thinned entry (R431). -/
def writeLow (x : Exchange) (f : RedFields) (e : BEntry) (l : LowRank) (v : XRef) : M Unit := do
  let i := v.e.index
  let fe := f32Dec (recipFactor l.ef.cs)
  let e' := (x.vec i 3).zipIdx.map fun y => f32Sub y.1 (thinDot x e i (x.vec i 2) y.2)
  let ce := convFlat .f8g (propOf (← getS) .f8g f.ovf) (fun k => rndFlat x.stoch x.seed l.stream k) 0
    (e'.map fun y => Num.mul (f32Dec y) fe)
  orExc (excIf ce.sat excSaturated)
  writeConverted l.ef 0 ce.elems ce.scales
  writeBytes l.q (f32Bytes (reducedQ x l v e.cols))

/-- A reduced entry: its number, count and sum of squares. -/
structure EntryDone where
  e : BEntry
  x : XEntry
  ecount : Nat
  essq : F32

/-- The vector of an entry's elements. -/
def EntryDone.vec (r : EntryDone) : XRef := ⟨r.x, 0, r.e.rows * r.e.cols⟩

/-- The state that a reduced entry keeps for the next step, where it is thinned and nothing was counted (R431, R432). -/
def EntryDone.low (r : EntryDone) : Option LowRank := if r.x.thin = 0 ∨ r.ecount ≠ 0 then none else r.e.lrs

/-- Writes the M fields of an entry (R417, R428). -/
def writeEntryM (tag : W32) (r : EntryDone) : M Unit :=
  writeSerial (r.e.addr + 32) (leBytes 4 r.essq.toNat ++ leBytes 4 tag.toNat ++ leBytes 4 (if r.x.thin = 0 then 0 else 1)
    ++ leBytes 4 r.ecount)

/-- Reduces one entry: writes its OUT (R428, step 1). -/
def writeEntryOut (x : Exchange) (f : RedFields) (es : List BEntry) (c : XEntry) : M EntryDone := do
  let e ← match es[c.index]? with
    | some e => pure e
    | none => fail .badDescriptor
  let r : EntryDone := ⟨e, c, (entryCount x c.index).getD 0, f32Zero⟩
  match if c.thin = 0 then none else e.lrs with
  | some l => writeThinned x f e l r.vec
  | none => writeFull x e r.vec
  return r

/-- ESSQ over this module's slice, read back (R427). -/
def entrySsq (x : Exchange) (r : EntryDone) : M EntryDone := do
  let q := sliceOf 32 (r.e.rows * r.e.cols) x.group.n x.group.rank
  let v ← readFlat r.e.out q.1 q.2
  return { r with essq := kredDot v v }

/-- ESSQ and ECOUNT as an entry holds them. -/
def entryM (a : Nat) : M (F32 × Nat) := do
  let m ← readSerial (a + 32) 16
  return (BitVec.ofNat 32 (leNat (m.take 4)), leNat (m.drop 12))

/-- The count this module has contributed to a bucket in this step. -/
def localOf (s : State) (hdr : Nat) (tag : W32) : Nat :=
  ((s.red.locals.find? fun l => l.hdr == hdr && l.tag == tag).map LocalCount.count).getD 0
def setLocal (hdr : Nat) (tag : W32) (n : Option Nat) (s : State) : State :=
  let rest := s.red.locals.filter fun l => l.hdr != hdr && l.tag == tag
  { s with red := { s.red with locals := match n with
    | some c => ⟨hdr, tag, c⟩ :: rest
    | none => rest } }

def headerTag (tag : W32) (state done : Nat) : List Byte := leBytes 4 (state * 2 ^ 28 + done) ++ leBytes 4 tag.toNat

/-- ESSQ and ECOUNT of every entry of a bucket: as they are reduced now, or as stored. -/
def bucketMs (b : Bucket) (rs : List EntryDone) : M (List (F32 × Nat)) :=
  (List.range b.nent).mapM fun i => match rs.find? fun r => r.x.index == i with
    | some r => pure (r.essq, r.ecount)
    | none => entryM (b.entries + 48 * i)

/-- Writes the header when the last entry is reduced (R428, steps 3 and 4); answers NONFINITE and SSQ. -/
def closeBucket (b : Bucket) (tag : W32) (own : Nat) (ms : List (F32 × Nat)) : M (Nat × F32) := do
  let n := min (ms.foldl (fun a m => a + m.2) 0) (2 ^ 32 - 1)
  let ssq := kredAdd (ms.map Prod.fst)
  writeSerial (b.addr + 32) (leBytes 4 (min own (2 ^ 32 - 1)) ++ leBytes 4 n ++ leBytes 4 0 ++ leBytes 4 ssq.toNat)
  writeSerial (b.addr + 24) (headerTag tag 2 b.nent)
  modS fun s =>
    let t := setLocal b.addr tag none s
    { t with red := { t.red with nonfinite := if n = 0 then t.red.nonfinite else satInc t.red.nonfinite } }
  return (n, ssq)

/-- EF and Q of the reduced entries. They are written once nothing else can fail, since a SUM that ends UNCORRECTABLE_MEM writes neither
(R429, R444): what they and the header cover partly is read first. -/
def writeLows (x : Exchange) (f : RedFields) (b : Bucket) (rs : List EntryDone) : M Unit := do
  probeEdges (b.addr + 24) 8
  rs.forM fun r => match r.low with
    | some l => (planeRanges l.ef ++ [(l.q, 4 * l.rank * r.e.cols)]).forM fun p => probeEdges p.1 p.2
    | none => pure ()
  rs.forM fun r => match r.low with
    | some l => writeLow x f r.e l r.vec
    | none => pure ()

/-- Bytes 16 to 31 of a REDUCE record (R443). -/
def reduceInfo (exc : W16) (thinned nonfinite : Nat) (value : F32) (zeros : Nat) : List Byte :=
  leBytes 2 exc.toNat ++ leBytes 2 thinned ++ leBytes 4 nonfinite ++ leBytes 4 value.toNat ++ leBytes 2 zeros ++ [0, 0]

/-- Sets what follows the exception word. -/
def setReduceInfo (thinned nonfinite : Nat) (value : F32) (zeros : Nat) : M Unit :=
  modify fun w => { w with info := w.info.take 2 ++ (reduceInfo 0 thinned nonfinite value zeros).drop 2 }

def finishSum (x : Exchange) (f : RedFields) : M Unit := do
  setInfo (reduceInfo x.exc 0 0 f32Zero 0)
  let b ← getBucket f.target
  let es ← getBEntries b.nent b.entries 0
  let s0 ← getS
  let tag := s0.stash.tag
  let own := x.entries.foldl (fun n e => n + e.count) 0
  let fresh := b.tag == tag
  let done := if f.trigger = 0 then b.nent else (if fresh then b.done else 0) + 1
  let local' := own + if f.trigger = 0 ∨ !fresh then 0 else localOf s0 b.addr tag
  let rs ← x.entries.mapM (writeEntryOut x f es)
  let rs ← rs.mapM (entrySsq x)
  let ms ← if b.nent ≤ done then bucketMs b rs else pure []
  writeLows x f b rs
  rs.forM (writeEntryM tag)
  let thinned := (rs.filter fun r => r.x.thin != 0).length
  let hdr ← if b.nent ≤ done then closeBucket b tag local' ms
    else (do
      writeSerial (b.addr + 24) (headerTag tag 1 done)
      modS (setLocal b.addr tag (some local'))
      pure (0, f32Zero))
  let first := rs.head?
  setReduceInfo thinned (if f.trigger = 0 then hdr.1 else (first.map EntryDone.ecount).getD 0)
    (if f.trigger = 0 then hdr.2 else (first.map EntryDone.essq).getD f32Zero) (x.entries.foldl (fun n e => n + e.zeros) 0)
  modS fun s => { s with red := { s.red with thinned := satAdd s.red.thinned thinned } }

/-! ### Finishing the others (R435, R438) -/

def finishSumsq (x : Exchange) (f : RedFields) : M Unit := do
  let nsq := (resultWords x ⟨plainEntry', 0, 1⟩).headD f32Zero
  setInfo (reduceInfo (valuesExc [nsq]) 0 0 nsq 0)
  writeBytes f.target (leBytes 4 nsq.toNat ++ leBytes 4 (← getS).stash.tag.toNat ++ leBytes 8 0)

/-- Rounding and overflow of the NORM rewrite of the inputs, for which R439 gives no mode, are nearest even and PROP (LOG 71). -/
def finishMeanvar (x : Exchange) (f : RedFields) : M Unit := do
  let r := MeanVar.ofWords (resultWords x ⟨plainEntry', 0, 4⟩)
  let mean := if r.n = 0 then f32Zero else r.mean
  let var := if r.n = 0 then f32Zero else f32Mul r.ss (f32Recip (f32OfNat r.n))
  setInfo (reduceInfo (valuesExc [mean, var] ||| excIf (r.n == 0) excEmptyRow) 0 0 mean 0)
  writeBytes f.target (leBytes 8 r.n ++ leBytes 4 mean.toNat ++ leBytes 4 var.toNat ++ leBytes 4 r.ss.toNat
    ++ leBytes 4 (← getS).stash.tag.toNat ++ leBytes 8 0)
  if f.norm ∧ 0 < r.n then
    let t ← getTRec f.source
    let den := f32Add var f.eps
    let vs := if den = f32Zero then (x.vec 0 3).map fun _ => f32Zero
      else (x.vec 0 3).map fun v => f32Mul (f32Sub v mean) (f32Rsqrt den)
    orExc (valuesExc vs ||| excIf (den == f32Zero) excZeroNorm)
    discard (writeFlat t true (fun _ => .rne) vs)
  else pure ()

/-- Writes what a REDUCE whose data are all here writes. -/
def finishReduce (x : Exchange) : M Unit := do
  let f := redFields x.desc
  match f.op with
  | 0 => finishSum x f
  | 1 => finishSumsq x f
  | _ => finishMeanvar x f

/-! ### Failing (R415, R429, R444) -/

/-- Marks a SUM's header FAILED in a step; DONE stays the entries reduced in it (R416). A header whose stack serves no request is marked
once it does (R515). -/
def failHeader (hdr : Nat) (step : W32) (s : State) : State :=
  if inStackRegion hdr 64 then
    if outOfService s hdr then leaveMark (.failed hdr step) s
    else (runWork (do
      let m ← readSerial (hdr + 24) 8
      writeSerial (hdr + 24) (headerTag step 3 (if leNat (m.drop 4) = step.toNat then leNat (m.take 2) else 0))) s).2.s
  else s

/-- The outputs that a stalled or unreadable SUM leaves unspecified; EF, Q and the M fields are not written. -/
def sumOuts (x : Exchange) : M (List (Nat × Nat)) := do
  let f := redFields x.desc
  let b ← getBucket f.target
  let outs ← (List.range b.nent).mapM fun i => orNone (do
    if f.trigger = 0 ∨ i = f.entry then
      let e ← getBEntry (b.entries + 48 * i) 0
      let q := writtenSlice f x.group e
      return flatRanges e.out q.1 q.2
    else return [])
  return outs.flatten

/-- A SUM that fails in its exchange or on a read (R429, R444). -/
def spoilSum (x : Exchange) (s : State) : State :=
  let f := redFields x.desc
  if f.op = 0 then
    let outs := match runBlind (sumOuts x) s with
      | .ok l => l
      | .error _ => []
    failHeader f.target s.stash.tag (scrambleAll outs s)
  else s

end Sys2Proof.Machine
end

