-- ==== Sys2Proof/Machine/Shard.lean ====
section
/-! DEFINITION. SHARD: LOAD, PROTECT, UNPROTECT, ZERO, and what a GATHER and a REBUILD check, read and write (spec/12). -/

namespace Sys2Proof.Machine

/-! ### The descriptor (R473, R474) -/

structure ShardFields where
  a : Nat
  op : Nat
  b : Nat
  c : Nat
  dir : Nat
  len : Nat
  epoch : W32
  deriving DecidableEq, Repr, Inhabited

def shardFields (d : Desc) : ShardFields :=
  { a := fld d.w2 63 16, op := fld d.w2 15 12, b := fld d.w3 63 16, c := fld d.w4 63 16, dir := fld d.w5 63 16, len := d.w6.toNat,
    epoch := BitVec.ofNat 32 (fld d.w7 63 32) }

def isShard (op : Nat) (d : Desc) : Bool := descClass d == clsShard && (shardFields d).op == op

/-- Reserved fields, and the fields each operation leaves 0 (R473). -/
def shardFieldsOk (d : Desc) (f : ShardFields) : Bool :=
  fld d.w2 11 0 == 0 && fld d.w3 15 0 == 0 && fld d.w4 15 0 == 0 && fld d.w5 15 0 == 0 && fld d.w7 31 0 == 0 && f.op ≤ 5
  && (f.op == 1 || f.epoch == 0) && (f.op == 2 || f.dir == 0) && (f.op == 1 || f.op == 2 || f.b == 0)
  && (f.op ≤ 2 || f.c == 0) && (f.op == 2 || f.op == 3 || f.op == 5 || f.len == 0) && (f.op != 4 || f.a == 0)
  && (!(f.op == 3 || f.op == 5) || f.len % 256 == 0)

/-- The table of R474. -/
def shardTurn (op : Nat) (t : Turn) : Bool :=
  match op, t with
  | _, .generate => false
  | _, .ready => true
  | 0, .learn | 3, .learn | 2, .learn | 4, .learn => false
  | 1, .switchLearn | 2, .switchLearn | 4, .switchLearn => false
  | 4, .switchGenerate => false
  | _, _ => true

def needShardTurn (op : Nat) : M Unit := do need (shardTurn op (← getS).turn.cur) .wrongTurn

/-- Bytes 16 to 31 of a SHARD record (R477). -/
def shardInfo (bytes count whole : Nat) : List Byte := leBytes 8 bytes ++ leBytes 4 count ++ leBytes 4 whole

/-! ### LOAD (R451 to R454) -/

structure MapEntry where
  src : Nat
  dst : Nat
  bytes : Nat
  protect : Bool
  deriving DecidableEq, Repr, Inhabited

/-- Reads an entry that this module takes, checked against R451 and R454. -/
def getMapEntry (a : Nat) : M MapEntry := do
  let w0 ← readU64 a
  let w1 ← readU64 (a + 8)
  let w2 ← readU64 (a + 16)
  let w3 ← readU64 (a + 24)
  let e : MapEntry := { src := fld w0 47 0, dst := fld w1 47 0, bytes := w2.toNat, protect := bit w1 48 }
  needDesc (fld w1 63 49 == 0 && w3 == 0 && companionBase ≤ e.src && e.src % 256 == 0 && e.dst % 256 == 0 && e.bytes % 256 == 0
    && 256 ≤ e.bytes && e.bytes ≤ 2 ^ 40 && inStackRegion e.dst e.bytes)
  needMapped e.src e.bytes
  return e

/-- The addresses of the entries that a member takes, among some; the record's COUNT grows with each (R477). -/
def takenEntries (rank : Nat) (l : List Nat) : M (List Nat) := l.foldlM (fun acc a => do
  let r := fld (← readU64 a) 63 48
  if r = 0xFFFF ∨ r = rank then
    setInfo (shardInfo 0 (acc.length + 1) 0)
    return acc ++ [a]
  else return acc) []

/-- The checks of a LOAD; answers the entries it takes. A group record in an absent stack leaves open which those are; the check that it
fails comes after the turn's (R476). -/
def loadChecks (f : ShardFields) : M (List MapEntry) := do
  needMapped f.a 32
  needDesc (companionBase ≤ f.a)
  let w0 ← readU64 f.a
  let r ← readBytes (f.a + 8) 24
  needDesc (kindOf w0 == 0x3A && fld w0 55 32 == 0 && 1 ≤ fld w0 31 0 && r.all fun b => b == 0)
  let found ← soften (getGroup f.c)
  needMapped f.a (32 + 32 * fld w0 31 0)
  let es ← match found with
    | .ok g => do (← takenEntries g.rank ((List.range (fld w0 31 0)).map fun i => f.a + 32 + 32 * i)).mapM getMapEntry
    | .error _ => pure []
  needDesc ((← getS).prot.length + (es.filter MapEntry.protect).length ≤ 64)
  needShardTurn f.op
  let g ← hardened found
  needOutBacked (es.map fun e => (e.dst, e.bytes))
  need (bridgeUp (← getS) g) .unitAbsent
  needOutWritable (es.map fun e => (e.dst, e.bytes))
  return es

def addRange (base len : Nat) (s : State) : State := { s with prot := s.prot ++ [⟨base, len⟩] }

/-- Copies one entry of `n` taken (R452, R453, R457); `done` bytes are written before it. Answers the bytes written after it. -/
def loadOne (n : Nat) (done : Nat) (e : MapEntry) : M Nat := do
  writeBytes e.dst (← readBytes e.src e.bytes)
  modS fun s => { s with shard := { s.shard with loaded := satAdd s.shard.loaded e.bytes } }
  setInfo (shardInfo (done + e.bytes) n 0)
  if e.protect then modS (addRange e.dst e.bytes)
  return done + e.bytes

def loadBody (d : Desc) : M Unit := do
  let f := shardFields d
  needDesc (shardFieldsOk d f)
  let es ← loadChecks f
  orScramble (es.map fun e => (e.dst, e.bytes)) (discard (es.foldlM (loadOne es.length) 0))

/-! ### Ranges and ZERO (R455 to R458, R475) -/

def protectBody (d : Desc) : M Unit := do
  let f := shardFields d
  setInfo (shardInfo f.len 0 0)
  needDesc (shardFieldsOk d f)
  let s ← getS
  needDesc (1 ≤ f.len && f.a % 256 == 0 && inStackRegion f.a f.len && s.prot.length < 64
    && (firstProtected s.prot f.a f.len).isNone)
  needShardTurn f.op
  needBacked f.a f.len
  modS (addRange f.a f.len)

def unprotectBody (d : Desc) : M Unit := do
  let f := shardFields d
  needDesc (shardFieldsOk d f)
  needShardTurn f.op
  need (((← getS).vers[(0 : Fin 4)]).state == .free) .versionInUse
  modS fun s => { s with prot := [] }

def zeroBody (d : Desc) : M Unit := do
  let f := shardFields d
  setInfo (shardInfo f.len 0 0)
  needDesc (shardFieldsOk d f)
  needMapped f.a f.len
  needDesc (inStackRegion f.a f.len)
  needShardTurn f.op
  needBacked f.a f.len
  needWritable f.a f.len
  writeBytes f.a (List.replicate f.len 0)

/-! ### GATHER (R460 to R464) -/

/-- The destination ranges of a GATHER: planes, coarse scale and NEXT_TAG. -/
def gatherOuts (p : Pair) : List (Nat × Nat) := planeRanges p.next ++ [(p.next.addr + 28, 4), (p.addr + 16, 8)]

/-- A GATHER's source as its record gives it; `none` for an empty slice. -/
def gatherSource (src : Nat) : M (Option TRec) := do
  if src = 0 then return none
  else return some ((← getPair src).lastWritten (← getS).stash.tag)

/-- This module's slice as a piece. -/
def slicePiece (t : Option TRec) (rank lo : Nat) : M Piece := do
  let p : Piece := { kind := .slice, rank := rank, round := 0, entry := 0, first := lo, vals := [], elems := [], scales := [] }
  match t with
  | none => return p
  | some t => return { p with elems := ← readBytes t.elem t.elemBytes, scales := ← readBytes t.scale t.scaleBytes }

/-- A destination of a GATHER (R59, R461, R464, R469): the formats blocks of 32 are gathered in; with other members, both buffers in the
stacks. -/
def gatherDstOk (n : Nat) (p : Pair) : Bool :=
  let t := p.next
  (t.fmt == .f8a || t.fmt == .f8g || t.fmt == .f4) && !t.coded && !p.current.coded
  && (n == 1 || [p.rec0, p.rec1].all fun r => (planeRanges r ++ [(r.addr, 32)]).all fun x => inStackRegion x.1 x.2)

/-- A GATHER's destination and source hold to its slice (R461). -/
def gatherPairOk (hasSrc : Bool) (g : Group) (t : TRec) (src : Option TRec) : Bool :=
  let q := sliceOf 1 t.blocks g.n g.rank
  hasSrc == (q.1 != q.2) && match src with
    | none => true
    | some x => x.fmt == t.fmt && !x.coded && x.blocks == q.2 - q.1

/-- Checks a GATHER and reads this module's slice (R461, R476). -/
def beginGather (x : Exchange) : M Exchange := do
  let f := shardFields x.desc
  needDesc (shardFieldsOk x.desc f)
  let g ← soften (getGroup f.c)
  if let .ok g := g then setInfo (shardInfo 0 g.n 0)
  let p ← soften (getPair f.b)
  let src ← soften (gatherSource f.a)
  needDesc (softly (gatherDstOk 1) p && softly (fun g => softly (fun p =>
    gatherDstOk g.n p && softly (fun y => gatherPairOk (f.a != 0) g p.next y) src) p) g)
  needShardTurn f.op
  let g ← hardened g
  let p ← hardened p
  let src ← hardened src
  let t := p.next
  let q := sliceOf 1 t.blocks g.n g.rank
  needOutBacked ((src.map planeRanges).getD [] ++ gatherOuts p)
  need (bridgeUp (← getS) g) .unitAbsent
  needOutWritable (gatherOuts p)
  (planeRanges t).forM fun r => noteWrite r.1 r.2
  noteWrite (t.addr + 28) 4
  let own ← slicePiece src g.rank q.1
  return { x with prepared := true, group := g, epoch := f.epoch, obj := BitVec.ofNat 32 t.blocks,
                  own := .gather f.epoch t.blocks t.fmt.code (src.map TRec.cs), pieces := [own] }

/-- The coarse scale every nonempty source has. -/
def gatherScale (x : Exchange) : F32 :=
  ((x.own :: x.peers.map Prod.snd).findSome? fun p => match p with
    | .gather _ _ _ c => c
    | _ => none).getD f32One

def finishGather (x : Exchange) : M Unit := do
  let f := shardFields x.desc
  setInfo (shardInfo x.received x.group.n 0)
  let p ← getPair f.b
  let t := p.next
  (List.range x.group.n).forM fun r => do
    let q := sliceOf 1 t.blocks x.group.n r
    let c := (memberSlice x r).getD ([], [])
    if q.1 < q.2 then
      writeBytes (t.elem + q.1 * t.fmt.blockBytes) c.1
      writeBytes (t.scale + q.1) c.2
  writeBytes (t.addr + 28) (leBytes 4 (gatherScale x).toNat)
  setNextTag p (← getS).stash.tag

/-- The parts of the next buffer of the pair at an address that a GATHER writes, as memory holds its records and once it is promoted
(R377, R461). -/
def nextReach (a : Nat) (s : State) : List (Nat × Nat) :=
  match runBlind (do
    let p ← getPair a
    return planeRanges p.next ++ [(p.next.addr + 28, 4)]) s with
  | .ok l => l
  | .error _ => []

/-- CUR of the pair at an address, once it is promoted (R377); none where no pair record stands there. -/
def promotedCur (a : Nat) (s : State) : Option Bool :=
  match runBlind (getPairHead a) s with
  | .ok h => some (h.cur != h.stale s)
  | .error _ => none

/-- Leaves the old copy current: NEXT_TAG 0 (R462, R463, R478); after a stall the next buffer is unspecified. -/
def dropGather (x : Exchange) (spoils : Bool) (s : State) : State :=
  let a := (shardFields x.desc).b
  match promotedCur a s with
  | some c => writeLate (a + 16) (leBytes 8 (if c then 1 else 0)) (if spoils then scrambleAll (nextReach a s) s else s)
  | none => s

/-! ### REBUILD (R466 to R468, R270 to R274) -/

structure RebuildReady where
  base : TRec
  policy : TRec
  hdr : Nat
  dir : Nat
  cap : Nat
  stack : Nat
  deriving Repr

def insideProtected (s : State) (r : Nat × Nat) : Bool := s.prot.any fun p => p.base ≤ r.1 && r.1 + r.2 ≤ p.base + p.len

/-- The base's record and planes as one set of ranges: of a coded plane, its header, directory and blocks (R466, R510). -/
def baseRanges (t : TRec) : M (List (Nat × Nat)) := do
  if t.coded then
    let n ← checkCoded t
    return [(t.addr, 32), (t.elem, codedData t - t.elem + n), (t.scale, t.scaleBytes)]
  else return (t.addr, 32) :: planeRanges t

/-- A REBUILD's base and policy and its destinations hold to R270, R450 and R466; answers the stack of the base. -/
def rebuildStack (s : State) (f : ShardFields) (base : TRec) (own : List (Nat × Nat)) (pol : TRec) : Option Nat :=
  if (base.fmt == .f8a || base.fmt == .f4) && pol.fmt == base.fmt && !pol.coded && pol.blocks == base.blocks
      && own.all (insideProtected s) then
    (localStack s base.addr).filter fun st => (own ++ [(f.c, 32), (f.dir, f.len)]).all fun r => stackLocal s r.1 r.2 == some st
  else none

def rebuildChecks (f : ShardFields) : M RebuildReady := do
  let base ← soften (do
    let t ← getTRec f.a
    return (t, ← baseRanges t))
  let p ← soften (getPair f.b)
  let s ← getS
  needMapped f.c 32
  needMapped f.dir f.len
  needDesc (softly (fun b => softly (fun p => (rebuildStack s f b.1 b.2 (p.lastWritten s.stash.tag)).isSome) p) base)
  needShardTurn f.op
  need (s.persist.variant.has 5) .unitAbsent
  let b ← hardened base
  let pol := (← hardened p).lastWritten s.stash.tag
  needOutBacked (b.2 ++ planeRanges pol ++ [(f.c, 32), (f.dir, f.len)])
  needOutWritable [(f.c, 32), (f.dir, f.len)]
  return ⟨b.1, pol, f.c, f.dir, f.len, (rebuildStack s f b.1 b.2 pol).getD 0⟩

/-- Positions where two blocks' codes differ. -/
def codeDiffs (a b : List Nat) : List (Nat × Nat) := ((b.zip a).zipIdx.filter fun x => x.1.1 != x.1.2).map fun x => (x.2, x.1.1)

/-- The record of a block, if it changed (R272, R274): its bytes and whether it is whole. -/
def deltaRecord (f : Fmt) (base pol : List Nat × Nat) : Option (List Byte × Bool) :=
  let ds := codeDiffs base.1 pol.1
  if base.2 = pol.2 ∧ ds.isEmpty then none
  else if base.2 = pol.2 ∧ ds.length ≤ 8 then
    some (BitVec.ofNat 8 ds.length :: (ds.map fun d => BitVec.ofNat 8 d.1) ++ ds.map fun d => BitVec.ofNat 8 d.2, false)
  else some (0x80 :: BitVec.ofNat 8 pol.2 :: blockBytesOf f pol.1, true)

/-- One directory entry from the records of a group and the offset of its first (R271). -/
def dirEntry (off : Nat) (rs : List (Option (List Byte × Bool))) : List Byte :=
  leBytes 8 (rs.zipIdx.foldl (fun m x => m + if x.1.isSome then 2 ^ x.2 else 0) 0) ++ leBytes 4 off ++ leBytes 4 0

def groupBytes (rs : List (Option (List Byte × Bool))) : List Byte := rs.flatMap fun r => (r.map Prod.fst).getD []

/-- The directory of groups from an offset. -/
def directory : (off : Nat) → List (List (Option (List Byte × Bool))) → List Byte
  | _, [] => []
  | off, g :: t => dirEntry off g ++ directory (off + (groupBytes g).length) t

/-- The complete header (R270, R466). -/
def deltaHeader (r : RebuildReady) (kind recBytes : Nat) : List Byte :=
  leBytes 8 (kind * 2 ^ 56 + r.base.fmt.code * 2 ^ 52 + r.base.addr) ++ leBytes 8 (r.policy.cs.toNat * 2 ^ 32)
    ++ leBytes 8 (r.dir * 2 ^ 16) ++ leBytes 8 (r.base.blocks * 2 ^ 32 + recBytes)

/-- What a REBUILD that meets an uncorrectable read in its checks leaves: a header of KIND 0, the rest of what it was to write unspecified
(R478; LOG 23). -/
def spoilDelta (f : ShardFields) (s : State) : State :=
  let t := scrambleAll [(f.c, 7), (f.c + 8, 24), (f.dir, f.len)] s
  if (firstProtected s.prot f.c 8).isNone then writeLate (f.c + 7) [0] t else t

/-- The work of a REBUILD; a header left with KIND 0 holds nothing else that the spec states (LOG 23). -/
def rebuildWork (r : RebuildReady) : M Unit := do
  modS (scramble r.hdr 32)
  writeBytes r.hdr [0, 0, 0, 0, 0, 0, 0, 0]
  modS (scramble r.hdr 7)
  noteWrite r.dir r.cap
  let recs ← (List.range r.base.blocks).mapM fun b => do
    let x ← blockOf r.base b
    let y ← blockOf r.policy b
    return deltaRecord r.base.fmt x y
  let gs := chunksOf 64 recs.length recs
  let dir := directory 0 gs
  let body := gs.flatMap groupBytes
  let whole := (recs.filter fun x => (x.map Prod.snd).getD false).length
  setInfo (shardInfo (32 + dir.length + body.length) (recs.filter Option.isSome).length whole)
  modS fun s => invalidateLines r.dir r.cap (invalidateLines r.hdr 32 s)
  if r.cap < dir.length + body.length then
    modS (scramble r.dir r.cap)
    modS fun s => { s with shard := { s.shard with overflows := satInc s.shard.overflows } }
    fail .deltaFull
  else
    writeBytes r.dir (dir ++ body)
    writeBytes r.hdr (deltaHeader r 0xDE body.length)

def rebuildBody (d : Desc) : M Unit := do
  let f := shardFields d
  needDesc (shardFieldsOk d f)
  let r ← orUnreadBy (pure (spoilDelta f)) (rebuildChecks f)
  if h : r.stack < 32 then useUnits [.stack ⟨r.stack, h⟩]
  orScramble [(r.dir, r.cap)] (rebuildWork r)

/-- LOAD (R452). -/
def execLoad (qp : Fin 64) (d : Desc) (s : State) : Host.Outcome State Fault Refusal := startDesc (isShard 0 d) qp d (loadBody d) s
/-- PROTECT (R457). -/
def execProtect (qp : Fin 64) (d : Desc) (s : State) : Host.Outcome State Fault Refusal :=
  startDesc (isShard 3 d) qp d (protectBody d) s
/-- UNPROTECT (R458). -/
def execUnprotect (qp : Fin 64) (d : Desc) (s : State) : Host.Outcome State Fault Refusal :=
  startDesc (isShard 4 d) qp d (unprotectBody d) s
/-- ZERO (R475). -/
def execZero (qp : Fin 64) (d : Desc) (s : State) : Host.Outcome State Fault Refusal := startDesc (isShard 5 d) qp d (zeroBody d) s

end Sys2Proof.Machine
end

