-- ==== Sys2Proof/Machine/Members.lean ====
section
/-! DEFINITION. REDUCE, GATHER and REBUILD from start to finish: their turns at a bucket or pair (R441, R465), the eight exchanges,
what members' packets bring, mismatches and stalls (R415, R429, R462, R463). -/

namespace Sys2Proof.Machine

/-! ### One exchange among those held -/

def sameX (a b : Exchange) : Bool := a.qp == b.qp && a.idx == b.idx

def setExchange (x : Exchange) (s : State) : State :=
  { s with red := { s.red with exchanges := s.red.exchanges.map fun y => if sameX x y then x else y } }

/-- The members whose FIELDS have not come. -/
def Exchange.lacking (x : Exchange) : List Nat :=
  (List.range x.group.n).filter fun r => r != x.group.rank && !(x.peers.any fun p => p.1 == r)

/-- An exchange is over here; FIELDS that it did not wait for may still come (R415). -/
def dropExchange (x : Exchange) (s : State) : State :=
  { s with red := { s.red with
      exchanges := s.red.exchanges.filter fun y => !sameX x y,
      missed := s.red.missed ++ x.lacking.map fun r => ⟨x.kind, x.group.id, x.epoch, r, if x.prepared then some x.own else none⟩ } }

/-- Descriptors that run beside one: not itself, and not those it takes turns with (R546, R547). -/
def besides (e x : InFlight) : Bool := !(x.qp == e.qp && x.idx == e.idx) && !(x.locks.any e.locks.contains)

/-- What an exchanging descriptor's accesses mean for the others in flight. -/
def settleBeside (e : InFlight) (w : Work) : State := settleAmong (besides e) w

/-- The entry with what more its work has read, written and found; its reads may have raced (R547). -/
def mergeWork (e : InFlight) (w : Work) : InFlight :=
  { e with info := w.info, units := e.units ++ w.units, reads := e.reads ++ w.reads, writes := e.writes ++ w.writes,
           racy := e.racy || w.s.q.inflight.any fun x => besides e x && racyReads w.reads x.writes }

/-- The record of a GATHER shows what it has received, that of a REDUCE the events so far, however it ends (R442, R477, R720). -/
def exchangeInfo (x : Exchange) (e : InFlight) : InFlight :=
  match x.kind with
  | .gather => if x.prepared then { e with info := shardInfo x.received x.group.n 0 } else e
  | .reduce => { e with info := leBytes 2 (BitVec.ofNat 16 (leNat (e.info.take 2)) ||| x.exc).toNat ++ e.info.drop 2 }
  | .rebuild => e

/-- Ends an exchange's work with a status; a status that it has taken before stays in place of OK. Its record follows. -/
def endExchange (x : Exchange) (f : Status × Option Nat) (s : State) : State :=
  match findInFlight s x.qp x.idx with
  | some e =>
    let f := if f.1 = .ok then (e.status, e.faultAddr) else f
    dropExchange x (setInFlight { exchangeInfo x e with status := f.1, faultAddr := f.2, await := .nothing } s)
  | none => dropExchange x s

/-- What a failed exchange leaves behind it (R429, R444, R462, R463, R478). -/
def afterFailure (x : Exchange) (st : Status) (s : State) : State :=
  match x.kind, st with
  | .reduce, .timeout | .reduce, .uncorrectableMem => spoilSum x s
  | .reduce, .reduceMismatch => { s with red := { s.red with mismatches := satInc s.red.mismatches } }
  | .gather, .timeout => dropGather x true s
  | .gather, .uncorrectableMem => dropGather x true s
  | .gather, .writeProtected => if x.begun then dropGather x false s else s
  | .gather, .reduceMismatch => dropGather x false { s with shard := { s.shard with mismatches := satInc s.shard.mismatches } }
  | _, _ => s

/-! ### Beginning -/

/-- A REDUCE or SHARD whose turn at its header or pairs it is (R441, R465); one before it whose headers are not known yet may name the same. -/
def mayPrepare (s : State) (x : Exchange) : Bool :=
  !x.prepared && x.named
  && !((s.red.exchanges.takeWhile fun y => !sameX x y).any fun y => !y.named || y.locks.any x.locks.contains)

/-- At most eight REDUCEs exchange at once (R441); a group of one exchanges nothing (R414). -/
def mayExchange (s : State) (x : Exchange) : Bool :=
  x.prepared && !x.begun && (x.kind != .reduce || x.group.n == 1
    || (s.red.exchanges.filter fun y => y.begun && y.kind == .reduce && y.group.n != 1).length < 8)

/-- The group of a record before its checks, since members' FIELDS are paired with descriptors in the order in which those start (R415); a
group of no member where it cannot be read yet. -/
def peekGroup (a : Nat) : M Group := tryCatch (do
    let b ← readBytes a 16
    let f := fun i n => leNat ((b.drop i).take n)
    return { id := BitVec.ofNat 32 (f 4 4), nb := f 2 2, nm := f 1 1, board := f 14 2, mod := f 13 1, bridge := f 12 1, positions := [] })
  fun _ => pure default

/-- Takes the first n elements that a test picks out of a list. -/
def dropPicked {α : Type} (p : α → Bool) : (n : Nat) → List α → List α
  | 0, l => l
  | _, [] => []
  | n + 1, x :: t => if p x then dropPicked p n t else x :: dropPicked p (n + 1) t

/-- An exchange ended here without FIELDS of a kind, group, plan step and member. -/
def MissedFields.lacks (m : MissedFields) (f : EarlyFields) : Bool :=
  fieldsOfKind m.kind f.fields && m.groupId == f.groupId && m.rank == f.rank && m.epoch == f.epoch

/-- FIELDS of an exchange that has ended here without them, and not of the next one: that is of another plan step, or they agree with what
this module's own were then and not with what they are now (R415; LOG 68). -/
def staleFields (x : Exchange) (missed : List MissedFields) (f : EarlyFields) : Bool :=
  f.late && missed.any fun m => m.lacks f
    && (f.epoch != x.epoch || !fieldsAgree f.fields x.own && (m.own.map fun o => fieldsAgree f.fields o).getD true)

/-- Takes the first FIELDS of a member for an exchange that lacks them; a member's FIELDS come in the order of its exchanges, so that it owes
none of earlier ones any more. Those that may be of an exchange which has ended wait until this one's own are known. -/
def takeEarly (r : Nat) (x : XS) : XS :=
  let is := fun (f : EarlyFields) => f.groupId == x.1.group.id && f.rank == r && fieldsOfKind x.1.kind f.fields
  let mine := x.2.red.early.filter is
  let stale := if x.1.prepared then (mine.takeWhile (staleFields x.1 x.2.red.missed)).length else 0
  match mine[stale]? with
  | none => x
  | some f =>
    if f.late && !x.1.prepared then x
    else ({ x.1 with peers := x.1.peers ++ [(r, f.fields)] },
      { x.2 with red := { x.2.red with
          early := dropPicked is (stale + 1) x.2.red.early,
          missed := x.2.red.missed.filter fun m => !(m.kind == x.1.kind && m.groupId == x.1.group.id && m.rank == r) } })

/-- Gives the FIELDS that have come to the exchanges that lack them, in the order in which those started, up to one whose group is not known
yet. -/
def dealFields : List Exchange → State → State
  | [], s => s
  | x :: t, s =>
    if x.kind != .rebuild && x.group.n == 0 then s
    else if x.stage = 0 then
      let y := x.lacking.foldl (fun y r => takeEarly r y) (x, s)
      dealFields t (setExchange y.1 y.2)
    else dealFields t s

def dealEarly (s : State) : State := dealFields s.red.exchanges s

/-- The bucket headers or pairs that a descriptor takes in turn: the header of a SUM, those in the list of a SUMSQ, which is read for them,
the pairs of a SHARD (R441, R465). -/
def exchangeLocks (k : XKind) (d : Desc) : M (List Nat) := do
  let f := shardFields d
  let r := redFields d
  match k with
  | .reduce =>
    if r.op = 0 then return [r.target]
    else if r.op = 1 then
      needLines r.source (8 * r.count)
      let s ← getS
      return (List.range r.count).map fun i => leNat (peekList s (r.source + 8 * i) 6)
    else return []
  | .gather => return f.b :: if f.a = 0 then [] else [f.a]
  | .rebuild => return [f.b]

/-- Runs an exchange's work as its entry's. -/
def tryExchange {α : Type} (x : Exchange) (m : M α) (s : State) : Option (Except Fail α × Work) :=
  (findInFlight s x.qp x.idx).map fun e => runWorkAt e.order e.lines (underDefaults x.defaults m) s

/-- What an exchange takes in turn is known once the lines that hold its list have come. -/
def nameOne (x : Exchange) (s : State) : Option State :=
  match (tryExchange x (exchangeLocks x.kind x.desc) s).map Prod.fst with
  | some (.ok l) => some (setExchange { x with locks := l, named := true } s)
  | _ => none

/-- The checks and first reads of an exchange; `none` where there is nothing to exchange. -/
def beginBody (x : Exchange) : M (Option Exchange) := do
  match x.kind with
  | .reduce => return some (← beginReduce x)
  | .gather => return some (← beginGather x)
  | .rebuild =>
    rebuildBody x.desc
    return none

/-- Runs an exchange's work for its entry, under the defaults of its start (R73, R222), and settles it; `none` while the work waits. -/
def runExchange {α : Type} (x : Exchange) (m : M α) (s : State) : Option (Except Fail α × State) :=
  match findInFlight s x.qp x.idx with
  | none => none
  | some e0 =>
    let e := { e0 with locks := x.locks }
    let r := runWorkAt e.order e.lines (underDefaults x.defaults m) s
    if waitsIn r.1 then none
    else
      let y := holdRequests r.2.reads (mergeWork e r.2, settleBeside e r.2)
      some (r.1, setInFlight y.1 (ownWrites s x.qp x.idx y.2))

/-- The checks of a descriptor whose turn has come, and what it contributes; a REBUILD is then done. -/
def prepareOne (x : Exchange) (s : State) : Option State :=
  (runExchange x (beginBody x) s).map fun r => match r with
    | (.ok (some y), s1) => dealEarly (setExchange y s1)
    | (.ok none, s1) => endExchange x (.ok, none) s1
    | (.error f, s1) => afterFailure x f.status (endExchange x (f.status, f.addr) s1)

/-! ### Going on -/

/-- The exchange begins: this module's fields go to the others. -/
def openExchange (x : Exchange) (s : State) : State :=
  let y := { x with begun := true }
  setExchange y (sendFields y s)

/-- FIELDS of a GATHER for a group of which this module holds no GATHER, from a member that one of another group lacks. Until that one
stalls they may be of a GATHER still to come; at its end they show that the member's GROUP_ID is another (R462; LOG 68). -/
def foreignFields (s : State) (x : Exchange) (f : EarlyFields) : Bool :=
  x.kind == .gather && x.stage == 0 && fieldsOfKind .gather f.fields && f.groupId != x.group.id && x.lacking.contains f.rank
  && f.epoch == x.epoch && !(s.red.exchanges.any fun y => y.kind == .gather && y.group.id == f.groupId)

/-- Reads of the entry of an exchange have raced (R547). -/
def isRacy (x : Exchange) (s : State) : Bool := ((findInFlight s x.qp x.idx).map InFlight.racy).getD false

/-- What a member that read unspecified bytes contributes is free (R547; LOG 11). -/
def freeOwn (x : XS) : XS :=
  let n := x.1.vecs.foldl (fun n v => n + v.vals.length) 0 + x.1.pieces.foldl (fun n p => n + p.elems.length + p.scales.length) 0
  let w := fun (v : XVec) => { v with vals := v.vals.zipIdx.map fun y =>
    (BitVec.ofNat 32 (Config.freeW64 (x.2.freeCtr + 65536 * (3 * v.entry + v.round) + y.2)).toNat : F32) }
  let b := fun (k : Nat) (l : List Byte) => l.zipIdx.map fun y => Config.freeByte (x.2.freeCtr + k + y.2)
  ({ x.1 with vecs := x.1.vecs.map w,
              pieces := x.1.pieces.map fun p => if p.rank = x.1.group.rank then 
                { p with elems := b 0 p.elems, scales := b p.elems.length p.scales }
                else p },
    { x.2 with freeCtr := x.2.freeCtr + n + 65536 * 3 * (x.1.entries.length + 1) })

/-- The moves of an exchange that can be made. -/
def moveOn (x : Exchange) (s : State) : XS :=
  xMoves 10 (if x.stage = 0 ∧ fieldsHere x ∧ isRacy x s then freeOwn (x, s) else (x, s))

/-- What others have touched meanwhile stays unspecified, and all of it where the descriptor's own reads raced (R547). -/
def settleSpoiled (x : Exchange) (s : State) : State :=
  match findInFlight s x.qp x.idx with
  | none => s
  | some e =>
    let s1 := scrambleAll (e.spoiled ++ if e.racy then e.writes.map MemAccess.range else []) s
    if e.racy then
      let r := raceEntry { e with await := .nothing } true s1
      setInFlight r.1 r.2
    else s1

/-- Writes the outputs of an exchange whose data are all here. -/
def finishOne (x : Exchange) (s : State) : Option State :=
  (runExchange x (if x.kind = .gather then finishGather x else finishReduce x) s).map fun r => match r with
    | (.ok _, s1) => settleSpoiled x (endExchange x (.ok, none) s1)
    | (.error f, s1) => afterFailure x f.status (endExchange x (f.status, f.addr) s1)

/-- One thing that an exchange can do now. -/
def pumpOne (x : Exchange) (s : State) : Option State :=
  if !x.named then nameOne x s
  else if x.begun then
    if x.mismatch then some (afterFailure x .reduceMismatch (endExchange x (.reduceMismatch, none) s))
    else
      let y := moveOn x s
      if y.1.stage ≠ x.stage then some (setExchange y.1 y.2)
      else if x.ready then finishOne x s
      else none
  else if mayExchange s x then some (openExchange x s)
  else if mayPrepare s x then prepareOne x s
  else none

def pump : (fuel : Nat) → State → State
  | 0, s => s
  | n + 1, s => match s.red.exchanges.findSome? fun x => pumpOne x s with
    | some t => pump n t
    | none => s

/-- The companion lines that an exchange's work waits for. -/
def exchangeWants (x : Exchange) (s : State) : List Nat :=
  let run := fun (m : M Unit) => ((tryExchange x m s).map fun r => r.2.wants).getD []
  if !x.named then run (discard (exchangeLocks x.kind x.desc))
  else if x.ready then run (if x.kind = .gather then finishGather x else finishReduce x)
  else if mayPrepare s x then run (discard (beginBody x))
  else []

/-- Asks for the lines that exchanges wait for. -/
def askHeld (s : State) : State :=
  { s.red.exchanges.foldl (fun s x => askLines (.desc x.qp x.idx) (exchangeWants x s) s) s with freeCtr := s.freeCtr + 1 }

/-- What waits for an avenue and can go, goes. -/
def transmitAll (s : State) : State := (List.finRange 8).foldl (fun s n => transmit (.av n) s) s

/-- Everything the exchanges can do now. -/
def pumpAll (s : State) : State :=
  if s.red.exchanges.isEmpty then s
  else transmitAll (askHeld (pump (16 * s.red.exchanges.length) s))

/-! ### The descriptors -/

/-- The address of the group record. -/
def groupAddr (k : XKind) (d : Desc) : Nat := if k = .reduce then (redFields d).group else (shardFields d).c

/-- An exchange that has just started: of a group, with the headers or pairs it takes in turn where they are known. -/
def newExchange (k : XKind) (qp : Fin 64) (idx : W32) (d : Desc) (g : Group) (locks : Option (List Nat)) (s : State) : Exchange :=
  { qp := qp, idx := idx, kind := k, desc := d, locks := locks.getD [], named := locks.isSome, defaults := s.defaults, prepared := false,
    begun := false,
    group := g, epoch := if k = .reduce then (redFields d).epoch else (shardFields d).epoch, obj := 0, own := default, peers := [],
    entries := [], vecs := [], stage := 0, pieces := [], seed := 0, stoch := false, exc := 0 }

/-- Takes its place among the exchanges, with the FIELDS that came early for it. -/
def enrol (x : Exchange) (s : State) : State := dealEarly { s with red := { s.red with exchanges := s.red.exchanges ++ [x] } }

def exchangeBody (k : XKind) (qp : Fin 64) (idx : W32) (d : Desc) : M Unit := do
  setAwait .exchange
  let g ← if k = .rebuild then pure default else peekGroup (groupAddr k d)
  let locks ← tryCatch (do return some (← exchangeLocks k d)) fun _ => pure none
  modS fun s => enrol (newExchange k qp idx d g locks s) s

/-- Starts a descriptor that exchanges; it begins at once where its turn has come. -/
def startExchange (isRow : Bool) (k : XKind) (qp : Fin 64) (d : Desc) (s : State) : Host.Outcome State Fault Refusal :=
  if !isRow then .refused .illFormed
  else if !running s then .fault .notRunning
  else if canStart s qp d 1 then
    .next (pumpAll (startOne qp d (exchangeBody k qp (s.q.qps[qp]).head d) s))
  else .next (showFront qp d s)

/-- SUM (R422). -/
def execSum (qp : Fin 64) (d : Desc) (s : State) : Host.Outcome State Fault Refusal := startExchange (isReduce 0 d) .reduce qp d s
/-- SUMSQ (R435). -/
def execSumsq (qp : Fin 64) (d : Desc) (s : State) : Host.Outcome State Fault Refusal := startExchange (isReduce 1 d) .reduce qp d s
/-- MEANVAR (R436). -/
def execMeanvar (qp : Fin 64) (d : Desc) (s : State) : Host.Outcome State Fault Refusal := startExchange (isReduce 2 d) .reduce qp d s
/-- GATHER (R461). -/
def execGather (qp : Fin 64) (d : Desc) (s : State) : Host.Outcome State Fault Refusal := startExchange (isShard 1 d) .gather qp d s
/-- REBUILD (R466). -/
def execRebuild (qp : Fin 64) (d : Desc) (s : State) : Host.Outcome State Fault Refusal := startExchange (isShard 2 d) .rebuild qp d s

/-! ### Packets of members (R595) -/

/-- An avenue brings packets of a lane (R599, R668, R693). -/
def avenueBrings (s : State) (av : Fin 8) (vl : Nat) : Bool := linkThere s (.av av) && chCarried s (.av av) vl

/-- FIELDS of a member: for the first descriptor of its group, in the order of starts, that lacks them, or kept for one to come (R415,
R462). -/
def takeFields (x : PeerMsg) (f : PeerFields) (s : State) : State :=
  let e : EarlyFields := ⟨x.groupId, x.epoch, x.rank, f, false⟩
  dealEarly { s with red := { s.red with early := s.red.early ++ [{ e with late := s.red.missed.any fun m => m.lacks e }] } }

/-- Is a piece already here? -/
def hasPiece (y : Exchange) (p : Piece) : Bool :=
  (y.from' p.kind p.rank p.round p.entry).any fun q => q.first == p.first

/-- The exchange that data of a member are for: the one of its group, plan step and object that lacks them. -/
def takerOf (k : XKind) (x : PeerMsg) (p : Piece) (s : State) : Option Exchange :=
  s.red.exchanges.find? fun y => y.begun && y.kind == k && y.group.id == x.groupId && y.epoch == x.epoch && y.obj == x.obj
    && x.rank < y.group.n && !hasPiece y p

/-- Data of a REDUCE: its payload is counted (R445); data of no exchange go nowhere. -/
def takePiece (x : PeerMsg) (p : Piece) (s : State) : State :=
  match takerOf .reduce x p s with
  | some y => countReceived x.bytes (setExchange { y with pieces := y.pieces ++ [p] } s)
  | none => countReceived x.bytes s

/-- Data of a GATHER, counted where one takes them (R479). -/
def takeSlice (x : PeerMsg) (p : Piece) (s : State) : State :=
  match takerOf .gather x p s with
  | some y =>
    let t := setExchange { y with pieces := y.pieces ++ [p] } s
    { t with shard := { t.shard with gatheredIn := satAdd t.shard.gatheredIn (p.elems.length + p.scales.length) } }
  | none => s

def pieceOf (k : PieceKind) (x : PeerMsg) (vals : List F32) (elems scales : List Byte) : Piece :=
  { kind := k, rank := x.rank, round := x.round, entry := x.entry, first := x.first, vals := vals, elems := elems, scales := scales }

/-- Board sums as a piece: the flag of each says whether every contribution to it was finite (R426). -/
def boardPiece (x : PeerMsg) (vals : List (F32 × Bool)) : Piece :=
  pieceOf .boardSum x (vals.map Prod.fst) (vals.map fun v => if v.2 then 1 else 0) []

/-- A packet of VL 0 or VL 2 arrives whole: its room is free again (R577, R594). -/
def memberPacket (av : Fin 8) (k : XKind) (x : PeerMsg) (take : State → State) (s : State) : Host.Outcome State Fault Refusal :=
  if 4064 < x.bytes then .refused .illFormed
  else if !running s then .fault .notRunning
  else if avenueBrings s av k.lane.toNat then
    .next (pumpAll (take (arrived (.av av) (2 * k.lane.toNat + if x.hop then 1 else 0) (unitsOf (32 + x.bytes)) s)))
  else .next s

/-- FIELDS (R415). -/
def execFields (av : Fin 8) (x : PeerMsg) (f : PeerFields) (s : State) : Host.Outcome State Fault Refusal :=
  let k : XKind := if fieldsOfKind .reduce f then .reduce else .gather
  memberPacket av k x (fun s => takeFields x f (if k = .reduce then countReceived x.bytes s else s)) s
/-- CONTRIB (R423). -/
def execContrib (av : Fin 8) (x : PeerMsg) (vals : List F32) (s : State) : Host.Outcome State Fault Refusal :=
  memberPacket av .reduce x (takePiece x (pieceOf .contrib x vals [] [])) s
/-- BOARD_SUM (R423). -/
def execBoardSum (av : Fin 8) (x : PeerMsg) (vals : List (F32 × Bool)) (s : State) : Host.Outcome State Fault Refusal :=
  memberPacket av .reduce x (takePiece x (boardPiece x vals)) s
/-- RESULT of the reduction engine (R423). -/
def execReductionResult (av : Fin 8) (x : PeerMsg) (elems scales : List Byte) (s : State) : Host.Outcome State Fault Refusal :=
  memberPacket av .reduce x (takePiece x (pieceOf .result x [] elems scales)) s
/-- COUNT (R426). -/
def execCount (av : Fin 8) (x : PeerMsg) (count : W32) (s : State) : Host.Outcome State Fault Refusal :=
  memberPacket av .reduce x (takePiece { x with round := 0, first := 0 } (pieceOf .count { x with round := 0, first := 0 } [count] [] [])) s
/-- SLICE (R461). -/
def execSlice (av : Fin 8) (x : PeerMsg) (elems scales : List Byte) (s : State) : Host.Outcome State Fault Refusal :=
  memberPacket av .gather x (takeSlice x (pieceOf .slice { x with round := 0, entry := 0 } [] elems scales)) s

/-! ### Stalls (R429, R463) -/

/-- What an exchange that made no progress ends with: TIMEOUT, or the mismatch that a GATHER sees in FIELDS of another group which are no
other GATHER's (R429, R462, R463). -/
def stallStatus (x : Exchange) (s : State) : Status := if s.red.early.any (foreignFields s x) then .reduceMismatch else .timeout

/-- Completes an exchange that made no progress. -/
def stall (x : Exchange) (s : State) : State :=
  let st := stallStatus x s
  let t := afterFailure x st (dropExchange x { s with red := { s.red with early := s.red.early.filter fun f => !foreignFields s x f } })
  match findInFlight t x.qp x.idx with
  | some e =>
    let y := { exchangeInfo x e with status := st, await := .nothing }
    pumpAll (if writesDone t e then finish y t else setInFlight y t)
  | none => t

/-- An exchange that waits for other members. -/
def findStalled (s : State) (k : XKind) (qp : Fin 64) (idx : W32) : Option Exchange :=
  s.red.exchanges.find? fun x => x.qp == qp && x.idx == idx && x.kind == k && x.begun && x.group.n != 1

/-- REDUCE_STALL_TIMEOUT (R429). -/
def execReduceStallTimeout (qp : Fin 64) (idx : W32) (s : State) : Host.Outcome State Fault Refusal :=
  if !running s then .fault .notRunning
  else match findStalled s .reduce qp idx with
    | some x => .next (stall x { s with red := { s.red with timeouts := satInc s.red.timeouts } })
    | none => .next s

/-- GATHER_TIMEOUT (R463). -/
def execGatherTimeout (qp : Fin 64) (idx : W32) (s : State) : Host.Outcome State Fault Refusal :=
  if !running s then .fault .notRunning
  else match findStalled s .gather qp idx with
    | some x => .next (stall x s)
    | none => .next s

end Sys2Proof.Machine
end

