-- ==== Sys2Proof/Machine/Version.lean ====
section
/-! DEFINITION. VERSION: PUBLISH, RETIRE, LOAD_ADAPTER, RETIRE_ADAPTER, and SLOT_FREED (R264 to R269, R277, R280, R560 to R565). -/

namespace Sys2Proof.Machine

/-! ### The descriptor (R560) -/

structure VersionFields where
  table : Nat
  op : Nat
  force : Bool
  slot : Nat
  serial : W32
  key : Nat
  entries : Nat
  deriving DecidableEq, Repr, Inhabited

def versionFields (d : Desc) : VersionFields :=
  { table := fld d.w2 63 16, op := fld d.w2 15 12, force := bit d.w2 11, slot := fld d.w2 7 0,
    serial := BitVec.ofNat 32 (fld d.w3 63 32), key := fld d.w3 31 16, entries := fld d.w4 63 32 }

def isVersion (op : Nat) (d : Desc) : Bool := descClass d == clsVersion && (versionFields d).op == op

/-- The field checks of R563's first row. -/
def versionFieldsOk (d : Desc) (f : VersionFields) : Bool :=
  fld d.w2 10 8 == 0 && fld d.w3 15 0 == 0 && fld d.w4 31 0 == 0
  && match f.op with
    | 0 => f.table != 0 && !f.force && f.slot < 4 && f.key == 0 && 1 ≤ f.entries && f.entries ≤ 2 ^ 20
    | 1 => f.table == 0 && f.slot < 4 && f.key == 0 && f.entries == 0
    | 2 => f.table != 0 && !f.force && f.serial == 0 && 1 ≤ f.key && f.key ≤ 16383 && 1 ≤ f.entries && f.entries ≤ 2 ^ 20
    | 3 => f.table == 0 && f.slot == 0 && f.serial == 0 && 1 ≤ f.key && f.key ≤ 16383 && f.entries == 0
    | _ => false

/-! ### Slots -/

/-- References held on a slot: one for each sequence on it (R245). -/
def slotRefs (s : State) (x : SlotId) : Nat :=
  (s.sched.slots.filter fun q => match x with
    | .version v => q.vslot == v.val
    | .adapter a => q.adapter == some a.val).length

def getSlot (s : State) (x : SlotId) : WSlot := match x with
  | .version v => s.vers[v]
  | .adapter a => s.adapters[a]

def setSlot (x : SlotId) (w : WSlot) (s : State) : State := match x with
  | .version v => { s with vers := s.vers.set v w }
  | .adapter a => { s with adapters := s.adapters.set a w }

def SlotState.code : SlotState → Nat
  | .free => 0
  | .live => 1
  | .retiring => 2

/-- Bytes 16 to 31 of a VERSION record (R565). -/
def versionInfo (s : State) (x : SlotId) : List Byte :=
  let w := getSlot s x
  leBytes 4 w.gen.toNat ++ leBytes 4 (slotRefs s x) ++ leBytes 1 w.state.code ++ List.replicate 7 0

/-- A LIVE slot becomes RETIRING. -/
def retireSlot (x : SlotId) (force : Bool) (s : State) : State :=
  setSlot x { getSlot s x with state := .retiring, force := force } s

/-- The LIVE adapter slot of a key. -/
def keySlot (s : State) (key : Nat) : Option (Fin 256) :=
  (List.finRange 256).find? fun i => (s.adapters[i]).state == .live && (s.adapters[i]).key == key

/-! ### The operations (R265, R267, R277, R280) -/

/-- Reads and checks a view table entry; answers whether it names a delta header (R269). -/
def viewKind (a : Nat) : M Bool := do
  let w ← readU64 a
  needDesc (fld w 63 48 == 0)
  needMapped (fld w 47 0) 32
  let k := kindOf (← readU64 (fld w 47 0))
  needDesc (k == 0x71 || k == 0xDE)
  return k == 0xDE

/-- The start version follows a slot published while the turn names it so (R267). -/
def followStart (v : Fin 4) (s : State) : State :=
  if s.turn.cur = .generate ∧ s.sched.follows then { s with sched := { s.sched with startVersion := some v } } else s

/-- PUBLISH (R265, R41: the order in which PUBLISHes complete). -/
def publishSlot (f : VersionFields) (v : Fin 4) (s : State) : Status × State :=
  if (s.vers[v]).state ≠ .free then (.versionInUse, s)
  else (.ok, followStart v { setSlot (.version v)
    { state := .live, gen := f.serial, key := 0, table := f.table, entries := f.entries, order := s.pubCount, force := false } s with
    pubCount := s.pubCount + 1 })

/-- RETIRE (R265, R561). -/
def retireVersion (f : VersionFields) (v : Fin 4) (s : State) : Status × State :=
  if s.sched.startVersion = some v then (.versionInUse, s)
  else if (s.vers[v]).state ≠ .live ∨ !(f.serial == 0 || f.serial == (s.vers[v]).gen) then (.versionRetired, s)
  else (.ok, retireSlot (.version v) f.force s)

/-- LOAD_ADAPTER (R277). -/
def loadAdapter (f : VersionFields) (a : Fin 256) (s : State) : Status × State :=
  if (s.adapters[a]).state ≠ .free then (.versionInUse, s)
  else
    let s1 := match keySlot s f.key with
      | some o => retireSlot (.adapter o) false s
      | none => s
    let g := s1.sched.lastGen + 1
    (.ok, { setSlot (.adapter a)
      { state := .live, gen := g, key := f.key, table := f.table, entries := f.entries, order := 0, force := false } s1 with
      sched := { s1.sched with lastGen := g } })

/-- RETIRE_ADAPTER (R280). -/
def retireAdapter (f : VersionFields) (s : State) : Status × State :=
  match keySlot s f.key with
  | some a => (.ok, retireSlot (.adapter a) f.force s)
  | none => (.versionRetired, s)

/-- The slot that a VERSION names. -/
def versionSlot (f : VersionFields) (s : State) : Option SlotId :=
  match f.op with
  | 0 | 1 => if h : f.slot < 4 then some (.version ⟨f.slot, h⟩) else none
  | 2 => if h : f.slot < 256 then some (.adapter ⟨f.slot, h⟩) else none
  | _ => (keySlot s f.key).map SlotId.adapter

/-- A VERSION's effect, with its checks of the slot state and the serial (R563's last rows): those are made when it starts, and again when
it takes effect at its completion (R564; LOG 35). -/
def versionAct (f : VersionFields) (s : State) : Status × State :=
  match f.op, versionSlot f s with
  | 0, some (.version v) => publishSlot f v s
  | 1, some (.version v) => retireVersion f v s
  | 2, some (.adapter a) => loadAdapter f a s
  | _, _ => retireAdapter f s

/-- Completes a VERSION (R564, R565). -/
def completeVersion (e : InFlight) (d : Desc) (s : State) : State :=
  let f := versionFields d
  let st := if e.racy then freeStatus s.freeCtr e.status else e.status
  let s := if e.racy then { s with freeCtr := s.freeCtr + 1 } else s
  let r := if st = .ok then versionAct f s else (st, s)
  finish { e with status := r.1, racy := false, info := match versionSlot f s with
    | some x => versionInfo r.2 x
    | none => zeros16 } r.2

/-- A VERSION's checks at its start (R563). -/
def versionBody (d : Desc) : M Unit := do
  let f := versionFields d
  setAwait (.version d)
  needDesc (versionFieldsOk d f)
  if f.op = 0 then
    needMapped f.table (8 * f.entries)
    let kinds ← (List.range f.entries).mapM fun i => viewKind (f.table + 8 * i)
    need (!kinds.any id || (← getS).persist.variant.has 5) .unitAbsent
  else if f.op = 2 then needMapped f.table (16 * f.entries)
  else pure ()
  let r := versionAct f (← getS)
  need (r.1 == .ok) r.1

/-- PUBLISH (R265). -/
def execPublish (qp : Fin 64) (d : Desc) (s : State) : Host.Outcome State Fault Refusal :=
  startDesc (isVersion 0 d) qp d (versionBody d) s
/-- RETIRE (R265). -/
def execRetire (qp : Fin 64) (d : Desc) (s : State) : Host.Outcome State Fault Refusal :=
  startDesc (isVersion 1 d) qp d (versionBody d) s
/-- LOAD_ADAPTER (R277). -/
def execLoadAdapter (qp : Fin 64) (d : Desc) (s : State) : Host.Outcome State Fault Refusal :=
  startDesc (isVersion 2 d) qp d (versionBody d) s
/-- RETIRE_ADAPTER (R280). -/
def execRetireAdapter (qp : Fin 64) (d : Desc) (s : State) : Host.Outcome State Fault Refusal :=
  startDesc (isVersion 3 d) qp d (versionBody d) s

/-- SLOT_FREED (R265). -/
def execSlotFreed (x : SlotId) (s : State) : Host.Outcome State Fault Refusal :=
  if !running s then .fault .notRunning
  else if (getSlot s x).state = .retiring ∧ slotRefs s x = 0 then .next (setSlot x WSlot.free s)
  else .next s

end Sys2Proof.Machine
end

