-- ==== Sys2Proof/Machine/Complete.lean ====
section
/-! DEFINITION. The completion of a started descriptor (R528, R536, R549, R550), and descriptors whose codes name nothing (R540, R544). -/

namespace Sys2Proof.Machine

/-- A class code, operation, mode or kernel number that names nothing. -/
def isReserved (d : Desc) : Bool :=
  let c := descClass d
  !classKnown c
  || (c == clsKernel && (kernelSpec (kernelFields d).kernel).isNone)
  || (c == clsAttn && 2 < (attnFields d).pass)
  || (c == clsSample && 1 < (sampleFields d).mode)
  || (c == clsReduce && 2 < redOp d)
  || (c == clsCare && 3 < (careFields d).phase)
  || (c == clsShard && 5 < (shardFields d).op)
  || (c == clsMove && 3 < (moveFields d).op)
  || (c == clsVersion && 3 < (versionFields d).op)

/-- The checks and work of a descriptor that no exchange, fence or turn holds. -/
def bodyOf (d : Desc) : M Unit :=
  let c := descClass d
  let op := (shardFields d).op
  if isReserved d then fail .badDescriptor
  else if c = clsTile then tileBody d
  else if c = clsKernel then kernelBody d
  else if c = clsAttn then attnBody d
  else if c = clsSample then sampleBody d
  else if c = clsCare then careBody d
  else if c = clsMove then moveBody d
  else if c = clsVersion then versionBody d
  else if c = clsShard then (if op = 0 then loadBody d else if op = 3 then protectBody d else if op = 4 then unprotectBody d
    else zeroBody d)
  else fail .badDescriptor

/-- Tries the work of a descriptor again that had to wait; of a pair, the first one's (R165, R515, R546, R551). -/
def retryHeld (e : InFlight) (d : Desc) (x : Defaults) (s : State) : State :=
  match (findInFlight s e.qp (e.idx + 1)).bind fun y => y.follows.map fun h => (y, h) with
  | some p => retryFirst e p.1 p.2 d x s
  | none =>
    let r := runWorkAt e.order e.lines (underDefaults x (bodyOf d)) s
    if waitsIn r.1 then askFor (.desc e.qp e.idx) r.2 s
    else
      let y := settleEntry s d e r
      setInFlight y.1 y.2

/-- Writes the record of an entry with nothing more to wait for; the second of its pair follows (R165). -/
def completeDone (e : InFlight) (s : State) : State :=
  let t := finish e s
  if (findInFlight t e.qp e.idx).isNone then followOn e t else t

/-- What a descriptor in flight can do now: write its record, or do work that had to wait; none where it has neither (R165, R549). -/
def completeOne (e : InFlight) (s : State) : Option State :=
  if !writesDone s e then none
  else match e.follows with
    | some h => if h.due then some (runSecond e h s) else none
    | none => match e.await with
      | .nothing => some (completeDone e s)
      | .held d x => some (retryHeld e d x s)
      | .version d => some (completeVersion e d s)
      | .turn => none
      | .exchange => some (pumpAll s)
      | .turnRefused => some (finish { e with info := turnInfo s.turn.cur 0 0 } s)
      | _ => completeFence e s

/-- DESCRIPTOR_COMPLETE (R549); a descriptor that still has something to wait for, and one not in flight, does not complete. -/
def execDescriptorComplete (qp : Fin 64) (idx : W32) (s : State) : Host.Outcome State Fault Refusal :=
  if !running s then .fault .notRunning
  else match (findInFlight s qp idx).bind fun e => completeOne e s with
    | some t => .next t
    | none => .next s

/-- A KERNEL of FUSE 1, which starts only as a pair whatever its number is (R728). -/
def holdsPair (d : Desc) : Bool := descClass d == clsKernel && (kernelFields d).fuse == 1

/-- RESERVED_CLASS_CODE (R544): BAD_DESCRIPTOR unless an earlier check fails. -/
def execReservedClassCode (qp : Fin 64) (d : Desc) (s : State) : Host.Outcome State Fault Refusal :=
  if isReserved d && running s && holdsPair d then .next (showFront qp d s)
  else startDesc (isReserved d) qp d (fail .badDescriptor) s

end Sys2Proof.Machine
end

