-- ==== Sys2Proof/Machine/Dict.lean ====
section
/-! DEFINITION. The object dictionary's objects: the directory, access rights and sizes, the unit selector, and what each object
reads as (R609 to R612, R628 to R635, R641 and the object tables of every chapter). -/

namespace Sys2Proof.Machine

/-! ### Access and types (R609, R610) -/

inductive Access where
  | const
  | ro
  | wo
  | rw
  | rwa
  deriving DecidableEq, Repr, Inhabited

/-- An object's right, size in bytes, and whether it is a BOOL. -/
structure Obj where
  access : Access
  size : Nat
  isBool : Bool
  deriving DecidableEq, Repr, Inhabited

def oU8 (a : Access) : Obj := ⟨a, 1, false⟩
def oBool (a : Access) : Obj := ⟨a, 1, true⟩
def oU16 (a : Access) : Obj := ⟨a, 2, false⟩
def oU32 (a : Access) : Obj := ⟨a, 4, false⟩
def oU64 (a : Access) : Obj := ⟨a, 8, false⟩
def oBytes (n : Nat) (a : Access) : Obj := ⟨a, n, false⟩

/-! ### The directory (R641): the subindices 1 onward of every index -/

/-- Identity, session, alerts, statistics (R627, R636, R639). -/
def dirCommon : List (Nat × List Obj) :=
  [(0x1000, [oBytes 16 .const, oBytes 16 .const, oBytes 16 .const, oBytes 4 .const, oBytes 16 .const, oU8 .ro, oU16 .const]),
   (0x1001, [oU32 .ro, oU32 .ro, oU32 .ro, oU32 .ro, oU16 .ro]),
   (0x1010, [oU8 .const, oU8 .const, oU32 .const, oU8 .const, oU8 .ro, oU64 .ro, oU32 .ro, oU8 .ro]),
   (0x1020, [oU8 .ro]), (0x1030, [oU64 .ro]), (0x1031, [oU64 .ro]),
   (0x1032, [oU8 .ro, oU8 .ro, oU32 .const, oU8 .ro]),
   (0x1040, [oU32 .ro, oU32 .rw, oU32 .wo, oU32 .ro]),
   (0x4000, [oU64 .ro, oU64 .ro, oU32 .ro, oU32 .ro, oU32 .ro, oU32 .ro, oU32 .ro])]

/-- The selector and the per-unit objects (R607, R628, R632, R634). -/
def dirUnits : List (Nat × List Obj) :=
  [(0x2000, [oU8 .rw, oU16 .rw]),
   (0x2100, [oU8 .ro, oU16 .ro, oBool .ro, oU8 .ro, oBool .rw, oU8 .rwa, oU8 .ro]),
   (0x2101, [oU64 .ro, oU64 .ro]),
   (0x2110, [oU8 .ro, oU8 .ro, oU8 .ro, oU8 .ro, oU32 .ro, oU32 .ro, oU32 .ro, oU32 .ro, oBool .rw, oU32 .ro, oBool .ro])]

/-- The work of the module (R45, R82, R140, R239, R292 to R294, R324, R364, R412, R445, R479). -/
def dirWork : List (Nat × List Obj) :=
  [(0x2200, [oU8 .ro, oBool .ro, oU32 .ro, oU32 .ro, oU32 .ro, oU32 .ro, oU32 .rw, oU64 .ro, oU32 .ro]),
   (0x2300, [oU32 .ro, oU16 .ro, oU16 .ro]),
   (0x2400, List.replicate 6 (oU8 .rw) ++ [oU16 .const, oU8 .const]),
   (0x2500, [oBytes 16 .rw, oU32 .rw, oU64 .rw, oU32 .ro, oU32 .ro, oU8 .const]),
   (0x2600, [oU32 .const, oU32 .const, oU32 .rw, oU32 .rw, oU8 .const] ++ List.replicate 4 (oU64 .ro) ++ List.replicate 3 (oU32 .ro)),
   (0x2700, [oU64 .rw, oU64 .rw, oU8 .rw, oU64 .ro, oU64 .ro, oU8 .ro, oU32 .ro, oU32 .ro, oU32 .ro, oU64 .ro, oU32 .ro]),
   (0x2800, [oU8 .ro, oBool .wo, oU32 .rw, oU32 .rw, oU64 .rw, oU64 .rw, oU64 .rw, oU32 .rw, oU64 .rw, oU64 .rw, oU64 .rw, oU32 .rw,
      oU32 .rw, oU32 .rw, oU64 .rw]
      ++ [oU32 .rw, oU32 .rw, oU32 .rw, oU32 .rw, oU16 .rw, oU16 .rw, oU8 .ro, oBool .ro, oU64 .ro, oU32 .ro, oU32 .ro, oU32 .ro,
      oU32 .ro, oU32 .ro, oU32 .ro]),
   (0x2801, List.replicate 16 (oU8 .rw)),
   (0x2802, [oU16 .const, oU64 .ro, oU64 .ro, oBool .wo, oU64 .ro, oU32 .ro, oU8 .ro]),
   (0x2803, List.replicate 4 (oU64 .ro)), (0x2806, List.replicate 128 (oU64 .ro)), (0x2807, List.replicate 128 (oU64 .ro)),
   (0x2900, [oU8 .ro, oU64 .ro, oU32 .ro, oU64 .ro, oU64 .ro, oU32 .ro, oU32 .ro]),
   (0x2A00, [oU8 .ro, oU8 .const, oU64 .ro, oU64 .ro, oU64 .ro, oU32 .ro, oU32 .ro, oU32 .ro, oU32 .ro]),
   (0x2A01, List.replicate 64 (oU64 .ro)), (0x2A02, List.replicate 64 (oU64 .ro))]

/-- Stacks, queues and links (R524, R532, R538, R606). -/
def dirPaths : List (Nat × List Obj) :=
  [(0x2B00, [oU8 .rw, oU8 .rw, oU16 .rw, oU32 .ro, oU64 .ro, oU32 .ro, oU64 .ro, oU8 .ro, oU16 .ro, oU16 .ro, oU8 .ro, oU64 .ro,
      oU64 .ro]),
   (0x2B01, List.replicate 32 (oU32 .ro)), (0x2B02, List.replicate 32 (oU32 .ro)), (0x2B03, List.replicate 32 (oU32 .ro)),
   (0x2C00, [oU8 .const, oU16 .ro, oU16 .const, oU32 .ro, oU32 .rw, oU64 .ro, oU32 .ro]),
   (0x2D00, [oU8 .ro, oU32 .ro, oU32 .ro, oU64 .ro, oU32 .ro, oU32 .ro, oU32 .ro, oU64 .ro]),
   (0x2D01, [oU8 .rw, oU8 .rw, oU8 .rw, oU64 .rw, oU64 .rw, oU64 .rw, oU64 .rw, oU32 .ro]),
   (0x2D02, List.replicate 17 (oU8 .rw))]

/-- Power, clocks and resets (R677, R687, R700, R705). -/
def dirPower : List (Nat × List Obj) :=
  [(0x3000, [oU8 .rw, oU8 .ro, oU32 .ro, oU32 .ro, oU32 .ro]),
   (0x3001, [oU32 .ro, oU32 .rw, oU8 .ro, oU64 .ro, oU32 .ro, oU32 .ro]),
   (0x3010, [oBool .ro, oU32 .ro, oU32 .ro]),
   (0x3100, [oBool .rwa, oBool .rwa, oU32 .rw, oU32 .const])]

/-- Keys, attestation, firmware and debug (R122, R526, R661, R670 to R672). -/
def dirSecurity : List (Nat × List Obj) :=
  [(0x5000, List.replicate 4 (oBytes 32 .wo) ++ [oU8 .wo]),
   (0x5001, [oU8 .ro, oU8 .ro, oU8 .ro, oU32 .ro, oU8 .ro]),
   (0x5100, [oU8 .rw, oU32 .ro, oU32 .rw, oBytes 512 .ro]),
   (0x5200, [oBytes 32 .rw, oBool .wo, oU8 .ro]),
   (0x5700, [oBool .rwa, oBool .rwa, oBool .rwa, oU16 .ro]),
   (0x5800, [oBool .wo, oU8 .ro, oU8 .ro, oU32 .ro, oU32 .ro, oU8 .rwa, oU32 .ro, oU32 .rwa, oU8 .ro, oU8 .ro, oU32 .ro, oU32 .ro,
      oU8 .ro, oU8 .ro]),
   (0x6000, [oU8 .rwa, oU8 .ro, oBool .rwa]),
   (0x6100, [oU16 .rw, oU8 .rw, oU64 .rw, oU8 .ro]),
   (0x6200, [oU64 .rw, oU8 .rw, oBool .wo])]

/-- Queue pair n is index 0x2C01 + n (R532). -/
def pairIndex (idx : Nat) : Option (Fin 64) :=
  if h : 0x2C01 ≤ idx ∧ idx - 0x2C01 < 64 then some ⟨idx - 0x2C01, h.2⟩ else none

def pairObjs : List Obj :=
  [oU64 .rw, oU64 .rw, oU32 .rw, oBool .rw, oU8 .ro, oU8 .rw, oBool .rw, oU32 .ro, oU32 .ro, oU32 .ro, oU16 .ro, oU32 .ro]

def odDirectory : List (Nat × List Obj) := dirCommon ++ dirUnits ++ dirWork ++ dirPaths ++ dirPower ++ dirSecurity

/-- The subindices 1 onward of an index of the directory. -/
def objsOf (idx : Nat) : Option (List Obj) :=
  if (pairIndex idx).isSome then some pairObjs else (odDirectory.find? fun d => d.1 == idx).map Prod.snd

/-- The object at a subindex; subindex 0 is the number of the last (R17, R609). -/
def objAt (l : List Obj) (sub : Nat) : Option Obj := if sub = 0 then some (oU8 .const) else l[sub - 1]?

/-! ### The selector (R628 to R631) -/

def selOf (s : State) : Path → PathSel
  | .carard => s.od.selCarard
  | .field => s.od.selField

def setSel (p : Path) (x : PathSel) (s : State) : State :=
  match p with
  | .carard => { s with od := { s.od with selCarard := x } }
  | .field => { s with od := { s.od with selField := x } }

/-- The last instance of a class (R629). -/
def classLast (c : Nat) : Nat := [0, 7, 63, 511, 63, 255, 31, 7, 15].getD c 0

/-- The block that the controls of a selected unit act on: a square acts on the plaza that holds it (R689). -/
def selUnit (x : PathSel) : Option UnitId :=
  match x.cls with
  | 1 => if h : x.inst < 8 then some (.district ⟨x.inst, h⟩) else none
  | 2 | 4 => if h : x.inst < 64 then some (.plaza ⟨x.inst, h⟩) else none
  | 3 => if h : x.inst / 8 < 64 then some (.plaza ⟨x.inst / 8, h⟩) else none
  | 5 => if h : x.inst < 256 then some (.kiosk ⟨x.inst, h⟩) else none
  | 6 => if h : x.inst < 32 then some (.stack ⟨x.inst, h⟩) else none
  | 7 => if h : x.inst < 8 then some (.avenue ⟨x.inst, h⟩) else none
  | _ => none

/-- The selected unit exists in this variant; tenant slots always do (R632). -/
def selPresent (s : State) (x : PathSel) : Bool :=
  match selUnit x with
  | some u => unitPresent s.persist.variant u
  | none => x.cls == 8

/-- A per-unit object applies to the selected unit (R631, R123); objects of absent stacks do not exist (R4, R525). -/
def applies (s : State) (x : PathSel) (idx sub : Nat) : Bool :=
  if idx = 0x2100 then
    if 1 ≤ sub ∧ sub ≤ 4 then 1 ≤ x.cls && x.cls ≤ 8
    else if 5 ≤ sub ∧ sub ≤ 7 then 1 ≤ x.cls && x.cls ≤ 7 && selPresent s x
    else 1 ≤ x.cls && x.cls ≤ 8 && selPresent s x
  else if idx = 0x2101 then 1 ≤ x.cls && x.cls ≤ 8 && selPresent s x
  else if idx = 0x2110 then x.cls == 7 && selPresent s x
  else if idx = 0x6100 then (x.cls == 2 || x.cls == 4) && selPresent s x
  else if idx = 0x2B01 ∨ idx = 0x2B02 ∨ idx = 0x2B03 then sub ≤ s.persist.variant.stacks || 32 < sub
  else true

/-- Indices served in limited mode (R668). -/
def servedLimited (x : PathSel) (idx : Nat) : Bool :=
  (0x1000 ≤ idx && idx ≤ 0x1FFF) || idx == 0x2000 || ((idx == 0x2100 || idx == 0x2101 || idx == 0x2110) && x.cls == 7)
  || (0x2D00 ≤ idx && idx ≤ 0x2D02) || idx == 0x4000 || (0x5000 ≤ idx && idx ≤ 0x5FFF) || idx == 0x6000

/-! ### Values -/

/-- Bits i of `n` for which a condition holds. -/
def bitMap (n : Nat) (p : Nat → Bool) : Nat := (List.range n).foldl (fun m i => if p i then m + 2 ^ i else m) 0

def inServiceN (s : State) (mk : (n : Nat) → Option UnitId) (n : Nat) : Bool :=
  match mk n with
  | some u => unitInService s u
  | none => false

def districtN (n : Nat) : Option UnitId := if h : n < 8 then some (.district ⟨n, h⟩) else none
def plazaN (n : Nat) : Option UnitId := if h : n < 64 then some (.plaza ⟨n, h⟩) else none
def kioskN (n : Nat) : Option UnitId := if h : n < 256 then some (.kiosk ⟨n, h⟩) else none
def stackN (n : Nat) : Option UnitId := if h : n < 32 then some (.stack ⟨n, h⟩) else none
def avenueN (n : Nat) : Option UnitId := if h : n < 8 then some (.avenue ⟨n, h⟩) else none

def countN (n : Nat) (p : Nat → Bool) : Nat := ((List.range n).filter p).length

/-- Characters padded with zero bytes (R609). -/
def stringBytes (n : Nat) (t : String) : List Byte := (asciiBytes t ++ List.replicate n 0).take n

def Variant.name : Variant → String
  | .gm8032 => "GM-8032"
  | .gm6024 => "GM-6024"
  | .gm8032e => "GM-8032E"

/-- 1010:01: bit n − 1 for Un (R639). -/
def optionalUnits (v : Variant) : Nat := bitMap 5 fun i => v.has (i + 1)

def pathCode : Path → Nat
  | .carard => 1
  | .field => 2

def SessionState.code : SessionState → Nat
  | .held => 0
  | .lapsed => 1
  | .released => 2

/-- A number of the running bundle; 0 where there is none. -/
def ofBundle (s : State) (f : BundleInfo → Nat) : Nat :=
  match s.sec.running with
  | some b => f b
  | none => 0

def b2n (b : Bool) : Nat := if b then 1 else 0

def val1000 (s : State) (sub : Nat) : Nat :=
  match sub with
  | 1 => leNat (stringBytes 16 "Omcen")
  | 2 => leNat (stringBytes 16 "Glofathal")
  | 3 => leNat (stringBytes 16 s.persist.variant.name)
  | 4 => s.persist.steppings.toNat
  | 5 => s.persist.serial.toNat
  | 6 => s.rst.position.toNat
  | _ => 0x0100

def val1001 (s : State) (sub : Nat) : Nat :=
  match sub with
  | 1 => ofBundle s fun b => b.version.toNat
  | 2 => ofBundle s fun b => b.hallVersion.toNat
  | 3 => ofBundle s fun b => b.kioskVersion.toNat
  | 4 => ofBundle s fun b => b.gfVersion.toNat
  | _ => ofBundle s fun b => b.schema.toNat

/-- An avenue that 1010:08 counts: in service and UP or UP_LIMITED. -/
def avenueServes (s : State) (n : Nat) : Bool :=
  if h : n < 8 then unitInService s (.avenue ⟨n, h⟩) && (s.lk.avs[n]'h).phase.carries else false

def val1010 (s : State) (sub : Nat) : Nat :=
  let v := s.persist.variant
  match sub with
  | 1 => optionalUnits v
  | 2 => 2 ^ v.districts - 1
  | 3 => 2 ^ v.stacks - 1
  | 4 => 2 ^ v.avenues - 1
  | 5 => bitMap 8 (inServiceN s districtN)
  | 6 => bitMap 64 (inServiceN s plazaN)
  | 7 => bitMap 32 (inServiceN s stackN)
  | _ => bitMap 8 (avenueServes s)

def val1032 (s : State) (p : Path) (sub : Nat) : Nat :=
  match sub with
  | 1 => pathCode s.od.holder
  | 2 => s.od.session.code
  | 3 => 2000
  | _ => pathCode p

def val1040 (s : State) (sub : Nat) : Nat :=
  match sub with
  | 1 => s.od.alertPending.toNat
  | 2 => s.od.alertMask.toNat
  | 4 => s.od.alertsSent.toNat
  | _ => 0

def val4000 (s : State) (sub : Nat) : Nat :=
  match sub with
  | 1 => s.od.reqCarard.toNat
  | 2 => s.od.reqField.toNat
  | 3 => s.od.aborts.toNat
  | 4 => s.od.lastAbort.toNat
  | 5 => s.od.framesDiscarded.toNat
  | 6 => s.od.repeated.toNat
  | _ => s.od.takeovers.toNat

/-- Codes of 2100:04 (R632). -/
def UnitState.code : UnitState → Nat
  | .disabled => 1
  | .enabled => 2
  | .enablePending => 3
  | .disabling => 4
  | .resetting => 5

def selCtl (s : State) (x : PathSel) : Option UnitCtl :=
  match selUnit x with
  | some u => if unitPresent s.persist.variant u then some (s.units.get u) else none
  | none => none

def val2100 (s : State) (x : PathSel) (sub : Nat) : Nat :=
  match sub with
  | 1 => x.cls
  | 2 => x.inst
  | 3 => b2n (selPresent s x)
  | 4 => if x.cls = 8 then 2 else ((selCtl s x).map fun c => c.state.code).getD 0
  | 5 => ((selCtl s x).map fun c => b2n c.enable).getD 0
  | 6 => ((selCtl s x).map fun c => b2n c.resetAsked).getD 0
  | _ => ((selCtl s x).map fun c => c.result.toNat).getD 0

/-- 2101:02: what the selected unit has done (R635): the squares' panels are counted for each square. -/
def selWork (s : State) (x : PathSel) : Nat :=
  match x.cls with
  | 3 => (s.units.squares.toList.getD x.inst 0).toNat
  | 4 => (s.units.squares.toList.getD (512 + x.inst) 0).toNat
  | 8 => (s.units.tenants.toList.getD x.inst 0).toNat
  | _ => ((selCtl s x).map fun c => c.work.toNat).getD 0

/-- The counters of R635. How many cycles a unit worked is timing: 0 while it has done nothing since its reset, else a free number
(LOG 18). -/
def val2101 (s : State) (x : PathSel) (sub : Nat) : Nat :=
  if sub = 2 then selWork s x
  else if x.cls = 8 then (s.sched.slots.filter fun q => q.tenant == x.inst).length
  else if selWork s x = 0 then 0
  else (Config.freeW64 s.freeCtr).toNat

def selLink (s : State) (x : PathSel) : Link :=
  if h : x.inst < 8 then s.lk.avs[x.inst]'h else Link.reset

def val2110 (s : State) (x : PathSel) (sub : Nat) : Nat :=
  let l := selLink s x
  match sub with
  | 1 => l.phase.code
  | 2 => l.role.toNat
  | 3 => l.pos.toNat
  | 4 => l.board.toNat
  | 5 => l.proto.toNat
  | 6 => l.resent.toNat
  | 7 => l.crcErrors.toNat
  | 8 => l.trainings.toNat
  | 9 => ((selCtl s x).map fun c => b2n c.enable).getD 0
  | 10 => l.peerSv.toNat
  | _ => b2n l.peerLimited

def val2200 (s : State) (sub : Nat) : Nat :=
  match sub with
  | 1 => s.turn.cur.code
  | 2 => b2n s.turn.trans.isSome
  | 3 => s.turn.seq.toNat
  | 4 => s.turn.steps.toNat
  | 5 => (s.sched.slots.filter fun q => !q.suspended).length
  | 6 => (s.sched.slots.filter fun q => q.suspended).length
  | 7 => s.turn.defaultDrain.toNat
  | 8 => s.turn.lastLength.toNat
  | _ => s.turn.lastRefusal.toNat

/-- The callable kernels of the catalogue that the model runs: the rows of R150. -/
def callableKernels : Nat := 20

def val2300 (s : State) (sub : Nat) : Nat :=
  match sub with
  | 1 => ofBundle s fun b => b.catalogue.toNat
  | 2 => ofBundle s fun _ => callableKernels
  | _ => countN 256 (inServiceN s kioskN)

def val2400 (s : State) (sub : Nat) : Nat :=
  match sub with
  | 1 => b2n s.fmt.propF8a
  | 2 => b2n s.fmt.propF8g
  | 3 => b2n s.fmt.propF4
  | 4 => b2n s.fmt.propB16
  | 5 => b2n s.fmt.propF32
  | 6 => b2n s.fmt.stochastic
  | 7 => 0x0100
  | _ => 32

/-- The probe's raw window (R242): the window index is 2e + h. -/
def probeRaw (s : State) : W32 := rawAt s.rng.seed.toNat s.rng.probeStream s.rng.probeIndex.toNat

def val2500 (s : State) (sub : Nat) : Nat :=
  match sub with
  | 1 => s.rng.seed.toNat
  | 2 => s.rng.probeStream.toNat
  | 3 => s.rng.probeIndex.toNat
  | 4 => (rngFilter (probeRaw s)).toNat
  | 5 => (probeRaw s).toNat
  | _ => 26

def val2600 (s : State) (sub : Nat) : Nat :=
  let r := s.red
  match sub with
  | 1 => 0x04000000
  | 2 => 0x10000000
  | 3 => r.preferred.toNat
  | 4 => r.stall.toNat
  | 5 => 8
  | 6 => r.completed.toNat
  | 7 => r.sent.toNat
  | 8 => r.received.toNat
  | 9 => r.thinned.toNat
  | 10 => r.nonfinite.toNat
  | 11 => r.timeouts.toNat
  | _ => r.mismatches.toNat

def StashState.code : StashState → Nat
  | .closed => 0
  | .opened => 1
  | .downgrading => 2
  | .exhausted => 3

def val2700 (s : State) (sub : Nat) : Nat :=
  let t := s.stash
  match sub with
  | 1 => t.base.toNat
  | 2 => t.bytes.toNat
  | 3 => t.mark.toNat
  | 4 => t.fill.toNat
  | 5 => t.peak.toNat
  | 6 => t.state.code
  | 7 => t.unitsDropped.toNat
  | 8 => t.stepsDowngraded.toNat
  | 9 => t.stepsExhausted.toNat
  | 10 => t.skipped.toNat
  | _ => t.tag.toNat

def SchedState.code : SchedState → Nat
  | .stopped => 0
  | .running => 1
  | .paused => 2

def val2800a (s : State) (sub : Nat) : Nat :=
  let x := s.sched
  match sub with
  | 1 => x.state.code
  | 3 => x.budget.toNat
  | 4 => x.prefillFloor.toNat
  | 5 => x.mainPlan.toNat
  | 6 => x.draftPlan.toNat
  | 7 => x.admBase.toNat
  | 8 => x.admEntries.toNat
  | 9 => x.recBase.toNat
  | 10 => x.recBytes.toNat
  | 11 => x.poolBase.toNat
  | 12 => x.groups.toNat
  | 13 => x.pageBytes.toNat
  | 14 => x.reserve.toNat
  | 15 => x.ptBase.toNat
  | _ => 0

def val2800b (s : State) (sub : Nat) : Nat :=
  let x := s.sched
  match sub with
  | 16 => x.slotsInService.toNat
  | 17 => x.pagesPerSeq.toNat
  | 18 => x.mainStream.toNat
  | 19 => x.draftStream.toNat
  | 20 => x.threshold.toNat
  | 21 => x.offPeriod.toNat
  | 22 => (x.startVersion.map fun v => v.val).getD 0xFF
  | 23 => b2n x.follows
  | 24 => x.steps.toNat
  | 25 => x.shownFree.toNat
  | 26 => x.shownGroups.toNat
  | 27 => x.refused.toNat
  | 28 => x.draftOffs.toNat
  | 29 => x.stalls.toNat
  | _ => x.lastGen.toNat

def val2802 (s : State) (sub : Nat) : Nat :=
  match sub with
  | 1 => 128
  | 2 => s.gate.hits.toNat
  | 3 => s.gate.misses.toNat
  | 5 => s.gate.rows.toNat
  | 6 => s.gate.noToken.toNat
  | 7 => b2n (!s.persist.variant.has 1)
  | _ => 0

/-- A version or adapter slot's object (R294). -/
def slotVal (s : State) (x : SlotId) : Nat :=
  let w := getSlot s x
  if w.state = .free then slotRefs s x
  else w.gen.toNat * 2 ^ 32 + (match x with
    | .version _ => 0
    | .adapter _ => w.key * 2 ^ 18) + w.state.code * 2 ^ 16 + slotRefs s x

def versionVal (s : State) (n : Nat) : Nat := if h : n < 4 then slotVal s (.version ⟨n, h⟩) else 0
def adapterVal (s : State) (n : Nat) : Nat := if h : n < 256 then slotVal s (.adapter ⟨n, h⟩) else 0

def val2900 (s : State) (sub : Nat) : Nat :=
  match sub with
  | 1 => countN 32 (inServiceN s stackN)
  | 2 => s.care.updated.toNat
  | 3 => s.care.skipped.toNat
  | 4 => s.care.lastSkipped.toNat
  | 5 => s.care.elements.toNat
  | 6 => s.care.lastGs.toNat
  | _ => s.care.csChanges.toNat

def val2A00 (s : State) (sub : Nat) : Nat :=
  match sub with
  | 1 => s.prot.length
  | 2 => 64
  | 3 => s.shard.loaded.toNat
  | 4 => s.shard.gatheredIn.toNat
  | 5 => s.shard.gatheredOut.toNat
  | 6 => s.shard.rebuilt.toNat
  | 7 => s.shard.overflows.toNat
  | 8 => s.shard.refused.toNat
  | _ => s.shard.mismatches.toNat

/-- 2B00 (R504, R524; LOG 67). -/
def val2B00 (s : State) (sub : Nat) : Nat :=
  let t := s.stk
  match sub with
  | 1 => t.k
  | 2 => t.j
  | 3 => t.scrubPeriod.toNat
  | 4 => t.passes.toNat
  | 5 => t.corrected.toNat
  | 6 => t.uncorrectable.toNat
  | 7 => t.lastAddr.toNat
  | 8 => t.lastSource.toNat
  | 9 => requestsHeld s
  | 10 => t.peakReads
  | 11 => t.streams.length
  | 12 => t.hits.toNat
  | _ => t.misses.toNat

def QState.code : QState → Nat
  | .disabled => 0
  | .active => 1
  | .draining => 2
  | .halted => 3
  | .enablePending => 4

def val2C00 (s : State) (sub : Nat) : Nat :=
  match sub with
  | 1 => 64
  | 2 => s.q.inflight.length
  | 3 => 1024
  | 4 => s.q.ignored.toNat
  | 5 => s.q.fenceTimeout.toNat
  | 6 => s.q.written.toNat
  | _ => s.q.lastHalt.toNat

def valPair (p : QueuePair) (sub : Nat) : Nat :=
  match sub with
  | 1 => p.sqBase.toNat
  | 2 => p.cqBase.toNat
  | 3 => p.entries.toNat
  | 4 => b2n p.enable
  | 5 => p.state.code
  | 6 => p.weight.toNat
  | 7 => b2n p.stopOnFailure
  | 8 => p.head.toNat
  | 9 => p.retired.toNat
  | 10 => p.produced.toNat
  | 11 => p.halt.toNat
  | _ => p.cqHead.toNat

def val2D00 (s : State) (sub : Nat) : Nat :=
  let l := s.lk.cl
  match sub with
  | 1 => l.phase.code
  | 2 => (runningProtocol s).toNat
  | 3 => l.proto.toNat
  | 4 => l.cbytes.toNat
  | 5 => l.resent.toNat
  | 6 => l.crcErrors.toNat
  | 7 => l.trainings.toNat
  | _ => s.lk.incarnation.toNat

def val2D01 (s : State) (sub : Nat) : Nat :=
  match sub with
  | 1 => s.lk.board.toNat
  | 2 => s.lk.chainPrev.toNat
  | 3 => s.lk.chainNext.toNat
  | 4 => s.lk.rxBase.toNat
  | 5 => s.lk.rxBytes.toNat
  | 6 => s.lk.a2aBase.toNat
  | 7 => s.lk.a2aBytes.toNat
  | _ => s.lk.discarded.toNat

def Power.code : Power → Nat
  | .on => 0
  | .idle => 1
  | .park => 2

/-- Readings of the supply are free numbers; the input power is the product of the two, to one watt (LOG 18). -/
def val3000 (s : State) (sub : Nat) : Nat :=
  match sub with
  | 1 => s.power.requested.code
  | 2 => s.power.current.code
  | 3 => (Config.freeW32 s.freeCtr).toNat
  | 4 => (Config.freeW32 (s.freeCtr + 1)).toNat
  | _ => ((Config.freeW32 s.freeCtr).toNat * (Config.freeW32 (s.freeCtr + 1)).toNat + Config.freePick s.freeCtr % 1000000) / 1000000

/-- Two's complement in 32 bits (R609). -/
def i32 (x : Int) : Nat := (BitVec.ofInt 32 x).toNat

/-- The hottest junction is a reading, a free number; so are the cycles withheld once the duty has fallen since the reset (R702, R703,
R705; LOG 18). -/
def val3001 (s : State) (sub : Nat) : Nat :=
  match sub with
  | 2 => i32 s.power.onset
  | 3 => s.power.duty
  | 4 => if s.power.episodes = 0 then 0 else (Config.freeW64 s.freeCtr).toNat
  | 5 => s.power.episodes.toNat
  | 6 => s.persist.thermalTrips.toNat
  | _ => (Config.freeW64 s.freeCtr).toNat

/-- 3010:02: the deviation as last measured, or one measured since. REFCLK is within 1 %, and the measurement within 2,000 ppm of it; when
the module measures is not stated (R677; LOG 18). -/
def refclkShown (s : State) : Int :=
  if Config.freePick s.freeCtr % 2 = 0 then s.rst.refclkDev
  else (((Config.freeW32 s.freeCtr).toNat % 24001 : Nat) : Int) - 12000

def val3010 (s : State) (sub : Nat) : Nat :=
  match sub with
  | 1 => 1
  | 2 => i32 (refclkShown s)
  | _ => s.rst.pllLosses.toNat

def val3100 (s : State) (sub : Nat) : Nat :=
  match sub with
  | 3 => s.rst.idleTimeout.toNat
  | 4 => 10
  | _ => 0

def KeySlot.isProgrammed : KeySlot → Bool
  | .blank => false
  | _ => true
def KeySlot.isRevoked : KeySlot → Bool
  | .revoked _ => true
  | _ => false

def keyN (s : State) (n : Nat) : KeySlot := s.persist.keys.toList.getD n .blank

/-- 5001:01 to 03 (R644, R672): a revoked slot was programmed. -/
def activeKeyCode (s : State) : Nat := ((activeKey s).map Prod.fst).getD 0xFF
def keysProgrammed (s : State) : Nat := bitMap 4 fun n => (keyN s n).isProgrammed
def keysRevoked (s : State) : Nat := bitMap 4 fun n => (keyN s n).isRevoked

def val5001 (s : State) (sub : Nat) : Nat :=
  match sub with
  | 1 => activeKeyCode s
  | 2 => keysProgrammed s
  | 3 => keysRevoked s
  | 4 => s.sec.refusals.toNat
  | _ => s.sec.refusalReason.toNat

/-- Length and bytes of a path's blob (R661). -/
def blobLength (s : State) (x : PathSel) : Nat :=
  match x.blob with
  | 0 => 2592
  | 1 => Config.deviceCertificateLength
  | _ => if s.sec.report.isSome then 5011 else 0

/-- The first `n` bytes of a path's blob from an offset on, 0 past its end. -/
def blobBytes (s : State) (x : PathSel) (offset n : Nat) : List Byte :=
  let places := ((List.range n).map fun i => offset + i).filter fun i => i < blobLength s x
  let l := match x.blob with
    | 0 => if places.isEmpty then [] else (deviceKey.publicKey.drop offset).take n
    | 1 => places.map Config.deviceCertificate
    | _ => ((s.sec.report.getD []).drop offset).take n
  l ++ List.replicate (n - l.length) 0

def val5100 (s : State) (x : PathSel) (sub : Nat) : Nat :=
  match sub with
  | 1 => x.blob
  | 2 => blobLength s x
  | 3 => x.blobOffset
  | _ => leNat (blobBytes s x x.blobOffset 512)

def val5200 (s : State) (sub : Nat) : Nat :=
  match sub with
  | 1 => s.sec.nonce.toNat
  | 3 => s.sec.reportState.toNat
  | _ => 0

def val5700 (s : State) (sub : Nat) : Nat :=
  match sub with
  | 1 => b2n s.persist.debugPermitted
  | 2 => b2n s.persist.serialBinding
  | 3 => b2n s.persist.fallbackAllowed
  | _ => (s.persist.schema.getD 0).toNat

def FlashSlot.code : FlashSlot → Nat
  | .a => 0
  | .b => 1

def val5800 (s : State) (sub : Nat) : Nat :=
  let x := s.sec
  match sub with
  | 2 => x.stagingState.toNat
  | 3 => x.stagingOutcome.toNat
  | 4 => x.stagedVersion.toNat
  | 5 => x.stagedSv.toNat
  | 6 => x.activate.toNat
  | 7 => s.persist.fuseSv.toNat
  | 8 => x.commit.toNat
  | 9 => x.runningSlot.code
  | 10 => x.limited.toNat
  | 11 => s.persist.settingsResets.toNat
  | 12 => x.fallbackStarts.toNat
  | 13 => b2n x.activationPending.isSome
  | 14 => s.persist.omcenRevoked.toNat
  | _ => 0

def val6000 (s : State) (sub : Nat) : Nat :=
  match sub with
  | 1 => s.sec.unlock.toNat
  | 2 => b2n s.sec.debugMode
  | _ => 0

/-- The plaza that 6100 reaches (R122). -/
def debugPlaza (x : PathSel) : Nat := x.inst

def val6100 (s : State) (x : PathSel) (sub : Nat) : Nat :=
  match sub with
  | 1 => s.terr.dbgRow.toNat
  | 2 => s.terr.dbgCol.toNat
  | 3 => (terrGet s (debugPlaza x) s.terr.dbgRow.toNat s.terr.dbgCol.toNat).toNat
  | _ => (s.terr.tiles.filter fun t => t.plaza.val == debugPlaza x).length

def val6200 (s : State) (sub : Nat) : Nat :=
  match sub with
  | 1 => s.stk.injAddr.toNat
  | 2 => s.stk.injSymbols.toNat
  | _ => 0

/-- The value of an object of the identity, unit and work indices. -/
def valLow (s : State) (p : Path) (idx sub : Nat) : Nat :=
  let x := selOf s p
  if idx = 0x1000 then val1000 s sub
  else if idx = 0x1001 then val1001 s sub
  else if idx = 0x1010 then val1010 s sub
  else if idx = 0x1020 then s.rst.cause.toNat
  else if idx = 0x1030 then s.sec.epoch.toNat
  else if idx = 0x1031 then s.sec.counter.toNat
  else if idx = 0x1032 then val1032 s p sub
  else if idx = 0x1040 then val1040 s sub
  else if idx = 0x2000 then (if sub = 1 then x.cls else x.inst)
  else if idx = 0x2100 then val2100 s x sub
  else if idx = 0x2101 then val2101 s x sub
  else if idx = 0x2110 then val2110 s x sub
  else if idx = 0x2200 then val2200 s sub
  else if idx = 0x2300 then val2300 s sub
  else if idx = 0x2400 then val2400 s sub
  else if idx = 0x2500 then val2500 s sub
  else if idx = 0x2600 then val2600 s sub
  else val2700 s sub

/-- The value of an object of the scheduler, caretaker, roundabout, stack, queue and link indices. -/
def valMid (s : State) (idx sub : Nat) : Nat :=
  if idx = 0x2800 then (if sub < 16 then val2800a s sub else val2800b s sub)
  else if idx = 0x2801 then (s.sched.pinning.getD (sub - 1) 0).toNat
  else if idx = 0x2802 then val2802 s sub
  else if idx = 0x2803 then versionVal s (sub - 1)
  else if idx = 0x2806 then adapterVal s (sub - 1)
  else if idx = 0x2807 then adapterVal s (sub + 127)
  else if idx = 0x2900 then val2900 s sub
  else if idx = 0x2A00 then val2A00 s sub
  else if idx = 0x2A01 then ((s.prot[sub - 1]?).map ProtRange.base).getD 0
  else if idx = 0x2A02 then ((s.prot[sub - 1]?).map ProtRange.len).getD 0
  else if idx = 0x2B00 then val2B00 s sub
  else if idx = 0x2B01 then (s.stk.corrOf.toList.getD (sub - 1) 0).toNat
  else if idx = 0x2B02 then (s.stk.uncOf.toList.getD (sub - 1) 0).toNat
  else if idx = 0x2B03 then s.stk.scrubPos.toList.getD (sub - 1) 0 / 4096
  else if idx = 0x2C00 then val2C00 s sub
  else if idx = 0x2D00 then val2D00 s sub
  else if idx = 0x2D01 then val2D01 s sub
  else (s.lk.routes.getD (sub - 1) 0xFF).toNat

/-- The value of an object of the power, statistics, security and debug indices. -/
def valHigh (s : State) (p : Path) (idx sub : Nat) : Nat :=
  let x := selOf s p
  if idx = 0x3000 then val3000 s sub
  else if idx = 0x3001 then val3001 s sub
  else if idx = 0x3010 then val3010 s sub
  else if idx = 0x3100 then val3100 s sub
  else if idx = 0x4000 then val4000 s sub
  else if idx = 0x5001 then val5001 s sub
  else if idx = 0x5100 then val5100 s x sub
  else if idx = 0x5200 then val5200 s sub
  else if idx = 0x5700 then val5700 s sub
  else if idx = 0x5800 then val5800 s sub
  else if idx = 0x6000 then val6000 s sub
  else if idx = 0x6100 then val6100 s x sub
  else val6200 s sub

/-- What an object of the directory reads as on a path. -/
def objVal (s : State) (p : Path) (idx sub : Nat) : Nat :=
  if sub = 0 then ((objsOf idx).getD []).length
  else match pairIndex idx with
    | some q => valPair s.q.qps[q] sub
    | none =>
      if idx < 0x2800 then valLow s p idx sub
      else if idx < 0x3000 then valMid s idx sub
      else valHigh s p idx sub

end Sys2Proof.Machine
end

