-- ==== Sys2Proof/Machine/Serve.lean ====
section
/-! DEFINITION. Requests to the object dictionary: their form, the order of checks, the session, responses on both paths
(R613 to R627, R638, R642, R649). -/

namespace Sys2Proof.Machine

/-! ### Abort codes (R642) -/

def abNone : Nat := 0
def abNoObject : Nat := 0x01000001
def abNoSub : Nat := 0x01000002
def abReadOnly : Nat := 0x02000001
def abWriteOnly : Nat := 0x02000002
def abAuthRequired : Nat := 0x02000003
def abLength : Nat := 0x03000001
def abRange : Nat := 0x03000002
def abBusy : Nat := 0x04000001
def abNotUnlocked : Nat := 0x04000002
def abNotHolder : Nat := 0x05000001
def abNotAvailable : Nat := 0x05000002
def abAuthFailed : Nat := 0x06000001
def abMalformed : Nat := 0x07000001
def abUnknown : Nat := 0x07000002
def abInternal : Nat := 0x08000001

/-! ### Requests (R613) -/

/-- Byte i of a request. -/
def rq (r : List Byte) (i : Nat) : Nat := (r.getD i 0).toNat
def reqOpc (r : List Byte) : Nat := rq r 0
def reqIndex (r : List Byte) : Nat := rq r 4 + 256 * rq r 5
def reqSub (r : List Byte) : Nat := rq r 6
def reqLen (r : List Byte) : Nat := rq r 8 + 256 * rq r 9
def reqData (r : List Byte) : List Byte := (r.drop 12).take (reqLen r)
def reqCounter (r : List Byte) : W64 := BitVec.ofNat 64 (leNat ((r.drop (12 + reqLen r)).take 8))
def reqTag (r : List Byte) : List Byte := (r.drop (20 + reqLen r)).take 16
def reqCommand (r : List Byte) : List Byte := r.take (12 + reqLen r)
/-- The value written, as a number. -/
def reqValue (r : List Byte) : Nat := leNat (reqData r)

/-- The length a request's own fields give it. -/
def reqSize (r : List Byte) : Nat := 12 + reqLen r + if reqOpc r = 3 then 24 else 0

/-- A WRITE or WRITE_AUTH. -/
def isWriteReq (r : List Byte) : Bool := reqOpc r == 2 || reqOpc r == 3

/-- Check 1 of R617: a length other than R613's, a reserved field, or a field that must be 0 for its OPC. -/
def malformed (r : List Byte) : Bool :=
  r.length != reqSize r || rq r 1 != 0 || rq r 7 != 0 || rq r 10 != 0 || rq r 11 != 0
  || (!isWriteReq r && reqLen r != 0)
  || (!(isWriteReq r || reqOpc r == 1) && (reqIndex r != 0 || reqSub r != 0))

/-- A write to an object. -/
def writesTo (idx sub : Nat) (r : List Byte) : Bool := isWriteReq r && reqIndex r == idx && reqSub r == sub
/-- A write of a one-byte value to an object. -/
def writesByte (idx sub v : Nat) (r : List Byte) : Bool := writesTo idx sub r && reqLen r == 1 && rq r 12 == v

/-! ### Serving -/

/-- What a request answers: its abort code, the value read, and the state it leaves. -/
structure Answer where
  abort : Nat
  data : List Byte
  s : State

/-- An object's own check and effect: an abort, or the state after. -/
abbrev Own := Path → List Byte → State → Except Nat State

/-- Checks 3 to 6 of R617. -/
def objectChecks (p : Path) (r : List Byte) (s : State) : Except Nat Obj :=
  let idx := reqIndex r
  let x := selOf s p
  match objsOf idx with
  | none => .error abNoObject
  | some l =>
    if s.sec.limited ≠ 0 ∧ !servedLimited x idx then .error abNoObject
    else if 0x6001 ≤ idx ∧ idx ≤ 0x6FFF ∧ !s.sec.debugMode then .error abNotUnlocked
    else if !applies s x idx (reqSub r) then .error abNoObject
    else match objAt l (reqSub r) with
      | none => .error abNoSub
      | some o => .ok o

/-- Check 8 of R617: the object's access right against the request. -/
def accessCheck (o : Obj) (opc : Nat) : Nat :=
  if opc = 1 then (if o.access = .wo then abWriteOnly else abNone)
  else if o.access = .const ∨ o.access = .ro then abReadOnly
  else if o.access = .rwa ∧ opc = 2 then abAuthRequired
  else abNone

/-- Access to the accumulators while a TILE runs on their plaza (R123). -/
def debugBusy (p : Path) (r : List Byte) (s : State) : Bool :=
  reqIndex r == 0x6100 && s.q.inflight.any fun e => e.cls == clsTile && e.units.any fun u => some u == selUnit (selOf s p)

/-- A write through the debug path that a protected range refuses is counted (R455, R456, R526). -/
def countDebugRefusal (r : List Byte) (a : Nat) (s : State) : State :=
  let at' := if writesTo 0x6200 1 r then reqValue r else s.stk.injAddr.toNat
  if a = abRange ∧ (writesTo 0x6200 1 r ∨ writesByte 0x6200 3 1 r) ∧ protHit s.prot at' = true then
    { s with shard := { s.shard with refused := satInc s.shard.refused } }
  else s

/-- Checks 10 and 11 of R617, and the write. -/
def writeChecked (own : Own) (o : Obj) (p : Path) (r : List Byte) (s : State) : Answer :=
  if reqLen r ≠ o.size then ⟨abLength, [], s⟩
  else if o.isBool && 1 < reqValue r then ⟨abRange, [], s⟩
  else if debugBusy p r s then ⟨abBusy, [], s⟩
  else match own p r s with
    | .ok t => ⟨abNone, [], t⟩
    | .error a => ⟨a, [], countDebugRefusal r a s⟩

/-- Check 9 of R617 for a WRITE_AUTH, then the rest; an accepted counter stays taken (R649). -/
def writeAuthed (own : Own) (o : Obj) (p : Path) (r : List Byte) (s : State) : Answer :=
  if reqOpc r = 3 then
    let c := checkCritical (reqCounter r) (reqTag r) (reqCommand r) "GLOFATHAL OD" s
    if c.1 then writeChecked own o p r c.2 else ⟨abAuthFailed, [], c.2⟩
  else writeChecked own o p r s

/-- A READ as it leaves the module: what 3010:02 showed is what was last measured (R677). -/
def afterRead (r : List Byte) (s : State) : State :=
  { s with freeCtr := s.freeCtr + 1,
           rst := if reqIndex r = 0x3010 ∧ reqSub r = 2 then { s.rst with refclkDev := refclkShown s } else s.rst }

/-- A READ, WRITE or WRITE_AUTH through the checks of R617. -/
def serveObject (own : Own) (p : Path) (r : List Byte) (s : State) : Answer :=
  match objectChecks p r s with
  | .error a => ⟨a, [], s⟩
  | .ok o =>
    if isWriteReq r && p != s.od.holder && reqIndex r != 0x2000 then ⟨abNotHolder, [], s⟩
    else if accessCheck o (reqOpc r) ≠ abNone then ⟨accessCheck o (reqOpc r), [], s⟩
    else if isWriteReq r then writeAuthed own o p r s
    else if debugBusy p r s then ⟨abBusy, [], s⟩
    else ⟨abNone, leBytes o.size (objVal s p (reqIndex r) (reqSub r)), afterRead r s⟩

/-- OPEN and RELEASE (R626). -/
def serveOpen (p : Path) (s : State) : Answer :=
  if p = s.od.holder then ⟨abNone, [], s⟩
  else if s.od.session = .held then ⟨abNotAvailable, [], s⟩
  else ⟨abNone, [], raiseAlert 128 { s with od := { s.od with holder := p, session := .held, takeovers := satInc s.od.takeovers } }⟩

def serveRelease (p : Path) (s : State) : Answer :=
  if p = s.od.holder then ⟨abNone, [], { s with od := { s.od with session := .released } }⟩ else ⟨abNotHolder, [], s⟩

/-- A request by its OPC, after check 1 (R617). -/
def serveOpc (own : Own) (p : Path) (r : List Byte) (s : State) : Answer :=
  if malformed r then ⟨abMalformed, [], s⟩
  else match reqOpc r with
    | 1 | 2 | 3 => serveObject own p r s
    | 4 => ⟨abNone, [], s⟩
    | 5 => serveOpen p s
    | 6 => serveRelease p s
    | _ => ⟨abUnknown, [], s⟩

/-- A request that reaches the Hall controller on the holder's path puts the session in HELD (R625). -/
def holdSession (p : Path) (s : State) : State :=
  if p = s.od.holder then { s with od := { s.od with session := .held } } else s

/-- Counts a request as executed (R639), in HELD when it is the holder's; what is free in it is drawn for it alone. -/
def noteRequest (p : Path) (s : State) : State :=
  holdSession p { s with freeCtr := s.freeCtr + 1, od := match p with
    | .carard => { s.od with reqCarard := satInc s.od.reqCarard }
    | .field => { s.od with reqField := satInc s.od.reqField } }

/-- The response of an answered request (R614). -/
def responseBytes (r : List Byte) (a : Answer) : List Byte :=
  [BitVec.ofNat 8 (reqOpc r) ||| 0x80, 0] ++ ((List.range 6).map fun i => r.getD (i + 2) 0)
    ++ leBytes 2 a.data.length ++ [0, 0] ++ leBytes 4 a.abort ++ a.data

/-- Counts an abort (R639). -/
def noteAbort (a : Answer) : State :=
  if a.abort = 0 then a.s
  else { a.s with od := { a.s.od with aborts := satInc a.s.od.aborts, lastAbort := BitVec.ofNat 32 a.abort } }

/-- Executes a request and makes its response. -/
def executeReq (own : Own) (p : Path) (r : List Byte) (s : State) : List Byte × State :=
  let a := serveOpc own p r (noteRequest p s)
  (responseBytes r a, noteAbort a)

/-! ### Paths (R618, R622, R623) -/

/-- Sends an OD_RESP, with the TAG of its OD_REQ (R583, R618). -/
def sendOdResponse (tag : BitVec 12) (resp : List Byte) (s : State) : State :=
  clRequest 2 0xA2 0 tag.toNat resp { s with outbox := s.outbox ++ [.odResponse resp] }

/-- Sends a response frame on the field segment (R621). -/
def sendFieldResponse (dst : BitVec 48) (resp : List Byte) (s : State) : State :=
  { s with outbox := s.outbox ++ [.fieldResponse dst (fieldFrame 2 resp)] }

/-- Sends a response; the field path keeps it (R623). -/
def sendAnswer (a : OwedAnswer) (s : State) : State :=
  match a with
  | .carard tag resp => sendOdResponse tag resp s
  | .field src req resp => sendFieldResponse src resp { s with od := { s.od with kept := some (src, req, resp) } }

/-- Sends a response; that to a flush of the mask cache waits until the flush has taken effect (R323, R616). -/
def respond (a : OwedAnswer) (s : State) : State :=
  match s.gate.flushPending with
  | [] => sendAnswer a s
  | w :: t => { s with gate := { s.gate with flushPending := { w with answers := w.answers ++ [a] } :: t } }

/-- A request of the Carard path: its OD_REQ's room is freed, it is executed and answered. -/
def serveCarard (own : Own) (tag : BitVec 12) (r : List Byte) (s : State) : State :=
  let x := executeReq own .carard r (arrived .cl 2 (unitsOf (16 + r.length)) s)
  respond (.carard tag x.1) x.2

/-- The kept response of an identical request (R623). -/
def keptResponse (s : State) (src : BitVec 48) (r : List Byte) : Option (List Byte) :=
  match s.od.kept with
  | some (a, q, resp) => if a = src ∧ q = r then some resp else none
  | none => none

/-- Answers with the kept response; that counts as a request of the field path (R623, R625). -/
def repeatResponse (src : BitVec 48) (resp : List Byte) (s : State) : State :=
  let s1 := holdSession .field { s with od := { s.od with repeated := satInc s.od.repeated, lastFieldSource := some src } }
  sendFieldResponse src resp s1

/-- The first waiting request of the field path is executed, answered and kept. -/
def serveField (own : Own) (src : BitVec 48) (r : List Byte) (s : State) : State :=
  match keptResponse s src r with
  | some resp => repeatResponse src resp s
  | none =>
    let x := executeReq own .field r { s with od := { s.od with lastFieldSource := some src } }
    respond (.field src r x.1) x.2

/-- A request command: the row must be the request's own; on the field path it is the request that has waited longest. While a flush waits
to take effect its request is not finished, and none is taken (R615; LOG 77). -/
def request (isRow : Bool) (own : Own) (p : Asker) (r : List Byte) (s : State) : Host.Outcome State Fault Refusal :=
  if !isRow then .refused .illFormed
  else if !running s then .fault .notRunning
  else if !s.gate.flushPending.isEmpty then .next s
  else match p with
    | .carard tag => .next (serveCarard own tag r s)
    | .field => match s.od.fieldQueue with
      | (src, q) :: rest =>
        if q = r then .next (serveField own src r { s with od := { s.od with fieldQueue := rest } }) else .next s
      | [] => .next s

/-- The rule of objects that only a READ reaches: no write comes this far. -/
def ownNone : Own := fun _ _ s => .ok s

/-! ### Frames of the field segment (R619 to R623) -/

/-- The module's MAC address: 02-00-00-00-00-NN, NN its PLCA node ID (R619, R620). -/
def ownMac (s : State) : BitVec 48 := BitVec.ofNat 48 (0x020000000000 + s.rst.position.toNat + 1)

/-- A request frame: sub-header of R621. -/
def subHeaderOk (bs : List Byte) : Bool :=
  4 ≤ bs.length && bs.getD 0 0 == 1 && bs.getD 1 0 == 1 && bs.getD 2 0 == 0 && bs.getD 3 0 == 0

def discardFrame (s : State) : State := { s with od := { s.od with framesDiscarded := satInc s.od.framesDiscarded } }

/-- Takes a request frame: repeated, queued, or discarded. -/
def takeFrame (f : FieldFrame) (s : State) : State :=
  if !subHeaderOk f.bytes then discardFrame s
  else
    let r := (f.bytes.drop 4).take (reqSize (f.bytes.drop 4))
    match keptResponse s f.src r with
    | some resp => repeatResponse f.src resp s
    | none =>
      if 8 ≤ s.od.fieldQueue.length then discardFrame s
      else { s with od := { s.od with fieldQueue := s.od.fieldQueue ++ [(f.src, r)] } }

/-- FIELD_FRAME (R621): a frame for another address or EtherType is ignored (R620). -/
def execFieldFrame (f : FieldFrame) (s : State) : Host.Outcome State Fault Refusal :=
  if !running s then .fault .notRunning
  else if f.dst = ownMac s ∧ f.etherType = 0x88B5 then .next (takeFrame f s)
  else .next s

/-! ### The session and alerts (R625, R626, R638) -/

/-- KEEPALIVE (R625). -/
def execKeepalive (p : Asker) (req : List Byte) (s : State) : Host.Outcome State Fault Refusal :=
  request (reqOpc req == 4) ownNone p req s
/-- OPEN (R626). -/
def execOpenSession (p : Asker) (req : List Byte) (s : State) : Host.Outcome State Fault Refusal :=
  request (reqOpc req == 5) ownNone p req s
/-- RELEASE (R626). -/
def execRelease (p : Asker) (req : List Byte) (s : State) : Host.Outcome State Fault Refusal :=
  request (reqOpc req == 6) ownNone p req s

/-- SESSION_LAPSE (R625). -/
def execSessionLapse (s : State) : Host.Outcome State Fault Refusal :=
  if !running s then .fault .notRunning
  else if s.od.session = .held then .next (raiseAlert 128 { s with od := { s.od with session := .lapsed } })
  else .next s

/-- The hold-off of a path ends; an alert owed to it goes to the holder's path (R638). -/
def endHoldOff (p : Path) (s : State) : State :=
  let owed := match p with
    | .carard => s.od.owedCarard
    | .field => s.od.owedField
  let s1 := match p with
    | .carard => { s with od := { s.od with holdCarard := false, owedCarard := false } }
    | .field => { s with od := { s.od with holdField := false, owedField := false } }
  if owed && p == s.od.holder then sendAlert s1 else s1

/-- ALERT (R638): the 1 ms hold-off of a path ends. -/
def execAlert (p : Path) (s : State) : Host.Outcome State Fault Refusal :=
  if !running s then .fault .notRunning
  else if (match p with
    | .carard => s.od.holdCarard
    | .field => s.od.holdField) then .next (endHoldOff p s)
  else .next s

end Sys2Proof.Machine
end

