-- ==== Sys2Proof/Machine/DictWrite.lean ====
section
/-! DEFINITION. Writes to dictionary objects: the ranges and rules of each (R46, R83, R123, R240, R295, R366, R446, R525, R526, R533,
R534, R608, R630, R633, R661, R687, R705), and the READ and WRITE commands. -/

namespace Sys2Proof.Machine

/-- An own rule's outcomes. -/
def okIf (c : Bool) (t : State) : Except Nat State := if c then .ok t else .error abRange
/-- "unit busy" first, then the range. -/
def freeAnd (busy c : Bool) (t : State) : Except Nat State := if busy then .error abBusy else okIf c t

def w8 (v : Nat) : Byte := BitVec.ofNat 8 v
def w16 (v : Nat) : W16 := BitVec.ofNat 16 v
def w32 (v : Nat) : W32 := BitVec.ofNat 32 v
def w64 (v : Nat) : W64 := BitVec.ofNat 64 v

def isPow2 (v : Nat) : Bool := v != 0 && 2 ^ Nat.log2 v == v

/-- A companion address (R488), and one of the stack region. -/
def isCompanion (v : Nat) : Bool := companionBase ≤ v && v < 2 ^ 48
def isStackAddr (v : Nat) : Bool := v < stackEnd

/-! ### Turn, formats, random numbers, reduction, stash -/

def set2400 (sub v : Nat) (s : State) : Except Nat State :=
  let f := s.fmt
  let b := v == 1
  okIf (v < 2) { s with fmt := match sub with
    | 1 => { f with propF8a := b }
    | 2 => { f with propF8g := b }
    | 3 => { f with propF4 := b }
    | 4 => { f with propB16 := b }
    | 5 => { f with propF32 := b }
    | _ => { f with stochastic := b } }

def set2500 (sub v : Nat) (s : State) : Except Nat State :=
  match sub with
  | 1 => okIf (v != 0 && v < 2 ^ 127) { s with rng := { s.rng with seed := BitVec.ofNat 127 v } }
  | 2 => .ok { s with rng := { s.rng with probeStream := w32 v } }
  | _ => .ok { s with rng := { s.rng with probeIndex := w64 v } }

def set2600 (sub v : Nat) (s : State) : Except Nat State :=
  if sub = 3 then okIf (0x00400000 ≤ v && v ≤ 0x10000000) { s with red := { s.red with preferred := w32 v } }
  else okIf (1 ≤ v && v ≤ 600000) { s with red := { s.red with stall := w32 v } }

def set2700 (sub v : Nat) (s : State) : Except Nat State :=
  let busy := s.stash.state != .closed
  match sub with
  | 1 => freeAnd busy (v % 4096 == 0 && v < stackEnd && v + s.stash.bytes.toNat ≤ stackEnd)
    { s with stash := { s.stash with base := w64 v } }
  | 2 => freeAnd busy (v % 4096 == 0 && s.stash.base.toNat + v ≤ stackEnd) { s with stash := { s.stash with bytes := w64 v } }
  | _ => okIf (1 ≤ v && v ≤ 100) { s with stash := { s.stash with mark := w8 v } }

/-! ### The scheduler (R295) -/

def set2800a (sub v : Nat) (s : State) : Except Nat State :=
  let x := s.sched
  let busy := !x.slots.isEmpty
  match sub with
  | 3 => okIf (1 ≤ v && v ≤ 2 ^ 20) { s with sched := { x with budget := w32 v } }
  | 4 => okIf (v ≤ x.budget.toNat) { s with sched := { x with prefillFloor := w32 v } }
  | 5 => freeAnd busy true { s with sched := { x with mainPlan := w64 v, checked := false } }
  | 6 => freeAnd busy true { s with sched := { x with draftPlan := w64 v, checked := false } }
  | 7 => freeAnd busy (isCompanion v && v % 256 == 0) { s with sched := { x with admBase := w64 v } }
  | 8 => freeAnd busy (isPow2 v && 64 ≤ v && v ≤ 65536) { s with sched := { x with admEntries := w32 v } }
  | 9 => freeAnd busy (isCompanion v && v % 256 == 0) { s with sched := { x with recBase := w64 v, recProduced := 0 } }
  | 10 => freeAnd busy (v % 4096 == 0 && 2 ^ 22 ≤ v) { s with sched := { x with recBytes := w64 v, recProduced := 0 } }
  | 11 => freeAnd busy (isStackAddr v && v % 256 == 0) { s with sched := { x with poolBase := w64 v } }
  | 12 => freeAnd busy true { s with sched := { x with groups := w32 v, shownGroups := w32 v } }
  | 13 => freeAnd busy true { s with sched := { x with pageBytes := w32 v } }
  | 14 => freeAnd busy true { s with sched := { x with reserve := w32 v } }
  | 15 => freeAnd busy true { s with sched := { x with ptBase := w64 v } }
  | _ => .ok s

def set2800b (sub v : Nat) (s : State) : Except Nat State :=
  let x := s.sched
  let busy := !x.slots.isEmpty
  match sub with
  | 16 => freeAnd busy (1 ≤ v && v ≤ 16384) { s with sched := { x with slotsInService := w32 v, shownFree := w32 v } }
  | 17 => freeAnd busy (1 ≤ v && v ≤ 4096) { s with sched := { x with pagesPerSeq := w32 v } }
  | 18 => .ok { s with sched := { x with mainStream := w32 v } }
  | 19 => .ok { s with sched := { x with draftStream := w32 v } }
  | 20 => .ok { s with sched := { x with threshold := w16 v } }
  | 21 => okIf (1 ≤ v) { s with sched := { x with offPeriod := w16 v } }
  | _ => .ok s

/-! ### Queues and links (R533, R608) -/

def setPair (q : Fin 64) (p : QueuePair) (s : State) : State := { s with q := { s.q with qps := s.q.qps.set q p } }

def setPairObj (q : Fin 64) (sub v : Nat) (s : State) : Except Nat State :=
  let p := s.q.qps[q]
  let busy := p.state != .disabled
  match sub with
  | 1 => freeAnd busy (isCompanion v && v % 4096 == 0) (setPair q { p with sqBase := w64 v } s)
  | 2 => freeAnd busy (isCompanion v && v % 4096 == 0) (setPair q { p with cqBase := w64 v } s)
  | 3 => freeAnd busy (isPow2 v && 16 ≤ v && v ≤ 65536) (setPair q { p with entries := w32 v } s)
  | 6 => okIf (1 ≤ v && v ≤ 16) (setPair q { p with weight := w8 v } s)
  | _ => .ok (setPair q { p with stopOnFailure := v == 1 } s)

/-- An avenue number or 0xFF. -/
def isAvenueNo (v : Nat) : Bool := v < 8 || v == 0xFF

/-- A transfer uses the receive region (R608). -/
def rxBusy (s : State) : Bool := s.lk.fwRx.isSome || s.lk.fwTx.isSome

/-- A PUT uses the all-to-all region: it waits for a stack in reset (R515, R608). -/
def a2aBusy (s : State) : Bool := s.stk.heldRequests.any fun r => match r with
  | .peer _ _ put => put
  | _ => false

def set2D01 (sub v : Nat) (s : State) : Except Nat State :=
  let k := s.lk
  match sub with
  | 1 => .ok { s with lk := { k with board := w8 v } }
  | 2 => okIf (isAvenueNo v) { s with lk := { k with chainPrev := w8 v } }
  | 3 => okIf (isAvenueNo v) { s with lk := { k with chainNext := w8 v } }
  | 4 => freeAnd (rxBusy s) (isStackAddr v && v % 4096 == 0) { s with lk := { k with rxBase := w64 v } }
  | 5 => freeAnd (rxBusy s) true { s with lk := { k with rxBytes := w64 v } }
  | 6 => freeAnd (a2aBusy s) (isStackAddr v && v % 4096 == 0) { s with lk := { k with a2aBase := w64 v } }
  | _ => freeAnd (a2aBusy s) true { s with lk := { k with a2aBytes := w64 v } }

def set2D02 (sub v : Nat) (s : State) : Except Nat State :=
  okIf (isAvenueNo v) { s with lk := { s.lk with routes := s.lk.routes.set (sub - 1) (w8 v) } }

/-! ### The rest -/

/-- The instance of the path's own selector (R630). -/
def setInstance (p : Path) (v : Nat) (s : State) : Except Nat State :=
  let x := selOf s p
  okIf (v ≤ classLast x.cls) (setSel p { x with inst := v } s)

/-- A setting reaches flash before its response; where flash does not take it, the object is unchanged (R642, R670; LOG 40). -/
def set5700 (sub v : Nat) (s : State) : Except Nat State :=
  let b := v == 1
  if !Config.flashOk s.freeCtr then .error abInternal
  else .ok { s with persist := match sub with
    | 1 => { s.persist with debugPermitted := b }
    | 2 => { s.persist with serialBinding := b }
    | _ => { s.persist with fallbackAllowed := b } }

/-- The blob offset of the path (R661). -/
def setBlobOffset (p : Path) (v : Nat) (s : State) : Except Nat State :=
  okIf (v % 512 == 0 && v < 2 ^ 20) (setSel p { selOf s p with blobOffset := v } s)

def set6100 (sub v : Nat) (s : State) : Except Nat State :=
  if sub = 1 then okIf (v ≤ 4095) { s with terr := { s.terr with dbgRow := w16 v } }
  else okIf (v ≤ 127) { s with terr := { s.terr with dbgCol := w8 v } }

/-- 6200:01 and 02 (R526). -/
def isInjectable (s : State) (v : Nat) : Bool :=
  v % 16 == 0 && !protHit s.prot v && match resolve s v with
    | .stack _ _ => true
    | _ => false

def set6200 (sub v : Nat) (s : State) : Except Nat State :=
  match sub with
  | 1 => okIf (isInjectable s v) { s with stk := { s.stk with injAddr := w64 v } }
  | 2 => okIf (v == 1 || v == 2) { s with stk := { s.stk with injSymbols := w8 v } }
  | _ => .ok s

/-- A value that one of the rows with a step of its own does not take: FALSE where only TRUE acts, 0 at 2100:06, and beyond the codes
of a command byte (R608, R633, R665, R671, R686). -/
def setIdle (idx sub v : Nat) (s : State) : Except Nat State :=
  if idx = 0x5200 ∧ s.sec.reportState = 1 then .error abBusy
  else if (idx = 0x2100 ∨ idx = 0x5800 ∨ idx = 0x3000 ∨ (idx = 0x6000 ∧ sub = 1)) ∧ v ≠ 0 then .error abRange
  else .ok s

def setLow (p : Path) (idx sub v : Nat) (s : State) : Except Nat State :=
  if idx = 0x2000 then setInstance p v s
  else if idx = 0x2200 then okIf (1 ≤ v && v ≤ 600000) { s with turn := { s.turn with defaultDrain := w32 v } }
  else if idx = 0x2400 then set2400 sub v s
  else if idx = 0x2500 then set2500 sub v s
  else if idx = 0x2600 then set2600 sub v s
  else if idx = 0x2700 then set2700 sub v s
  else setIdle idx sub v s

def setMid (idx sub v : Nat) (s : State) : Except Nat State :=
  if idx = 0x2800 then (if sub < 16 then set2800a sub v s else set2800b sub v s)
  else if idx = 0x2801 then okIf (v < 2) { s with sched := { s.sched with pinning := s.sched.pinning.set (sub - 1) (w8 v) } }
  else if idx = 0x2B00 then okIf (v ≤ 8760) { s with stk := { s.stk with scrubPeriod := w16 v } }
  else if idx = 0x2C00 then okIf (1 ≤ v && v ≤ 600000) { s with q := { s.q with fenceTimeout := w32 v } }
  else if idx = 0x2D01 then set2D01 sub v s
  else if idx = 0x2D02 then set2D02 sub v s
  else .ok s

/-- 3001:02 is an I32 (R705). -/
def set3001 (v : Nat) (s : State) : Except Nat State :=
  okIf (70000 ≤ v && v ≤ 100000) { s with power := { s.power with onset := v } }

def setHigh (p : Path) (idx sub v : Nat) (s : State) : Except Nat State :=
  if idx = 0x3001 then set3001 v s
  else if idx = 0x3100 ∧ sub = 3 then okIf (10 ≤ v && v ≤ 100000) { s with rst := { s.rst with idleTimeout := w32 v } }
  else if idx = 0x5100 then setBlobOffset p v s
  else if idx = 0x5200 ∧ sub = 1 then .ok { s with sec := { s.sec with nonce := BitVec.ofNat 256 v } }
  else if idx = 0x5700 then set5700 sub v s
  else if idx = 0x6100 then set6100 sub v s
  else if idx = 0x6200 then set6200 sub v s
  else setIdle idx sub v s

/-- A write to an object that has no step of its own. -/
def ownSet : Own := fun p r s =>
  let idx := reqIndex r
  let v := reqValue r
  match pairIndex idx with
  | some q => setPairObj q (reqSub r) v s
  | none =>
    if idx < 0x2800 then setLow p idx (reqSub r) v s
    else if idx < 0x3000 then setMid idx (reqSub r) v s
    else setHigh p idx (reqSub r) v s

/-! ### Which row a request is of -/

/-- Writes with a step of their own among the unit, scheduler, stack and queue objects. -/
def ownStepLow (r : List Byte) : Bool :=
  writesTo 0x2000 1 r || writesTo 0x1040 2 r || writesTo 0x1040 3 r || writesTo 0x2100 5 r || writesTo 0x2110 9 r
  || writesByte 0x2100 6 1 r || writesByte 0x2800 2 1 r || writesByte 0x2802 4 1 r || writesTo 0x2B00 1 r || writesTo 0x2B00 2 r
  || (isWriteReq r && (pairIndex (reqIndex r)).isSome && reqSub r == 4)

/-- Writes with a step of their own among the power, security and debug objects. -/
def ownStepHigh (r : List Byte) : Bool :=
  ((List.range 3).any fun v => writesByte 0x3000 1 v r) || writesByte 0x3100 1 1 r || writesByte 0x3100 2 1 r
  || ((List.range 5).any fun n => writesTo 0x5000 (n + 1) r) || writesTo 0x5100 1 r || writesByte 0x5200 2 1 r
  || writesByte 0x5800 1 1 r || ((List.range 3).any fun v => writesByte 0x5800 6 v r) || writesTo 0x5800 8 r
  || writesByte 0x6000 1 0 r || writesByte 0x6000 1 1 r || writesByte 0x6000 3 1 r || writesTo 0x6100 3 r || writesByte 0x6200 3 1 r

def ownStep (r : List Byte) : Bool := ownStepLow r || ownStepHigh r

/-- A READ of a probe window (R242). -/
def readsProbe (r : List Byte) : Bool := reqOpc r == 1 && reqIndex r == 0x2500 && (reqSub r == 4 || reqSub r == 5)

/-- Requests of the READ row: every READ but a probe's, and every request whose OPC is none of R613's. -/
def isReadRow (r : List Byte) : Bool := (reqOpc r == 0 || reqOpc r == 1 || 6 < reqOpc r) && !readsProbe r

/-- READ (R617). -/
def execRead (p : Asker) (req : List Byte) (s : State) : Host.Outcome State Fault Refusal := request (isReadRow req) ownNone p req s
/-- PROBE_WINDOW (R242). -/
def execProbeWindow (p : Asker) (req : List Byte) (s : State) : Host.Outcome State Fault Refusal :=
  request (readsProbe req) ownNone p req s
/-- WRITE (R617). -/
def execWrite (p : Asker) (req : List Byte) (s : State) : Host.Outcome State Fault Refusal :=
  request (reqOpc req == 2 && !ownStep req) ownSet p req s
/-- WRITE_AUTH (R649). -/
def execWriteAuth (p : Asker) (req : List Byte) (s : State) : Host.Outcome State Fault Refusal :=
  request (reqOpc req == 3 && !ownStep req) ownSet p req s

/-! ### Objects with a step of their own: selector, alerts, scheduler, gate, stacks, queues, debug -/

/-- R630: the class, and instance 0. -/
def ownClass : Own := fun p r s => okIf (reqValue r ≤ 8) (setSel p { selOf s p with cls := reqValue r, inst := 0 } s)
/-- CLASS_SELECT (R630). -/
def execClassSelect (p : Asker) (req : List Byte) (s : State) : Host.Outcome State Fault Refusal :=
  request (writesTo 0x2000 1 req) ownClass p req s

/-- R637: each 1 clears that bit of 1040:01. -/
def ownAlertClear : Own := fun _ r s =>
  .ok { s with od := { s.od with alertPending := s.od.alertPending &&& ~~~(w32 (reqValue r)) } }
/-- ALERT_CLEAR (R637). -/
def execAlertClear (p : Asker) (req : List Byte) (s : State) : Host.Outcome State Fault Refusal :=
  request (writesTo 0x1040 3 req) ownAlertClear p req s

/-- R637, R638: the mask; a bit the masked word gains is sent. -/
def ownAlertMask : Own := fun _ r s =>
  let m := w32 (reqValue r)
  let t := { s with od := { s.od with alertMask := m } }
  okIf (reqValue r < 2 ^ 12) (if s.od.alertPending &&& m &&& ~~~s.od.alertMask = 0 then t else alertGained t)
/-- ALERT_MASK (R638). -/
def execAlertMask (p : Asker) (req : List Byte) (s : State) : Host.Outcome State Fault Refusal :=
  request (writesTo 0x1040 2 req) ownAlertMask p req s

/-- R257, R295: leaves the paused state. -/
def ownResume : Own := fun _ _ s =>
  .ok (if s.sched.state = .paused then { s with sched := { s.sched with state := .running } } else s)
/-- SCHEDULER_RESUME (R257). -/
def execSchedulerResume (p : Asker) (req : List Byte) (s : State) : Host.Outcome State Fault Refusal :=
  request (writesByte 0x2800 2 1 req) ownResume p req s

/-- R323: the cache is emptied, at once when no SAMPLE runs; else when those that run have completed, and the response follows (R616). -/
def ownFlush : Own := fun _ _ s =>
  .ok (if sampleRuns s s.q.nextOrder then
    { s with gate := { s.gate with flushPending := s.gate.flushPending ++ [⟨s.q.nextOrder, []⟩] } }
  else { s with gate := { s.gate with cache := [] } })
/-- MASK_CACHE_FLUSH (R323). -/
def execMaskCacheFlush (p : Asker) (req : List Byte) (s : State) : Host.Outcome State Fault Refusal :=
  request (writesByte 0x2802 4 1 req) ownFlush p req s

/-- Flushes whose SAMPLEs have completed take effect, and the responses that waited for them go out. -/
def applyFlushes (s : State) : State :=
  let due := s.gate.flushPending.filter fun w => !sampleRuns s w.before
  if due.isEmpty then s
  else (due.flatMap FlushWait.answers).foldl (fun s a => sendAnswer a s)
    { s with gate := { s.gate with cache := [], flushPending := s.gate.flushPending.filter fun w => sampleRuns s w.before } }

/-- MASK_CACHE_FLUSH_APPLY (R323): a SAMPLE that ran when a flush was asked for completes. -/
def execMaskCacheFlushApply (s : State) : Host.Outcome State Fault Refusal :=
  if !running s then .fault .notRunning else .next (applyFlushes s)

/-- Every version and adapter slot is FREE (R489). -/
def slotsFree (s : State) : Bool :=
  (s.vers.toList.all fun w => w.state == .free) && s.adapters.toList.all fun w => w.state == .free

/-- R489: bytes stay at their stack offsets. -/
def ownShare : Own := fun _ r s =>
  let v := reqValue r
  let k := if reqSub r = 1 then v else s.stk.k
  let j := if reqSub r = 2 then v else s.stk.j
  freeAnd (s.turn.cur != .ready || !s.prot.isEmpty || !slotsFree s) (k + j ≤ 96) { s with stk := { s.stk with k := k, j := j } }
/-- SHARE_WRITE (R489). -/
def execShareWrite (p : Asker) (req : List Byte) (s : State) : Host.Outcome State Fault Refusal :=
  request (writesTo 0x2B00 1 req || writesTo 0x2B00 2 req) ownShare p req s

/-- The error stored in a codeword. -/
def badAt (s : State) (loc : Nat) : BadCodeword :=
  (s.stk.ecc.find? fun e => e.loc == loc).getD ⟨loc, false, false⟩

/-- R526: data symbol 0, or symbols 0 and 1, of the stored codeword are inverted; memory keeps the data that the code restores while at
most one symbol is wrong (R491). A codeword protected since its address was written is refused, as R455 refuses the debug path. -/
def ownInject : Own := fun _ _ s =>
  match resolve s s.stk.injAddr.toNat with
  | .stack n off =>
    let loc := (n * stackBytes + off) / 16 * 16
    let e := badAt s loc
    let now : BadCodeword := ⟨loc, !e.sym0, xor e.sym1 (s.stk.injSymbols == 2)⟩
    let rest := s.stk.ecc.filter fun e => e.loc != loc
    okIf (isInjectable s s.stk.injAddr.toNat) { s with stk := { s.stk with
      ecc := if now.sym0 || now.sym1 then rest ++ [now] else rest } }
  | _ => .error abRange
/-- INJECT (R526). -/
def execInject (p : Asker) (req : List Byte) (s : State) : Host.Outcome State Fault Refusal :=
  request (writesByte 0x6200 3 1 req) ownInject p req s

/-- R124: an open tile whose rows hold the selected one is marked. -/
def markDebug (plaza row : Nat) (s : State) : State :=
  { s with terr := { s.terr with tiles := s.terr.tiles.map fun t =>
      if t.plaza.val = plaza ∧ t.tRow ≤ row ∧ row < t.rowsEnd then { t with exc := t.exc ||| excAccDebug } else t } }

/-- R122, R124: sets the accumulator; bits [63:34] are not kept (R56). -/
def ownAccumulator : Own := fun p r s =>
  let pz := debugPlaza (selOf s p)
  let row := s.terr.dbgRow.toNat
  if h : pz < 64 then .ok (markDebug pz row (terrSet ⟨pz, h⟩ row s.terr.dbgCol.toNat (BitVec.ofNat 34 (reqValue r)) s)) else .ok s
/-- ACCUMULATOR_WRITE (R124). -/
def execAccumulatorWrite (p : Asker) (req : List Byte) (s : State) : Host.Outcome State Fault Refusal :=
  request (writesTo 0x6100 3 req) ownAccumulator p req s

/-- Both rings lie in the companion memory now backed (R533, R589). -/
def ringsBacked (s : State) (p : QueuePair) : Bool :=
  let top := companionBase + s.lk.cl.cbytes.toNat
  p.sqBase != 0 && p.cqBase != 0 && companionBase ≤ p.sqBase.toNat && companionBase ≤ p.cqBase.toNat
  && p.sqBase.toNat + 64 * p.entries.toNat ≤ top && p.cqBase.toNat + 32 * p.entries.toNat ≤ top

/-- The state a write of 2Cxx:04 leads to (R534); `none left` says whether no descriptor of the pair is uncompleted. -/
def enableState (st : QState) (on noneLeft : Bool) : QState :=
  match st, on with
  | .disabled, true => .active
  | .disabled, false => .disabled
  | .active, true => .active
  | .draining, false => if noneLeft then .disabled else .draining
  | .draining, true => if noneLeft then .active else .enablePending
  | .enablePending, true => if noneLeft then .active else .enablePending
  | .halted, true => .active
  | _, false => if noneLeft then .disabled else .draining

/-- R533, R534. -/
def ownQueueEnable : Own := fun _ r s =>
  match pairIndex (reqIndex r) with
  | none => .ok s
  | some q =>
    let p := s.q.qps[q]
    let on := reqValue r == 1
    let st := enableState p.state on (s.q.ofPair q).isEmpty
    okIf (!on || ringsBacked s p)
      (setPair q { p with enable := on, state := st, halt := if p.state = .halted ∧ on then 0 else p.halt } s)
/-- QUEUE_ENABLE (R534). -/
def execQueueEnable (p : Asker) (req : List Byte) (s : State) : Host.Outcome State Fault Refusal :=
  request (isWriteReq req && (pairIndex (reqIndex req)).isSome && reqSub req == 4) ownQueueEnable p req s

end Sys2Proof.Machine
end

