-- ==== Sys2Proof/Machine/Packet.lean ====
section
/-! DEFINITION. Packets of the all-to-all, firmware and management lanes, and forwarding (R594 to R605). -/

namespace Sys2Proof.Machine

/-- A packet whose fields are within their ranges (R594, R595). -/
def packetOk (p : Packet) : Bool := p.payload.length ≤ 4064 && p.vl.toNat ≤ 4 && p.ptype != 0

/-- A packet addressed to this module (R597). -/
def toSelf (s : State) (p : Packet) : Bool := p.dstBoard == s.lk.board && p.dstPos.toNat == s.rst.position.toNat

/-- A packet of a row: its lane, its type and what the row asks of its payload. -/
def packetForm (p : Packet) (vl ptype : Nat) (form : Bool) : Bool :=
  packetOk p && p.vl.toNat == vl && p.ptype.toNat == ptype && form

/-- A packet of one lane and type arrives for this module; an avenue that does not carry its lane brings nothing (LOG 58). -/
def packetIn (av : Fin 8) (p : Packet) (vl ptype : Nat) (form : Bool) (f : State → State) (s : State) :
    Host.Outcome State Fault Refusal :=
  if !packetForm p vl ptype form || !toSelf s p then .refused .illFormed
  else if !running s then .fault .notRunning
  else if linkThere s (.av av) && chCarried s (.av av) vl then .next (f (arrived (.av av) (packetPool p) (packetUnits p) s))
  else .next s

/-! ### PUT and FORWARD (R596 to R598) -/

/-- Bytes of a peer into a region of the stacks: refused whole where one is protected (R455). -/
def storePeer (a : Nat) (bs : List Byte) (s : State) : State :=
  if (firstProtected s.prot a bs.length).isSome then refuseOutside s else (outsideWrite 5 a bs s).2

/-- Is a request of a peer? -/
def HeldRequest.isPeer : HeldRequest → Bool
  | .peer _ _ _ | .bundleEnd _ _ | .accept _ _ => true
  | _ => false

/-- An access of a peer to the stacks waits: one of them is in reset, or one before it waits (R515). -/
def peerWaits (a len : Nat) (s : State) : Bool := (granules a len).any (inResetAt s) || s.stk.heldRequests.any HeldRequest.isPeer

/-- Stores what a PUT or a PART brings. -/
def peerWrite (put : Bool) (a : Nat) (bs : List Byte) (s : State) : State :=
  if peerWaits a bs.length s then holdRequest (.peer a bs put) s else storePeer a bs s

def takePut (p : Packet) (s : State) : State :=
  if s.lk.a2aBytes = 0 ∨ s.lk.a2aBytes.toNat < p.offset.toNat + p.payload.length then discardPacket s
  else peerWrite true (s.lk.a2aBase.toNat + p.offset.toNat) p.payload s

/-- PUT (R596). -/
def execPutPacket (av : Fin 8) (pk : Packet) (s : State) : Host.Outcome State Fault Refusal :=
  packetIn av pk 1 0x20 true (takePut pk) s

/-- The route entry of a packet (R597). -/
def packetRoute (s : State) (p : Packet) : Nat :=
  if p.dstBoard = s.lk.board then (if p.dstPos.toNat < 16 then routeEntry s p.dstPos.toNat else 0xFF) else routeEntry s 16

/-- A packet may wait for or leave on an avenue: it is present and not disabled and, for VL 0 to VL 2, not UP_LIMITED (R598). -/
def routable (s : State) (vl : Nat) (av : Fin 8) : Bool :=
  unitReturning s (.avenue av) && (2 < vl || (s.lk.avs[av]).phase != .upLimited)

/-- Forwards a packet with HOP 0 by this module's own routes; one with HOP 1, or that no avenue takes, is discarded. -/
def forwardPacket (p : Packet) (s : State) : State :=
  if p.hop then discardPacket s
  else match avenueOf (BitVec.ofNat 8 (packetRoute s p)) with
    | some av => if routable s p.vl.toNat av then sendPacket av { p with hop := true } s else discardPacket s
    | none => discardPacket s

/-- FORWARD (R597). -/
def execForward (av : Fin 8) (pk : Packet) (s : State) : Host.Outcome State Fault Refusal :=
  if !packetOk pk || toSelf s pk then .refused .illFormed
  else if !running s then .fault .notRunning
  else if linkThere s (.av av) && chCarried s (.av av) pk.vl.toNat then
    .next (forwardPacket pk (arrived (.av av) (packetPool pk) (packetUnits pk) s))
  else .next s

/-! ### PEER_STATE (R601) -/

def takePeerState (av : Fin 8) (p : Packet) (s : State) : State :=
  let l := s.lk.avs[av]
  setLink (.av av) { l with peerSv := BitVec.ofNat 32 (leNat (p.payload.take 4)), peerLimited := p.payload.getD 4 0 == 1 } s

/-- PEER_STATE (R601). -/
def execPeerState (av : Fin 8) (pk : Packet) (s : State) : Host.Outcome State Fault Refusal :=
  packetIn av pk 4 0x50 (pk.payload.length == 16) (takePeerState av pk) s

/-! ### The firmware chain (R602 to R605, R664) -/

/-- The answer to a firmware packet. -/
def answerPacket (s : State) (p : Packet) (ptype : Byte) (payload : List Byte) : Packet :=
  { srcBoard := s.lk.board, srcPos := BitVec.ofNat 5 s.rst.position.toNat, dstBoard := p.srcBoard, dstPos := p.srcPos,
    hop := false, vl := 3, ptype := ptype, groupId := 0, epoch := 0, obj := p.obj, offset := 0, payload := payload }

/-- A bundle is being staged, or will be once its region can be read. -/
def staging (s : State) : Bool := s.sec.stagingWork.isSome || s.stk.heldRequests.contains .staging

/-- Why an OFFER is declined; 0 where it is accepted. The order of the reasons is the model's (LOG 39). -/
def declineReason (av : Fin 8) (len : Nat) (digest : List Byte) (s : State) : Nat :=
  if avenueOf s.lk.chainPrev ≠ some av then 4
  else if s.lk.fwRx.isSome || s.lk.fwTx.isSome || staging s then 1
  else if s.lk.rxBytes = 0 then 3
  else if s.lk.rxBytes.toNat < len || bundleMax < len then 2
  else if s.lk.fwStaged.contains digest && s.lk.fwOffered.contains digest then 5
  else 0

def takeOffer (av : Fin 8) (p : Packet) (s : State) : State :=
  let len := leNat (p.payload.take 8)
  let digest := p.payload.drop 8
  let r := declineReason av len digest s
  if r = 0 then
    let s1 := { s with lk := { s.lk with fwRx := some ⟨av, p.obj, len, digest, p.srcBoard, p.srcPos, []⟩ } }
    sendPacket av (answerPacket s1 p 0x41 []) s1
  else sendPacket av (answerPacket s p 0x42 [BitVec.ofNat 8 r]) s

/-- OFFER (R603). -/
def execOffer (av : Fin 8) (pk : Packet) (s : State) : Host.Outcome State Fault Refusal :=
  packetIn av pk 3 0x40 (pk.payload.length == 72) (takeOffer av pk) s

/-- The transfer a packet from its receiver belongs to. -/
def txOf (av : Fin 8) (p : Packet) (accepted : Bool) (s : State) : Option FwTx :=
  s.lk.fwTx.filter fun t => t.av == av && t.num == p.obj && t.accepted == accepted

/-- The transfer a packet from its sender belongs to. -/
def rxOf (av : Fin 8) (p : Packet) (s : State) : Option FwRx :=
  s.lk.fwRx.filter fun r => r.av == av && r.num == p.obj && r.srcBoard == p.srcBoard && r.srcPos == p.srcPos

/-- Puts a packet before an avenue; it goes out with the next `transmit`. -/
def queuePacket (av : Fin 8) (p : Packet) (s : State) : State := linkQueue (.av av) (packetMsg p (some (.packet av p))) s

/-- The bundle in PART packets from byte `off`, and END, for the next `transmit`; data that cannot be read are not delivered, and the
transfer goes no further (R495, R605). -/
def sendParts (t : FwTx) : (fuel off : Nat) → State → State
  | 0, _, s => s
  | n + 1, off, s =>
    if t.len ≤ off then queuePacket t.av (toNeighbour s t.av 3 0x44 t.num 0 []) s
    else
      let a := s.lk.rxBase.toNat + off
      let r := readByHall a (min 4064 (t.len - off)) s
      if r.1 then r.2
      else
        let bs := peekList r.2 a (min 4064 (t.len - off))
        sendParts t n (off + 4064) (queuePacket t.av (toNeighbour r.2 t.av 3 0x43 t.num (BitVec.ofNat 64 off) bs) r.2)

/-- The whole bundle of an accepted transfer, as one stream of its lane (R576, R604). -/
def sendBundle (t : FwTx) (s : State) : State :=
  transmit (.av t.av) (sendParts t (t.len / 4064 + 2) 0 { s with lk := { s.lk with fwTx := some { t with accepted := true } } })

/-- Takes an ACCEPT; it waits while a stack that holds the bundle is in reset (R515). -/
def takeAccept (av : Fin 8) (p : Packet) (s : State) : State :=
  match txOf av p false s with
  | some t => if peerWaits s.lk.rxBase.toNat t.len s then holdRequest (.accept av p) s else sendBundle t s
  | none => s

/-- ACCEPT (R604). -/
def execAccept (av : Fin 8) (pk : Packet) (s : State) : Host.Outcome State Fault Refusal :=
  packetIn av pk 3 0x41 pk.payload.isEmpty (takeAccept av pk) s

/-- DECLINE (R603). -/
def execDecline (av : Fin 8) (pk : Packet) (s : State) : Host.Outcome State Fault Refusal :=
  packetIn av pk 3 0x42 (pk.payload.length == 1) (fun s => if (txOf av pk false s).isSome then endFwTx s else s) s

/-- Bytes of a PART inside the offered length go to the receive region. -/
def takePart (av : Fin 8) (p : Packet) (s : State) : State :=
  match rxOf av p s with
  | some r =>
    let off := p.offset.toNat
    let bs := p.payload.take (r.len - off)
    let s1 := { s with lk := { s.lk with fwRx := some { r with got := r.got ++ [(off, bs.length)] } } }
    if bs.isEmpty then s1 else peerWrite false (s.lk.rxBase.toNat + off) bs s1
  | none => s

/-- PART (R604). -/
def execPart (av : Fin 8) (pk : Packet) (s : State) : Host.Outcome State Fault Refusal :=
  packetIn av pk 3 0x43 true (takePart av pk) s

/-- Is every byte below `len` in one of the ranges? -/
def covers (got : List (Nat × Nat)) : (fuel pos len : Nat) → Bool
  | 0, pos, len => len ≤ pos
  | n + 1, pos, len =>
    if len ≤ pos then true
    else match got.find? fun g => g.1 ≤ pos && pos < g.1 + g.2 with
      | some g => covers got n (g.1 + g.2) len
      | none => false

/-- The RESULT of a received bundle: its digest against the one offered, then the verified level (R604, R663). -/
def transferOutcome (r : FwRx) (s : State) : Nat :=
  let a := s.lk.rxBase.toNat
  if !covers r.got r.got.length 0 r.len || sha3_512 (peekList s a r.len) != r.digest then 1
  else if bundleLength (peekList s a bundleHead) != r.len then 2
  else verifyBytes s.persist (bundleAt s a r.len)

/-- A bundle of the chain that is refused is reported like one refused in staging (R663, R722). -/
def reportRefused (o : Nat) (s : State) : State :=
  { s with sec := { s.sec with stagingState := 3, stagingOutcome := BitVec.ofNat 8 o } }

/-- END: the transfer ends with its RESULT, and a verified bundle is staged (R604, R662). A region that cannot be read whole matches no
digest (LOG 39). -/
def endTransfer (av : Fin 8) (p : Packet) (s : State) : State :=
  match rxOf av p s with
  | some r =>
    let x := readByHall s.lk.rxBase.toNat r.len s
    let o := if x.1 then 1 else transferOutcome r x.2
    let s1 := endFwRx (sendPacket av (answerPacket x.2 p 0x45 [BitVec.ofNat 8 o]) x.2)
    if o = 0 then startStaging true s1 else reportRefused o s1
  | none => s

/-- Takes an END; it waits while the bundle's bytes do (R515). -/
def takeEnd (av : Fin 8) (p : Packet) (s : State) : State :=
  if peerWaits s.lk.rxBase.toNat (((rxOf av p s).map FwRx.len).getD 0) s then holdRequest (.bundleEnd av p) s else endTransfer av p s

/-- How many bytes of the receive region a staging reads: its bundle's. -/
def stagedBytes (s : State) : Nat :=
  max bundleHead (min (bundleLength (peekList s s.lk.rxBase.toNat bundleHead)) s.lk.rxBytes.toNat)

/-- Stages the bundle in the receive region; a stack in reset has that wait (R515). -/
def beginStaging (s : State) : State :=
  if (granules s.lk.rxBase.toNat (stagedBytes s)).any (inResetAt s) then
    holdRequest .staging { s with sec := { s.sec with stagingState := 1 } }
  else startStaging false s

/-- A request that has waited is taken again (R515). -/
def takeHeld (r : HeldRequest) (s : State) : State :=
  match r with
  | .drd tag a => takeDrd tag a s
  | .dwr tag a bs => takeDwr tag a bs s
  | .doorbell w => takeDoorbell w s
  | .peer a bs put => peerWrite put a bs s
  | .bundleEnd av p => takeEnd av p s
  | .accept av p => takeAccept av p s
  | .staging => beginStaging s

/-- What was left for a stack's return is done. -/
def takeMark (m : LateMark) (s : State) : State :=
  match m with
  | .bytes a bs => writeLate a bs s
  | .failed hdr step => failHeader hdr step s

/-- A stack's reset is over: what was left for its return is done, and what waited for it goes on, in order. -/
def serveHeld (s : State) : State :=
  let t := s.stk.marks.foldl (fun s m => takeMark m s) { s with stk := { s.stk with marks := [] } }
  s.stk.heldRequests.foldl (fun s r => takeHeld r s) { t with stk := { t.stk with heldRequests := [] } }

/-- END (R604). -/
def execEndBundle (av : Fin 8) (pk : Packet) (s : State) : Host.Outcome State Fault Refusal :=
  packetIn av pk 3 0x44 pk.payload.isEmpty (takeEnd av pk) s

/-- RESULT of the firmware chain (R604). -/
def execBundleResult (av : Fin 8) (pk : Packet) (s : State) : Host.Outcome State Fault Refusal :=
  packetIn av pk 3 0x45 (pk.payload.length == 1) (fun s => if (txOf av pk true s).isSome then endFwTx s else s) s

/-- The receiving side of a transfer has waited too long: it ends with outcome 3, which the sender is told (R604, R605; LOG 39). -/
def giveUpRx (r : FwRx) (s : State) : State :=
  endFwRx (sendPacket r.av (toNeighbour s r.av 3 0x45 r.num 0 [3]) s)

/-- TRANSFER_TIMEOUT (R605): the side that waited ends its transfer. -/
def execTransferTimeout (sending : Bool) (s : State) : Host.Outcome State Fault Refusal :=
  if !running s then .fault .notRunning
  else if sending then (if s.lk.fwTx.isSome then .next (endFwTx s) else .next s)
  else match s.lk.fwRx with
    | some r => .next (giveUpRx r s)
    | none => .next s

end Sys2Proof.Machine
end

