-- ==== Sys2Proof/Machine/Unit.lean ====
section
/-! DEFINITION. One block alone: enabling, disabling and resetting districts, plazas, kiosks, stacks and avenues (R115, R500, R508,
R514, R515, R551, R632, R633, R688 to R693). -/

namespace Sys2Proof.Machine

def setUnit (u : UnitId) (c : UnitCtl) (s : State) : State := { s with units := s.units.set u c }

/-- Every unit that holds a unit reads ENABLED (R693). -/
def holdersEnabled (s : State) (u : UnitId) : Bool :=
  match unitHolder u with
  | none => true
  | some h => unitEnabled s h && match unitHolder h with
    | none => true
    | some g => unitEnabled s g

/-- A change of the districts in service empties the caches of companion lines (R500). -/
def recache (before : List Nat) (s : State) : State :=
  if districtsUp s = before then s
  else { s with stk := { s.stk with dcache := s.stk.dcache.filter fun l => l < companionBase } }

/-! ### What a block's reset clears (R690) -/

/-- Ends the streams of prefetchers numbered from a to b − 1 (R508). -/
def endStreams (a b : Nat) (s : State) : State :=
  { s with stk := { s.stk with streams := s.stk.streams.filter fun x => !(decide (a ≤ x.num.val) && decide (x.num.val < b)) } }

/-- Clears the terraces of the plazas from a to b − 1, and their tile tables (R115). -/
def clearPlazas (a b : Nat) (s : State) : State :=
  let out := fun (p : Fin 64) => !(decide (a ≤ p.val) && decide (p.val < b))
  clearArrays a b
    { s with terr := { s.terr with tiles := s.terr.tiles.filter fun t => out t.plaza, cells := s.terr.cells.filter fun c => out c.plaza } }

/-- Zeroes the panels of the squares of the plazas from a to b − 1 (R634, R635, R689). -/
def clearSquares (a b : Nat) (s : State) : State :=
  { s with units := { s.units with squares := Vector.ofFn fun i : Fin 576 =>
      let p := if i.val < 512 then i.val / 8 else i.val - 512
      if a ≤ p ∧ p < b then 0 else s.units.squares[i] } }

/-- Zeroes the counts of 2101 of the plazas from a to b − 1, of their kiosks and of their squares (R634). -/
def clearPlazaWork (a b : Nat) (s : State) : State :=
  clearSquares a b { s with units := { s.units with
    plazas := Vector.ofFn fun i : Fin 64 => if a ≤ i.val ∧ i.val < b then { s.units.plazas[i] with work := 0 } else s.units.plazas[i],
    kiosks := Vector.ofFn fun i : Fin 256 =>
      if 4 * a ≤ i.val ∧ i.val < 4 * b then { s.units.kiosks[i] with work := 0 } else s.units.kiosks[i] } }

/-- Zeroes the counts of 2101 of a unit and of the units that its reset takes with it (R634, R689, R690). -/
def clearWork (u : UnitId) (s : State) : State :=
  let t := setUnit u { s.units.get u with work := 0 } s
  match u with
  | .district d => clearPlazaWork (8 * d.val) (8 * d.val + 8) t
  | .plaza p => clearPlazaWork p.val (p.val + 1) t
  | _ => t

/-- Is the line's cache that of district d (R500)? -/
def lineOfDistrict (s : State) (d l : Nat) : Bool := cacheDistrict s l == some d

/-- The cache of district d loses its lines. -/
def dropCache (d : Nat) (s : State) : State :=
  { s with stk := { s.stk with dcache := s.stk.dcache.filter fun l => !lineOfDistrict s d l } }

/-- Resets an avenue: it trains from the first step on, under an INCARNATION drawn for it alone, and packets in flight are lost, those that
wait for it among them (R690, R692; LOG 46). -/
def resetAvenue (n : Fin 8) (s : State) : State :=
  let s1 := startTraining (.av n) .phy (abandonTransfers (.av n) s)
  let l := s1.lk.avs[n]
  let l1 := { l with txSeq := 0, unacked := [], resends := 0, rxNext := none, nakSent := false, waiting := [], peerInc := none,
                     seen := false, gotSeen := false, sentSeen := false, credits := List.replicate 16 0, freed := List.replicate 16 0,
                     owed := false, sinceIdle := 0, ownInc := some (Config.trng s1.freeCtr) }
  { setLink (.av n) l1 s1 with freeCtr := s1.freeCtr + 1 }

/-- Puts some stacks in self-refresh, or takes them out of it (R514, R690). -/
def refresh (on : Bool) (which : Nat → Bool) (s : State) : State :=
  { s with stk := { s.stk with selfRefresh := Vector.ofFn fun n : Fin 32 => if which n.val then on else s.stk.selfRefresh[n] } }

/-- A block's reset is over: its stacks that are in no other reset leave self-refresh, unless the module is parked (R514, R516, R690). -/
def releaseUnit (u : UnitId) (s : State) : State :=
  if s.power.current = .park then s
  else match u with
    | .district d => refresh false (fun n => stackDistrict n == d.val && !stackInReset s n) s
    | .stack n => refresh false (fun m => m == n.val && !stackInReset s m) s
    | _ => s

/-- The reset of one block; its stacks are in self-refresh until it is over. -/
def resetUnit (u : UnitId) (s : State) : State :=
  let s1 := clearWork u s
  match u with
  | .district d =>
    let s2 := endStreams (64 + 4 * d.val) (68 + 4 * d.val) (clearPlazas (8 * d.val) (8 * d.val + 8) s1)
    refresh true (fun n => stackDistrict n == d.val) (dropCache d.val s2)
  | .plaza p => clearPlazas p.val (p.val + 1) s1
  | .kiosk _ => s1
  | .stack n => refresh true (fun m => m == n.val) (endStreams (2 * n.val) (2 * n.val + 2) s1)
  | .avenue n => resetAvenue n s1

/-! ### Idle (R551, R688, R690) -/

/-- Does a range have bytes on a stack? -/
def onStack (s : State) (n : Nat) (r : MemAccess) : Bool :=
  (granules r.lo r.len).any fun a => match resolve s a with
    | .stack m _ => m == n
    | _ => false

/-- Requests that a descriptor has made are still to be answered: free, since when a request is answered is timing (LOG 13). -/
def stillOut (s : State) (e : InFlight) : Bool := Config.freePick (s.freeCtr + e.order) % 2 == 0

/-- A descriptor has made requests to a stack: reads that the stack held, or writes. -/
def InFlight.asks (s : State) (e : InFlight) (n : Nat) : Bool :=
  (e.requests.any fun r => r.1 == n && r.2 != 0) || e.writes.any (onStack s n)

/-- A descriptor exchanges over an avenue. -/
def InFlight.exchangesOn (s : State) (e : InFlight) (n : Fin 8) : Bool :=
  s.red.exchanges.any fun x => x.qp == e.qp && x.idx == e.idx && x.begun
    && (List.range x.group.n).any fun r => r != x.group.rank && memberRoute s x.group r == n.val

/-- A started descriptor has work in flight on a unit: placed on it, a request to the stack or to a stack of the district that is not
answered, or a packet of its exchange that the avenue has not sent whole (R551; LOG 13). -/
def InFlight.uses (s : State) (e : InFlight) (u : UnitId) : Bool :=
  e.units.contains u || stillOut s e && match u with
    | .stack n => e.asks s n.val
    | .district d => (List.range 4).any fun i => e.asks s (4 * d.val + i)
    | .avenue n => !(s.lk.avs[n]).unacked.isEmpty && e.exchangesOn s n
    | _ => false

/-- A prefetcher of district d has asked for a companion line that has not come: a ring-road transaction of the district's own (R690). -/
def awaitsLine (d : Nat) (r : RdShared) : Bool :=
  match r.reader with
  | .stream n => 64 ≤ n.val && (n.val - 64) / 4 == d
  | _ => false

/-- A unit that is not idle (R515, R551, R690): descriptor work; a stack's prefetcher that has lines to fetch; a district's own transaction; an
avenue's unacknowledged flits. -/
def unitBusy (s : State) (u : UnitId) : Bool :=
  (s.q.inflight.any fun e => e.uses s u) || match u with
    | .avenue n => !(s.lk.avs[n]).unacked.isEmpty
    | .stack n => s.stk.streams.any fun x => x.num.val / 2 == n.val && x.num.val < 64 && x.nextCount != 0
    | .district d => s.stk.rdShared.any (awaitsLine d.val)
    | _ => false

/-- The class-specific bytes of a descriptor that is ended: a VERSION shows its slot as it stands (R565). -/
def endedInfo (e : InFlight) (s : State) : List Byte :=
  let shown := fun d => ((versionSlot (versionFields d) s).map (versionInfo s)).getD zeros16
  match e.await with
  | .version d => shown d
  | .held d _ => if e.cls = clsVersion then shown d else e.info
  | _ => e.info

/-- A descriptor whose unit was reset without reaching idle: UNIT_RESET, its outputs unspecified, its exchange over (R551; LOG 23). -/
def abortOne (e : InFlight) (s : State) : State :=
  let y := { e with status := if e.status = .ok then .unitReset else e.status, await := .nothing, follows := none, requests := [],
                    info := endedInfo e s }
  let s1 := dropPair e s
  let s2 := match s1.red.exchanges.find? fun x => x.qp == e.qp && x.idx == e.idx with
    | some x => dropExchange x (setInFlight (exchangeInfo x y) s1)
    | none => setInFlight y s1
  e.writes.foldl (fun s r => scramble r.lo r.len s) s2

/-- Ends the descriptors that had work in flight on a unit as its idle handshake began (R551). -/
def abortUsers (u : UnitId) (s : State) : State :=
  (s.q.inflight.filter fun e => decide (e.order < (s.units.get u).askedAt) && e.uses s u).foldl (fun s e => abortOne e s)
    { s with freeCtr := s.freeCtr + 1 }

/-- The end of a unit's idle handshake (R688, R691, R692): `idle` says whether idle was reached. -/
def endHandshake (u : UnitId) (idle : Bool) (s : State) : State :=
  let before := districtsUp s
  let s0 := if idle then s else abortUsers u s
  let s1 := match u, (s0.units.get u).state with
    | .avenue n, .disabling => dropDisabled n s0
    | _, _ => s0
  let c := s1.units.get u
  let s2 := match c.state with
    | .disabling =>
      let t := if idle then s1 else releaseUnit u (resetUnit u s1)
      setUnit u { t.units.get u with state := .disabled, asking := false } (match u with
        | .avenue n => setPhase (.av n) .down t
        | .district d => dropCache d.val t
        | _ => t)
    | .enablePending =>
      let t := resetUnit u s1
      setUnit u { t.units.get u with state := .resetting, asking := false } t
    | _ =>
      let t := resetUnit u s1
      setUnit u { t.units.get u with asking := false, found := if idle then 1 else 2 } t
  recache before s2

def unitAsked (s : State) (u : UnitId) : Bool := unitPresent s.persist.variant u && (s.units.get u).asking

/-- UNIT_IDLE (R688): a unit with descriptor work, or an avenue with unacknowledged flits, is not idle (R690). -/
def execUnitIdle (u : UnitId) (s : State) : Host.Outcome State Fault Refusal :=
  if !running s then .fault .notRunning
  else if unitAsked s u && !unitBusy s u then .next (endHandshake u true s)
  else .next s

/-- UNIT_IDLE_TIMEOUT (R688). -/
def execUnitIdleTimeout (u : UnitId) (s : State) : Host.Outcome State Fault Refusal :=
  if !running s then .fault .notRunning
  else if unitAsked s u then .next (endHandshake u false s)
  else .next s

/-- A reset unit returns: ENABLED, or DISABLING where a FALSE is held; requests that waited for it go on (R515, R688, R691). -/
def returnUnit (u : UnitId) (s : State) : State :=
  let before := districtsUp s
  let c := s.units.get u
  serveHeld (recache before (releaseUnit u <| setUnit u
    { c with state := if c.heldFalse then .disabling else .enabled, asking := c.heldFalse, askedAt := s.q.nextOrder, heldFalse := false,
             resetAsked := false, result := if c.resetAsked then c.found else c.result, found := 0 } s))

/-- UNIT_RETURN (R692). -/
def execUnitReturn (u : UnitId) (s : State) : Host.Outcome State Fault Refusal :=
  if !running s then .fault .notRunning
  else
    let c := s.units.get u
    if unitPresent s.persist.variant u ∧ c.state = .resetting ∧ c.asking = false then .next (returnUnit u s)
    else .next s

/-! ### The controls (R633, R689, R691, R693) -/

/-- The table of R691. -/
def enableUnit (on : Bool) (c : UnitCtl) : UnitCtl :=
  let c := { c with enable := on }
  match c.state, on with
  | .enabled, true | .enablePending, true | .disabled, false | .disabling, false => c
  | .disabling, true => { c with state := .enablePending }
  | .disabled, true => { c with state := .resetting }
  | .resetting, true => { c with heldFalse := false }
  | .enabled, false => { c with state := .disabling, asking := true }
  | .enablePending, false => { c with state := .disabling }
  | .resetting, false => { c with heldFalse := true }

/-- A FALSE to a district or a stack needs the READY turn (R693). -/
def needsReady : UnitId → Bool
  | .district _ | .stack _ => true
  | _ => false

/-- A unit's controls as its idle handshake begins. -/
def UnitCtl.since (c : UnitCtl) (old : UnitCtl) (n : Nat) : UnitCtl := if c.asking && !old.asking then { c with askedAt := n } else c

/-- Moves a unit by its Enable; one that was disabled is reset on its way back (R692). -/
def setEnable (u : UnitId) (on : Bool) (s : State) : State :=
  let t := if on && (s.units.get u).state == .disabled then resetUnit u s else s
  let c := t.units.get u
  setUnit u ((enableUnit on c).since c s.q.nextOrder) t

def ownEnable : Own := fun p r s =>
  let on := reqValue r == 1
  match selUnit (selOf s p) with
  | none => .ok s
  | some u =>
    if !holdersEnabled s u || (!on && needsReady u && s.turn.cur != .ready) then .error abBusy
    else .ok (recache (districtsUp s) (setEnable u on s))

/-- UNIT_ENABLE (R691): 2110:09 and an avenue's 2100:05 are one setting (R633). -/
def execUnitEnable (p : Asker) (req : List Byte) (s : State) : Host.Outcome State Fault Refusal :=
  request (writesTo 0x2100 5 req || writesTo 0x2110 9 req) ownEnable p req s

def ownUnitReset : Own := fun p _ s =>
  match selUnit (selOf s p) with
  | none => .ok s
  | some u =>
    let c := s.units.get u
    if c.resetAsked || c.state != .enabled || !holdersEnabled s u then .error abBusy
    else .ok (recache (districtsUp s) (setUnit u
      { c with state := .resetting, asking := true, askedAt := s.q.nextOrder, resetAsked := true } s))

/-- UNIT_RESET (R688). -/
def execUnitReset (p : Asker) (req : List Byte) (s : State) : Host.Outcome State Fault Refusal :=
  request (writesByte 0x2100 6 1 req) ownUnitReset p req s

end Sys2Proof.Machine
end

