-- ==== Sys2Proof/Machine/Power.lean ====
section
/-! DEFINITION. Power states, the input alert and thermal throttling (R516, R695, R697 to R705). -/

namespace Sys2Proof.Machine

/-! ### Power states (R697 to R699) -/

/-- The districts lose their contents and every stack enters self-refresh (R516, R698). -/
def enterPark (s : State) : State :=
  let t := endStreams 64 96 (clearPlazas 0 64 s)
  { t with power := { t.power with requested := .park, current := .park, waking := none },
           stk := { t.stk with dcache := [], selfRefresh := Vector.replicate 32 true } }

/-- A write of ON or IDLE: in PARK the districts wake first (R699). -/
def askPower (x : Power) (s : State) : State :=
  if s.power.current = .park then { s with power := { s.power with requested := x, waking := some x } }
  else { s with power := { s.power with requested := x, current := x } }

def ownPowerOn : Own := fun _ _ s => .ok (askPower .on s)
def ownPowerIdle : Own := fun _ _ s => .ok (askPower .idle s)

/-- PARK needs the READY turn, no descriptor in flight and a stopped scheduler (R698). -/
def ownPowerPark : Own := fun _ _ s =>
  if s.turn.cur = .ready ∧ s.q.inflight.isEmpty ∧ s.sched.state = .stopped then .ok (enterPark s) else .error abBusy

/-- POWER_STATE_ON (R699). -/
def execPowerStateOn (p : Asker) (req : List Byte) (s : State) : Host.Outcome State Fault Refusal :=
  request (writesByte 0x3000 1 0 req) ownPowerOn p req s
/-- POWER_STATE_IDLE (R697). -/
def execPowerStateIdle (p : Asker) (req : List Byte) (s : State) : Host.Outcome State Fault Refusal :=
  request (writesByte 0x3000 1 1 req) ownPowerIdle p req s
/-- POWER_STATE_PARK (R698). -/
def execPowerStatePark (p : Asker) (req : List Byte) (s : State) : Host.Outcome State Fault Refusal :=
  request (writesByte 0x3000 1 2 req) ownPowerPark p req s

/-- The counts of 2101 of every district and of its units (R634). -/
def clearDistricts (s : State) : State :=
  clearPlazaWork 0 64 { s with units := { s.units with districts := s.units.districts.map fun c => { c with work := 0 } } }

/-- The districts are powered, reset and reloaded; the stacks that are in no reset leave self-refresh. -/
def wake (x : Power) (s : State) : State :=
  let t := clearDistricts (clearPlazas 0 64 s)
  refresh false (fun n => !stackInReset t n) { t with power := { t.power with current := x, waking := none } }

/-- WAKE_COMPLETE (R699). -/
def execWakeComplete (s : State) : Host.Outcome State Fault Refusal :=
  if !running s then .fault .notRunning
  else match s.power.waking with
    | some x => .next (wake x s)
    | none => .next s

/-! ### The input and the junctions (R695, R703, R704) -/

/-- POWER_ALERT (R695). -/
def execPowerAlert (s : State) : Host.Outcome State Fault Refusal :=
  if !running s then .fault .notRunning else .next (raiseAlert 2048 s)

/-- The next duty for a reading in millidegrees (R703). -/
def nextDuty (onset hottest : Int) (d : Nat) : Nat :=
  if onset + 15000 ≤ hottest then 1
  else if onset ≤ hottest then max 1 (d - 1)
  else if hottest ≤ onset - 5000 then min 16 (d + 1)
  else d

/-- The duty moves; on falling below 16 the THERMAL alert is raised and an episode counted. -/
def throttle (hottest : Int) (s : State) : State :=
  let d := nextDuty s.power.onset hottest s.power.duty
  let t := { s with power := { s.power with duty := d } }
  if s.power.duty = 16 ∧ d < 16 then
    raiseAlert 1024 { t with power := { t.power with episodes := satInc t.power.episodes } }
  else t

/-- THROTTLE_CHECK (R703). -/
def execThrottleCheck (hottest : Int) (s : State) : Host.Outcome State Fault Refusal :=
  if !running s then .fault .notRunning else .next (throttle hottest s)

/-- The converters stop: the module is off until its input falls and rises again (R704, R727). -/
def tripOff (s : State) : State :=
  { s with persist := { s.persist with thermalTrips := satInc s.persist.thermalTrips },
           rst := { s.rst with off := true, pwrGood := false, run := none, source := false, pending := none, rstDriven := false } }

/-- THERMAL_TRIP (R704). -/
def execThermalTrip (s : State) : Host.Outcome State Fault Refusal :=
  if s.rst.off then .fault .notRunning else .next (tripOff s)

end Sys2Proof.Machine
end

