-- ==== Sys2Proof/Machine/Reset.lean ====
section
/-! DEFINITION. Reset sources, levels, what each level clears, start-up and release (R43, R221, R241, R268, R296, R367, R446, R459, R513,
R514, R525, R537, R580, R581, R608, R633, R648, R666 to R668, R670, R675 to R686, R713, R727). -/

namespace Sys2Proof.Machine

/-! ### What a CORE reset keeps: the retention store (R681) -/

def Security.core (x : Security) : Security :=
  { Security.reset with epoch := x.epoch, activationPending := x.activationPending, runningSlot := x.runningSlot, running := x.running,
                        debugMode := x.debugMode }

def TurnCtl.core (x : TurnCtl) : TurnCtl := { TurnCtl.reset with defaultDrain := x.defaultDrain }

def Sched.core (x : Sched) : Sched :=
  { Sched.reset with
    budget := x.budget, prefillFloor := x.prefillFloor, mainPlan := x.mainPlan, draftPlan := x.draftPlan, admBase := x.admBase,
    admEntries := x.admEntries, recBase := x.recBase, recBytes := x.recBytes, poolBase := x.poolBase, groups := x.groups,
    pageBytes := x.pageBytes, reserve := x.reserve, ptBase := x.ptBase, slotsInService := x.slotsInService,
    pagesPerSeq := x.pagesPerSeq, mainStream := x.mainStream, draftStream := x.draftStream, threshold := x.threshold,
    offPeriod := x.offPeriod, pinning := x.pinning, shownFree := x.slotsInService, shownGroups := x.groups }

def Stash.core (x : Stash) : Stash :=
  { Stash.reset with base := x.base, bytes := x.bytes, mark := x.mark, tag := nextTag x.tag }

def Reduce.core (x : Reduce) : Reduce := { Reduce.reset with preferred := x.preferred, stall := x.stall }

/-- R514, R525: stack contents, counts and scrub positions stay, in self-refresh until release. -/
def Stacks.core (x : Stacks) : Stacks :=
  { Stacks.reset with
    selfRefresh := Vector.replicate 32 true, k := x.k, j := x.j, scrubPeriod := x.scrubPeriod, passes := x.passes, corrected :=
      x.corrected, uncorrectable := x.uncorrectable,
    lastAddr := x.lastAddr, lastSource := x.lastSource, corrOf := x.corrOf, uncOf := x.uncOf, scrubPos := x.scrubPos, ecc := x.ecc }

/-- R537. -/
def QueuePair.core (x : QueuePair) : QueuePair :=
  { QueuePair.reset with sqBase := x.sqBase, cqBase := x.cqBase, entries := x.entries, weight := x.weight,
                         stopOnFailure := x.stopOnFailure }

def Queues.core (x : Queues) : Queues := { Queues.reset with qps := x.qps.map QueuePair.core, fenceTimeout := x.fenceTimeout }

/-- R581: PHY training is kept, and the INIT exchange alone follows. -/
def Link.core (x : Link) : Link :=
  match x.phase with
  | .down => Link.reset.started
  | .phy => { Link.reset with phase := .phy, trainings := 1 }
  | .init | .up | .upLimited => { Link.reset with phase := .init, trainings := 1 }

def Links.core (x : Links) : Links :=
  { Links.reset with
    cl := x.cl.core, avs := x.avs.map Link.core, incarnation := x.incarnation, board := x.board, chainPrev := x.chainPrev,
    chainNext := x.chainNext, rxBase := x.rxBase, rxBytes := x.rxBytes, a2aBase := x.a2aBase, a2aBytes := x.a2aBytes,
    routes := x.routes }

/-- R633: Enable survives, and each unit is as Enable asks. -/
def UnitCtl.core (x : UnitCtl) : UnitCtl :=
  { UnitCtl.reset with enable := x.enable, state := if x.enable then .enabled else .disabled }

def Units.core (x : Units) : Units :=
  { Units.reset with
    districts := x.districts.map UnitCtl.core, plazas := x.plazas.map UnitCtl.core, kiosks := x.kiosks.map UnitCtl.core,
    stackUnits := x.stackUnits.map UnitCtl.core, avenues := x.avenues.map UnitCtl.core }

/-- A link whose avenue is absent or disabled stays down. -/
def downDisabled (v : Variant) (u : Units) (k : Links) : Links :=
  { k with avs := Vector.ofFn fun n : Fin 8 => if n.val < v.avenues ∧ (u.avenues[n]).enable then k.avs[n] else Link.reset }

/-- What a CORE reset leaves (R680). -/
def clearCore (s : State) : State :=
  { State.reset with
    persist := s.persist, sec := s.sec.core, od := { Dict.reset with alertMask := s.od.alertMask },
    rst := { ResetCtl.reset with cause := s.rst.cause, clockGood := s.rst.clockGood, pwrGood := s.rst.pwrGood,
                                 position := s.rst.position, idleTimeout := s.rst.idleTimeout },
    power := { PowerCtl.reset with onset := s.power.onset }, turn := s.turn.core, fmt := s.fmt, rng := s.rng, sched := s.sched.core,
    stash := s.stash.core, red := s.red.core, prot := s.prot, mem := s.mem, stk := s.stk.core, q := s.q.core,
    lk := downDisabled s.persist.variant s.units s.lk.core, units := s.units.core, outbox := s.outbox, freeCtr := s.freeCtr,
    pending := s.pending }

/-- What a PO or SYS reset leaves: stack contents are lost and then zeroed (R513); fuses, flash and keys, a pending activation, the
companion's memory, and debug mode at a SYS reset stay (R665, R671, R680); the root PLL locks anew and links are down until their PHYs
adapt (R713). -/
def clearDeep (debug : Bool) (s : State) : State :=
  { State.reset with
    persist := s.persist,
    sec := { Security.reset with epoch := s.sec.epoch, activationPending := s.sec.activationPending, runningSlot := s.sec.runningSlot,
                                 debugMode := debug && s.sec.debugMode },
    rst := { ResetCtl.reset with cause := s.rst.cause, clockGood := false, pwrGood := s.rst.pwrGood, position := s.rst.position },
    lk := Links.reset, mem := s.mem.filter fun c => companionBase ≤ c.1, outbox := s.outbox, freeCtr := s.freeCtr, pending := s.pending }

def clearFor (l : Level) (s : State) : State :=
  match l with
  | .core => clearCore s
  | .sys => clearDeep true s
  | .po => clearDeep false s

/-! ### Sources (R678, R682) -/

def Level.depth : Level → Nat
  | .core => 0
  | .sys => 1
  | .po => 2

def deeper (a b : Level) : Level := if a.depth < b.depth then b else a

/-- Asserts a reset of a level: clears what the level clears; its stretch starts, and RST_N is driven but for CORE (R683, R684). -/
def assertReset (l : Level) (cause : Byte) (source : Bool) (s : State) : State :=
  let t := clearFor l s
  { t with rst := { t.rst with cause := cause, run := some ⟨l, false, false⟩, source := source, rstDriven := l != .core } }

/-- The cause that a reset asserted at a level takes from a source of another (R682): the later one's, unless its level is the shallower.
Two sources of a level that come one after the other may have come in one slow cycle, which takes the lower code: which of the two it is,
is free (LOG 9). -/
def causeOf (r : ResetRun) (l : Level) (cause : Byte) (s : State) : Byte :=
  if l.depth < r.level.depth then s.rst.cause
  else if l = r.level ∧ !r.stretchDone ∧ s.rst.cause < cause ∧ Config.freePick s.freeCtr % 2 = 0 then s.rst.cause
  else cause

/-- A reset source is raised (R682). -/
def raiseSource (l : Level) (cause : Byte) (holds : Bool) (s : State) : State :=
  match s.rst.run with
  | none => assertReset l cause holds s
  | some r => assertReset (deeper r.level l) (causeOf r l cause s) (holds || s.rst.source) { s with freeCtr := s.freeCtr + 1 }

/-- A source event of a module that is not off; nothing where what it tells of is not so (LOG 58). -/
def sourceEvent (c : Bool) (f : State → State) (s : State) : Host.Outcome State Fault Refusal :=
  if s.rst.off then .fault .notRunning
  else if c then .next (f s)
  else .next s

/-- RESET_BEGIN (R686): the reset that a write asked for. -/
def execResetBegin (s : State) : Host.Outcome State Fault Refusal :=
  match s.rst.pending with
  | some (l, c) => sourceEvent true (fun s => raiseSource l c false { s with rst := { s.rst with pending := none } }) s
  | none => sourceEvent false id s

/-- POWER_ON (R727): from off, where a trip has stopped the converters or the input of a brown-out has fallen too low for the monitors; the
input has then reached 54 V with every rail in regulation (LOG 41). -/
def execPowerOn (s : State) : Host.Outcome State Fault Refusal :=
  if s.rst.off || s.rst.source then
    .next (assertReset .po 1 false { s with rst := { s.rst with off := false, pwrGood := true, clockGood := false, run := none } })
  else .next s

/-- BROWN_OUT (R678): the source stays raised until the input has recovered. -/
def execBrownOut (s : State) : Host.Outcome State Fault Refusal :=
  sourceEvent true (fun s => raiseSource .po 2 true { s with rst := { s.rst with pwrGood := false } }) s

/-- INPUT_RECOVERED (R727): the brown-out source ends, and the stretch runs from this moment. -/
def execInputRecovered (s : State) : Host.Outcome State Fault Refusal :=
  sourceEvent s.rst.source (fun s => { s with rst := { s.rst with
    source := false, pwrGood := true, run := s.rst.run.map fun r => { r with stretchDone := false, started := false } } }) s

/-- A PO or SYS reset that only waits for RST_N to read high; held low from outside meanwhile, that raises no source (R685). -/
def waitsForPin (s : State) : Bool :=
  match s.rst.run with
  | some r => r.level != .core
  | none => false

/-- PIN_RESET (R684): RST_N falls while this module does not drive it. -/
def execPinReset (s : State) : Host.Outcome State Fault Refusal :=
  sourceEvent (!s.rst.rstDriven && !waitsForPin s) (raiseSource .sys 3 false) s

/-- WATCHDOG (R678). -/
def execWatchdog (s : State) : Host.Outcome State Fault Refusal := sourceEvent true (raiseSource .sys 4 false) s

/-- A clock failure: SYS with cause 7, asserted afresh also while a reset waits for its release (R676, R685); while a PO source is
still raised, that one's level and cause stay (R682; LOG 41). -/
def failClock (s : State) : State :=
  let t := { s with rst := { s.rst with clockGood := false } }
  if s.rst.source then raiseSource .sys 7 false t else assertReset .sys 7 false t

/-- CLOCK_FAILURE (R676). -/
def execClockFailure (s : State) : Host.Outcome State Fault Refusal := sourceEvent true failClock s

/-- LOCK_UP (R139). -/
def execLockUp (s : State) : Host.Outcome State Fault Refusal := sourceEvent s.rst.run.isNone (raiseSource .core 8 false) s

/-! ### Start-up (R648, R657, R666 to R668, R670, R713) -/

/-- A slot's bundle passes the stageable level at a start (R659, R660, R666). -/
def bootable (p : Persist) (bs : List Byte) : Bool := verifyBytes p bs == 0 && stageable p (bundleInfo bs) == 0

def bootSlotOk (p : Persist) (x : FlashSlot) : Option BundleInfo := ((p.slot x).filter (bootable p)).map bundleInfo

/-- The slot and bundle a start takes from a slot, and whether it fell back (R667). -/
def chooseSlot (p : Persist) (x : FlashSlot) : Option (FlashSlot × BundleInfo × Bool) :=
  match bootSlotOk p x with
  | some b => some (x, b, false)
  | none => if p.fallbackAllowed then (bootSlotOk p x.other).map fun b => (x.other, b, true) else none

/-- The slot a start takes first: the boot slot, which a pending activation has moved; at a CORE reset the running slot (R665, R666). -/
def firstSlot (l : Level) (s : State) : FlashSlot :=
  if l = .core then s.sec.runningSlot else s.sec.activationPending.getD s.persist.bootSlot

/-- Settings that flash does not hold, or holds under another schema than the running bundle's, take their defaults (R670). -/
def checkSettings (b : Option BundleInfo) (p : Persist) : Persist :=
  let schema := b.map BundleInfo.schema
  if p.schema.isSome ∧ (schema = none ∨ schema = p.schema) then p
  else { p with debugPermitted := false, serialBinding := false, fallbackAllowed := true, schema := schema,
                settingsResets := satInc p.settingsResets }

/-- Loads and measures the images of a bundle (R657, R666). -/
def loadBundle (x : FlashSlot) (b : BundleInfo) (fellBack : Bool) (s : State) : State :=
  { s with
    persist := checkSettings (some b) s.persist,
    sec := { s.sec with runningSlot := x, running := some b, hallDigest := b.hallDigest, kioskDigest := b.kioskDigest,
                        gfDigest := b.gfDigest, bundleDigest := b.bundleDigest,
                        limited := if steppingOk s.persist b then 0 else 1,
                        fallbackStarts := if fellBack then satInc s.sec.fallbackStarts else s.sec.fallbackStarts } }

/-- The boot ROM takes a bundle, or starts in limited mode with none (R666 to R668). -/
def bootBundle (l : Level) (s : State) : State :=
  let x := firstSlot l s
  let s1 := if l = .core then s else
    { s with persist := { s.persist with bootSlot := x }, sec := { s.sec with activationPending := none } }
  match chooseSlot s1.persist x with
  | some (y, b, fell) => loadBundle y b fell { s1 with persist := if fell then { s1.persist with bootSlot := y } else s1.persist }
  | none => { s1 with
      persist := checkSettings none s1.persist,
      sec := { s1.sec with runningSlot := x, running := none, hallDigest := 0, kioskDigest := 0, gfDigest := 0, bundleDigest := 0,
                           limited := 2 } }

/-- The boot ROM draws the epoch, the incarnation and, but for CORE, the step tag, and reads the straps (R367, R580, R648, R711). -/
def drawValues (l : Level) (s : State) : State :=
  let n := s.freeCtr
  { s with
    sec := { s.sec with epoch := trngFresh64 s.sec.epoch n, counter := 0 },
    lk := { s.lk with incarnation := Config.trng (n + 1) },
    stash := if l = .core then s.stash else { s.stash with tag := trngNonzero32 (n + 2) },
    rst := { s.rst with position := if l = .core then s.rst.position else s.persist.straps },
    freeCtr := n + 3 }

/-- What a start does to the links: at a PO or SYS reset every present link's PHY adapts its equalisers (R579, R713). -/
def startLinks (l : Level) (s : State) : State :=
  if l = .core then s else { s with lk := s.lk.started s.persist.variant.avenues }

/-- Start-up runs once the stretch has ended and clock-good is TRUE; the module then drives RST_N no longer (R675, R685, R713). -/
def tryStart (s : State) : State :=
  match s.rst.run with
  | some r =>
    if r.stretchDone && s.rst.clockGood && !r.started then
      let t := startLinks r.level (bootBundle r.level (drawValues r.level s))
      { t with rst := { t.rst with run := some { r with started := true }, rstDriven := false } }
    else s
  | none => s

/-- RESET_STRETCH_END (R683): never while a source is still raised. -/
def execResetStretchEnd (s : State) : Host.Outcome State Fault Refusal :=
  match s.rst.run with
  | some r => sourceEvent (!r.stretchDone && !s.rst.source)
      (fun s => tryStart { s with rst := { s.rst with run := some { r with stretchDone := true } } }) s
  | none => sourceEvent false id s

/-- CLOCK_GOOD (R675). -/
def execClockGood (s : State) : Host.Outcome State Fault Refusal :=
  sourceEvent (!s.rst.clockGood && s.rst.run.isSome) (fun s => tryStart { s with rst := { s.rst with clockGood := true } }) s

/-- The work domain leaves reset, and the stacks self-refresh (R514): RESET_SEEN, and LIMITED on entry into limited mode (R637, R668). -/
def releaseReset (s : State) : State :=
  let t := { s with rst := { s.rst with run := none, rstDriven := false }, od := { s.od with alertPending := 1 },
                    stk := { s.stk with selfRefresh := Vector.replicate 32 false } }
  if s.sec.limited = 0 then t else raiseAlert 512 t

/-- RESET_RELEASE (R685). -/
def execResetRelease (s : State) : Host.Outcome State Fault Refusal :=
  match s.rst.run with
  | some r => sourceEvent (r.started && s.rst.clockGood && !s.rst.source) releaseReset s
  | none => sourceEvent false id s

end Sys2Proof.Machine
end

