-- ==== Sys2Proof/Machine/Plan.lean ====
section
/-! DEFINITION. Step plans (R252 to R258, R261, R262) and issuing their templates: patching, row windows, view tables, adapters
(R269, R278, R279), drafts (R282). -/

namespace Sys2Proof.Machine

/-! ### Plan records and patch words (R252, R253) -/

structure Plan where
  templates : Nat
  count : Nat
  patches : Nat
  context : Nat
  contextBytes : Nat
  layers : Nat
  layerBase : Nat
  maxRows : Nat
  reserved : Nat
  deriving DecidableEq, Repr, Inhabited

def planOf (w0 w1 w2 w3 : W64) : Plan :=
  { templates := fld w0 63 16, count := fld w0 15 0, patches := fld w1 63 16, context := fld w2 63 16, layers := fld w2 15 8,
    layerBase := fld w2 7 0, contextBytes := fld w3 63 32, maxRows := fld w3 31 0, reserved := fld w1 15 0 }

def readPlan (a : Nat) : M Plan := do
  return planOf (← readU64 a) (← readU64 (a + 8)) (← readU64 (a + 16)) (← readU64 (a + 24))

/-- A template with its patch word. -/
structure Template where
  d : Desc
  patch : W64
  deriving DecidableEq, Repr, Inhabited

def Template.scope (t : Template) : Nat := fld t.patch 63 62
def Template.pRows (t : Template) : Bool := bit t.patch 61
def Template.pAttn (t : Template) : Bool := bit t.patch 60
def Template.pWeight (t : Template) : Bool := bit t.patch 59
def Template.pAdapt (t : Template) : Bool := bit t.patch 58
def Template.pSample (t : Template) : Bool := bit t.patch 57
def Template.layer (t : Template) : Nat := fld t.patch 55 48
def Template.widx (t : Template) : Nat := fld t.patch 47 28

def readDesc (a : Nat) : M Desc := do
  return { w0 := ← readU64 a, w1 := ← readU64 (a + 8), w2 := ← readU64 (a + 16), w3 := ← readU64 (a + 24),
           w4 := ← readU64 (a + 32), w5 := ← readU64 (a + 40), w6 := ← readU64 (a + 48), w7 := ← readU64 (a + 56) }

def readTemplates (p : Plan) : M (List Template) :=
  (List.range p.count).mapM fun i => do return ⟨← readDesc (p.templates + 64 * i), ← readU64 (p.patches + 8 * i)⟩

/-- A plan with its templates. -/
structure Loaded where
  plan : Plan
  ts : List Template
  deriving DecidableEq, Repr, Inhabited

def loadPlan (a : Nat) : M Loaded := do
  let p ← readPlan a
  return ⟨p, ← readTemplates p⟩

/-- Both plans; no draft plan when 2800:06 is 0. -/
structure Plans where
  main : Loaded
  draft : Option Loaded
  deriving DecidableEq, Repr, Inhabited

def loadPlans : M Plans := do
  let s ← getS
  let m ← loadPlan s.sched.mainPlan.toNat
  if s.sched.draftPlan = 0 then return ⟨m, none⟩
  else return ⟨m, some (← loadPlan s.sched.draftPlan.toNat)⟩

def Plans.all (p : Plans) : List Loaded := p.main :: p.draft.toList

/-- NL of R261. -/
def Plans.nl (p : Plans) : Nat := p.all.foldl (fun m l => max m (l.plan.layerBase + l.plan.layers)) 0

/-! ### The check of both plans (R252, R253, R256, R261) -/

/-- A template against R253 and R256. -/
def templateOk (p : Plan) (draft : Bool) (t : Template) : Bool :=
  let c := descClass t.d
  bit t.patch 56 == false && fld t.patch 27 0 == 0 && t.scope != 3
  && (c == clsTile || c == clsKernel || c == clsAttn || c == clsSample || c == clsMove || c == clsFence)
  && (!t.pAttn || (c == clsAttn && t.layer < p.layers))
  && (!t.pWeight || (c == clsTile && t.scope != 0 && !draft))
  && (!t.pAdapt || (c == clsTile && t.scope == 2 && !draft))
  && (!t.pSample || c == clsSample)

def loadedOk (s : State) (draft : Bool) (l : Loaded) : Bool :=
  l.plan.reserved == 0 && 1 ≤ l.plan.count && 1 ≤ l.plan.layers && s.sched.slotsInService.toNat ≤ l.plan.maxRows
  && l.ts.all (templateOk l.plan draft)

/-- The page pool against R261. -/
def poolOk (s : State) (p : Plans) : Bool :=
  let pb := s.sched.pageBytes.toNat
  pb % 256 == 0
  && (p.all.all fun l => l.ts.all fun t => !t.pAttn || (attnFields t.d).pageBytes ≤ pb)
  && (match p.draft with
    | some l => p.main.plan.layerBase + p.main.plan.layers ≤ l.plan.layerBase
        || l.plan.layerBase + l.plan.layers ≤ p.main.plan.layerBase
    | none => true)
  && s.sched.poolBase.toNat + s.sched.groups.toNat * p.nl * pb ≤ stackEnd

def plansOk (s : State) (p : Plans) : Bool :=
  loadedOk s false p.main && (match p.draft with
    | some l => loadedOk s true l
    | none => true) && poolOk s p

/-! ### Rows (R254) -/

/-- The rows of one sequence in a pass over a plan: `first` is its first row, and `lead` rows come before the first it draws from. -/
structure SeqRows where
  num : Nat
  vslot : Nat
  akey : Nat
  adapter : Option Nat
  first : Nat
  n : Nat
  klen : Nat
  draws : Bool
  lead : Nat
  jd : Nat
  toks : List Nat
  drow : Nat
  seqNo : Nat
  t : Nat
  srec : Nat
  deriving DecidableEq, Repr, Inhabited

/-- Numbers rows and draft rows in order. -/
def numberRows : (row drow : Nat) → List SeqRows → List SeqRows
  | _, _, [] => []
  | row, drow, x :: t => { x with first := row, drow := drow } :: numberRows (row + x.n) (drow + x.toks.length) t

/-- The order of R254. -/
def rowsBefore (a b : SeqRows) : Bool :=
  a.vslot < b.vslot || (a.vslot == b.vslot && (a.akey < b.akey || (a.akey == b.akey && a.num < b.num)))

def insertRows (x : SeqRows) : List SeqRows → List SeqRows
  | [] => [x]
  | y :: t => if rowsBefore x y then x :: y :: t else y :: insertRows x t

def orderRows (l : List SeqRows) : List SeqRows := numberRows 0 0 (l.foldl (fun acc x => insertRows x acc) [])

/-- Adds a sequence to the runs of a scope. -/
def addRun (same : SeqRows → SeqRows → Bool) (x : SeqRows) : List (List SeqRows) → List (List SeqRows)
  | [] => [[x]]
  | g :: t => match g with
    | y :: _ => if same x y then (x :: g) :: t else [x] :: g :: t
    | [] => [x] :: t

/-- Maximal runs of sequences that a relation groups. -/
def runsOf (same : SeqRows → SeqRows → Bool) (l : List SeqRows) : List (List SeqRows) := l.foldr (addRun same) []

/-- The row groups a template is issued for (R253, R254); a scope with no rows issues nothing (R255). A version and adapter group is
split where sequences of one key hold different adapter slots (R277). -/
def scopeRuns (scope : Nat) (rows : List SeqRows) : List (List SeqRows) :=
  if rows.isEmpty then []
  else if scope = 0 then [rows]
  else if scope = 1 then runsOf (fun a b => a.vslot == b.vslot) rows
  else runsOf (fun a b => a.vslot == b.vslot && a.akey == b.akey && a.adapter == b.adapter) rows

def runFirst (g : List SeqRows) : Nat := (g.head?.map fun x => x.first).getD 0
def runRows (g : List SeqRows) : Nat := g.foldl (fun n x => n + x.n) 0

/-! ### The context region (R255) -/

/-- What the scheduler has put in the context region for an issue, and where (LOG 29). -/
structure Alloc where
  used : Nat
  made : List ((Nat × Nat) × Nat)

def Alloc.none : Alloc := ⟨0, []⟩

/-- Puts bytes in the context region at the next multiple of 256. -/
def putContext (p : Plan) (al : Alloc) (bs : List Byte) : M (Nat × Alloc) := do
  let a := ceilDiv (p.context + al.used) 256 * 256
  needDesc (a + bs.length ≤ p.context + p.contextBytes)
  writeBytes a bs
  return (a, { al with used := a + bs.length - p.context })

/-- Sets field [hi:lo] of a word. -/
def setFld (w : W64) (hi lo v : Nat) : W64 :=
  let m := 2 ^ (hi - lo + 1)
  BitVec.ofNat 64 (w.toNat - fld w hi lo * 2 ^ lo + v % m * 2 ^ lo)

/-- How far the planes of a record move when it begins at a later row: bytes of the element plane and of the scale plane; none
where no record begins there. -/
def windowShift (u : SlotUse) (t : TRec) (first : Nat) : Option (Nat × Nat) :=
  if t.linear then
    if rowLinear u t && !t.fmt.narrow && first < t.cols then some (first * t.fmt.width, 0)
    else if first = 0 then some (0, 0) else none
  else if t.rows ≤ first then none
  else if !t.fmt.narrow then some (first * t.cols * t.fmt.width, 0)
  else if t.bdim then (if first % 32 = 0 then some (first / 32 * t.cols * t.fmt.blockBytes, first / 32 * t.cols) else none)
  else
    let cb := ceilDiv t.cols 32
    some (first * cb * t.fmt.blockBytes, first * cb)

/-- The row-window copy of the record at an address, for the record of a pair its current buffer's; other slots are named as they
are (R255). -/
def windowCopy (p : Plan) (u : SlotUse) (first a : Nat) (al : Alloc) : M (Nat × Alloc) := do
  match al.made.find? fun m => m.1 == (a, first) with
  | some m => return (m.2, al)
  | none =>
    let k ← if a % 32 = 0 then (do return kindOf (← readU64 a)) else pure 0
    if k ≠ 0x71 ∧ k ≠ 0xB2 then return (a, al)
    else
      let t ← if k = 0xB2 then (do return (← getPair a).current) else getTRec a
      match windowShift u t first with
      | none => fail .badDescriptor
      | some sh =>
        let w0 ← readU64 t.addr
        let w1 ← readU64 (t.addr + 8)
        let w2 ← readU64 (t.addr + 16)
        let w3 ← readU64 (t.addr + 24)
        let w2' : W64 := if t.linear then BitVec.ofNat 64 (t.cols - if sh.1 = 0 then 0 else first)
          else setFld w2 63 32 (t.rows - first)
        let bs := [setFld w0 47 0 (t.elem + sh.1), if t.fmt.narrow then setFld w1 63 16 (t.scale + sh.2) else w1, w2', w3].flatMap
          fun w => leBytes 8 w.toNat
        let r ← putContext p al bs
        return (r.1, { r.2 with made := ((a, first), r.1) :: r.2.made })

/-- A parameter block whose slots, other than width operands and accumulators, name row windows (R255). -/
def windowBlock (p : Plan) (f : KernelFields) (first : Nat) : (n : Nat) → List KSlot → List Byte → Alloc → M (List Byte × Alloc)
  | _, [], acc, al => pure (acc, al)
  | n, x :: t, acc, al => do
    let w ← readU64 (f.param + 8 * n)
    if x.use = .width ∨ x.role = .acc then windowBlock p f first (n + 1) t (acc ++ leBytes 8 w.toNat) al
    else
      let r ← windowCopy p x.use first (fld w 63 16) al
      windowBlock p f first (n + 1) t (acc ++ leBytes 8 (setFld w 63 16 r.1).toNat) r.2

/-! ### Lists (R179, R210, R262, R334) -/

/-- The page table of layer l of a plan for a slot (R262). -/
def pageTable (s : State) (nl : Nat) (p : Plan) (l slot : Nat) : Nat :=
  s.sched.ptBase.toNat + 8 * s.sched.pagesPerSeq.toNat * (slot * nl + p.layerBase + l)

def queryEntry (s : State) (nl : Nat) (p : Plan) (l : Nat) (x : SeqRows) : List Byte :=
  leBytes 8 (pageTable s nl p l x.num * 2 ^ 16) ++ leBytes 8 0 ++ leBytes 8 (x.first * 2 ^ 32)
    ++ leBytes 8 (x.klen * 2 ^ 43 + x.n * 2 ^ 22)

/-- A sampling-list entry. In the draft plan it is a draft draw at slot `jd`; in the main plan a VERIFY of the drafts, or in a DRAW
template a committed draw at slot 0. -/
def sampleEntry (draft verify : Bool) (x : SeqRows) : List Byte :=
  let row := x.first + x.lead
  let d := !draft && verify
  let jd := if draft || verify then x.jd else 0
  leBytes 4 x.seqNo ++ leBytes 4 x.t ++ leBytes 4 row ++ leBytes 4 (if d then x.drow else 0) ++ leBytes 2 x.num ++ leBytes 6 x.srec
    ++ leBytes 1 jd ++ leBytes 1 (if draft || verify then 0 else 1) ++ List.replicate 6 0
    ++ ((List.range 8).flatMap fun i => leBytes 4 (if d then x.toks.getD i 0 else 0))

/-! ### Patching (R255, R269, R297) -/

/-- The view table entry a P_WEIGHT tile takes (R269, R562). -/
def viewEntry (v widx : Nat) : M Nat := do
  let s ← getS
  if h : v < 4 then
    let x := s.vers[v]
    needDesc (widx < x.entries)
    let w ← readU64 (x.table + 8 * widx)
    needDesc (fld w 63 48 == 0)
    return fld w 47 0
  else fail .badDescriptor

/-- How a plan is being run: its place, and the draft plan or the main plan. -/
structure PlanRun where
  plan : Plan
  nl : Nat
  draft : Bool

/-- The descriptor issued for a group of rows; none where a list it takes is empty. -/
def patchOne (r : PlanRun) (t : Template) (g : List SeqRows) (al : Alloc) : M (Option Desc × Alloc) := do
  let s ← getS
  let p := r.plan
  let first := runFirst g
  let n := runRows g
  let d := t.d
  let c := descClass d
  if c = clsTile then
    let d ← if t.pWeight then (do
        let b ← viewEntry ((g.head?.map fun x => x.vslot).getD 0) t.widx
        return { d with w3 := setFld d.w3 63 16 b }) else pure d
    if t.pRows then
      let a ← windowCopy p .data first (fld d.w2 63 16) al
      let y ← windowCopy p .data first (fld d.w4 63 16) a.2
      return (some { d with w2 := setFld d.w2 63 16 a.1, w4 := setFld d.w4 63 16 y.1, w5 := setFld d.w5 31 0 n }, y.2)
    else return (some d, al)
  else if c = clsKernel ∧ t.pRows then
    let f := kernelFields d
    let b ← windowBlock p f first 0 ((kernelSpec f.kernel).map KSpec.slots |>.getD []) [] al
    let k ← putContext p b.2 (b.1 ++ List.replicate (64 - b.1.length) 0)
    return (some { d with w2 := setFld d.w2 63 16 k.1, w3 := setFld d.w3 31 0 n, w5 := setFld d.w5 31 0 (f.rowBase + first) }, k.2)
  else if c = clsAttn ∧ t.pAttn then
    let q ← putContext p al (g.flatMap (queryEntry s r.nl p t.layer))
    return (some { d with w3 := BitVec.ofNat 64 (q.1 * 2 ^ 16 + g.length) }, q.2)
  else if c = clsSample then
    let d := { d with w5 := setFld d.w5 63 32 (if r.draft then s.sched.draftStream else s.sched.mainStream).toNat }
    if t.pSample then
      let l := g.filter fun x => x.draws
      if l.isEmpty then return (none, al)
      else
        let q ← putContext p al (l.flatMap (sampleEntry r.draft ((sampleFields d).mode == 1)))
        return (some { d with w3 := BitVec.ofNat 64 (q.1 * 2 ^ 16 + l.length) }, q.2)
    else return (some d, al)
  else return (some d, al)

/-! ### The adapter term (R278, R279) -/

structure Adapter where
  a : TRec
  b : TRec

/-- Entry WIDX of the adapter table of a group; none for an entry of zeros or a group without an adapter (R278, R562). -/
def adapterEntry (g : List SeqRows) (widx : Nat) : M (Option Adapter) := do
  match (g.head?).bind fun x => x.adapter with
  | none => return none
  | some slot =>
    let s ← getS
    if h : slot < 256 then
      let x := s.adapters[slot]
      needDesc (widx < x.entries)
      let w0 ← readU64 (x.table + 16 * widx)
      let w1 ← readU64 (x.table + 16 * widx + 8)
      if w0 = 0 ∧ w1 = 0 then return none
      else
        let a ← getTRec (fld w0 47 0)
        let b ← getTRec (fld w1 47 0)
        let small := fun (f : Fmt) => f == .f8a || f == .f4
        needDesc (!a.coded && !b.coded && small a.fmt && small b.fmt && a.bdim && b.bdim && 1 ≤ a.cols && a.cols ≤ 64 && b.rows == a.cols)
        return some ⟨a, b⟩
    else return none

/-- A row of h: drained into F8A with coarse scale 1.0, blocks of 32 along r (R279). -/
def drainH (f : F32) (r : Nat) (row : List Node) : List Num × Bool :=
  let bl := (List.range (ceilDiv r 32)).map fun b => convBlock .f8a false ((List.range 32).map fun i =>
    if 32 * b + i < r then (Num.mul (a34Dec (row.getD (32 * b + i) ⟨a34Zero, 0, none, 0⟩).val) (f32Dec f), Rnd.rne)
    else (Num.zero, Rnd.rne))
  ((bl.flatMap fun x => x.codes.map fun c => scaledElem x.s8 (Fmt.decode .f8a c)).take r, bl.any Block.sat)

/-- A plain TILE with an adapter term: w = vW × fW + vh × fh, rounded once (R279). -/
def adaptCompute (t : TileFields) (x : TileSlots) (y : OutSlot) (ad : Adapter) : M Unit := do
  let s ← getS
  let (xa, w) ← openTile t x
  let r := ad.a.cols
  let aop ← openRec ad.a t.k r
  let bop ← openRec ad.b r t.n
  modS (t.useArrays xa w)
  let nodes := tileNodes t xa w
  let hs := (List.range t.m).map fun m => (List.range r).map fun j => dotNode (fun k => Num.mul (xa.num m k) (aop.num k j)) t.k
  let drained := hs.map (drainH (drainFactor x.a.cs ad.a.cs f32One) r)
  let vh := drained.map fun h => (List.range t.n).map fun n => dotNode (fun j => Num.mul (h.1.getD j Num.zero) (bop.num j n)) r
  let fw := f32Dec (drainFactor x.a.cs x.b.cs y.rec'.cs)
  let fh := f32Dec (drainFactor f32One ad.b.cs y.rec'.cs)
  let e := nodesExc nodes ||| nodesExc hs ||| nodesExc vh ||| excIf (drained.any Prod.snd) excSaturated
    ||| t.bound
  let depth := ceilLog2 t.panels
  setInfo (tileInfo e depth (nodesLatch nodes))
  discard (writeTensor y.rec' { prop := propOf s y.rec'.fmt t.ovf, rnd := rndOf (stochOf s t.rnd) s.rng.seed.toNat t.stream } t.m t.n
    fun m n => Num.add (Num.mul (a34Dec (nodeAt nodes m n).val) fw) (Num.mul (a34Dec (nodeAt vh m n).val) fh))

/-- A TILE issued with P_ADAPT. An output in A34, which R279 does not reach, holds free values (LOG 30). -/
def adaptTile (d : Desc) (ad : Adapter) : M Unit := do
  let t := tileFields d
  setInfo (tileInfo t.bound 0 none)
  let x ← orUnread (tileReach t) (orClose t (tileReady d))
  match x.y with
  | none => tileWork d x
  | some y =>
    needDesc (!t.terrace && pairOk x.a.fmt ad.a.fmt && t.k ≤ ad.a.rows && t.n ≤ ad.b.cols
      && f32FiniteNormal (drainFactor x.a.cs ad.a.cs f32One)
      && (y.rec'.fmt == .a34 || f32FiniteNormal (drainFactor f32One ad.b.cs y.rec'.cs)))
    t.start
    if t.m = 0 ∨ t.n = 0 then pure ()
    else if y.rec'.fmt = .a34 then modS fun s => (tileOuts t x).foldl (fun s r => scramble r.1 r.2 s) s
    else orScramble (tileOuts t x) (adaptCompute t x y ad)

/-! ### Issuing (R257, R258) -/

/-- A STEP fence of the scheduler acts (R380). -/
def schedStepFence : M Unit := do
  holdIf (!copiesThere (← getS))
  let s ← getS
  let r := stepFenceAct s
  modS fun _ => r.2
  if r.1.1 = .ok then pure () else throw ⟨r.1.1, r.1.2, false⟩

/-- A FENCE on the scheduler's own queue; the step waits with it. When the time of a WAIT is up is the environment's, so a free choice
(R555; LOG 34). -/
def schedFence (d : Desc) : M Unit := do
  needDesc (fenceFieldsOk (fenceQid d + 1) d)
  let s ← getS
  match fenceKind d with
  | 0 => pure ()
  | 1 =>
    if hasRetired s (fenceQid d) (fenceW d) then pure ()
    else if Config.freePick s.freeCtr % 2 = 1 then fail .timeout
    else hold
  | 2 =>
    holdIf (!allQuiet s s.q.nextOrder)
    schedStepFence
  | _ => holdIf (!allQuiet s s.q.nextOrder)

/-- Runs one descriptor; a SAMPLE answers its entries. -/
def issueBody (t : Template) (g : List SeqRows) (d : Desc) : M (List SOut) := do
  let c := descClass d
  needDesc (!headerBad d)
  need (classAllowed c (← getS).turn.cur) .wrongTurn
  if c = clsTile then
    if t.pAdapt then
      match ← adapterEntry g t.widx with
      | some ad => adaptTile d ad
      | none => tileBody d
    else tileBody d
    return []
  else if c = clsKernel then
    kernelBody d
    return []
  else if c = clsAttn then
    attnBody d
    return []
  else if c = clsSample then sampleWork d (← sampleReady d true)
  else if c = clsMove then
    moveBody d
    return []
  else if c = clsFence then
    schedFence d
    return []
  else fail .badDescriptor

/-- Has a class an exception word? -/
def hasExc (c : Nat) : Bool := c == clsTile || c == clsKernel || c == clsAttn || c == clsSample

/-- The step's combined exception word, kept in `info` between issues (R258). -/
def keepExc (c : Nat) (acc : List Byte) : M Unit := modify fun w =>
  { w with info := leBytes 2 ((BitVec.ofNat 16 (leNat (acc.take 2))) ||| (if hasExc c then BitVec.ofNat 16 (leNat (w.info.take 2)) else 0 :
    W16)).toNat }

/-- What the accesses of an issue mean for descriptors in flight (R547); an issue that read unspecified bytes reports free events. -/
def settleIssue : M Unit := modify fun w =>
  let s := settleWork w
  let racy := w.s.q.inflight.any fun x => racyReads w.reads x.writes
  { w with s := if racy then { s with freeCtr := s.freeCtr + 16 } else s, reads := [], writes := [], units := [], await := .nothing,
           info := if racy then (List.range 16).map fun i => Config.freeByte (s.freeCtr + i) else w.info }

/-- Did the work so far read bytes that a descriptor in flight writes? -/
def readsRacy : M Bool := do
  let w ← get
  return w.s.q.inflight.any fun x => racyReads w.reads x.writes

/-- Unspecified bytes may be such as a class refuses (R547; LOG 11). -/
def mayRefuse (racy : Bool) : M Unit := do
  if racy then
    let n := (← getS).freeCtr
    modS fun s => { s with freeCtr := s.freeCtr + 1 }
    need (freeStatus n .ok == .ok) (freeStatus n .ok)
  else pure ()

/-- An issue ends with the status of a write that a protected range suppressed on its way, its outputs unspecified (R456). -/
def lateFails : M Unit := do
  match (← get).late with
  | none => pure ()
  | some f =>
    modify fun w => { w with s := w.writes.foldl (fun s a => scramble a.lo a.len s) w.s, late := none }
    throw f

/-- Runs work as one issue of a class. -/
def asIssue {α : Type} (c : Nat) (m : M α) : M α := do
  let acc := (← get).info
  setInfo zeros16
  let done : M Bool := do
    let racy ← readsRacy
    settleIssue
    keepExc c acc
    return racy
  let x ← tryCatch (do
      let x ← m
      lateFails
      return x) fun e => do
    discard done
    throw e
  mayRefuse (← done)
  return x

/-- The TILE of a pair, with its adapter term where it has one. -/
def pairTile (t : Template) (g : List SeqRows) (d : Desc) (x : TileSlots) : M Unit := do
  if t.pAdapt then
    match ← adapterEntry g t.widx with
    | some ad => adaptTile d ad
    | none => tileHalf d x
  else tileHalf d x

/-- A fused pair of templates of one scope (R162 to R165). -/
def issueFused (t u : Template) (g : List SeqRows) (d1 d2 : Desc) : M Unit := do
  needDesc (!headerBad d1 && !headerBad d2)
  let r ← asIssue (descClass d1) (do
    setInfo (halfInfo d1)
    fusedChecks d1 d2)
  let half := fun (t : Template) (d : Desc) => asIssue (descClass d) (do
    setInfo (halfInfo d)
    orUnread (halfReach d) (if descClass d == clsKernel then kernelHalf d r.k else pairTile t g d r.x))
  let bytes ← holding (saveRanges (← getS) r.fused) (half t d1)
  discard (holding bytes (half u d2))

/-! ### Drafts (R282, R311) -/

/-- A logit row as stored: its format and bytes. -/
structure LogitRow where
  fmt : Fmt
  bytes : List Byte
  deriving DecidableEq, Repr

/-- What a sequence has drafted. -/
structure Drafted where
  num : Nat
  toks : List Nat
  rows : List LogitRow
  stopped : Bool
  deriving Repr

def rowBytes (s : State) (t : TRec) (r v : Nat) : List Byte := peekList s (t.elem + r * t.cols * t.fmt.width) (v * t.fmt.width)

/-- Makes the draft rows a VERIFY names hold, bit for bit, the logits its draft draws sampled (R311; LOG 31). -/
def placeDrafts (d : Desc) (g : List SeqRows) (ds : List Drafted) : M Unit := do
  let f := sampleFields d
  if f.mode ≠ 1 then pure ()
  else
    let t ← getTRec f.dlogits
    g.forM fun x => match ds.find? fun y => y.num == x.num with
      | none => pure ()
      | some y => (y.rows.zipIdx).forM fun r =>
        if r.1.fmt = t.fmt ∧ x.drow + r.2 < t.rows ∧ r.1.bytes.length ≤ t.cols * t.fmt.width then
          writeBytes (t.elem + (x.drow + r.2) * t.cols * t.fmt.width) r.1.bytes
        else pure ()

/-- The outcome of a SAMPLE for each sequence it names. -/
structure Sampled where
  num : Nat
  out : SOut
  row : Option LogitRow

/-- Issues one template for one group of rows. -/
def issueOne (r : PlanRun) (ds : List Drafted) (t : Template) (g : List SeqRows) : M (List Sampled) := do
  let p ← patchOne r t g Alloc.none
  match p.1 with
  | none => return []
  | some d =>
    if descClass d = clsSample ∧ t.pSample ∧ !r.draft then orUnreadBy (sampleReach d) (placeDrafts d g ds)
    let outs ← issueBody t g d
    let s ← getS
    let l := g.filter fun x => x.draws
    if !t.pSample then return []
    else if r.draft then
      let f := sampleFields d
      let rec' ← getTRec f.logits
      return (l.zip outs).map fun x => ⟨x.1.num, x.2, some ⟨rec'.fmt, rowBytes s rec' x.1.first f.vocab⟩⟩
    else return (l.zip outs).map fun x => ⟨x.1.num, x.2, none⟩

/-- Patches and issues a fused pair for one group; both descriptors name the same copies. -/
def issuePair (r : PlanRun) (t u : Template) (g : List SeqRows) : M Unit := do
  let a ← patchOne r t g Alloc.none
  let b ← patchOne r u g a.2
  match a.1, b.1 with
  | some d1, some d2 => issueFused t u g d1 d2
  | _, _ => pure ()

/-- The context region's bytes other than what an issue puts there are free values (R255; LOG 29). -/
def freshContext (p : Plan) : M Unit := modS (scramble p.context p.contextBytes)

/-- Issues one template for each group of its scope. -/
def issueScope (r : PlanRun) (ds : List Drafted) (rows : List SeqRows) (t : Template) : M (List Sampled) := do
  let x ← (scopeRuns t.scope rows).mapM fun g => do
    freshContext r.plan
    asIssue (descClass t.d) (issueOne r ds t g)
  return x.flatten

/-- Do two adjacent templates form a fused pair (R162)? -/
def fusedTemplates (t u : Template) : Bool := isFused t.d u.d && t.scope == u.scope

/-- Issues templates in order (R255, R257). -/
def issueAll (r : PlanRun) (ds : List Drafted) (rows : List SeqRows) : List Template → M (List Sampled)
  | [] => pure []
  | [t] => issueScope r ds rows t
  | t :: u :: rest => do
    if fusedTemplates t u then
      (scopeRuns t.scope rows).forM fun g => do
        freshContext r.plan
        issuePair r t u g
      issueAll r ds rows rest
    else
      let x ← issueScope r ds rows t
      return x ++ (← issueAll r ds rows (u :: rest))

end Sys2Proof.Machine
end

