-- ==== Sys2Proof/Machine/Sched.lean ====
section
/-! DEFINITION. The step scheduler: SCHEDULER_STEP (R243 to R263, R266, R267, R281 to R291). -/

namespace Sys2Proof.Machine

/-! ### What the scheduler reads and writes itself -/

/-- Part of a range lies in a stack in reset (R515). -/
def rangeInReset (s : State) (a len : Nat) : Bool := a < stackEnd && (linesOf a len).any (inResetAt s)

/-- The scheduler reads bytes: it asks for companion lines that it lacks, and waits for them and for a stack in reset; none where the bytes
cannot be had (LOG 18). -/
def schedRead (a len : Nat) : M (Option (List Byte)) := do
  needLines a len
  let w ← get
  holdIf (rangeInReset w.s a len)
  let s ← getS
  let r := readByHall a len s
  modS fun _ => r.2
  let lines := linesOf a len
  let refused := w.lines.any fun l => l.status != 0 && lines.contains l.line
  return if r.1 || refused || lines.any (fun l => (locOf s l).isNone) then none else some (peekList r.2 a len)

/-! ### The admission ring (R247 to R251) -/

/-- The words of ring entry i; free words where it cannot be read (LOG 18). -/
def admEntry (i : Nat) : M (List W64) := do
  let s ← getS
  match ← schedRead (s.sched.admBase.toNat + 256 + 64 * (i % s.sched.admEntries.toNat)) 64 with
  | some bs => return (List.range 8).map fun k => BitVec.ofNat 64 (leNat ((bs.drop (8 * k)).take 8))
  | none =>
    let n ← freeBlock 8
    return (List.range 8).map fun k => Config.freeW64 (n + k)

/-- How many entries wait: none where TAIL cannot be read (LOG 18). -/
def admWaiting : M Nat := do
  let s ← getS
  match ← schedRead s.sched.admBase.toNat 4 with
  | some bs => return (BitVec.ofNat 32 (leNat bs) - s.sched.admHead).toNat
  | none => return 0

/-- The fields of an admission entry (R249). -/
structure Adm where
  type : Nat
  tenant : Nat
  vsel : Nat
  draft : Nat
  seqNo : Nat
  key : Nat
  maxNew : Nat
  prompt : Nat
  promptLen : Nat
  maxLen : Nat
  sampleRec : Nat
  stops : List W32
  reservedOk : Bool
  rest0 : Bool
  deriving DecidableEq, Repr, Inhabited

def admOf (ws : List W64) : Adm :=
  let w := fun i => ws.getD i 0
  let stop := fun i hi lo => (BitVec.ofNat 32 (fld (w i) hi lo) : W32)
  { type := fld (w 0) 7 0, tenant := fld (w 0) 15 8, vsel := fld (w 0) 23 16, draft := fld (w 0) 31 24, seqNo := fld (w 0) 63 32,
    key := fld (w 1) 15 0, maxNew := fld (w 1) 63 32, prompt := fld (w 2) 47 0, promptLen := fld (w 3) 31 0,
    maxLen := fld (w 3) 63 32, sampleRec := fld (w 4) 47 0, stops := [stop 5 31 0, stop 5 63 32, stop 6 31 0, stop 6 63 32],
    reservedOk := fld (w 1) 31 16 == 0 && fld (w 2) 63 48 == 0 && fld (w 4) 63 48 == 0 && w 7 == 0,
    rest0 := fld (w 0) 31 8 == 0 && (List.range 7).all fun i => w (i + 1) == 0 }

/-- The LIVE adapter slot of a key (R277). -/
def liveAdapter (s : State) (key : Nat) : Option Nat :=
  (List.range 256).find? fun i => if h : i < 256 then (s.adapters[i]).state == .live && (s.adapters[i]).key == key else false

/-- The version slot an admission names: version 0, or the start version (R249). -/
def admVersion (s : State) (a : Adm) : Option Nat :=
  if a.vsel = 1 then s.sched.startVersion.map fun v => v.val
  else if (s.vers[0]).state = .live then some 0 else none

def seqHeld (s : State) (n : Nat) : Bool := s.sched.slots.any fun x => x.seqNo.toNat == n

/-- Is an admission refused (R250)? A cancel entry whose other fields are not 0, which R249 does not admit, is refused as an admission
whose TYPE is not 1 is: the model's choice (LOG 74). -/
def admRefused (s : State) (a : Adm) : Bool :=
  !(a.type == 1 && a.reservedOk && a.tenant ≤ 15 && a.vsel ≤ 1 && a.draft ≤ 8 && (a.draft == 0 || s.sched.draftPlan != 0)
    && a.seqNo < 2 ^ 19 && a.key ≤ 16383 && 1 ≤ a.promptLen && a.promptLen ≤ a.maxLen
    && a.maxLen ≤ 256 * s.sched.pagesPerSeq.toNat)
  || seqHeld s a.seqNo || (admVersion s a).isNone || (a.key != 0 && (liveAdapter s a.key).isNone)

/-- Can an admission be placed (R248)? -/
def admPlaced (s : State) (a : Adm) : Bool :=
  let n := ceilDiv a.promptLen 256
  s.sched.slots.length < s.sched.slotsInService.toNat && n ≤ groupsFree s && s.sched.reserve.toNat ≤ groupsFree s - n

/-- Element number `n` modulo the length. -/
def pickOf (l : List Nat) (n : Nat) : Nat := l.getD (n % max 1 l.length) 0

/-- Takes `n` free page groups; which ones is a free choice (LOG 15). -/
def takeGroups : (n : Nat) → (held : List Nat) → State → List Nat × State
  | 0, _, s => ([], s)
  | n + 1, held, s =>
    let free := (List.range s.sched.groups.toNat).filter fun g => !held.contains g
    let g := pickOf free (Config.freePick s.freeCtr)
    let r := takeGroups n (g :: held) { s with freeCtr := s.freeCtr + 1 }
    (g :: r.1, r.2)

/-- START and GATE of a sampling record; free, and no gate, where it cannot be read (LOG 18). -/
def admGate (a : Adm) : M (Nat × Nat) := do
  match ← schedRead (a.sampleRec + 12) 12 with
  | some bs => return (leNat (bs.take 4), leNat (bs.drop 6))
  | none =>
    let n ← freeBlock 1
    return (Config.freePick n % 2 ^ 24, 0)

/-- Places an admission in a free slot (a free choice, LOG 15), with its groups, and sets its gate state to START (R248, R316). -/
def placeAdm (a : Adm) (start gate : Nat) (s : State) : State :=
  let free := (List.range s.sched.slotsInService.toNat).filter fun n => !(s.sched.slots.any fun x => x.num == n)
  let num := pickOf free (Config.freePick s.freeCtr)
  let r := takeGroups (ceilDiv a.promptLen 256) (groupsHeld s) { s with freeCtr := s.freeCtr + 1 }
  let x : SeqSlot :=
    { num := num, state := .prefill, suspended := false, tenant := a.tenant, vsel := a.vsel, draft := a.draft,
      seqNo := BitVec.ofNat 32 a.seqNo, adapterKey := a.key, maxNew := a.maxNew, prompt := a.prompt, promptLen := a.promptLen,
      maxLen := a.maxLen, sampleRec := a.sampleRec, stops := a.stops, prompted := 0, yielded := 0, vslot := (admVersion s a).getD 0,
      adapter := if a.key = 0 then none else liveAdapter s a.key, groups := r.1, win := [], offLeft := 0 }
  keepTable num gate { r.2 with sched := { r.2.sched with slots := r.2.sched.slots ++ [x] },
                                gate := { r.2.gate with states := gateSet num 0 start r.2.gate.states } }

/-- The record entry of a refused admission (R250, R290). -/
def refusalEntry (a : Adm) : BatchEntry :=
  { seqNo := a.seqNo, slot := 0xFFFF, tenant := a.tenant, endCode := endRefused, vserial := 0, vslot := 0, toks := [], proposed := 0,
    accepted := 0, agen := 0, akey := a.key, flags := 0, length := 0, step := 0 }

/-- Takes the entry at HEAD: HEAD moves, in memory too (R247, R248). -/
def takeHead (s : State) : State :=
  let h := s.sched.admHead + 1
  schedWrite (s.sched.admBase.toNat + 128) (leBytes 4 h.toNat) { s with sched := { s.sched with admHead := h } }

/-- What reading the ring gives: refusals in ring order, and the slots whose sequences are cancelled. -/
structure RingOut where
  refusals : List BatchEntry
  cancels : List Nat
  deriving DecidableEq, Repr, Inhabited

/-- Takes entries in ring order, at most `n`, and stops at the first admission that cannot be placed (R248). -/
def takeRing : (n : Nat) → RingOut → M RingOut
  | 0, r => pure r
  | n + 1, r => do
    let a := admOf (← admEntry (← getS).sched.admHead.toNat)
    let s ← getS
    if a.type = 2 ∧ a.rest0 then
      modS takeHead
      takeRing n { r with cancels := r.cancels ++ (s.sched.slots.filter fun x => x.seqNo.toNat == a.seqNo).map fun x => x.num }
    else if admRefused s a then
      modS fun s => takeHead { s with sched := { s.sched with refused := satInc s.sched.refused } }
      takeRing n { r with refusals := r.refusals ++ [refusalEntry a] }
    else if admPlaced s a then
      let g ← admGate a
      modS fun s => takeHead (placeAdm a g.1 g.2 s)
      takeRing n r
    else return r

/-! ### One step's view of a sequence -/

/-- A sequence in a step: how it ended, its record flags, its token rows, its drafts, and whether an entry is due without rows. -/
structure Live where
  x : SeqSlot
  wasPrefill : Bool
  endCode : Nat
  flags : Nat
  rows : Nat
  d : Nat
  due : Bool
  deriving Repr

def Live.runs (l : Live) : Bool := l.rows != 0

/-- Does a forced retirement end a sequence (R266, R280)? -/
def forcedEnd (s : State) (x : SeqSlot) : Nat :=
  if h : x.vslot < 4 then
    if (s.vers[x.vslot]).state = .retiring ∧ (s.vers[x.vslot]).force then endVersion
    else match x.adapter with
      | some a => if h : a < 256 then (if (s.adapters[a]).state = .retiring ∧ (s.adapters[a]).force then endAdapter else 0) else 0
      | none => 0
  else 0

/-- Step 2 for one sequence: cancels, forced ends, resuming, and the move of a PIN_STEP sequence (R251, R266). -/
def boundaryOne (s : State) (cancels : List Nat) (resume : Bool) (x : SeqSlot) : Live :=
  let l : Live := { x := x, wasPrefill := x.state == .prefill, endCode := 0, flags := 0, rows := 0, d := 0, due := false }
  let e := if cancels.contains x.num then endCancelled else if x.suspended && !resume then 0 else forcedEnd s x
  if e ≠ 0 then { l with endCode := e }
  else if x.suspended && !resume then l
  else
    let l := if x.suspended then { l with x := { x with suspended := false }, flags := flagResumed, due := true } else l
    match s.sched.startVersion with
    | some v =>
      if (s.sched.pinning.getD x.tenant 0) = 1 ∧ x.vsel = 1 ∧ x.vslot ≠ v.val then
        { l with x := { l.x with vslot := v.val }, flags := l.flags + flagMoved }
      else l
    | none => l

/-- Does a sequence take part in choosing rows? -/
def Live.active (l : Live) : Bool := l.endCode == 0 && !l.x.suspended

/-- Step 3 for one sequence: 1 + d rows; drafting that is off takes none for its period (R281, R286). A draft whose position the
page table does not cover is not taken (LOG 32). -/
def decodeOne (s : State) (l : Live) : Live :=
  if l.active ∧ l.x.state = .decode then
    let off := l.x.offLeft
    let d := if 1 < off then 0 else min l.x.draft (256 * s.sched.pagesPerSeq.toNat - l.x.length)
    { l with d := d, rows := 1 + d, x := { l.x with offLeft := off - 1 }, flags := l.flags + if off = 1 then flagDraftOn else 0 }
  else l

def rowsOf (ls : List Live) : Nat := ls.foldl (fun n l => n + l.rows) 0

/-- Cuts drafts in decreasing slot order until the rows fit (R281). `ls` is in decreasing order. -/
def cutDrafts : (excess : Nat) → List Live → List Live
  | _, [] => []
  | e, l :: t =>
    let c := min e l.d
    { l with d := l.d - c, rows := l.rows - c } :: cutDrafts (e - c) t

/-- Step 4: chunks of prefill sequences in slot order (R260). -/
def prefillAll (maxRows : Nat) : (allow taken : Nat) → List Live → List Live
  | _, _, [] => []
  | allow, taken, l :: t =>
    if l.active ∧ l.x.state = .prefill then
      let c := min (l.x.promptLen - l.x.prompted) (min allow (maxRows - taken))
      { l with rows := c } :: prefillAll maxRows (allow - c) (taken + c) t
    else l :: prefillAll maxRows allow taken t

/-- Positions a live sequence's rows reach. -/
def Live.klen (l : Live) : Nat := match l.x.state with
  | .prefill => l.x.prompted + l.rows
  | .decode => l.x.length + l.d

/-- Step 5: a decode sequence takes the page group its rows need, in slot order (R263). -/
def pagesAll : List Live → (held : List Nat) → State → List Live × State
  | [], _, s => ([], s)
  | l :: t, held, s =>
    let have' := 256 * l.x.groups.length
    if l.active ∧ l.x.state = .decode ∧ have' < l.klen then
      if held.length < s.sched.groups.toNat then
        let g := takeGroups 1 held s
        let r := pagesAll t (g.1 ++ held) g.2
        ({ l with x := { l.x with groups := l.x.groups ++ g.1 } } :: r.1, r.2)
      else
        let r := pagesAll t held s
        (if l.x.length ≤ have' then { l with d := have' - l.x.length, rows := 1 + (have' - l.x.length) } :: r.1
         else { l with endCode := endNoPage, rows := 0, d := 0 } :: r.1, r.2)
    else
      let r := pagesAll t held s
      (l :: r.1, r.2)

/-! ### Rows, drafting, the main plan -/

/-- Is a token drawn for a live sequence in this step (R260, R263)? That none is drawn for a sequence whose PROMPT_LEN is its MAX_LEN, which
ends MAX_LEN after its prefill, is the model's choice (LOG 76). -/
def Live.drawsToken (l : Live) : Bool := l.runs && match l.x.state with
  | .decode => true
  | .prefill => l.x.prompted + l.rows == l.x.promptLen && l.x.maxNew != 0 && decide (l.x.promptLen < l.x.maxLen)

def Live.seqRows (l : Live) (ds : List Drafted) : SeqRows :=
  let toks := ((ds.find? fun y => y.num == l.x.num).map Drafted.toks).getD []
  { num := l.x.num, vslot := l.x.vslot, akey := l.x.adapterKey, adapter := l.x.adapter, first := 0, n := l.rows, klen := l.klen,
    draws := l.drawsToken, lead := match l.x.state with
      | .prefill => l.rows - 1
      | .decode => 0, jd := toks.length, toks := toks, drow := 0, seqNo := l.x.seqNo.toNat, t := l.x.yielded, srec := l.x.sampleRec }

/-- The rows of drafting pass i: one for each sequence that still drafts (R282). -/
def draftRows (ls : List Live) (ds : List Drafted) (i : Nat) : List SeqRows :=
  orderRows ((ls.filter fun l => i < l.d && !(ds.any fun y => y.num == l.x.num && y.stopped)).map fun l =>
    { l.seqRows [] with n := 1, klen := l.x.length + i, draws := true, lead := 0, jd := i })

/-- What a drafting pass adds: the token drawn, or the end of the sequence's drafting (R317). -/
def addDraft (r : Sampled) (ds : List Drafted) : List Drafted :=
  ds.map fun y => if y.num = r.num then
      match r.out.toks.head?, r.row with
      | some t, some w => { y with toks := y.toks ++ [t.index], rows := y.rows ++ [w] }
      | _, _ => { y with stopped := true }
    else y

/-- What a drafting pass that named some rows and drew some tokens adds; a sequence it drew nothing for drafts no further. -/
def addPass (rows : List SeqRows) (out : List Sampled) (ds : List Drafted) : List Drafted :=
  out.foldl (fun ds r => addDraft r ds) (ds.map fun y =>
    if (rows.any fun x => x.num == y.num) && !(out.any fun r => r.num == y.num) then { y with stopped := true } else y)

/-- What the plans gave, as far as they came, and the failure that ended them. -/
structure PlanOut where
  drafts : List Drafted
  outs : List Sampled
  failed : Option Fail

/-- Runs the draft plan for passes `i` on (R282); where one fails, the drafts of the passes before it stand. -/
def runDrafts (p : Plans) (l : Loaded) (ls : List Live) : (left i : Nat) → List Drafted → M PlanOut
  | 0, _, ds => pure ⟨ds, [], none⟩
  | n + 1, i, ds => do
    let rows := draftRows ls ds i
    match ← attempt (issueAll ⟨l.plan, p.nl, true⟩ [] rows l.ts) with
    | .ok out => runDrafts p l ls n (i + 1) (addPass rows out ds)
    | .error e => pure ⟨ds, [], some e⟩

/-- Writes the page-table entries of the sequences that run (R195, R261, R262). -/
def writePages (p : Plans) (ls : List Live) : M Unit := do
  let s ← getS
  let pb := s.sched.pageBytes.toNat
  p.all.forM fun l => (List.range l.plan.layers).forM fun layer =>
    match l.ts.find? fun t => t.pAttn && t.layer == layer with
    | none => pure ()
    | some t => (ls.filter Live.runs).forM fun x => (x.x.groups.zipIdx).forM fun g =>
      let page := s.sched.poolBase.toNat + g.1 * p.nl * pb + pb * (l.plan.layerBase + layer)
      writeBytes (pageTable s p.nl l.plan layer x.x.num + 8 * g.2) (leBytes 8 (page * 2 ^ 16 + (attnFields t.d).kvFmt))

/-- Drafting (R282). -/
def draftPasses (p : Plans) (ls : List Live) : M PlanOut :=
  let ds := (ls.filter fun l => l.d != 0).map fun l => (⟨l.x.num, [], [], false⟩ : Drafted)
  match p.draft with
  | some l => runDrafts p l ls (ls.foldl (fun m l => max m l.d) 0) 0 ds
  | none => pure ⟨ds, [], none⟩

/-- The main plan, once drafting has ended well (R283). -/
def mainPlan (p : Plans) (ls : List Live) (ds : List Drafted) : M PlanOut := do
  match ← attempt (issueAll ⟨p.main.plan, p.nl, false⟩ ds (orderRows ((ls.filter Live.runs).map fun l => l.seqRows ds)) p.main.ts) with
  | .ok outs => return ⟨ds, outs, none⟩
  | .error e => return ⟨ds, [], some e⟩

/-- Steps 5 to 8: page tables, drafting, the main plan. -/
def runPlans (p : Plans) (ls : List Live) : M PlanOut := do
  match ← attempt (writePages p ls) with
  | .error e => return ⟨[], [], some e⟩
  | .ok _ =>
    let d ← draftPasses p ls
    if d.failed.isSome then return d else mainPlan p ls d.drafts

/-! ### Ends (R263, R285, R286) -/

/-- Takes tokens in slot order until one ends the sequence (R285). -/
def takeToks (x : SeqSlot) : (yielded : Nat) → List STok → List STok × Nat
  | _, [] => ([], 0)
  | y, t :: rest =>
    let e :=
      if t.final || (t.index != 0xFFFFFFFF && x.stops.any fun w => w.toNat == t.index) then endStop
      else if y + 1 = x.maxNew then endMaxNew
      else if x.promptLen + y + 1 = x.maxLen then endMaxLen
      else 0
    if e ≠ 0 then ([t], e)
    else
      let r := takeToks x (y + 1) rest
      (t :: r.1, r.2)

/-- A finished sequence of the step: its slot afterwards, its end and its record entry. -/
structure Done where
  x : SeqSlot
  endCode : Nat
  entry : BatchEntry
  show' : Bool
  off : Bool

/-- The window of R286 after a verify step, and whether drafting is switched off. -/
def draftWindow (s : State) (win : List (Nat × Nat)) (p a : Nat) : List (Nat × Nat) × Bool :=
  if p = 0 then (win, false)
  else
    let w := win ++ [(p, a)]
    let w := w.drop (w.length - 64)
    let sp := w.foldl (fun n x => n + x.1) 0
    let sa := w.foldl (fun n x => n + x.2) 0
    if w.length = 64 ∧ 65536 * sa < s.sched.threshold.toNat * sp then ([], true) else (w, false)

/-- The record entry of a live sequence. -/
def liveEntry (s : State) (l : Live) (x : SeqSlot) (e flags p a : Nat) (toks : List STok) : BatchEntry :=
  { plainEntry s x e flags with
    toks := toks.map fun t => ⟨x.vslot, t.drafted, t.index, t.lpS, t.lpR⟩
    proposed := p
    accepted := a
    flags := flags + if l.wasPrefill then flagPrefill else 0
    step := l.x.yielded }

/-- Drafts proposed for a sequence in a step (R290). -/
def proposedFor (ds : List Drafted) (l : Live) : Nat := ((ds.find? fun y => y.num == l.x.num).map fun y => y.toks.length).getD 0

/-- Step 9 for a sequence of a step that succeeded. -/
def doneOne (s : State) (o : PlanOut) (l : Live) : Done :=
  if !l.runs then ⟨l.x, l.endCode, liveEntry s l l.x l.endCode l.flags 0 0 [], l.endCode != 0 || l.due, false⟩
  else
    let out := (o.outs.reverse.find? fun r => r.num == l.x.num).map Sampled.out
    let toks := (out.map SOut.toks).getD []
    let r := takeToks l.x l.x.yielded toks
    let p := proposedFor o.drafts l
    let a := (out.map SOut.accepted).getD 0
    let prefill := l.x.state == .prefill
    let full := l.x.prompted + l.rows == l.x.promptLen
    let e :=
      if r.2 ≠ 0 then r.2
      else if prefill ∧ full ∧ l.x.maxNew = 0 then endMaxNew
      else if prefill ∧ full ∧ l.x.maxLen ≤ l.x.promptLen then endMaxLen
      else if (out.map SOut.noToken).getD false then endNoToken
      else 0
    let w := draftWindow s l.x.win p a
    let x := { l.x with
      prompted := if prefill then l.x.prompted + l.rows else l.x.prompted
      state := if prefill && !full then .prefill else .decode
      yielded := l.x.yielded + r.1.length
      win := w.1
      offLeft := if w.2 then s.sched.offPeriod.toNat + 1 else l.x.offLeft }
    ⟨x, e, liveEntry s l x e (l.flags + if w.2 then flagDraftOff else 0) p a r.1, true, w.2⟩

/-- Step 9 for a sequence of a step in which a descriptor failed: it ends with FAULT (R257), whatever drafts it had been proposed. -/
def faultOne (s : State) (all : Bool) (ds : List Drafted) (l : Live) : Done :=
  let e := if l.endCode ≠ 0 then l.endCode else if l.runs || (all && l.active) then endFault else 0
  ⟨l.x, e, liveEntry s l l.x e l.flags (proposedFor ds l) 0 [], e != 0 || l.due, false⟩

/-- A TURN that leaves GENERATE sets the sequence aside with this record (R32). -/
def settleDone (r : TurnReq) (d : Done) : Done :=
  if d.endCode ≠ 0 then d
  else if r.ends then { d with endCode := endTurn', entry := { d.entry with endCode := endTurn' }, show' := true }
  else if d.x.suspended then d
  else { d with x := { d.x with suspended := true }, entry := { d.entry with flags := d.entry.flags + flagSuspended }, show' := true }

/-- How a step closed: with a failing descriptor's status, or well. -/
structure StepEnd where
  s : State
  dones : List Done
  refusals : List BatchEntry
  exc : W16
  prefill : Nat
  status : Option Status

/-- Sequences set aside by a TURN in a step that wrote its last record. -/
def countSettled (before after : List Done) : Nat × Nat :=
  let pairs := before.zip after
  (pairs.foldl (fun n p => if !p.1.x.suspended && p.2.x.suspended then n + 1 else n) 0,
   pairs.foldl (fun n p => if p.1.endCode = 0 ∧ p.2.endCode = endTurn' then n + 1 else n) 0)

/-- Writes the record, frees the slots of ended sequences and updates the books (R246, R257, R289, R290, R718). -/
def closeSched (e : StepEnd) : State :=
  let s := e.s
  let dones := match s.turn.trans with
    | some t => e.dones.map (settleDone t.req)
    | none => e.dones
  let n := countSettled e.dones dones
  let entries := (dones.filter Done.show').map Done.entry ++ e.refusals
  let s1 := writeBatch { prefillTokens := e.prefill, exc := e.exc, paused := e.status.isSome, last := s.turn.trans.isSome,
                         status := (e.status.map Status.code).getD 0 } entries s
  let offs := (dones.filter Done.off).length
  let s2 := { s1 with
    sched := { s1.sched with
      slots := (dones.filter fun d => d.endCode == 0).map Done.x
      draftOffs := satAdd s1.sched.draftOffs offs
      stalled := false
      state := if e.status.isSome then .paused else s1.sched.state }
    turn := { s1.turn with trans := s1.turn.trans.map fun t =>
      { t with suspended := t.suspended + BitVec.ofNat 32 n.1, ended := t.ended + BitVec.ofNat 32 n.2 } } }
  showFree (if e.status.isSome then raiseAlert 32 s2 else s2)

/-! ### The step (R259, R288) -/

/-- Chooses rows and pages: steps 3 to 5. -/
def chooseRows (maxRows : Nat) (ls : List Live) (s : State) : List Live × State :=
  let a := ls.map (decodeOne s)
  let b := (cutDrafts (rowsOf a - maxRows) a.reverse).reverse
  let used := rowsOf b
  let allow := max (s.sched.budget.toNat - used)
    (if b.any fun l => l.active && l.x.state == .prefill then s.sched.prefillFloor.toNat else 0)
  let c := prefillAll maxRows allow used b
  pagesAll c (groupsHeld s) s

/-- Steps 2 to 5 with checked plans: the sequences with the rows chosen for them. -/
def viewStep (p : Plans) (cancels : List Nat) (s : State) : List Live × State :=
  chooseRows p.main.plan.maxRows ((slotsInOrder s.sched.slots).map (boundaryOne s cancels s.turn.trans.isNone)) s

/-- Step 9, once the plans have run or failed. -/
def endPlans (ls : List Live) (refusals : List BatchEntry) (o : PlanOut) (exc : W16) (s : State) : State :=
  let failed := o.failed.isSome
  closeSched {
    s := s, dones := ls.map (if failed then faultOne s false o.drafts else doneOne s o), refusals := refusals, exc := exc,
    prefill := if failed then 0 else rowsOf (ls.filter fun l => l.x.state == .prefill), status := o.failed.map Fail.status }

/-- The check of R256, where it is due. -/
def checkPlans : M Plans := do
  let p ← loadPlans
  needDesc ((← getS).sched.checked || plansOk (← getS) p)
  return p

/-- What a step takes of the admission ring: all that it can, or nothing while a TURN leaves GENERATE. R32 bars admissions only; that
such a step takes no cancel and refuses nothing either is the model's choice (LOG 60). -/
def readRing : M RingOut := do
  if (← getS).turn.trans.isSome then return ⟨[], []⟩
  else takeRing (← admWaiting) ⟨[], []⟩

/-- The most tokens that a sequence can yield in a step: those it draws, as far as MAX_NEW and MAX_LEN allow (R285, R288). -/
def Live.tokenBound (l : Live) : Nat :=
  if l.drawsToken then min (1 + l.d) (max 1 (min (l.x.maxNew - l.x.yielded) (l.x.maxLen - l.x.promptLen - l.x.yielded))) else 0

/-- Bytes of the largest entry that a sequence can take in the coming step (R288, R290). -/
def Live.entryBound (s : State) (l : Live) : Nat :=
  let settles := match s.turn.trans with
    | some t => t.req.ends || !l.x.suspended
    | none => false
  if l.runs then ceilDiv (32 + 12 * l.tokenBound) 16 * 16
  else if l.endCode != 0 || l.due || settles then 32 else 0

/-- The largest record that the coming step can produce, with its sequences and refusals known (R288). -/
def recordBound (s : State) (ls : List Live) (refusals : List BatchEntry) : Nat :=
  64 + ls.foldl (fun n l => n + l.entryBound s) 0 + 32 * refusals.length

/-- Is there room for a record of at most `n` bytes (R288)? A CONSUMED that cannot be read leaves none (LOG 18). -/
def hasRoom (n : Nat) : M Bool := do
  let s ← getS
  match ← schedRead s.sched.recBase.toNat 8 with
  | some bs => return n ≤ roomFor s (leNat bs)
  | none => return false

/-- The places that the scheduler writes to itself are not in a stack in reset, whose release it would wait for (R515). -/
def ringsThere (n : Nat) : M Unit := do
  let s ← getS
  let pieces := ringPieces s.sched.recBase.toNat s.sched.recBytes.toNat s.sched.recProduced.toNat (List.replicate n 0)
  holdIf (rangeInReset s (s.sched.admBase.toNat + 128) 4 || rangeInReset s (s.sched.recBase.toNat + 128) 8
    || pieces.any fun p => rangeInReset s p.1 p.2.length)

/-- A step whose plans fail their check: it pauses before it issues anything (R256, R257). -/
def stepBadPlans (ls : List Live) (st : Status) (s : State) : State :=
  closeSched { s := s, dones := ls.map (faultOne s true []), refusals := [], exc := 0, prefill := 0, status := some st }

/-- Work that ends with room for its record, and answers so; without room nothing is done (R288). -/
def withRoom (n : Nat) (m : M Unit) : M Bool := do
  if ← hasRoom n then
    ringsThere n
    m
    return true
  else return false

/-- One scheduler step (R259), which answers whether there was room for its record. A step that a TURN leaving GENERATE waits for admits
nothing and resumes nothing (R32). That a step whose plan check fails takes nothing of the admission ring, no cancel, refusal or admission,
though step 1 of R259 stands before the check of R256, is the model's choice (LOG 75). -/
def schedStep : M Bool := do
  let c ← attempt checkPlans
  settleIssue
  setInfo zeros16
  match c with
  | .error e =>
    let s ← getS
    let ls := (slotsInOrder s.sched.slots).map (boundaryOne s [] s.turn.trans.isNone)
    withRoom (64 + 32 * ls.length) (modS (stepBadPlans ls e.status))
  | .ok p =>
    modS fun s => { s with sched := { s.sched with checked := true } }
    let r ← readRing
    let s ← getS
    withRoom (recordBound s (viewStep p r.cancels s).1 r.refusals) (do
      let v := viewStep p r.cancels (← getS)
      modS fun _ => v.2
      let o ← runPlans p v.1
      let e : W16 := BitVec.ofNat 16 (leNat ((← get).info.take 2))
      modS (endPlans v.1 r.refusals o e))

/-- The coming step of a state: its work, with the companion lines that have come for it. -/
def runSched (s : State) : Except Fail Bool × Work := runWorkAt s.q.nextOrder s.sched.lines schedStep s

/-- A step that has to wait is tried again later, with other free values; the lines it lacks are asked for (LOG 34). -/
def schedWaits (w : Work) (s : State) : State := askFor .sched w s

/-- A step without room waits, and is counted once; CONSUMED has been read, and will be read again (R288). -/
def schedStalls (s0 : State) : State :=
  let s := (runWorkAt s0.q.nextOrder s0.sched.lines (schedRead s0.sched.recBase.toNat 8) s0).2.s
  { s with sched := { s.sched with
      stalled := true, stalls := if s.sched.stalled then s.sched.stalls else satInc s.sched.stalls, lines := [] } }

/-- A step that has ended needs its lines no longer. -/
def schedEnds (s : State) : State := { s with sched := { s.sched with lines := [] } }

/-- May the scheduler be at work: in GENERATE, running, its module awake; while a TURN leaves GENERATE, only for sequences not yet
set aside (R31, R32, R257). -/
def schedMay (s : State) : Bool :=
  s.turn.cur == .generate && s.sched.state == .running && s.power.current != .park && s.power.waking.isNone
  && s.lk.cl.phase != .upLimited && !s.q.inflight.any InFlight.stopsAll
  && match s.turn.trans with
    | some t => !(unsettled t.req s).isEmpty
    | none => true

/-- What a SCHEDULER_STEP leaves when the scheduler is at work. -/
def afterSched (s : State) : State :=
  let r := runSched s
  match r.1 with
  | .ok true => schedEnds r.2.s
  | .ok false => schedStalls s
  | .error _ => schedWaits r.2 s

/-- SCHEDULER_STEP (R259): no descriptor of any queue starts while a STEP or DRAIN fence is uncompleted (R380). -/
def execSchedulerStep (s : State) : Host.Outcome State Fault Refusal :=
  if !running s then .fault .notRunning
  else if !schedMay s then .next s
  else .next (afterSched s)

end Sys2Proof.Machine
end

