-- ==== Sys2Proof/Machine/Security.lean ====
section
/-! DEFINITION. Keys, attestation, staging, activation, commit and debug through the dictionary (R643 to R646, R655, R656, R661 to
R665, R669, R671). -/

namespace Sys2Proof.Machine

/-! ### Command keys (R643 to R646) -/

def setKey (n : Nat) (k : KeySlot) (s : State) : State :=
  if h : n < 4 then { s with persist := { s.persist with keys := s.persist.keys.set n k } } else s

def allBlank (s : State) : Bool := s.persist.keys.toList.all fun k => !k.isProgrammed

/-- A write of 5000:01 to 04: the owner's claim of CK0 while every slot is BLANK; after that only under the active key, and only a
BLANK slot. -/
def ownKey : Own := fun _ r s =>
  let n := reqSub r - 1
  let t := setKey n (.programmed (BitVec.ofNat 256 (reqValue r))) s
  if reqOpc r = 2 then
    if allBlank s then okIf (n == 0) t else .error abAuthRequired
  else okIf (!(keyN s n).isProgrammed) t

/-- COMMAND_KEY_WRITE (R645). -/
def execCommandKeyWrite (p : Asker) (req : List Byte) (s : State) : Host.Outcome State Fault Refusal :=
  request ((List.range 4).any fun n => writesTo 0x5000 (n + 1) req) ownKey p req s

/-- A write of n to 5000:05: revokes a programmed slot that is not the active one. -/
def ownRevoke : Own := fun _ r s =>
  let n := reqValue r
  if reqOpc r = 2 then .error abAuthRequired
  else match keyN s n with
    | .programmed k => okIf (n < 4 && activeKeyCode s != n) (setKey n (.revoked k) s)
    | _ => .error abRange

/-- REVOKE_KEY (R646). -/
def execRevokeKey (p : Asker) (req : List Byte) (s : State) : Host.Outcome State Fault Refusal :=
  request (writesTo 0x5000 5 req) ownRevoke p req s

/-! ### Attestation (R656, R657) -/

def bytes512 (d : BitVec 512) : List Byte := leBytes 64 d.toNat

/-- Bytes 0 to 383 of a report. -/
def reportBody (s : State) : List Byte :=
  leBytes 4 0x100 ++ stringBytes 16 s.persist.variant.name ++ leBytes 4 s.persist.steppings.toNat ++ leBytes 16 s.persist.serial.toNat
  ++ leBytes 1 s.rst.position.toNat ++ [s.sec.limited, w8 (b2n s.sec.debugMode), w8 s.sec.runningSlot.code]
  ++ [w8 (val1010 s 1), w8 (val1010 s 2), w8 (val1010 s 4), 0] ++ leBytes 4 (val1010 s 3) ++ leBytes 4 s.persist.fuseSv.toNat
  ++ leBytes 4 (runningSv s).toNat ++ leBytes 4 (ofBundle s fun b => b.version.toNat) ++ leBytes 8 s.sec.epoch.toNat
  ++ leBytes 8 s.sec.counter.toNat ++ leBytes 32 s.sec.nonce.toNat ++ bytes512 s.sec.bundleDigest ++ bytes512 s.sec.hallDigest
  ++ bytes512 s.sec.kioskDigest ++ bytes512 s.sec.gfDigest
  ++ [w8 (activeKeyCode s), w8 (keysProgrammed s), w8 (keysRevoked s), 0] ++ leBytes 4 s.sec.reportSeq.toNat ++ leBytes 8 0

/-- 5200:02: the report's fields are taken at the write; REPORT_SEQ counts this one (LOG 40). -/
def ownReport : Own := fun _ _ s =>
  if s.sec.reportState = 1 then .error abBusy
  else
    let t := { s with sec := { s.sec with reportState := 1, reportSeq := satInc s.sec.reportSeq } }
    .ok { t with sec := { t.sec with pendingReport := some (reportBody t) } }

/-- BUILD_REPORT (R656). -/
def execBuildReport (p : Asker) (req : List Byte) (s : State) : Host.Outcome State Fault Refusal :=
  request (writesByte 0x5200 2 1 req) ownReport p req s

/-- A report with its ML-DSA-87 signature under the device key; the 32 bytes that FIPS 204 draws at random are free, and so is a signature
that no attempt gives (LOG 16). -/
def signReport (body : List Byte) (n : Nat) : List Byte :=
  let free := fun k => (List.range k).map fun i => Config.freeByte (n + i)
  body ++ (mlSign deviceKey (pureMessage "GLOFATHAL ATTEST" body) (free 32)).getD (free bundleSig)

/-- REPORT_READY (R656). -/
def execReportReady (s : State) : Host.Outcome State Fault Refusal :=
  if !running s then .fault .notRunning
  else match s.sec.pendingReport with
    | some b => .next { s with
        sec := { s.sec with reportState := 2, report := some (signReport b s.freeCtr), pendingReport := none }
        freeCtr := s.freeCtr + bundleSig }
    | none => .next s

/-- 5100:01: the path's blob, its offset set to 0. -/
def ownBlob : Own := fun p r s => okIf (reqValue r ≤ 2) (setSel p { selOf s p with blob := reqValue r, blobOffset := 0 } s)

/-- BLOB_SELECT (R661). -/
def execBlobSelect (p : Asker) (req : List Byte) (s : State) : Host.Outcome State Fault Refusal :=
  request (writesTo 0x5100 1 req) ownBlob p req s

/-! ### Staging, activation, commit (R662, R665, R669) -/

/-- A transfer or a staging uses the receive region (R662). -/
def stageBusy (s : State) : Bool := rxBusy s || staging s

def ownStage : Own := fun _ _ s => if stageBusy s then .error abBusy else .ok (beginStaging s)

/-- STAGE (R662). -/
def execStage (p : Asker) (req : List Byte) (s : State) : Host.Outcome State Fault Refusal :=
  request (writesByte 0x5800 1 1 req) ownStage p req s

/-- Makes the staging slot the boot slot from the next PO or SYS reset. -/
def ownActivate : Own := fun _ _ s =>
  okIf (s.sec.stagingState == 2) { s with sec := { s.sec with activationPending := some s.sec.runningSlot.other, activate := 1 } }

/-- ACTIVATE (R665). -/
def execActivate (p : Asker) (req : List Byte) (s : State) : Host.Outcome State Fault Refusal :=
  request (writesByte 0x5800 6 1 req) ownActivate p req s

/-- A reset that begins once the response has left the module (R686); a deeper one already asked for stays. -/
def askReset (l : Level) (cause : Byte) (s : State) : State :=
  { s with rst := { s.rst with pending := match s.rst.pending, l with
      | some (.sys, c), .core => some (.sys, c)
      | _, _ => some (l, cause) } }

/-- As ACTIVATE, then a SYS reset with the software cause; a chain transfer in flight is abandoned. -/
def ownActivateReset : Own := fun _ _ s =>
  let t := { s with sec := { s.sec with activationPending := some s.sec.runningSlot.other, activate := 2 } }
  let t1 := if t.lk.fwRx.isSome then endFwRx t else t
  let t2 := if t1.lk.fwTx.isSome then endFwTx t1 else t1
  okIf (s.sec.stagingState == 2) (askReset .sys 5 t2)

/-- ACTIVATE_RESET (R665). -/
def execActivateReset (p : Asker) (req : List Byte) (s : State) : Host.Outcome State Fault Refusal :=
  request (writesByte 0x5800 6 2 req) ownActivateReset p req s

def ownActivateCancel : Own := fun _ _ s => .ok { s with sec := { s.sec with activationPending := none, activate := 0 } }

/-- ACTIVATION_CANCEL (R665). -/
def execActivationCancel (p : Asker) (req : List Byte) (s : State) : Host.Outcome State Fault Refusal :=
  request (writesByte 0x5800 6 0 req) ownActivateCancel p req s

/-- Raises the fuse security version to the running bundle's and blows the revocation fuses it names. -/
def ownCommit : Own := fun _ r s =>
  let v := w32 (reqValue r)
  match s.sec.running with
  | none => .error abRange
  | some b => okIf (v == b.sv && s.persist.fuseSv < v && s.sec.limited == 0)
      { s with sec := { s.sec with commit := v },
               persist := { s.persist with fuseSv := v, omcenRevoked := s.persist.omcenRevoked ||| BitVec.ofNat 4 b.revoke.toNat } }

/-- COMMIT_SECURITY_VERSION (R669). -/
def execCommitSecurityVersion (p : Asker) (req : List Byte) (s : State) : Host.Outcome State Fault Refusal :=
  request (writesTo 0x5800 8 req) ownCommit p req s

/-! ### Debug (R671) -/

def ownUnlock : Own := fun _ _ s => okIf s.persist.debugPermitted { s with sec := { s.sec with debugMode := true, unlock := 1 } }

/-- DEBUG_UNLOCK (R671). -/
def execDebugUnlock (p : Asker) (req : List Byte) (s : State) : Host.Outcome State Fault Refusal :=
  request (writesByte 0x6000 1 1 req) ownUnlock p req s

def ownLock : Own := fun _ _ s => .ok { s with sec := { s.sec with debugMode := false, unlock := 0 } }

/-- DEBUG_LOCK (R671). -/
def execDebugLock (p : Asker) (req : List Byte) (s : State) : Host.Outcome State Fault Refusal :=
  request (writesByte 0x6000 1 0 req) ownLock p req s

def ownDebugReset : Own := fun _ _ s => if s.sec.debugMode then .ok (askReset .sys 6 s) else .error abNotUnlocked

/-- DEBUG_RESET (R671). -/
def execDebugReset (p : Asker) (req : List Byte) (s : State) : Host.Outcome State Fault Refusal :=
  request (writesByte 0x6000 3 1 req) ownDebugReset p req s

/-! ### Software resets (R686, R687) -/

def ownSysReset : Own := fun _ _ s => .ok (askReset .sys 5 s)
def ownCoreReset : Own := fun _ _ s => .ok (askReset .core 9 s)

/-- SOFTWARE_SYS_RESET (R686). -/
def execSoftwareSysReset (p : Asker) (req : List Byte) (s : State) : Host.Outcome State Fault Refusal :=
  request (writesByte 0x3100 1 1 req) ownSysReset p req s
/-- SOFTWARE_CORE_RESET (R686). -/
def execSoftwareCoreReset (p : Asker) (req : List Byte) (s : State) : Host.Outcome State Fault Refusal :=
  request (writesByte 0x3100 2 1 req) ownCoreReset p req s

end Sys2Proof.Machine
end

