-- ==== Sys2Proof/Machine/Dispatch.lean ====
section
/-! DEFINITION. One arm for each command: its meaning, by name. -/

namespace Sys2Proof.Machine

def exec (i : Instr) (s : State) : Host.Outcome State Fault Refusal :=
  match i with
  | .turn qp d => Sys2Proof.Machine.execTurn qp d s
  | .turnWaitResume => Sys2Proof.Machine.execTurnWaitResume s
  | .turnEntry slowCycles => Sys2Proof.Machine.execTurnEntry slowCycles s
  | .turnDrainTimeout => Sys2Proof.Machine.execTurnDrainTimeout s
  | .tile qp d => Sys2Proof.Machine.execTile qp d s
  | .terraceOpen qp d => Sys2Proof.Machine.execTerraceOpen qp d s
  | .terraceContribute qp d => Sys2Proof.Machine.execTerraceContribute qp d s
  | .terraceClose qp d => Sys2Proof.Machine.execTerraceClose qp d s
  | .fusedPair qp d1 d2 => Sys2Proof.Machine.execFusedPair qp d1 d2 s
  | .convert qp d => Sys2Proof.Machine.execConvert qp d s
  | .amax qp d => Sys2Proof.Machine.execAmax qp d s
  | .residualAdd qp d => Sys2Proof.Machine.execResidualAdd qp d s
  | .rmsnormFwd qp d => Sys2Proof.Machine.execRmsnormFwd qp d s
  | .rmsnormBwd qp d => Sys2Proof.Machine.execRmsnormBwd qp d s
  | .layernormFwd qp d => Sys2Proof.Machine.execLayernormFwd qp d s
  | .layernormBwd qp d => Sys2Proof.Machine.execLayernormBwd qp d s
  | .softmaxFwd qp d => Sys2Proof.Machine.execSoftmaxFwd qp d s
  | .softmaxBwd qp d => Sys2Proof.Machine.execSoftmaxBwd qp d s
  | .tokenLogprob qp d => Sys2Proof.Machine.execTokenLogprob qp d s
  | .tokenLogprobBwd qp d => Sys2Proof.Machine.execTokenLogprobBwd qp d s
  | .swigluFwd qp d => Sys2Proof.Machine.execSwigluFwd qp d s
  | .swigluBwd qp d => Sys2Proof.Machine.execSwigluBwd qp d s
  | .geluFwd qp d => Sys2Proof.Machine.execGeluFwd qp d s
  | .geluBwd qp d => Sys2Proof.Machine.execGeluBwd qp d s
  | .rope qp d => Sys2Proof.Machine.execRope qp d s
  | .dropout qp d => Sys2Proof.Machine.execDropout qp d s
  | .fillUniform qp d => Sys2Proof.Machine.execFillUniform qp d s
  | .fillNormal qp d => Sys2Proof.Machine.execFillNormal qp d s
  | .orthonorm qp d => Sys2Proof.Machine.execOrthonorm qp d s
  | .attnForward qp d => Sys2Proof.Machine.execAttnForward qp d s
  | .attnBackward qp d => Sys2Proof.Machine.execAttnBackward qp d s
  | .appendOnly qp d => Sys2Proof.Machine.execAppendOnly qp d s
  | .probeWindow p req => Sys2Proof.Machine.execProbeWindow p req s
  | .schedulerStep => Sys2Proof.Machine.execSchedulerStep s
  | .schedulerResume p req => Sys2Proof.Machine.execSchedulerResume p req s
  | .publish qp d => Sys2Proof.Machine.execPublish qp d s
  | .retire qp d => Sys2Proof.Machine.execRetire qp d s
  | .loadAdapter qp d => Sys2Proof.Machine.execLoadAdapter qp d s
  | .retireAdapter qp d => Sys2Proof.Machine.execRetireAdapter qp d s
  | .slotFreed w => Sys2Proof.Machine.execSlotFreed w s
  | .draw qp d => Sys2Proof.Machine.execDraw qp d s
  | .verify qp d => Sys2Proof.Machine.execVerify qp d s
  | .maskCacheFlush p req => Sys2Proof.Machine.execMaskCacheFlush p req s
  | .maskCacheFlushApply => Sys2Proof.Machine.execMaskCacheFlushApply s
  | .update qp d => Sys2Proof.Machine.execUpdate qp d s
  | .emit qp d => Sys2Proof.Machine.execEmit qp d s
  | .updateEmit qp d => Sys2Proof.Machine.execUpdateEmit qp d s
  | .scan qp d => Sys2Proof.Machine.execScan qp d s
  | .sum qp d => Sys2Proof.Machine.execSum qp d s
  | .sumsq qp d => Sys2Proof.Machine.execSumsq qp d s
  | .meanvar qp d => Sys2Proof.Machine.execMeanvar qp d s
  | .reduceStallTimeout qp idx => Sys2Proof.Machine.execReduceStallTimeout qp idx s
  | .load qp d => Sys2Proof.Machine.execLoad qp d s
  | .gather qp d => Sys2Proof.Machine.execGather qp d s
  | .gatherTimeout qp idx => Sys2Proof.Machine.execGatherTimeout qp idx s
  | .rebuild qp d => Sys2Proof.Machine.execRebuild qp d s
  | .protect qp d => Sys2Proof.Machine.execProtect qp d s
  | .unprotect qp d => Sys2Proof.Machine.execUnprotect qp d s
  | .zero qp d => Sys2Proof.Machine.execZero qp d s
  | .copy qp d => Sys2Proof.Machine.execCopy qp d s
  | .copyTensor qp d => Sys2Proof.Machine.execCopyTensor qp d s
  | .arm qp d => Sys2Proof.Machine.execArm qp d s
  | .disarm qp d => Sys2Proof.Machine.execDisarm qp d s
  | .prefetchFetch prefetcher tags => Sys2Proof.Machine.execPrefetchFetch prefetcher tags s
  | .scrubRead stack => Sys2Proof.Machine.execScrubRead stack s
  | .shareWrite p req => Sys2Proof.Machine.execShareWrite p req s
  | .inject p req => Sys2Proof.Machine.execInject p req s
  | .accumulatorWrite p req => Sys2Proof.Machine.execAccumulatorWrite p req s
  | .selfRefreshReturn stack => Sys2Proof.Machine.execSelfRefreshReturn stack s
  | .submissionTail word => Sys2Proof.Machine.execSubmissionTail word s
  | .completionHead word => Sys2Proof.Machine.execCompletionHead word s
  | .queueEnable p req => Sys2Proof.Machine.execQueueEnable p req s
  | .descriptorComplete qp idx => Sys2Proof.Machine.execDescriptorComplete qp idx s
  | .queueFence qp d => Sys2Proof.Machine.execQueueFence qp d s
  | .waitFence qp d => Sys2Proof.Machine.execWaitFence qp d s
  | .waitTimeout qp idx => Sys2Proof.Machine.execWaitTimeout qp idx s
  | .stepFence qp d => Sys2Proof.Machine.execStepFence qp d s
  | .drainFence qp d => Sys2Proof.Machine.execDrainFence qp d s
  | .initFlit l m => Sys2Proof.Machine.execInitFlit l m s
  | .crcFailure l bad => Sys2Proof.Machine.execCrcFailure l bad s
  | .nak l ack => Sys2Proof.Machine.execNak l ack s
  | .retryTimeout l => Sys2Proof.Machine.execRetryTimeout l s
  | .credit l ack seq returns => Sys2Proof.Machine.execCredit l ack seq returns s
  | .creditReturnTimeout l => Sys2Proof.Machine.execCreditReturnTimeout l s
  | .trainingTimeout l => Sys2Proof.Machine.execTrainingTimeout l s
  | .linkPllLockLoss l => Sys2Proof.Machine.execLinkPllLockLoss l s
  | .drd tag addr => Sys2Proof.Machine.execDrd tag addr s
  | .dwr tag addr data => Sys2Proof.Machine.execDwr tag addr data s
  | .snpInv tag addr => Sys2Proof.Machine.execSnpInv tag addr s
  | .dataResponse tag status data => Sys2Proof.Machine.execDataResponse tag status data s
  | .wrDone tag status => Sys2Proof.Machine.execWrDone tag status s
  | .putPacket av pk => Sys2Proof.Machine.execPutPacket av pk s
  | .forward av pk => Sys2Proof.Machine.execForward av pk s
  | .fields av x f => Sys2Proof.Machine.execFields av x f s
  | .contrib av x vals => Sys2Proof.Machine.execContrib av x vals s
  | .boardSum av x vals => Sys2Proof.Machine.execBoardSum av x vals s
  | .reductionResult av x elems scales => Sys2Proof.Machine.execReductionResult av x elems scales s
  | .count av x count => Sys2Proof.Machine.execCount av x count s
  | .slice av x elems scales => Sys2Proof.Machine.execSlice av x elems scales s
  | .peerState av pk => Sys2Proof.Machine.execPeerState av pk s
  | .offer av pk => Sys2Proof.Machine.execOffer av pk s
  | .accept av pk => Sys2Proof.Machine.execAccept av pk s
  | .decline av pk => Sys2Proof.Machine.execDecline av pk s
  | .part av pk => Sys2Proof.Machine.execPart av pk s
  | .endBundle av pk => Sys2Proof.Machine.execEndBundle av pk s
  | .bundleResult av pk => Sys2Proof.Machine.execBundleResult av pk s
  | .transferTimeout sending => Sys2Proof.Machine.execTransferTimeout sending s
  | .fieldFrame f => Sys2Proof.Machine.execFieldFrame f s
  | .read p req => Sys2Proof.Machine.execRead p req s
  | .write p req => Sys2Proof.Machine.execWrite p req s
  | .writeAuth p req => Sys2Proof.Machine.execWriteAuth p req s
  | .keepalive p req => Sys2Proof.Machine.execKeepalive p req s
  | .openSession p req => Sys2Proof.Machine.execOpenSession p req s
  | .release p req => Sys2Proof.Machine.execRelease p req s
  | .sessionLapse => Sys2Proof.Machine.execSessionLapse s
  | .classSelect p req => Sys2Proof.Machine.execClassSelect p req s
  | .alertClear p req => Sys2Proof.Machine.execAlertClear p req s
  | .alertMask p req => Sys2Proof.Machine.execAlertMask p req s
  | .alert p => Sys2Proof.Machine.execAlert p s
  | .unitEnable p req => Sys2Proof.Machine.execUnitEnable p req s
  | .unitReset p req => Sys2Proof.Machine.execUnitReset p req s
  | .unitIdle u => Sys2Proof.Machine.execUnitIdle u s
  | .unitIdleTimeout u => Sys2Proof.Machine.execUnitIdleTimeout u s
  | .unitReturn u => Sys2Proof.Machine.execUnitReturn u s
  | .commandKeyWrite p req => Sys2Proof.Machine.execCommandKeyWrite p req s
  | .revokeKey p req => Sys2Proof.Machine.execRevokeKey p req s
  | .buildReport p req => Sys2Proof.Machine.execBuildReport p req s
  | .reportReady => Sys2Proof.Machine.execReportReady s
  | .blobSelect p req => Sys2Proof.Machine.execBlobSelect p req s
  | .stage p req => Sys2Proof.Machine.execStage p req s
  | .stagingComplete => Sys2Proof.Machine.execStagingComplete s
  | .activate p req => Sys2Proof.Machine.execActivate p req s
  | .activateReset p req => Sys2Proof.Machine.execActivateReset p req s
  | .activationCancel p req => Sys2Proof.Machine.execActivationCancel p req s
  | .commitSecurityVersion p req => Sys2Proof.Machine.execCommitSecurityVersion p req s
  | .debugUnlock p req => Sys2Proof.Machine.execDebugUnlock p req s
  | .debugLock p req => Sys2Proof.Machine.execDebugLock p req s
  | .debugReset p req => Sys2Proof.Machine.execDebugReset p req s
  | .softwareSysReset p req => Sys2Proof.Machine.execSoftwareSysReset p req s
  | .softwareCoreReset p req => Sys2Proof.Machine.execSoftwareCoreReset p req s
  | .resetBegin => Sys2Proof.Machine.execResetBegin s
  | .powerOn => Sys2Proof.Machine.execPowerOn s
  | .brownOut => Sys2Proof.Machine.execBrownOut s
  | .inputRecovered => Sys2Proof.Machine.execInputRecovered s
  | .pinReset => Sys2Proof.Machine.execPinReset s
  | .watchdog => Sys2Proof.Machine.execWatchdog s
  | .clockFailure => Sys2Proof.Machine.execClockFailure s
  | .lockUp => Sys2Proof.Machine.execLockUp s
  | .resetStretchEnd => Sys2Proof.Machine.execResetStretchEnd s
  | .resetRelease => Sys2Proof.Machine.execResetRelease s
  | .powerAlert => Sys2Proof.Machine.execPowerAlert s
  | .throttleCheck hottest => Sys2Proof.Machine.execThrottleCheck hottest s
  | .thermalTrip => Sys2Proof.Machine.execThermalTrip s
  | .powerStateOn p req => Sys2Proof.Machine.execPowerStateOn p req s
  | .powerStateIdle p req => Sys2Proof.Machine.execPowerStateIdle p req s
  | .powerStatePark p req => Sys2Proof.Machine.execPowerStatePark p req s
  | .wakeComplete => Sys2Proof.Machine.execWakeComplete s
  | .reservedClassCode qp d => Sys2Proof.Machine.execReservedClassCode qp d s
  | .clockGood => Sys2Proof.Machine.execClockGood s
  | .ack l ack => Sys2Proof.Machine.execAck l ack s
  | .flitBoundaryLocated l => Sys2Proof.Machine.execFlitBoundaryLocated l s
  | .initSend l => Sys2Proof.Machine.execInitSend l s

end Sys2Proof.Machine
end

