-- ==== Sys2Proof/Machine/Step.lean ====
section
/-! DEFINITION. One step: the command at the front of the queue (notes/assumptions/1.md). -/

namespace Sys2Proof.Machine

/-- The state with the front command taken off. -/
def popped (s : State) (rest : List Instr) : State := { s with pending := rest }

/-- Takes the command at the front and runs it with the queue's rest; on an empty queue the block idles (LOG 1). -/
def step (s : State) : Host.Outcome State Fault Refusal :=
  match s.pending with
  | [] => .next s
  | c :: rest => exec c (popped s rest)

/-- The state with the command that a word spells at the front of its queue; the rows of the table have no bits, so no word spells
one (LOG 1). -/
def State.withFetchWord (s : State) (nbits w : Nat) : State :=
  match decodeTableWord nbits w with
  | some c => { s with pending := c :: s.pending }
  | none => s

end Sys2Proof.Machine
end

