-- ==== Sys2Proof/WellFormed.lean ====
section
/-! DEFINITION. Which words belong to which row: the operands that make a command its own row's, and not another's. -/

namespace Sys2Proof

open Sys2Proof.Machine

/-- The command's words are its row's: the class, operation, mode or kernel number of a descriptor, the operation, object and value of
a request, the lane, type and length of a packet, the KIND of a doorbell. `exec` refuses every other command as ill-formed. -/
def Instr.wellFormed : Instr → Bool
  | .turn _ d => isTurn d
  | .turnWaitResume => true
  | .turnEntry _ => true
  | .turnDrainTimeout => true
  | .tile _ d => isTile d
  | .terraceOpen _ d => isTerraceOpen d
  | .terraceContribute _ d => isTerraceContribute d
  | .terraceClose _ d => isTerraceClose d
  | .fusedPair _ d1 d2 => isFused d1 d2
  | .convert _ d => isKernel 0x0101 d
  | .amax _ d => isKernel 0x0102 d
  | .residualAdd _ d => isKernel 0x0103 d
  | .rmsnormFwd _ d => isKernel 0x0201 d
  | .rmsnormBwd _ d => isKernel 0x0202 d
  | .layernormFwd _ d => isKernel 0x0203 d
  | .layernormBwd _ d => isKernel 0x0204 d
  | .softmaxFwd _ d => isKernel 0x0301 d
  | .softmaxBwd _ d => isKernel 0x0302 d
  | .tokenLogprob _ d => isKernel 0x0303 d
  | .tokenLogprobBwd _ d => isKernel 0x0304 d
  | .swigluFwd _ d => isKernel 0x0401 d
  | .swigluBwd _ d => isKernel 0x0402 d
  | .geluFwd _ d => isKernel 0x0403 d
  | .geluBwd _ d => isKernel 0x0404 d
  | .rope _ d => isKernel 0x0501 d
  | .dropout _ d => isKernel 0x0601 d
  | .fillUniform _ d => isKernel 0x0602 d
  | .fillNormal _ d => isKernel 0x0603 d
  | .orthonorm _ d => isKernel 0x0701 d
  | .attnForward _ d => isAttn 0 d
  | .attnBackward _ d => isAttn 1 d
  | .appendOnly _ d => isAttn 2 d
  | .probeWindow _ req => readsProbe req
  | .schedulerStep => true
  | .schedulerResume _ req => writesByte 0x2800 2 1 req
  | .publish _ d => isVersion 0 d
  | .retire _ d => isVersion 1 d
  | .loadAdapter _ d => isVersion 2 d
  | .retireAdapter _ d => isVersion 3 d
  | .slotFreed _ => true
  | .draw _ d => isSample 0 d
  | .verify _ d => isSample 1 d
  | .maskCacheFlush _ req => writesByte 0x2802 4 1 req
  | .maskCacheFlushApply => true
  | .update _ d => isCare 0 d
  | .emit _ d => isCare 1 d
  | .updateEmit _ d => isCare 2 d
  | .scan _ d => isCare 3 d
  | .sum _ d => isReduce 0 d
  | .sumsq _ d => isReduce 1 d
  | .meanvar _ d => isReduce 2 d
  | .reduceStallTimeout _ _ => true
  | .load _ d => isShard 0 d
  | .gather _ d => isShard 1 d
  | .gatherTimeout _ _ => true
  | .rebuild _ d => isShard 2 d
  | .protect _ d => isShard 3 d
  | .unprotect _ d => isShard 4 d
  | .zero _ d => isShard 5 d
  | .copy _ d => isMove 0 d
  | .copyTensor _ d => isMove 1 d
  | .arm _ d => isMove 2 d
  | .disarm _ d => isMove 3 d
  | .prefetchFetch _ _ => true
  | .scrubRead _ => true
  | .shareWrite _ req => writesTo 0x2B00 1 req || writesTo 0x2B00 2 req
  | .inject _ req => writesByte 0x6200 3 1 req
  | .accumulatorWrite _ req => writesTo 0x6100 3 req
  | .selfRefreshReturn _ => true
  | .submissionTail word => !bit word 7
  | .completionHead word => bit word 7
  | .queueEnable _ req => isWriteReq req && (pairIndex (reqIndex req)).isSome && reqSub req == 4
  | .descriptorComplete _ _ => true
  | .queueFence _ d => isFenceKind 0 d
  | .waitFence _ d => isFenceKind 1 d
  | .waitTimeout _ _ => true
  | .stepFence _ d => isFenceKind 2 d
  | .drainFence _ d => isFenceKind 3 d
  | .initFlit _ m => m.grants.length == 16
  | .crcFailure _ _ => true
  | .nak _ _ => true
  | .retryTimeout _ => true
  | .credit _ _ _ returns => decide (returns.length ≤ 30)
  | .creditReturnTimeout _ => true
  | .trainingTimeout _ => true
  | .linkPllLockLoss _ => true
  | .drd _ addr => addr.toNat % 256 == 0
  | .dwr _ addr data => dwrForm addr data.length
  | .snpInv _ addr => addr.toNat % 256 == 0
  | .dataResponse _ status data => data.length == (if status = 0 then 256 else 0)
  | .wrDone _ _ => true
  | .putPacket _ pk => packetForm pk 1 0x20 true
  | .forward _ pk => packetOk pk
  | .fields _ x _ => decide (x.bytes ≤ 4064)
  | .contrib _ x _ => decide (x.bytes ≤ 4064)
  | .boardSum _ x _ => decide (x.bytes ≤ 4064)
  | .reductionResult _ x _ _ => decide (x.bytes ≤ 4064)
  | .count _ x _ => decide (x.bytes ≤ 4064)
  | .slice _ x _ _ => decide (x.bytes ≤ 4064)
  | .peerState _ pk => packetForm pk 4 0x50 (pk.payload.length == 16)
  | .offer _ pk => packetForm pk 3 0x40 (pk.payload.length == 72)
  | .accept _ pk => packetForm pk 3 0x41 pk.payload.isEmpty
  | .decline _ pk => packetForm pk 3 0x42 (pk.payload.length == 1)
  | .part _ pk => packetForm pk 3 0x43 true
  | .endBundle _ pk => packetForm pk 3 0x44 pk.payload.isEmpty
  | .bundleResult _ pk => packetForm pk 3 0x45 (pk.payload.length == 1)
  | .transferTimeout _ => true
  | .fieldFrame _ => true
  | .read _ req => isReadRow req
  | .write _ req => reqOpc req == 2 && !ownStep req
  | .writeAuth _ req => reqOpc req == 3 && !ownStep req
  | .keepalive _ req => reqOpc req == 4
  | .openSession _ req => reqOpc req == 5
  | .release _ req => reqOpc req == 6
  | .sessionLapse => true
  | .classSelect _ req => writesTo 0x2000 1 req
  | .alertClear _ req => writesTo 0x1040 3 req
  | .alertMask _ req => writesTo 0x1040 2 req
  | .alert _ => true
  | .unitEnable _ req => writesTo 0x2100 5 req || writesTo 0x2110 9 req
  | .unitReset _ req => writesByte 0x2100 6 1 req
  | .unitIdle _ => true
  | .unitIdleTimeout _ => true
  | .unitReturn _ => true
  | .commandKeyWrite _ req => (List.range 4).any fun n => writesTo 0x5000 (n + 1) req
  | .revokeKey _ req => writesTo 0x5000 5 req
  | .buildReport _ req => writesByte 0x5200 2 1 req
  | .reportReady => true
  | .blobSelect _ req => writesTo 0x5100 1 req
  | .stage _ req => writesByte 0x5800 1 1 req
  | .stagingComplete => true
  | .activate _ req => writesByte 0x5800 6 1 req
  | .activateReset _ req => writesByte 0x5800 6 2 req
  | .activationCancel _ req => writesByte 0x5800 6 0 req
  | .commitSecurityVersion _ req => writesTo 0x5800 8 req
  | .debugUnlock _ req => writesByte 0x6000 1 1 req
  | .debugLock _ req => writesByte 0x6000 1 0 req
  | .debugReset _ req => writesByte 0x6000 3 1 req
  | .softwareSysReset _ req => writesByte 0x3100 1 1 req
  | .softwareCoreReset _ req => writesByte 0x3100 2 1 req
  | .resetBegin => true
  | .powerOn => true
  | .brownOut => true
  | .inputRecovered => true
  | .pinReset => true
  | .watchdog => true
  | .clockFailure => true
  | .lockUp => true
  | .resetStretchEnd => true
  | .resetRelease => true
  | .powerAlert => true
  | .throttleCheck _ => true
  | .thermalTrip => true
  | .powerStateOn _ req => writesByte 0x3000 1 0 req
  | .powerStateIdle _ req => writesByte 0x3000 1 1 req
  | .powerStatePark _ req => writesByte 0x3000 1 2 req
  | .wakeComplete => true
  | .reservedClassCode _ d => isReserved d
  | .clockGood => true
  | .ack _ _ => true
  | .flitBoundaryLocated _ => true
  | .initSend _ => true


end Sys2Proof
end

