-- ==== Sys2Proof/Safety.lean ====
section
/-! DEFINITION. The words the statements use: a good state, the conditions under which a command has its own effect, and what that
effect leaves. -/

namespace Sys2Proof.Machine

/-- The memory is in its canonical form: equal memories are equal lists. -/
def MemoryCanonical (s : State) : Prop := Memory.wf s.mem = true

/-- A command completes: the answer is a next state. -/
def Completes (c : Instr) (s : State) : Prop := ∃ t, exec c s = .next t

/-! ### Descriptors (R528, R531, R535, R544) -/

/-- The index of the descriptor at HEAD. -/
def headIdx (s : State) (qp : Fin 64) : W32 := (s.q.qps[qp]).head

/-- Checks 1 to 5 of R544 for the descriptor at HEAD. -/
def headResult (s : State) (qp : Fin 64) (d : Desc) : Status × State := headChecks (advanceHead qp 1 s) (headIdx s qp) d

/-- The descriptor may start and passes checks 1 to 5. -/
def passesHead (qp : Fin 64) (d : Desc) (s : State) : Bool :=
  running s && canStart s qp d 1 && (headResult s qp d).1 == .ok

/-- What the class's own checks and work make of the state in which they run (R340, R544). -/
def classWork (qp : Fin 64) (d : Desc) (body : M Unit) (s : State) : Except Fail Unit × Work :=
  runWork body (openStep d (headResult s qp d).2)

/-- No descriptor running beside one writes bytes that its work reads, or gate tables of a SAMPLE: where one does, what it delivers is
unspecified (R321, R547). -/
def readsAlone (w : Work) : Bool := !(w.s.q.inflight.any fun x => racyReads w.reads x.writes) && (changedRuns w []).isEmpty

/-- The descriptor may start, passes every check, and its work ends OK on bytes that nothing running beside it writes. -/
def runsOk (qp : Fin 64) (d : Desc) (body : M Unit) (s : State) : Bool :=
  passesHead qp d s && readsAlone (classWork qp d body s).2 && match (classWork qp d body s).1 with
    | .ok _ => true
    | .error _ => false

/-- The descriptor started last. -/
def newest (s : State) : Option InFlight := s.q.inflight.getLast?

/-- The state after a descriptor's work ended OK: a new entry of its own index and class with status OK, and the memory that its work
left, settled with the descriptors running beside it (R547). -/
def StartedOk (qp : Fin 64) (d : Desc) (body : M Unit) (s t : State) : Prop :=
  t.mem = (settleWork (classWork qp d body s).2).mem
  ∧ (newest t).map (fun e => (e.qp, e.idx, e.cls, e.status)) = some (qp, headIdx s qp, descClass d, Status.ok)

/-- A descriptor row starts and does its work: exec answers the state of a start that ends OK. -/
def CompletesOk (c : Instr) (qp : Fin 64) (d : Desc) (body : M Unit) (s : State) : Prop :=
  ∃ t, exec c s = .next t ∧ StartedOk qp d body s t

/-- A descriptor row whose work fails one of its class's checks, or on the way, starts: its entry has the status and the address of that
failure, and memory is as the work left it (R340, R544). -/
def FailsWith (c : Instr) (qp : Fin 64) (d : Desc) (body : M Unit) (s : State) : Prop :=
  ∀ f, (classWork qp d body s).1 = .error f → f.waits = false →
    ∃ t, exec c s = .next t ∧ t.mem = (settleWork (classWork qp d body s).2).mem
      ∧ (newest t).map (fun e => (e.qp, e.idx, e.cls, e.status, e.faultAddr)) = some (qp, headIdx s qp, descClass d, f.status, f.addr)

/-- The descriptor rows of the compute and turn classes with the words of d, in the table's order. -/
def descRows1 (qp : Fin 64) (d : Desc) : List Instr :=
  [.turn qp d, .tile qp d, .terraceOpen qp d, .terraceContribute qp d, .terraceClose qp d, .convert qp d, .amax qp d,
   .residualAdd qp d, .rmsnormFwd qp d, .rmsnormBwd qp d, .layernormFwd qp d, .layernormBwd qp d, .softmaxFwd qp d,
   .softmaxBwd qp d, .tokenLogprob qp d, .tokenLogprobBwd qp d, .swigluFwd qp d, .swigluBwd qp d, .geluFwd qp d, .geluBwd qp d,
   .rope qp d, .dropout qp d, .fillUniform qp d, .fillNormal qp d, .orthonorm qp d]

/-- The other descriptor rows. -/
def descRows2 (qp : Fin 64) (d : Desc) : List Instr :=
  [.attnForward qp d, .attnBackward qp d, .appendOnly qp d, .publish qp d, .retire qp d, .loadAdapter qp d, .retireAdapter qp d,
   .draw qp d, .verify qp d, .update qp d, .emit qp d, .updateEmit qp d, .scan qp d, .sum qp d, .sumsq qp d, .meanvar qp d,
   .load qp d, .gather qp d, .rebuild qp d, .protect qp d, .unprotect qp d, .zero qp d, .copy qp d, .copyTensor qp d, .arm qp d,
   .disarm qp d, .queueFence qp d, .waitFence qp d, .stepFence qp d, .drainFence qp d, .reservedClassCode qp d]

/-- Every descriptor row with the words of d; FUSED_PAIR, which takes two descriptors, apart. -/
def descRows (qp : Fin 64) (d : Desc) : List Instr := descRows1 qp d ++ descRows2 qp d

/-- The (class, turn) pairs that the table of R23 does not mark yes. -/
def forbiddenTurns : List (Nat × Turn) :=
  [(3, .switchLearn), (3, .switchGenerate), (4, .switchLearn), (4, .learn), (4, .switchGenerate), (6, .ready), (6, .generate),
   (6, .switchLearn), (7, .generate), (11, .ready), (11, .switchLearn), (11, .learn)]

/-- Checks 1 to 5 of R544 in their order, read from the table of R544 and R23, of a descriptor taken at an index in a state. -/
def headStatusAt (idx : W32) (d : Desc) (u : State) : Status :=
  if fld d.w0 63 32 ≠ idx.toNat then .badSequence
  else if u.sec.limited ≠ 0 then .limitedMode
  else if fld d.w0 31 10 ≠ 0 ∨ fld d.w0 7 4 ≠ 0 ∨ d.w1 ≠ 0 ∨ descClass d = 0 ∨ 11 < descClass d then .badDescriptor
  else if (descClass d = 10 ∨ descClass d = 11) ∧ (checkDescTag d u).1 = false then .authFail
  else if (descClass d, checkTurn u) ∈ forbiddenTurns then .wrongTurn
  else .ok

/-- The state after those checks: the counter and counts of a critical descriptor are taken where its check is reached (R544, R649,
R654). -/
def headBaseAt (idx : W32) (d : Desc) (u : State) : State :=
  if headStatusAt idx d u = .badSequence ∨ headStatusAt idx d u = .limitedMode ∨ headStatusAt idx d u = .badDescriptor then u
  else if descClass d = 10 ∨ descClass d = 11 then (checkDescTag d u).2
  else u

/-- Checks 1 to 5 of R544 for the descriptor at HEAD, which HEAD has moved past. -/
def headStatus (qp : Fin 64) (d : Desc) (s : State) : Status := headStatusAt (headIdx s qp) d (advanceHead qp 1 s)

/-- HEAD past the descriptor, and those checks made. -/
def headBase (qp : Fin 64) (d : Desc) (s : State) : State := headBaseAt (headIdx s qp) d (advanceHead qp 1 s)

/-- What a start that fails one of the checks 1 to 5 leaves: HEAD past it and an entry that waits for nothing, and, for a TURN, the
status at 2200:09 (R45, R544); exchanges that could go on do (R415). -/
def headRefused (c : Instr) (qp : Fin 64) (d : Desc) (s : State) : State :=
  let t := pushInFlight (refusedEntry qp (headIdx s qp) d (headStatus qp d s)) (headBase qp d s)
  if c = .turn qp d then noteRefusal (headStatus qp d s) t
  else if c ∈ [.sum qp d, .sumsq qp d, .meanvar qp d, .gather qp d, .rebuild qp d] then pumpAll t
  else t

/-- The rows of a TILE, which starts with the KERNEL of FUSE 2 after it where TAIL covers one (R728). -/
def tileRows (qp : Fin 64) (d : Desc) : List Instr := [.tile qp d, .terraceOpen qp d, .terraceContribute qp d, .terraceClose qp d]

/-- The row starts its descriptor alone: it is neither the first of a PRE pair nor a TILE with the second of a POST pair after it (R162,
R728). A TILE whose next entry is not yet known to the module asks for it first (LOG 2). -/
def startsAlone (c : Instr) (qp : Fin 64) (d : Desc) (s : State) : Prop :=
  holdsPair d = false ∧ (c ∈ tileRows qp d → nextUnknown s qp = false ∧ postOf s qp = none)

/-- A fused pair may start: what holds a descriptor back holds neither of the two; ORDERED of the second counts as the first's (R545,
R728). -/
def pairMayStart (qp : Fin 64) (d1 d2 : Desc) (s : State) : Bool :=
  running s && canStart s qp (if bit d2.w0 8 then { d1 with w0 := d1.w0 ||| 0x100 } else d1) 2 && transAllows s (descClass d2)

/-- The first failing one of the checks 1 to 5 of a pair's two descriptors, the first's before the second's (R163). -/
def pairHeadStatus (qp : Fin 64) (d1 d2 : Desc) (s : State) : Status :=
  let u := advanceHead qp 2 s
  let x := headStatusAt (headIdx s qp) d1 u
  if x ≠ .ok then x else headStatusAt (headIdx s qp + 1) d2 (headBaseAt (headIdx s qp) d1 u)

/-- No uncompleted descriptor of the pair has the index at HEAD. -/
def freshIndex (s : State) (qp : Fin 64) : Prop := findInFlight s qp (headIdx s qp) = none

/-- A pair's completion ring lies in companion memory, as 2Cxx:02 has it (R533): no stack's reset holds its records up. -/
def ringOutside (s : State) (qp : Fin 64) : Prop := companionBase ≤ (s.q.qps[qp]).cqBase.toNat

/-- The record of a completed descriptor reads back, in a memory of the canonical form, at its place in the completion ring (R527, R558),
wherever the companion offers that place; no other byte changes. -/
def recordWritten (e : InFlight) (s t : State) : Prop :=
  let p := s.q.qps[e.qp]
  let a := p.cqBase.toNat + 32 * (p.produced.toNat % p.entries.toNat)
  let r := recordBytes e p.produced p.entries.toNat
  (MemoryCanonical s → companionBase ≤ a → a + 32 ≤ companionBase + s.lk.cl.cbytes.toNat → peekList t a 32 = r)
  ∧ (∀ x, x < a ∨ a + 32 ≤ x → peek t x = peek s x)

/-- A descriptor has completed: its entry is gone, PRODUCED counts its record, and no other pair has changed (R528, R549). -/
def pairCompleted (e : InFlight) (s t : State) : Prop :=
  findInFlight t e.qp e.idx = none
  ∧ (t.q.qps[e.qp]).produced = (s.q.qps[e.qp]).produced + 1
  ∧ (t.q.qps[e.qp]).head = (s.q.qps[e.qp]).head ∧ (t.q.qps[e.qp]).tail = (s.q.qps[e.qp]).tail
  ∧ (∀ q : Fin 64, q ≠ e.qp → t.q.qps[q] = s.q.qps[q])
  ∧ (∀ x ∈ t.q.inflight, x ∈ s.q.inflight)

/-- The state a pair takes as a descriptor of it completes (R534, R536): `stops` tells whether the status halts it, `last` whether it
was the pair's last uncompleted one. -/
def pairStateAfter (x : QState) (stops last : Bool) : QState :=
  match x with
  | .active => if stops then .halted else .active
  | .enablePending => if stops then .halted else if last then .active else .enablePending
  | .draining => if last then .disabled else .draining
  | .halted => .halted
  | .disabled => .disabled

/-- The statuses that halt a pair whatever Stop on failure says, and those that never do (R559). -/
def halts (stopOnFailure : Bool) (st : Status) : Bool :=
  st == .badSequence || (stopOnFailure && !(st == .ok || st == .stashExhausted || st == .nonfiniteSkipped))

/-- What a VERSION's completion records, and the state after (R564, R565): one that read unspecified bytes has a status that they may have
decided (R547; LOG 11). -/
def versionCompletion (e : InFlight) (d : Desc) (s : State) : InFlight × State :=
  let f := versionFields d
  let st := if e.racy then freeStatus s.freeCtr e.status else e.status
  let u := if e.racy then { s with freeCtr := s.freeCtr + 1 } else s
  let r := if st = .ok then versionAct f u else (st, u)
  ({ e with status := r.1, racy := false, info := ((versionSlot f u).map (versionInfo r.2)).getD zeros16 }, r.2)

/-- What a started descriptor's completion records, and the state in which it does: a VERSION and a STEP fence act first (R380, R554,
R557, R564, R565); none while the descriptor has something to wait for or work to do (R165, R549, R551). -/
def completion (e : InFlight) (s : State) : Option (InFlight × State) :=
  if !writesDone s e || e.follows.isSome then none
  else match e.await with
    | .nothing => some (e, s)
    | .version d => some (versionCompletion e d s)
    | .queueFence => if pairQuiet s e.qp e.order then some (e, s) else none
    | .waitFence q w => if pairQuiet s e.qp e.order && hasRetired s q w then some ({ e with info := waitInfo s q }, s) else none
    | .stepFence =>
      if fenceReady e s && !withEntry e s then some (e.acted (stepFenceAct s).1 s, (stepFenceAct s).2) else none
    | .drainFence => if fenceReady e s && !withEntry e s then some (e, s) else none
    | .stepRefused => some ({ e with info := refusedStepInfo s }, s)
    | .waitRefused q => some ({ e with info := waitInfo s q }, s)
    | .turnRefused => some ({ e with info := turnInfo s.turn.cur 0 0 }, s)
    | .turn | .exchange | .held .. => none

/-- An entry has something to wait for that no completion command brings: a WR_DONE, the first of its pair, its turn's end, or a fence's
condition (R40, R165, R549, R554). -/
def waitsStill (e : InFlight) (s : State) : Bool :=
  !writesDone s e || match e.follows with
    | some h => !h.due
    | none => match e.await with
      | .turn => true
      | .queueFence | .waitFence .. | .stepFence | .drainFence => (completion e s).isNone
      | _ => false

/-- The second of a fused pair whose first an entry is (R165). -/
def secondOf (e : InFlight) (s : State) : Option InFlight :=
  (findInFlight s e.qp (e.idx + 1)).filter fun x => x.follows.isSome

/-- RETIRED of a pair (R528): nothing below it is uncompleted, and it is HEAD or the index of an uncompleted descriptor. -/
def retiredIsLargest (qp : Fin 64) (s t : State) : Prop :=
  let b := (s.q.qps[qp]).retired
  let n := (t.q.qps[qp]).retired
  (n - b).toNat ≤ ((t.q.qps[qp]).head - b).toNat ∧ (∀ x ∈ t.q.inflight, x.qp = qp → (n - b).toNat ≤ (x.idx - b).toNat)
  ∧ (n = (t.q.qps[qp]).head ∨ ∃ x ∈ t.q.inflight, x.qp = qp ∧ n = x.idx)

/-! ### Memory and classes -/

/-- A store to a range spoils no output of a running SAMPLE there (R321; LOG 5). -/
def noRunAt (s : State) (a len : Nat) : Prop := ∀ r ∈ s.gate.runs, rangesMeet r.out (a, len) = false

/-- An address is in no output of a running SAMPLE. -/
def outsideRuns (s : State) (x : Nat) : Prop := ∀ r ∈ s.gate.runs, x < r.out.1 ∨ r.out.1 + r.out.2 ≤ x

/-- The codeword that holds an address is uncorrectable (R494). -/
def badCodeword (s : State) (a : Nat) : Prop := ∃ l, locOf s a = some l ∧ eccAt s l = some true

/-- A write of the n bytes at a leaves an address as it was stored: it covers the address's codeword in part, and that codeword is
uncorrectable (R494). -/
def leftAsStored (s : State) (a n x : Nat) : Prop :=
  let c := x / 16 * 16
  (c < a ∨ a + n < c + 16) ∧ badCodeword s (max a c)

/-- The bytes that a write leaves in its range, in a memory of the canonical form and where it spoils no running SAMPLE's output: the bytes
written, but for those of a codeword left as stored (R494). -/
def holdsWritten (a : Nat) (bs : List Byte) (s t : State) : Prop :=
  MemoryCanonical s → noRunAt s a bs.length → ∀ i, i < bs.length →
    (¬leftAsStored s a bs.length (a + i) → bs[i]? = some (peek t (a + i)))
    ∧ (leftAsStored s a bs.length (a + i) → peek t (a + i) = peek s (a + i))

/-- Fields of a TILE that the first row of R132's table refuses on their own: RND or OVF 3, ROWS, PLAZAS, DEPTH, and in terrace mode M,
N and PLAZAS. -/
def tileRefused (d : Desc) : Prop :=
  fld d.w2 3 2 = 3 ∨ fld d.w2 1 0 = 3 ∨ fld d.w4 8 0 = 0 ∨ 256 < fld d.w4 8 0 ∨ fld d.w7 55 48 = 0
  ∨ 64 < fld d.w7 63 56 + fld d.w7 55 48 ∨ 12 < fld d.w7 35 32
  ∨ (bit d.w3 14 = true ∧ (fld d.w5 31 0 = 0 ∨ 256 < fld d.w5 31 0 ∨ fld d.w6 31 8 = 0 ∨ 128 < fld d.w6 31 8 ∨ fld d.w7 55 48 ≠ 1))

/-- The same of R216's first row for an ATTN: APPEND beside a PASS other than 0, KV_FMT, DH code 3, RND or OVF 3, ENTRIES and PLAZAS. -/
def attnRefused (d : Desc) : Prop :=
  (bit d.w4 60 = true ∧ fld d.w4 63 62 ≠ 0) ∨ (fld d.w4 59 56 ≠ 2 ∧ fld d.w4 59 56 ≠ 4) ∨ fld d.w4 39 38 = 3
  ∨ fld d.w2 3 2 = 3 ∨ fld d.w2 1 0 = 3 ∨ fld d.w3 15 0 = 0 ∨ fld d.w7 55 48 = 0 ∨ 64 < fld d.w7 63 56 + fld d.w7 55 48

/-- The same of R336's first row for a SAMPLE: DLOGITS of a DRAW, ENTRIES, VOCAB and PLAZAS. -/
def sampleRefused (d : Desc) : Prop :=
  (fld d.w4 11 10 = 0 ∧ fld d.w4 63 16 ≠ 0) ∨ fld d.w3 15 0 = 0 ∨ fld d.w5 31 0 = 0 ∨ 262144 < fld d.w5 31 0
  ∨ fld d.w7 55 48 = 0 ∨ 64 < fld d.w7 63 56 + fld d.w7 55 48

/-- The same of R408's first row for a CARE: the codes CLIP 3, CSMODE above 1, AMAXSRC 3, RND or OVF 3, and COUNT 0. -/
def careRefused (d : Desc) : Prop :=
  fld d.w3 11 10 = 3 ∨ 1 < fld d.w3 9 8 ∨ fld d.w3 7 6 = 3 ∨ fld d.w3 3 2 = 3 ∨ fld d.w3 1 0 = 3 ∨ fld d.w2 15 0 = 0

/-- The shares of R489. -/
def SharesLegal (s : State) : Prop := s.stk.k + s.stk.j ≤ 96

/-- No uncompleted descriptor has read or written, or will write, a byte of a range (R547). -/
def untouched (s : State) (a len : Nat) : Prop := ∀ e ∈ s.q.inflight, ∀ r ∈ e.reads ++ e.writes, rangesMeet r.range (a, len) = false

/-- The KERNEL rows: kernel number and row (R152 to R161). -/
def kernelRows : List (Nat × (Fin 64 → Desc → Instr)) :=
  [(0x0101, .convert), (0x0102, .amax), (0x0103, .residualAdd), (0x0201, .rmsnormFwd), (0x0202, .rmsnormBwd),
   (0x0203, .layernormFwd), (0x0204, .layernormBwd), (0x0301, .softmaxFwd), (0x0302, .softmaxBwd), (0x0303, .tokenLogprob),
   (0x0304, .tokenLogprobBwd), (0x0401, .swigluFwd), (0x0402, .swigluBwd), (0x0403, .geluFwd), (0x0404, .geluBwd),
   (0x0501, .rope), (0x0601, .dropout), (0x0602, .fillUniform), (0x0603, .fillNormal), (0x0701, .orthonorm)]

/-- The state in which a fused pair's own checks run: both heads pass (R163, R544). -/
def fusedHead (qp : Fin 64) (d1 d2 : Desc) (s : State) : Option State :=
  let c1 := headChecks (advanceHead qp 2 s) (headIdx s qp) d1
  let c2 := headChecks c1.2 (headIdx s qp + 1) d2
  if c1.1 = .ok ∧ c2.1 = .ok then some (openStep d1 c2.2) else none

/-- A fused pair may start, passes every check, and its first descriptor's work ends OK on bytes that nothing running beside it writes. -/
def fusedRunsOk (qp : Fin 64) (d1 d2 : Desc) (s : State) : Bool :=
  isFused d1 d2 && pairMayStart qp d1 d2 s && match fusedHead qp d1 d2 s with
    | none => false
    | some h => readsAlone (runWork (firstHalf d1 d2) h).2 && (runWork (firstHalf d1 d2) h).1.isOk

/-! ### Turns (R21, R22) -/

/-- The transitions that the table of R22 marks yes: the current state and the target's code. -/
def allowedTransitions : List (Turn × Nat) :=
  [(.ready, 0), (.ready, 2), (.ready, 4), (.generate, 0), (.generate, 2), (.switchLearn, 0), (.switchLearn, 3), (.learn, 0),
   (.learn, 4), (.switchGenerate, 0), (.switchGenerate, 1)]

/-- The transition that an accepted TURN begins: it drains what has started before it, and leaving LEARN with its step open it awaits
a step fence (R30, R34). -/
def begun (r : TurnReq) (s : State) : TurnTrans :=
  { req := r, needFence := s.turn.cur == .learn && s.stash.state != .closed, before := s.q.nextOrder, suspended := 0, ended := 0 }

/-- A TURN's sequence field and transition pass R39 in a state. -/
def turnPasses (r : TurnReq) (s : State) : Prop := r.seq = s.turn.seq + 1 ∧ (s.turn.cur, r.target) ∈ allowedTransitions

/-- The turn, its sequence number and what is in transition or waits are unchanged. -/
def turnKept (s t : State) : Prop := t.turn.cur = s.turn.cur ∧ t.turn.seq = s.turn.seq ∧ t.turn.trans = s.turn.trans
  ∧ t.turn.waiting = s.turn.waiting ∧ t.turn.steps = s.turn.steps ∧ t.turn.lastLength = s.turn.lastLength

/-! ### Pairs (R528, R535) -/

/-- What R535, R545 and R554 name that holds back the descriptor at HEAD of a pair. -/
def heldBack (s : State) (qp : Fin 64) (d : Desc) : Prop :=
  let p := s.q.qps[qp]
  p.state ≠ .active ∨ p.tail = p.head
  ∨ p.entries.toNat ≤ (s.q.ofPair qp).length + (p.produced - p.cqHead).toNat
  ∨ 1024 ≤ s.q.inflight.length
  ∨ (∃ e ∈ s.q.inflight, e.qp = qp ∧ e.cls = 9)
  ∨ (∃ e ∈ s.q.inflight, e.await = .stepFence ∨ e.await = .drainFence)
  ∨ (bit d.w0 8 = true ∧ ∃ e ∈ s.q.inflight, e.qp = qp)

/-- What the first started descriptor of a start's class leaves in flight: the newest entry. -/
def startedAs (s : State) (qp : Fin 64) (d : Desc) (a : Await) (st : Status) (t : State) : Prop :=
  (newest t).map (fun e => (e.qp, e.idx, e.cls, e.await, e.status)) = some (qp, headIdx s qp, descClass d, a, st)

/-! ### Requests (R613 to R617) -/

/-- A request row and the rule of the object it writes. -/
abbrev ObjectRow := (Asker → List Byte → Instr) × Own

/-- The request rows of the work domain's objects, with their rules. -/
def objectRows1 : List ObjectRow :=
  [(.schedulerResume, ownResume), (.maskCacheFlush, ownFlush), (.shareWrite, ownShare), (.inject, ownInject),
   (.accumulatorWrite, ownAccumulator), (.queueEnable, ownQueueEnable), (.write, ownSet), (.writeAuth, ownSet),
   (.classSelect, ownClass), (.alertClear, ownAlertClear), (.alertMask, ownAlertMask), (.unitEnable, ownEnable),
   (.unitReset, ownUnitReset)]

/-- The request rows of the security, reset and power objects, with their rules. -/
def objectRows2 : List ObjectRow :=
  [(.commandKeyWrite, ownKey), (.revokeKey, ownRevoke), (.buildReport, ownReport), (.blobSelect, ownBlob), (.stage, ownStage),
   (.activate, ownActivate), (.activateReset, ownActivateReset), (.activationCancel, ownActivateCancel),
   (.commitSecurityVersion, ownCommit), (.debugUnlock, ownUnlock), (.debugLock, ownLock), (.debugReset, ownDebugReset),
   (.softwareSysReset, ownSysReset), (.softwareCoreReset, ownCoreReset), (.powerStateOn, ownPowerOn),
   (.powerStateIdle, ownPowerIdle), (.powerStatePark, ownPowerPark)]

/-- Every request row of a write, whose rule is that of its object. -/
def objectRows : List ObjectRow := objectRows1 ++ objectRows2

/-- Every request row with a request's words. -/
def requestRows (p : Asker) (r : List Byte) : List Instr :=
  objectRows.map (fun x => x.1 p r) ++ [.read p r, .probeWindow p r, .keepalive p r, .openSession p r, .release p r]

/-- The state in which a request of the Carard path is executed: its room is freed and it is counted (R625, R639). -/
def servedState (r : List Byte) (s : State) : State := noteRequest .carard (arrived .cl 2 (unitsOf (16 + r.length)) s)

/-- The state in which the field path's oldest request is executed. -/
def fieldState (src : BitVec 48) (rest : List (BitVec 48 × List Byte)) (s : State) : State :=
  noteRequest .field { s with od := { s.od with fieldQueue := rest, lastFieldSource := some src } }

/-- The path that a request comes over. -/
def Asker.path : Asker → Path
  | .carard _ => .carard
  | .field => .field

/-- The state in which a path's request is executed; none where it is not served now: the module does not run, a flush of the mask cache
has yet to take effect, whose request is then not finished (R615, R616), or the field path's oldest waiting request is another, or one that
has been answered already (R617, R622, R623). -/
def reqState (p : Asker) (r : List Byte) (s : State) : Option State :=
  if !running s || !s.gate.flushPending.isEmpty then none
  else match p with
    | .carard _ => some (servedState r s)
    | .field => match s.od.fieldQueue with
      | (src, q) :: rest => if q = r ∧ keptResponse s src r = none then some (fieldState src rest s) else none
      | [] => none

/-- The response of a path's request in the state it leaves: an OD_RESP with its TAG, or a frame to the sender, kept (R583, R614, R622,
R623); that to a flush of the mask cache which waits waits with it (R616). -/
def reqSent (p : Asker) (r resp : List Byte) (s t : State) : State :=
  match p with
  | .carard tag => respond (.carard tag resp) t
  | .field => match s.od.fieldQueue with
    | (src, _) :: _ => respond (.field src r resp) t
    | [] => t

/-- An abort: its code is answered, and nothing is counted but the abort (R639), and a protected range's refusal of the debug path (R456). -/
def aborted (r : List Byte) (a : Nat) (u : State) : List Byte × State :=
  let t := countDebugRefusal r a u
  (responseBytes r ⟨a, [], u⟩, { t with od := { t.od with aborts := satInc t.od.aborts, lastAbort := BitVec.ofNat 32 a } })

/-- The state in which an object's own rule runs: an authenticated write's counter is taken (R649). -/
def authState (r : List Byte) (s : State) : State :=
  if reqOpc r = 3 then (checkCritical (reqCounter r) (reqTag r) (reqCommand r) "GLOFATHAL OD" s).2 else s

/-- A write that passes every check of R617 before the object's own rule, in the state it is executed in. -/
def writeReaches (p : Path) (r : List Byte) (s : State) : Bool :=
  !malformed r && isWriteReq r && (p == s.od.holder || reqIndex r == 0x2000)
  && (reqOpc r != 3 || (checkCritical (reqCounter r) (reqTag r) (reqCommand r) "GLOFATHAL OD" s).1)
  && match objectChecks p r s with
    | .ok o => accessCheck o (reqOpc r) == abNone && reqLen r == o.size && (!o.isBool || reqValue r ≤ 1)
        && !debugBusy p r (authState r s)
    | .error _ => false

/-- A READ that passes every check of R617: the object it names. -/
def readReaches (p : Path) (r : List Byte) (s : State) : Option Obj :=
  if malformed r || reqOpc r != 1 || debugBusy p r s then none
  else match objectChecks p r s with
    | .ok o => if o.access = .wo then none else some o
    | .error _ => none

/-- The response of a request that succeeds with data. -/
def okResponse (r : List Byte) (data : List Byte) (s : State) : List Byte := responseBytes r ⟨abNone, data, s⟩

/-- The abort of the first failed check of R617 up to the object's access; 0 where they pass. -/
def earlyAbort (p : Path) (r : List Byte) (s : State) : Nat :=
  if malformed r then 0x07000001
  else if reqOpc r = 0 ∨ 6 < reqOpc r then 0x07000002
  else if reqOpc r = 4 ∨ reqOpc r = 5 ∨ reqOpc r = 6 then 0
  else match objectChecks p r s with
    | .error a => a
    | .ok o =>
      if isWriteReq r && p != s.od.holder && reqIndex r != 0x2000 then 0x05000001
      else if isWriteReq r && (o.access == .const || o.access == .ro) then 0x02000001
      else if !isWriteReq r && o.access == .wo then 0x02000002
      else if reqOpc r == 2 && o.access == .rwa then 0x02000003
      else 0

/-- The abort of the first failed one of the checks of R617 that every object has after those: authentication, the length and value of a
write, and a TILE on the accumulators it names; 0 where they pass. -/
def lateAbort (p : Path) (r : List Byte) (s : State) : Nat :=
  match objectChecks p r s with
  | .error _ => 0
  | .ok o =>
    if reqOpc r = 3 ∧ (checkCritical (reqCounter r) (reqTag r) (reqCommand r) "GLOFATHAL OD" s).1 = false then 0x06000001
    else if isWriteReq r = true ∧ reqLen r ≠ o.size then 0x03000001
    else if isWriteReq r = true ∧ o.isBool = true ∧ 1 < reqValue r then 0x03000002
    else if debugBusy p r (authState r s) then 0x04000001
    else 0

/-- The abort of the first failed check of R617 before an object's own rule; 0 where they pass. -/
def firstAbort (p : Path) (r : List Byte) (s : State) : Nat :=
  if earlyAbort p r s ≠ 0 then earlyAbort p r s
  else if reqOpc r = 1 ∨ isWriteReq r = true then lateAbort p r s
  else 0

/-- The state in which that check answers: the authenticated write's counter and counts are taken where its check is reached (R649). -/
def abortState (p : Path) (r : List Byte) (s : State) : State := if earlyAbort p r s ≠ 0 then s else authState r s

/-! ### Links and packets -/

/-- A sequenced flit can pass over a link now. -/
def passes (s : State) (l : LinkId) : Bool := running s && linkLive s l

/-- One flit is sent on a link: its 128 bytes are as told, and an IDLE may go before it (R569). -/
def flitSent (i : LinkId) (is : List Byte → Prop) (evs : List OutEvent) : Prop :=
  ∃ bs, is bs ∧ (evs = [.flit i bs]
    ∨ ∃ seq ack, evs = [.flit i (flitBytes flitIdle 0 seq ack []), .flit i bs])

/-- The bytes of a sequenced flit (R571, R576, R577); its ACK is whatever the link then acknowledges. -/
def Flit.sentAs (f : Flit) (bs : List Byte) : Prop :=
  ∃ ack, bs = match f.body with
    | .data ch p => flitBytes flitData ch f.seq ack p
    | .credit es => flitBytes flitCredit 15 f.seq ack (es.flatMap fun e => leBytes 4 e.toNat)

/-- Sequenced flits are sent on a link, in order. -/
def flitsSent (i : LinkId) : List Flit → List OutEvent → Prop
  | [], evs => evs = []
  | f :: t, evs => ∃ a b, evs = a ++ b ∧ flitSent i f.sentAs a ∧ flitsSent i t b

/-- A packet row whose packet is addressed otherwise than the row takes it: FORWARD takes packets for other modules, every other row
packets for this one (R597). -/
def misrouted (c : Instr) (s : State) : Bool :=
  match c with
  | .putPacket _ pk | .peerState _ pk | .offer _ pk | .accept _ pk | .decline _ pk | .part _ pk | .endBundle _ pk
  | .bundleResult _ pk => !toSelf s pk
  | .forward _ pk => toSelf s pk
  | _ => false

/-- A packet of a lane can arrive over an avenue now (R566, R597, R600, R668). -/
def arrives (s : State) (av : Fin 8) (vl : Nat) : Bool := running s && linkThere s (.av av) && chCarried s (.av av) vl

/-- The room that an arrived packet took is free again (R577). -/
def tookPacket (av : Fin 8) (pk : Packet) (s : State) : State := arrived (.av av) (packetPool pk) (packetUnits pk) s

/-- An avenue has a packet to send: it has sent it, or holds it among what waits (R576, R598). -/
def handed (t : State) (av : Fin 8) (pk : Packet) : Prop :=
  .packet av pk ∈ t.outbox ∨ packetMsg pk (some (.packet av pk)) ∈ (t.lk.avs[av]).waiting

/-- No two exchanges are of one descriptor. -/
def exchangesDistinct (s : State) : Prop := (s.red.exchanges.map fun x => (x.qp, x.idx)).Nodup

/-- An exchange that data of a member are for (R423, R461): begun, of the group, plan step and object named, and still without them. -/
def wantsPiece (k : XKind) (x : PeerMsg) (p : Piece) (y : Exchange) : Bool :=
  y.begun && y.kind == k && y.group.id == x.groupId && y.epoch == x.epoch && y.obj == x.obj && x.rank < y.group.n && !hasPiece y p

/-- An exchange that lacks the fields of a member, begun or not (R415, R462). -/
def wantsFields (x : PeerMsg) (f : PeerFields) (y : Exchange) : Bool :=
  y.group.id == x.groupId && fieldsOfKind y.kind f && y.stage == 0 && y.lacking.contains x.rank

/-- FIELDS of this kind, group and member are known for one exchange alone: none came before for a descriptor still to come, none are
owed to one that has ended, and every exchange's group is known (R415; LOG 68). -/
def fieldsClear (x : PeerMsg) (f : PeerFields) (s : State) : Prop :=
  (∀ g ∈ s.red.early, ¬(g.groupId = x.groupId ∧ g.rank = x.rank))
  ∧ (∀ m ∈ s.red.missed, ¬(m.groupId = x.groupId ∧ m.rank = x.rank ∧ fieldsOfKind m.kind f = true))
  ∧ ∀ y ∈ s.red.exchanges, y.kind = .rebuild ∨ y.group.n ≠ 0

/-- The first exchange that wants a piece has it; without one nothing of the exchanges changes. -/
def pieceJoins (k : XKind) (x : PeerMsg) (p : Piece) (s u : State) : Prop :=
  u.mem = s.mem ∧ u.q = s.q ∧ match s.red.exchanges.find? (wantsPiece k x p) with
    | some y => { y with pieces := y.pieces ++ [p] } ∈ u.red.exchanges ∧ u.red.exchanges.length = s.red.exchanges.length
    | none => u.red.exchanges = s.red.exchanges

/-- No codeword that a range of addresses touches is uncorrectable (R494, R495). -/
def readableRange (s : State) (a len : Nat) : Prop :=
  ∀ i, i < len → ∀ l, locOf s (a + i) = some l → eccAt s l ≠ some true

/-! ### Resets (R678 to R686) -/

/-- The level that a source gives the reset in progress, or the one it begins (R682). -/
def sourceLevel (l : Level) (s : State) : Level :=
  match s.rst.run with
  | none => l
  | some r => if r.level.depth < l.depth then l else r.level

/-- The causes of which it records one (R682): its own; the one held, where the reset in progress is the deeper; and either, where that one
is of its level with a lower code and its stretch has not ended, since the two may have come in one slow cycle (LOG 9). -/
def sourceCauses (l : Level) (cause : Byte) (s : State) : List Byte :=
  match s.rst.run with
  | none => [cause]
  | some r =>
    if l.depth < r.level.depth then [s.rst.cause]
    else if l = r.level ∧ r.stretchDone = false ∧ s.rst.cause < cause then [s.rst.cause, cause]
    else [cause]

/-- A reset has just been asserted at a level with one of some causes: its stretch runs afresh, RST_N is driven but for CORE, the turn is
READY, no descriptor is in flight and every pair is DISABLED (R537, R682 to R684). -/
def asserted (l : Level) (causes : List Byte) (t : State) : Prop :=
  t.rst.run = some ⟨l, false, false⟩ ∧ t.rst.cause ∈ causes ∧ t.rst.rstDriven = (l != .core) ∧ t.turn.cur = .ready
  ∧ t.q.inflight = [] ∧ (∀ q : Fin 64, (t.q.qps[q]).state = .disabled ∧ (t.q.qps[q]).head = 0 ∧ (t.q.qps[q]).tail = 0)

/-- What a reset of a level does to memory (R513, R514): CORE keeps it all; SYS and PO keep the companion's and zero the stacks. -/
def memoryAfterReset (l : Level) (s t : State) : Prop :=
  match l with
  | .core => t.mem = s.mem ∧ t.prot = s.prot
  | _ => t.mem = s.mem.filter (fun c => companionBase ≤ c.1) ∧ t.prot = []

end Sys2Proof.Machine
end

