-- ==== Sys2Proof/Certificates/Slice0/Obligations.lean ====
section
/-! DEFINITION. The statements for the provers. Each docstring names the rules of spec/ that it rests on. -/

open Sys2Proof Sys2Proof.Machine

/-! ### The machine as a whole -/

/-- A step takes the command at the front of the queue and runs it on the state with the queue's rest; on an empty queue the block idles
(the queue and the idle step are the model's choice, LOG 1). -/
def Obligations.StepRunsFrontCommand : Prop :=
  (∀ (s : State) (c : Instr) (rest : List Instr),
    step { s with pending := c :: rest } = exec c { s with pending := rest })
  ∧ ∀ s : State, s.pending = [] → step s = .next s

/-- No command changes the queue of waiting commands, which is the model's own field (LOG 1): only a step takes the command at its front. -/
def Obligations.CommandsKeepTheQueue : Prop :=
  ∀ (c : Instr) (s t : State), exec c s = .next t → t.pending = s.pending

/-- A command is refused exactly when its words are not its row's, or its packet is addressed otherwise than its row takes it, and then as
ill-formed: every other command completes or faults. That such a command is refused, and as what, is the model's reading (LOG 58; the
lengths of a DWR, LOG 57); the forms themselves are those of R529, R540, R584, R597 and R613. -/
def Obligations.IllFormedExactlyWhenNotItsRow : Prop :=
  ∀ (c : Instr) (s : State), (exec c s = .refused .illFormed ↔ c.wellFormed = false ∨ misrouted c s = true)
    ∧ ∀ r, exec c s = .refused r → r = .illFormed

/-- Every descriptor's and every request's words belong to one row of the table (R540, R613): whatever its class code, operation, object
and value, one command takes it. -/
def Obligations.EachWordHasOneRow : Prop :=
  (∀ (qp : Fin 64) (d : Desc), ((descRows qp d).filter Instr.wellFormed).length = 1)
  ∧ ∀ (p : Asker) (r : List Byte), ((requestRows p r).filter Instr.wellFormed).length = 1

/-- The values that the spec gives the machine after a PO reset: the turn (R45), memory and the shares of the stacks (R513, R524, R525), no
protected range (R459) and no terrace tile (R115), the pairs (R532, R537), the scheduler (R292) with every slot free, as its sequences are
discarded (R43), the version and adapter slots (R268), the stash (R364), CARE and REDUCE (R412, R445), the alert mask (R636, R637), the
epoch and its counter (R648), the cause (R640) and the power state (R700). -/
def Obligations.ResetValues : Prop :=
  let s := State.reset
  s.turn.cur = .ready ∧ s.turn.seq = 0 ∧ s.turn.trans = none ∧ s.turn.defaultDrain = 10000
  ∧ s.mem = [] ∧ s.prot = [] ∧ s.stk.k = 16 ∧ s.stk.j = 16 ∧ s.terr.tiles = []
  ∧ (∀ qp : Fin 64, (s.q.qps[qp]).state = .disabled ∧ (s.q.qps[qp]).tail = 0 ∧ (s.q.qps[qp]).head = 0 ∧ (s.q.qps[qp]).produced = 0
      ∧ (s.q.qps[qp]).cqHead = 0 ∧ (s.q.qps[qp]).retired = 0 ∧ (s.q.qps[qp]).enable = false)
  ∧ s.sched.state = .stopped ∧ s.sched.budget = 8192 ∧ s.sched.slots = []
  ∧ (∀ v : Fin 4, (s.vers[v]).state = .free) ∧ (∀ a : Fin 256, (s.adapters[a]).state = .free)
  ∧ s.stash.state = .closed ∧ s.stash.tag ≠ 0 ∧ s.care.lastGs = 0x3F800000 ∧ s.red.stall = 5000
  ∧ s.od.alertMask = 0xFFF ∧ s.sec.counter = 0 ∧ s.sec.epoch ≠ 0 ∧ s.rst.cause = 1 ∧ s.power.current = .on

/-- The invariant of StepsKeepTheInvariant holds at reset. -/
def Obligations.ResetMeetsTheInvariant : Prop := MemoryCanonical State.reset ∧ SharesLegal State.reset

/-- Every step keeps the canonical form of memory, so equal memories are equal lists after any run, and the shares of R489 within one
stack, so a stack byte has one address. -/
def Obligations.StepsKeepTheInvariant : Prop :=
  (∀ s t : State, MemoryCanonical s → step s = .next t → MemoryCanonical t)
  ∧ ∀ s t : State, SharesLegal s → step s = .next t → SharesLegal t

/-! ### Starting descriptors (R23, R535, R544, R545, R554) -/

/-- A descriptor that R535, R545 or R554 holds back waits: of the state only what its pair knows of the entry at HEAD changes (R535, R543;
LOG 64). ORDERED of a pair's second descriptor counts as its first's (R728). -/
def Obligations.HeldDescriptorsWait : Prop :=
  ∀ (qp : Fin 64) (d : Desc) (s : State), running s = true → heldBack s qp d →
    (∀ c : Instr, c ∈ descRows qp d → c.wellFormed = true →
      ∃ x ∈ [d, { d with w0 := d.w0 ||| 0x100 }], exec c s = .next (showFront qp x s))
    ∧ ∀ d2 : Desc, isFused d d2 = true → ∃ x ∈ [d, { d with w0 := d.w0 ||| 0x100 }], exec (.fusedPair qp d d2) s = .next (showFront qp x s)

/-- A descriptor that starts and fails a check of the first five of R544 gets that check's status and does nothing else. Of a fused pair the
first failing check of either descriptor decides; the second waits for the first's completion, whose status it takes (R163, R165). A KERNEL
of FUSE 1 does not start alone, whatever its number (R728): its pair shows it at HEAD, which is the model's own record (LOG 59, LOG 64).
Whether a TILE starts alone or with the KERNEL after it is decided by the ring as the model holds it (LOG 2). -/
def Obligations.HeadChecksDecideInOrder : Prop :=
  (∀ (qp : Fin 64) (d : Desc) (s : State) (c : Instr), c ∈ descRows qp d → c.wellFormed = true → running s = true →
    (startsAlone c qp d s → canStart s qp d 1 = true → headStatus qp d s ≠ .ok → exec c s = .next (headRefused c qp d s))
    ∧ (holdsPair d = true → exec c s = .next (showFront qp d s))
    ∧ ∀ d2, c ∈ tileRows qp d → postOf s qp = some d2 → exec c s = exec (.fusedPair qp d d2) s)
  ∧ ∀ (qp : Fin 64) (d1 d2 : Desc) (s : State), isFused d1 d2 = true → pairMayStart qp d1 d2 s = true →
    pairHeadStatus qp d1 d2 s ≠ .ok →
    ∃ t, exec (.fusedPair qp d1 d2) s = .next t ∧ t.mem = s.mem ∧ t.q.qps = (advanceHead qp 2 s).q.qps
      ∧ t.q.inflight.take s.q.inflight.length = s.q.inflight
      ∧ (t.q.inflight.drop s.q.inflight.length).map (fun e => (e.qp, e.idx, e.status, e.await, e.follows.isSome))
        = [(qp, headIdx s qp, pairHeadStatus qp d1 d2 s, Await.nothing, false), (qp, headIdx s qp + 1, Status.ok, Await.nothing, true)]

/-- What a descriptor's start leaves unchanged, a fused pair's among them: fuses, keys and flash, the reset and power controllers, the turn
and its sequence number, the waiting commands, and every pair but its own, of which only HEAD moves past what starts, and what the pair
knows of its ring: the entry at HEAD and the lines fetched (the model's own fields, LOG 64). -/
def Obligations.StartFrame : Prop :=
  ∀ (qp : Fin 64) (d : Desc) (s t : State) (c : Instr), (c ∈ descRows qp d ∨ ∃ d2, c = .fusedPair qp d d2) → exec c s = .next t →
    t.persist = s.persist ∧ t.rst = s.rst ∧ t.power = s.power ∧ t.turn.cur = s.turn.cur ∧ t.turn.seq = s.turn.seq
    ∧ t.pending = s.pending ∧ (∀ q : Fin 64, q ≠ qp → t.q.qps[q] = s.q.qps[q])
    ∧ ∃ n f r, n ≤ 2 ∧ (n = 2 → c ∈ tileRows qp d ∨ ∃ d2, c = .fusedPair qp d d2) ∧ (n = 1 → ∀ d2, c ≠ .fusedPair qp d d2)
      ∧ t.q.qps[qp] = { (s.q.qps[qp]) with head := (s.q.qps[qp]).head + BitVec.ofNat 32 n, front := f, ring := r }

/-- Doorbells (R529, R530). A KIND 0 word moves TAIL and a KIND 1 word CQHEAD, unless R530 ignores and counts it; the message's room is
free again (R577). One that follows a request of its channel which waits for a stack in reset waits behind it (R515, R587; the model's
reading, LOG 13). While the pair is not ACTIVE nothing of it starts (R535). -/
def Obligations.DoorbellsMoveTheirCount : Prop :=
  ∀ (w : W64) (s : State), running s = true →
    let qp : Fin 64 := doorbellQid w
    let u := arrived .cl 2 1 s
    let p := s.q.qps[qp]
    let v : W32 := BitVec.ofNat 32 (fld w 63 32)
    let held := s.stk.heldRequests.any HeldRequest.isDevice
    let reserved : Prop := fld w 31 8 ≠ 0 ∨ fld w 6 6 ≠ 0
    let ignored : State := { u with q := { s.q with ignored := satInc s.q.ignored } }
    (held = true → ∀ c ∈ [Instr.submissionTail w, .completionHead w], c.wellFormed = true →
      exec c s = .next (holdRequest (.doorbell w) u))
    ∧ (held = false → bit w 7 = false →
      exec (.submissionTail w) s = .next
        (if reserved ∨ 2 ^ 31 ≤ (v - p.tail).toNat ∨ p.entries.toNat < (v - p.head).toNat then ignored
         else { u with q := { s.q with qps := s.q.qps.set qp { p with tail := v } } }))
    ∧ (held = false → bit w 7 = true →
      exec (.completionHead w) s = .next
        (if reserved ∨ 2 ^ 31 ≤ (v - p.cqHead).toNat ∨ p.entries.toNat < (p.produced - v).toNat then ignored
         else { u with q := { s.q with qps := s.q.qps.set qp { p with cqHead := v } } }))
    ∧ (p.state ≠ .active → (∀ (d : Desc) (c : Instr), c ∈ descRows qp d → c.wellFormed = true → exec c s = .next s)
      ∧ ∀ d1 d2 : Desc, isFused d1 d2 = true → exec (.fusedPair qp d1 d2) s = .next s)

/-! ### Turns (R22, R36 to R42) -/

/-- A TURN that starts and passes checks 1 to 5, by the checks of R51 and R39: accepted, it begins its transition; refused, it leaves its
status at 2200:09 and the turn as it is; while another is in transition or waits before it, it waits (R38). A TURN from READY to READY
begins a whole transition too, which is the model's choice (LOG 60). Nothing else changes of memory, pairs, scheduler, versions, stash and
terraces. -/
def Obligations.TurnIsAcceptedOrRefused : Prop :=
  ∀ (qp : Fin 64) (d : Desc) (s : State), isTurn d = true → running s = true → canStart s qp d 1 = true → headStatus qp d s = .ok →
    let r := turnReq qp (headIdx s qp) d
    let alone : Prop := s.turn.trans = none ∧ s.turn.waiting = []
    let frame := fun (t : State) => t.mem = s.mem ∧ t.q.qps = (advanceHead qp 1 s).q.qps ∧ t.sched = s.sched ∧ t.vers = s.vers
      ∧ t.stash = s.stash ∧ t.terr = s.terr
    (alone → turnFieldsOk d = true → turnPasses r s → ∃ t, exec (.turn qp d) s = .next t ∧ frame t
      ∧ t.turn = { s.turn with trans := some (begun r s) } ∧ startedAs s qp d .turn .ok t)
    ∧ (alone → turnFieldsOk d = true → ¬turnPasses r s → ∃ t, exec (.turn qp d) s = .next t ∧ frame t
      ∧ t.turn = { s.turn with lastRefusal := 5 } ∧ startedAs s qp d .turnRefused .badTransition t)
    ∧ (alone → turnFieldsOk d = false → ∃ t, exec (.turn qp d) s = .next t ∧ frame t
      ∧ t.turn = { s.turn with lastRefusal := 1 } ∧ startedAs s qp d .turnRefused .badDescriptor t)
    ∧ (¬alone → ∃ t, exec (.turn qp d) s = .next t ∧ frame t
      ∧ t.turn = { s.turn with waiting := s.turn.waiting ++ [r] } ∧ startedAs s qp d .turn .ok t)

/-- The first waiting TURN is taken once no other is in transition, and checked against the state then held (R38, R39, R51); a drain that
times out ends the transition where the module stands, and its TURN completes with TIMEOUT, shown at 2200:09 (R36, R52). The record is
written where its WR can leave at once, and waits otherwise (R549; LOG 77). -/
def Obligations.TurnWaitsAndTimeouts : Prop :=
  (∀ (s : State) (r : TurnReq) (rest : List TurnReq), running s = true → s.turn.trans = none → s.turn.waiting = r :: rest →
    let refused := fun (code : W32) => ∃ t, exec .turnWaitResume s = .next t
      ∧ t.turn = { s.turn with waiting := rest, lastRefusal := code }
      ∧ (ringOutside s r.qp → recordReady { s with turn := { s.turn with waiting := rest } } r.qp = true →
        findInFlight t r.qp r.idx = none ∧ ∀ e, findInFlight s r.qp r.idx = some e → pairCompleted e s t)
    (r.fieldsOk = true → turnPasses r s →
      exec .turnWaitResume s = .next { s with turn := { s.turn with waiting := rest, trans := some (begun r s) } })
    ∧ (r.fieldsOk = true → ¬turnPasses r s → refused 5)
    ∧ (r.fieldsOk = false → refused 1))
  ∧ (∀ (s : State) (tr : TurnTrans), running s = true → s.turn.trans = some tr → stillDraining tr s = true →
    ∃ t, exec .turnDrainTimeout s = .next t ∧ t.turn = { s.turn with trans := none, lastRefusal := 0x11 }
      ∧ (ringOutside s tr.req.qp → recordReady { s with turn := { s.turn with trans := none } } tr.req.qp = true →
        findInFlight t tr.req.qp tr.req.idx = none ∧ ∀ e, findInFlight s tr.req.qp tr.req.idx = some e → pairCompleted e s t
          ∧ recordWritten { e with status := .timeout, info := turnInfo s.turn.cur tr.suspended tr.ended } s t))

/-- Entering the target (R40, R42), in the state that the awaited step fence leaves where one is awaited (R34): the turn, its sequence
number, which stops at its largest value (R719), and the transition length are set and the transition is over; leaving GENERATE sets every
sequence aside and stops the scheduler (R32, R267); a TURN to GENERATE that names no LIVE version ends with VERSION_RETIRED where it is
(R41). That READY to READY counts like any entry, and when the sequences set aside have their record, are the model's choices (LOG 60). The
TURN has nothing more to wait for but its record. -/
def Obligations.TurnEntryEnters : Prop :=
  ∀ (s u : State) (tr : TurnTrans) (n : W64), running s = true → s.turn.trans = some tr → drained tr s = true →
    afterAwaited tr s = some u → settleRoom tr s = true →
    ∃ t, exec (.turnEntry n) s = .next t ∧ t.turn.trans = none
      ∧ (∀ e, findInFlight t tr.req.qp tr.req.idx = some e → e.await = .nothing) ∧
      (s.turn.cur = .generate → unsettled tr.req t = []) ∧
      (∀ x, Turn.ofCode tr.req.target = some x → x ≠ .generate ∨ namedStart tr.req s ≠ none →
        t.turn.cur = x ∧ t.turn.seq = satInc s.turn.seq ∧ t.turn.lastLength = n
        ∧ t.turn.steps = (if x = .learn then 0 else u.turn.steps)
        ∧ (x = .generate → t.sched.startVersion = namedStart tr.req s ∧ t.sched.state = .running ∧ t.gate.cache = [])
        ∧ (x ≠ .generate → s.turn.cur = .generate → t.sched.startVersion = none ∧ t.sched.state = .stopped)) ∧
      (Turn.ofCode tr.req.target = some .generate → namedStart tr.req s = none →
        t.turn.cur = s.turn.cur ∧ t.turn.seq = s.turn.seq ∧ t.turn.lastRefusal = 0x0E)

/-- The turn changes only at TURN_ENTRY, and at a reset, which leaves READY (R40, R43). -/
def Obligations.TurnChangesOnlyAtEntryOrReset : Prop :=
  ∀ (c : Instr) (s t : State), exec c s = .next t → t.turn.cur ≠ s.turn.cur → (∃ n, c = .turnEntry n)
    ∨ (c ∈ [Instr.resetBegin, .powerOn, .brownOut, .pinReset, .watchdog, .clockFailure, .lockUp] ∧ t.turn.cur = .ready)

/-! ### Fences and completion (R380, R528, R534, R536, R549, R554 to R558) -/

/-- A fence starts and waits for what R554 says; fields that R553 or R555 forbid end it with BAD_DESCRIPTOR. The record of a WAIT so refused
shows RETIRED of the pair it names (R557); that of a STEP shows 2700:07 and 2700:05 and no tag and no count of tiles, since it examined no
step (the two zeros are the model's choice, LOG 61; R381). A STEP fence whose fields pass is `StepFenceActs`'s. -/
def Obligations.FencesWait : Prop :=
  (∀ (qp : Fin 64) (d : Desc) (s : State), running s = true → canStart s qp d 1 = true → headStatus qp d s = .ok →
    let starts := fun (c : Instr) (a : Await) (st : Status) => ∃ t, exec c s = .next t ∧ t.mem = s.mem ∧ t.stash = s.stash
      ∧ t.terr = s.terr ∧ t.turn = s.turn ∧ startedAs s qp d a st t
    (isFenceKind 0 d = true → fenceFieldsOk qp d = true → starts (.queueFence qp d) .queueFence .ok)
    ∧ (isFenceKind 1 d = true → fenceFieldsOk qp d = true → starts (.waitFence qp d) (.waitFence (fenceQid d) (fenceW d)) .ok)
    ∧ (isFenceKind 3 d = true → fenceFieldsOk qp d = true → starts (.drainFence qp d) .drainFence .ok)
    ∧ (isFenceKind 0 d = true → fenceFieldsOk qp d = false → starts (.queueFence qp d) .nothing .badDescriptor)
    ∧ (isFenceKind 1 d = true → fenceFieldsOk qp d = false → starts (.waitFence qp d) (.waitRefused (fenceQid d)) .badDescriptor)
    ∧ (isFenceKind 2 d = true → fenceFieldsOk qp d = false → starts (.stepFence qp d) .stepRefused .badDescriptor)
    ∧ (isFenceKind 3 d = true → fenceFieldsOk qp d = false → starts (.drainFence qp d) .nothing .badDescriptor))
  ∧ ∀ (qp : Fin 64) (idx : W32) (s : State) (e : InFlight), running s = true → findInFlight s qp idx = some e →
    writesDone s e = true → e.follows = none → ringOutside s qp → recordReady s qp = true →
    let records := fun (info : List Byte) => ∃ t, exec (.descriptorComplete qp idx) s = .next t ∧ pairCompleted e s t
      ∧ recordWritten { e with info := info } s t
    (∀ q : Fin 64, e.await = .waitRefused q → records (leBytes 4 (s.q.qps[q]).retired.toNat ++ List.replicate 12 0))
    ∧ (e.await = .stepRefused →
      records (leBytes 4 0 ++ leBytes 4 s.stash.unitsDropped.toNat ++ leBytes 4 (s.stash.peak.toNat / 4096) ++ leBytes 4 0))

/-- A STEP fence (R380). It waits for what was started before it, and for the release of a stack in reset that it is to write to (R515);
when nothing holds it, it acts: an exhausted stash discards the open tiles and ends the step, an open tile leaves the step open, and
otherwise the step ends and 2200:04 counts it in LEARN; its status is then OK unless a write of a COPY field failed (R494). Of memory only
the COPY fields of the entries whose copies it frees can change (R347). -/
def Obligations.StepFenceActs : Prop :=
  ∀ (qp : Fin 64) (d : Desc) (s : State), isFenceKind 2 d = true → running s = true → canStart s qp d 1 = true →
    headStatus qp d s = .ok → fenceFieldsOk qp d = true → freshIndex s qp →
    ∃ t, exec (.stepFence qp d) s = .next t ∧ t.turn.cur = s.turn.cur
      ∧ (SharesLegal s → ∀ x, (∀ c ∈ s.stash.copies, x < c.entry + 16 ∨ c.entry + 22 ≤ x) → peek t x = peek s x) ∧
      let ended := t.stash.state = .closed ∧ t.stash.copies = [] ∧ t.stash.fill = 0 ∧ t.stash.tag = nextTag s.stash.tag
        ∧ t.turn.steps = if s.turn.cur = .learn then satInc s.turn.steps else s.turn.steps
      let acts := allQuiet s s.q.nextOrder && copiesThere s
      (acts = false → t.stash = s.stash ∧ t.terr = s.terr ∧ t.turn = s.turn ∧ startedAs s qp d .stepFence .ok t)
      ∧ (acts = true →
        (s.stash.state = .exhausted → ended ∧ t.terr.tiles = [] ∧ t.stash.stepsExhausted = satInc s.stash.stepsExhausted
          ∧ startedAs s qp d .drainFence .stashExhausted t)
        ∧ (s.stash.state ≠ .exhausted → s.terr.tiles ≠ [] → t.stash = s.stash ∧ t.terr = s.terr ∧ t.turn = s.turn
          ∧ startedAs s qp d .drainFence .stepIncomplete t)
        ∧ (s.stash.state ≠ .exhausted → s.terr.tiles = [] → ended ∧ t.terr = s.terr
          ∧ t.stash.stepsDowngraded = (if s.stash.state = .downgrading then satInc s.stash.stepsDowngraded else s.stash.stepsDowngraded)
          ∧ ∃ st, startedAs s qp d .drainFence st t ∧ (s.stash.copies = [] → st = .ok)))

/-- Completing a descriptor: its record is written to the completion ring and PRODUCED counts it, RETIRED is the largest that R528
allows, a halting status halts the pair (R536), and the last one of a pair that drains or waits for enable ends that (R534). One that
still waits, for a fence's condition, a turn, the first of its pair or a write to companion memory, has no record yet (R165, R549, R554),
nor has one whose record's WR cannot leave at once, so that PRODUCED never runs ahead of the record (R549, R585; LOG 77). What the second of a fused pair then does is `FusedPairCompletes`'s. -/
def Obligations.CompletionWritesTheRecord : Prop :=
  (∀ (qp : Fin 64) (idx : W32) (s u : State) (e e' : InFlight), running s = true → findInFlight s qp idx = some e →
    completion e s = some (e', u) → secondOf e s = none →
    (recordReady u qp = true → ∃ t, exec (.descriptorComplete qp idx) s = .next t ∧ pairCompleted e u t ∧ retiredIsLargest qp u t
      ∧ (ringOutside s qp → recordWritten e' u t)
      ∧ (let p := s.q.qps[qp]
         let last := !(t.q.inflight.any fun x => x.qp == qp)
         let x := pairStateAfter p.state (halts p.stopOnFailure e'.status) last
         (t.q.qps[qp]).state = x
         ∧ (t.q.qps[qp]).halt = if x = .halted ∧ p.state ≠ .halted then BitVec.ofNat 16 e'.status.code else p.halt))
    ∧ (ringOutside s qp → recordReady u qp = false → ∃ t, exec (.descriptorComplete qp idx) s = .next t ∧ t.q.qps = s.q.qps ∧ t.mem = u.mem
      ∧ findInFlight t qp idx = some { e' with await := .nothing }))
  ∧ ∀ (qp : Fin 64) (idx : W32) (s : State), running s = true → (∀ e, findInFlight s qp idx = some e → waitsStill e s = true) →
    exec (.descriptorComplete qp idx) s = .next s

/-- A WAIT fence that its time runs out on completes with TIMEOUT and shows RETIRED of the pair it names (R555, R557). -/
def Obligations.WaitTimesOut : Prop :=
  ∀ (qp : Fin 64) (idx : W32) (s : State) (e : InFlight) (q : Fin 64) (w : W32), running s = true →
    findInFlight s qp idx = some e → e.await = .waitFence q w → (pairQuiet s qp e.order = false ∨ hasRetired s q w = false) →
      ringOutside s qp → recordReady s qp = true →
    ∃ t, exec (.waitTimeout qp idx) s = .next t ∧ pairCompleted e s t ∧ t.turn = s.turn ∧ t.stash = s.stash
      ∧ recordWritten { e with status := .timeout, info := waitInfo s q } s t

/-! ### Work of the classes -/

/-- TILE and the terrace rows do their work and end OK wherever every check and the work itself pass (R102 to R114), and end with the status
and address of what fails otherwise, BAD_DESCRIPTOR with memory as it was for fields of R132's first row; where TAIL covers a KERNEL of FUSE
2 after one, the two start as a POST pair (R728). What TAIL covers is the ring as the model holds it: an entry of a companion line that the
module has not read is asked for first (LOG 2, LOG 64). -/
def Obligations.TileRowsComplete : Prop :=
  ∀ (qp : Fin 64) (d : Desc) (s : State),
    (nextUnknown s qp = false → postOf s qp = none → runsOk qp d (tileBody d) s = true →
      (isTile d = true → CompletesOk (.tile qp d) qp d (tileBody d) s)
      ∧ (isTerraceOpen d = true → CompletesOk (.terraceOpen qp d) qp d (tileBody d) s)
      ∧ (isTerraceContribute d = true → CompletesOk (.terraceContribute qp d) qp d (tileBody d) s)
      ∧ (isTerraceClose d = true → CompletesOk (.terraceClose qp d) qp d (tileBody d) s))
    ∧ ∀ c ∈ tileRows qp d, c.wellFormed = true →
      (∀ d2, postOf s qp = some d2 → exec c s = exec (.fusedPair qp d d2) s)
      ∧ (nextUnknown s qp = true → running s = true → canStart s qp d 1 = true → exec c s = .next (askNext qp d s))
      ∧ (startsAlone c qp d s → passesHead qp d s = true →
        (tileRefused d → ∃ t, exec c s = .next t ∧ t.mem = s.mem ∧ startedAs s qp d .nothing .badDescriptor t)
        ∧ (readsAlone (classWork qp d (tileBody d) s).2 = true → FailsWith c qp d (tileBody d) s))

/-- Every KERNEL row does its work and ends OK wherever every check and the work itself pass; a KERNEL of FUSE 1 waits for its pair
(R138, R152 to R161, R728), which then shows it at HEAD: the model's own record of that entry (LOG 59, LOG 64). -/
def Obligations.KernelRowsComplete : Prop :=
  ∀ (qp : Fin 64) (d : Desc) (s : State), ∀ x ∈ kernelRows, isKernel x.1 d = true →
    ((kernelFields d).fuse ≠ 1 → runsOk qp d (kernelBody d) s = true → CompletesOk (x.2 qp d) qp d (kernelBody d) s)
    ∧ ((kernelFields d).fuse = 1 → running s = true → exec (x.2 qp d) s = .next (showFront qp d s))

/-- A fused pair starts both its descriptors: HEAD moves past both, and each has an entry of its own class and index (R162, R163). The
second does its work when the first completes OK, or as soon as what that work lacks is there (R515), and takes the status and address of
a first that fails (R165). -/
def Obligations.FusedPairCompletes : Prop :=
  (∀ (qp : Fin 64) (d1 d2 : Desc) (s : State), fusedRunsOk qp d1 d2 s = true →
    ∃ t, exec (.fusedPair qp d1 d2) s = .next t ∧ t.q.qps = (advanceHead qp 2 s).q.qps
      ∧ (t.q.inflight.drop s.q.inflight.length).map (fun e => (e.qp, e.idx, e.cls, e.status, e.follows.isSome))
        = [(qp, headIdx s qp, descClass d1, Status.ok, false), (qp, headIdx s qp + 1, descClass d2, Status.ok, true)])
  ∧ ∀ (qp : Fin 64) (idx : W32) (s : State) (e x : InFlight), running s = true → findInFlight s qp idx = some e → e.await = .nothing →
    (completion e s).isSome = true → secondOf e s = some x → recordReady s qp = true →
    ∃ t, exec (.descriptorComplete qp idx) s = .next t ∧ findInFlight t qp idx = none
      ∧ (t.q.qps[qp]).produced = (s.q.qps[qp]).produced + 1
      ∧ (e.status ≠ .ok →
        findInFlight t qp (idx + 1) = some { x with status := e.status, faultAddr := e.faultAddr, follows := none })
      ∧ (e.status = .ok → ∃ y, findInFlight t qp (idx + 1) = some y ∧ y.order = x.order
        ∧ (x.status ≠ .ok → y = { x with follows := none })
        ∧ (y.follows = none ∨ ∃ h, y.follows = some h ∧ h.due = true))

/-- The ATTN, SAMPLE and CARE rows do their work and end OK wherever every check and the work itself pass (R196 to R201, R304 to R307,
R393 to R404), and end with the status and address of what fails otherwise: BAD_DESCRIPTOR for fields of the first rows of R216, R336 and
R408, with memory as it was for an ATTN and a SAMPLE. -/
def Obligations.AttnSampleAndCareRowsComplete : Prop :=
  ∀ (qp : Fin 64) (d : Desc) (s : State),
    (runsOk qp d (attnBody d) s = true →
      (isAttn 0 d = true → CompletesOk (.attnForward qp d) qp d (attnBody d) s)
      ∧ (isAttn 1 d = true → CompletesOk (.attnBackward qp d) qp d (attnBody d) s)
      ∧ (isAttn 2 d = true → CompletesOk (.appendOnly qp d) qp d (attnBody d) s))
    ∧ (runsOk qp d (sampleBody d) s = true →
      (isSample 0 d = true → CompletesOk (.draw qp d) qp d (sampleBody d) s)
      ∧ (isSample 1 d = true → CompletesOk (.verify qp d) qp d (sampleBody d) s))
    ∧ (runsOk qp d (careBody d) s = true →
      (isCare 0 d = true → CompletesOk (.update qp d) qp d (careBody d) s)
      ∧ (isCare 1 d = true → CompletesOk (.emit qp d) qp d (careBody d) s)
      ∧ (isCare 2 d = true → CompletesOk (.updateEmit qp d) qp d (careBody d) s)
      ∧ (isCare 3 d = true → CompletesOk (.scan qp d) qp d (careBody d) s))
    ∧ (passesHead qp d s = true →
      let fails := fun (c : Instr) (body : M Unit) (refused keeps : Prop) => c.wellFormed = true →
        readsAlone (classWork qp d body s).2 = true →
        FailsWith c qp d body s
        ∧ (refused → waitsIn (classWork qp d body s).1 = false →
          ∃ t, exec c s = .next t ∧ startedAs s qp d .nothing .badDescriptor t ∧ (keeps → t.mem = s.mem))
      (∀ c ∈ [Instr.attnForward qp d, .attnBackward qp d, .appendOnly qp d], fails c (attnBody d) (attnRefused d) True)
      ∧ (∀ c ∈ [Instr.draw qp d, .verify qp d], fails c (sampleBody d) (sampleRefused d) True)
      ∧ ∀ c ∈ [Instr.update qp d, .emit qp d, .updateEmit qp d, .scan qp d], fails c (careBody d) (careRefused d) False)

/-- VERSION rows (R265, R267, R277, R280, R564): started, they wait, and at their completion (the checks of the slot are then made again,
which is the model's reading, LOG 35) a PUBLISH or LOAD_ADAPTER makes the FREE slot it names LIVE as it says, and a RETIRE or
RETIRE_ADAPTER makes a LIVE slot RETIRING; no other slot changes. A retired slot is freed once no sequence holds it (R264). -/
def Obligations.VersionRowsMoveTheirSlot : Prop :=
  (∀ (qp : Fin 64) (d : Desc) (s : State), runsOk qp d (versionBody d) s = true →
    let waits := fun (c : Instr) => ∃ t, exec c s = .next t ∧ t.mem = s.mem ∧ t.vers = s.vers ∧ t.adapters = s.adapters
      ∧ startedAs s qp d (.version d) .ok t
    (isVersion 0 d = true → waits (.publish qp d)) ∧ (isVersion 1 d = true → waits (.retire qp d))
    ∧ (isVersion 2 d = true → waits (.loadAdapter qp d)) ∧ (isVersion 3 d = true → waits (.retireAdapter qp d)))
  ∧ (∀ (qp : Fin 64) (idx : W32) (s : State) (e : InFlight) (d : Desc), running s = true → findInFlight s qp idx = some e →
    e.await = .version d → e.status = .ok → e.racy = false → e.follows = none → writesDone s e = true → ringOutside s qp →
    recordReady (versionCompletion e d s).2 qp = true →
    let f := versionFields d
    ∃ t, exec (.descriptorComplete qp idx) s = .next t ∧ pairCompleted e s t
      ∧ (isVersion 0 d = true → f.slot < 4 → t.adapters = s.adapters ∧ ∀ v : Fin 4,
        t.vers[v] = if v.val = f.slot ∧ (s.vers[v]).state = .free then ⟨.live, f.serial, 0, f.table, f.entries, s.pubCount, false⟩
          else s.vers[v])
      ∧ (isVersion 1 d = true → f.slot < 4 → t.adapters = s.adapters ∧ ∀ v : Fin 4,
        t.vers[v] = if v.val = f.slot ∧ (s.vers[v]).state = .live ∧ s.sched.startVersion ≠ some v
            ∧ (f.serial = 0 ∨ f.serial = (s.vers[v]).gen)
          then { (s.vers[v]) with state := .retiring, force := f.force } else s.vers[v])
      ∧ (isVersion 2 d = true → t.vers = s.vers ∧ ∀ b : Fin 256, b.val = f.slot →
        if (s.adapters[b]).state = .free then t.sched.lastGen = s.sched.lastGen + 1
          ∧ ∀ a : Fin 256, t.adapters[a] = if a = b then ⟨.live, s.sched.lastGen + 1, f.key, f.table, f.entries, 0, false⟩
            else if keySlot s f.key = some a then { (s.adapters[a]) with state := .retiring, force := false } else s.adapters[a]
        else t.adapters = s.adapters ∧ t.sched.lastGen = s.sched.lastGen)
      ∧ (isVersion 3 d = true → t.vers = s.vers ∧ ∀ a : Fin 256,
        t.adapters[a] = if keySlot s f.key = some a then { (s.adapters[a]) with state := .retiring, force := f.force }
          else s.adapters[a]))
  ∧ ∀ (x : SlotId) (s : State), running s = true → (getSlot s x).state = .retiring → slotRefs s x = 0 →
    exec (.slotFreed x) s = .next (setSlot x WSlot.free s) ∧ (∀ y, y ≠ x → getSlot (setSlot x WSlot.free s) y = getSlot s y)
    ∧ (getSlot (setSlot x WSlot.free s) x).state = .free

/-- ZERO writes +0 to every byte of its region, and no other byte of memory changes but the outputs of a running SAMPLE whose table it writes
(R321); a region that does not lie in the stack region ends it with BAD_DESCRIPTOR and nothing is written (R475). -/
def Obligations.ZeroWritesItsRegion : Prop :=
  ∀ (qp : Fin 64) (d : Desc) (s : State), isShard 5 d = true →
    let f := shardFields d
    (runsOk qp d (zeroBody d) s = true → ∃ t, exec (.zero qp d) s = .next t ∧ StartedOk qp d (zeroBody d) s t
      ∧ (newest t).map InFlight.info = some (shardInfo f.len 0 0) ∧ t.prot = s.prot ∧ f.a + f.len ≤ stackEnd
      ∧ (SharesLegal s → untouched s f.a f.len →
        (MemoryCanonical s → noRunAt s f.a f.len → ∀ x, f.a ≤ x → x < f.a + f.len → peek t x = 0)
        ∧ (∀ x, x < f.a ∨ f.a + f.len ≤ x → outsideRuns s x → peek t x = peek s x)))
    ∧ (passesHead qp d s = true → inStackRegion f.a f.len = false →
      ∃ t, exec (.zero qp d) s = .next t ∧ t.mem = s.mem ∧ startedAs s qp d .nothing .badDescriptor t)

/-- COPY copies LEN bytes from SRC to DST, either of them stack or companion memory, and no other byte of memory changes but the outputs of
a running SAMPLE whose table it writes (R321); addresses that are not multiples of 16, and a source and destination that overlap, end it
with BAD_DESCRIPTOR and nothing is written (R518). -/
def Obligations.CopyCopies : Prop :=
  ∀ (qp : Fin 64) (d : Desc) (s : State), isMove 0 d = true →
    let f := moveFields d
    let apart : Prop := f.src + f.len ≤ f.dst ∨ f.dst + f.len ≤ f.src
    (runsOk qp d (moveBody d) s = true → ∃ t, exec (.copy qp d) s = .next t ∧ StartedOk qp d (moveBody d) s t
      ∧ (newest t).map InFlight.info = some (moveInfo f.len 0) ∧ t.prot = s.prot
      ∧ (SharesLegal s → untouched s f.src f.len → untouched s f.dst f.len →
        (MemoryCanonical s → noRunAt s f.dst f.len → ∀ i, i < f.len → peek t (f.dst + i) = peek s (f.src + i))
        ∧ (∀ x, x < f.dst ∨ f.dst + f.len ≤ x → outsideRuns s x → peek t x = peek s x)))
    ∧ (passesHead qp d s = true → ¬(f.src % 16 = 0 ∧ f.dst % 16 = 0 ∧ apart) →
      ∃ t, exec (.copy qp d) s = .next t ∧ t.mem = s.mem ∧ startedAs s qp d .nothing .badDescriptor t)

/-- COPY_TENSOR ends OK wherever its checks pass; ARM takes a free prefetcher and answers its handle, or 0xFF and arms nothing; DISARM
ends the stream of its handle (R519, R520). ARM and DISARM change no memory. Which free prefetcher an ARM takes, the answer to a stream
that crosses windows, and what a handle's number is, are the model's choices (LOG 12). -/
def Obligations.MoveRowsComplete : Prop :=
  ∀ (qp : Fin 64) (d : Desc) (s : State), runsOk qp d (moveBody d) s = true →
    let f := moveFields d
    (isMove 1 d = true → CompletesOk (.copyTensor qp d) qp d (moveBody d) s)
    ∧ (isMove 2 d = true → ∃ t, exec (.arm qp d) s = .next t ∧ t.mem = s.mem
      ∧ match freePrefetcher s f.src (streamSpan f) with
        | some p => (t.stk.streams.map fun x => (x.num.val, x.src, x.run, x.count, x.stride, x.ahead, x.fetched))
            = (s.stk.streams.map fun x => (x.num.val, x.src, x.run, x.count, x.stride, x.ahead, x.fetched))
              ++ [(p, f.src, f.run, f.count, f.stride, f.ahead, 0)]
            ∧ (newest t).map InFlight.info = some (moveInfo 0 (handleOf p))
        | none => t.stk.streams = s.stk.streams ∧ (newest t).map InFlight.info = some (moveInfo 0 0xFF))
    ∧ (isMove 3 d = true → ∃ t, exec (.disarm qp d) s = .next t ∧ t.mem = s.mem
      ∧ t.stk.streams = s.stk.streams.filter fun x => handleOf x.num.val ≠ f.handle)

/-- PROTECT records its range as given and UNPROTECT removes every range, unless version slot 0 is not FREE (R457, R458); LOAD does its
work and ends OK wherever its checks pass (R452). -/
def Obligations.ProtectedRangeRows : Prop :=
  ∀ (qp : Fin 64) (d : Desc) (s : State),
    let f := shardFields d
    (isShard 0 d = true → runsOk qp d (loadBody d) s = true → CompletesOk (.load qp d) qp d (loadBody d) s)
    ∧ (isShard 3 d = true → runsOk qp d (protectBody d) s = true →
      ∃ t, exec (.protect qp d) s = .next t ∧ t.prot = s.prot ++ [⟨f.a, f.len⟩] ∧ t.mem = s.mem)
    ∧ (isShard 4 d = true → passesHead qp d s = true → shardFieldsOk d f = true → shardTurn 4 s.turn.cur = true →
      ∃ t, exec (.unprotect qp d) s = .next t ∧ t.mem = s.mem
        ∧ if (s.vers[(0 : Fin 4)]).state = .free then t.prot = [] ∧ startedAs s qp d .nothing .ok t
          else t.prot = s.prot ∧ startedAs s qp d .nothing .versionInUse t)

/-- SUM, SUMSQ, MEANVAR, GATHER and REBUILD take their place among the exchanges when they start, in the order of their starts, with the
group that their group record names, and everything that the exchanges can then do is done (R415, R441, R461, R465). FIELDS that came
early are given out, never invented. -/
def Obligations.ExchangesBegin : Prop :=
  ∀ (qp : Fin 64) (d : Desc) (s : State), passesHead qp d s = true →
    (∀ x ∈ s.red.exchanges, ¬(x.qp = qp ∧ x.idx = headIdx s qp)) →
    let joins := fun (k : XKind) (c : Instr) =>
      let h := openStep d (headResult s qp d).2
      let g : Group := if k = .rebuild then default else ((runWork (peekGroup (groupAddr k d)) h).1.toOption).getD default
      ∃ u, exec c s = .next (pumpAll u) ∧ startedAs s qp d .exchange .ok u ∧ u.mem = s.mem ∧ (∀ f ∈ u.red.early, f ∈ s.red.early)
        ∧ u.red.exchanges.map (fun x => (x.qp, x.idx)) = s.red.exchanges.map (fun x => (x.qp, x.idx)) ++ [(qp, headIdx s qp)]
        ∧ u.red.exchanges.getLast?.map (fun x => (x.kind, x.desc, x.group, x.prepared, x.begun)) = some (k, d, g, false, false)
    (isReduce 0 d = true → joins .reduce (.sum qp d)) ∧ (isReduce 1 d = true → joins .reduce (.sumsq qp d))
    ∧ (isReduce 2 d = true → joins .reduce (.meanvar qp d)) ∧ (isShard 1 d = true → joins .gather (.gather qp d))
    ∧ (isShard 2 d = true → joins .rebuild (.rebuild qp d))

/-- A class code, operation, mode or kernel number that names nothing ends with BAD_DESCRIPTOR and changes no memory (R540, R544). -/
def Obligations.ReservedCodesAreBad : Prop :=
  ∀ (qp : Fin 64) (d : Desc) (s : State), isReserved d = true → holdsPair d = false → running s = true → canStart s qp d 1 = true →
    headStatus qp d s = .ok ∨ headStatus qp d s = .badDescriptor →
    ∃ t, exec (.reservedClassCode qp d) s = .next t ∧ t.mem = s.mem ∧ startedAs s qp d .nothing .badDescriptor t

/-! ### Requests to the object dictionary (R613 to R640) -/

/-- The first failing check of R617 decides the abort, in its order: the request's form and operation, the object, the sub-index, the
session's holder, the object's access, authentication, the length and value of a write, and a TILE on the accumulators it names. It is
answered and counted and changes nothing else but the counter of an authenticated write whose check it reached (R649). An object's own
rule comes after them: `WritesFollowTheirObjectsRule`'s. -/
def Obligations.FirstFailingCheckAborts : Prop :=
  ∀ (p : Asker) (r : List Byte) (s u : State) (c : Instr), c ∈ requestRows p r → c.wellFormed = true → reqState p r s = some u →
    firstAbort (Asker.path p) r u ≠ 0 →
    let x := aborted r (firstAbort (Asker.path p) r u) (abortState (Asker.path p) r u)
    exec c s = .next (reqSent p r x.1 s x.2)

/-- A write that passes every check of R617 before its object's own rule is carried out by that rule and answered with abort 0, or
aborts as the rule says and changes nothing but the counter of an authenticated write (R617, R649). The answer to a flush of the mask
cache, and those of its path behind it, wait until the flush has taken effect (R323, R616). -/
def Obligations.WritesFollowTheirObjectsRule : Prop :=
  ∀ (p : Asker) (r : List Byte) (s u : State), ∀ x ∈ objectRows, (x.1 p r).wellFormed = true → reqState p r s = some u →
    writeReaches (Asker.path p) r u = true →
    match x.2 (Asker.path p) r (authState r u) with
    | .ok v => exec (x.1 p r) s = .next (reqSent p r (okResponse r [] v) s v)
    | .error a => a ≠ 0 →
        exec (x.1 p r) s = .next (reqSent p r (aborted r a (authState r u)).1 s (aborted r a (authState r u)).2)

/-- A READ that passes every check of R617 answers its object's value at the object's length (R611, R617); of the state it changes only
the count of free values, which is the model's own field (LOG 5), and of 3010:02 the measurement that it showed, which the model remembers
(R677; LOG 18). The value is that of the state in which the request itself is counted (LOG 48). -/
def Obligations.ReadsAnswerTheValue : Prop :=
  ∀ (p : Asker) (r : List Byte) (s u : State) (o : Obj), reqState p r s = some u → readReaches (Asker.path p) r u = some o →
    let v := { u with freeCtr := u.freeCtr + 1,
                      rst := if reqIndex r = 0x3010 ∧ reqSub r = 2 then { u.rst with refclkDev := refclkShown u } else u.rst }
    ∀ c ∈ [Instr.read p r, Instr.probeWindow p r], c.wellFormed = true →
      exec c s = .next (reqSent p r (okResponse r (leBytes o.size (objVal u (Asker.path p) (reqIndex r) (reqSub r))) v) s v)

/-- KEEPALIVE, OPEN and RELEASE from the holder and from the other path, and the lapse of a held session (R625, R626). -/
def Obligations.SessionRows : Prop :=
  (∀ (p : Asker) (r : List Byte) (s u : State), reqState p r s = some u → malformed r = false →
    (reqOpc r = 4 → exec (.keepalive p r) s = .next (reqSent p r (okResponse r [] u) s u))
    ∧ (reqOpc r = 5 →
      (Asker.path p = u.od.holder → exec (.openSession p r) s = .next (reqSent p r (okResponse r [] u) s u))
      ∧ (Asker.path p ≠ u.od.holder → u.od.session = .held →
        exec (.openSession p r) s = .next (reqSent p r (aborted r 0x05000002 u).1 s (aborted r 0x05000002 u).2))
      ∧ (Asker.path p ≠ u.od.holder → u.od.session ≠ .held → ∃ v, exec (.openSession p r) s = .next (reqSent p r (okResponse r [] v) s v)
        ∧ v.od.holder = Asker.path p ∧ v.od.session = .held ∧ v.od.takeovers = satInc u.od.takeovers))
    ∧ (reqOpc r = 6 →
      (Asker.path p = u.od.holder → ∃ v, exec (.release p r) s = .next (reqSent p r (okResponse r [] v) s v)
        ∧ v = { u with od := { u.od with session := .released } })
      ∧ (Asker.path p ≠ u.od.holder →
        exec (.release p r) s = .next (reqSent p r (aborted r 0x05000001 u).1 s (aborted r 0x05000001 u).2))))
  ∧ (∀ s : State, running s = true → s.od.session = .held →
    ∃ t, exec .sessionLapse s = .next t ∧ t.od.session = .lapsed ∧ t.od.holder = s.od.holder ∧ t.mem = s.mem)

/-- A frame of the field segment (R620 to R623): ignored when it is not for this module, else discarded, answered again, or queued. -/
def Obligations.FieldFramesQueue : Prop :=
  ∀ (f : FieldFrame) (s : State), running s = true →
    let r := (f.bytes.drop 4).take (reqSize (f.bytes.drop 4))
    (f.dst ≠ ownMac s ∨ f.etherType ≠ 0x88B5 → exec (.fieldFrame f) s = .next s)
    ∧ (f.dst = ownMac s → f.etherType = 0x88B5 →
      ∃ t, exec (.fieldFrame f) s = .next t ∧ t.mem = s.mem ∧
        (subHeaderOk f.bytes = false → t = { s with od := { s.od with framesDiscarded := satInc s.od.framesDiscarded } })
        ∧ (subHeaderOk f.bytes = true → ∀ resp, keptResponse s f.src r = some resp → t.od.repeated = satInc s.od.repeated
          ∧ t.outbox = s.outbox ++ [.fieldResponse f.src (fieldFrame 2 resp)] ∧ t.od.fieldQueue = s.od.fieldQueue)
        ∧ (subHeaderOk f.bytes = true → keptResponse s f.src r = none → s.od.fieldQueue.length < 8 →
          t = { s with od := { s.od with fieldQueue := s.od.fieldQueue ++ [(f.src, r)] } })
        ∧ (subHeaderOk f.bytes = true → keptResponse s f.src r = none → 8 ≤ s.od.fieldQueue.length →
          t = { s with od := { s.od with framesDiscarded := satInc s.od.framesDiscarded } }))

/-- The hold-off of a path's alerts ends: an alert owed to the holder's path goes out where it can, and begins the next (R638). That it goes
out whatever bits are still pending then is the model's reading (LOG 51). -/
def Obligations.AlertHoldOffEnds : Prop :=
  ∀ s : State, running s = true →
    (s.od.holdCarard = true → ∃ t, exec (.alert .carard) s = .next t ∧ t.od.owedCarard = false
      ∧ (let sent := s.od.owedCarard && s.od.holder == .carard && linkCarriesMailbox s.lk.cl
         t.od.holdCarard = sent ∧ t.od.alertsSent = if sent = true then satInc s.od.alertsSent else s.od.alertsSent))
    ∧ (s.od.holdField = true → ∃ t, exec (.alert .field) s = .next t ∧ t.od.owedField = false
      ∧ (let sent := s.od.owedField && s.od.holder == .field && s.od.lastFieldSource.isSome
         t.od.holdField = sent ∧ t.od.alertsSent = if sent = true then satInc s.od.alertsSent else s.od.alertsSent))

/-- A write of 2Cxx:04 that reaches its object's rule moves the pair's state as the table of R534 says, and no count of R528. A pair that has
nothing uncompleted is DISABLED, or ACTIVE, at once, without passing DRAINING or ENABLE_PENDING: the model's reading (LOG 52). -/
def Obligations.QueueEnableMovesThePair : Prop :=
  ∀ (p : Asker) (r : List Byte) (s u : State) (q : Fin 64), (Instr.queueEnable p r).wellFormed = true → reqState p r s = some u →
    writeReaches (Asker.path p) r u = true → pairIndex (reqIndex r) = some q →
    let a := u.q.qps[q]
    let none' := (u.q.ofPair q).isEmpty
    reqValue r = 0 ∨ ringsBacked u a = true →
    ∃ t, exec (.queueEnable p r) s = .next t
      ∧ (t.q.qps[q]).head = a.head ∧ (t.q.qps[q]).tail = a.tail ∧ (t.q.qps[q]).produced = a.produced
      ∧ (t.q.qps[q]).cqHead = a.cqHead ∧ (t.q.qps[q]).retired = a.retired
      ∧ (t.q.qps[q]).enable = (reqValue r == 1)
      ∧ (t.q.qps[q]).halt = (if a.state = .halted ∧ reqValue r = 1 then 0 else a.halt)
      ∧ (t.q.qps[q]).state = match a.state with
        | .disabled => if reqValue r = 1 then .active else .disabled
        | .active => if reqValue r = 1 then .active else if none' then .disabled else .draining
        | .draining => if none' then (if reqValue r = 1 then .active else .disabled)
            else if reqValue r = 1 then .enablePending else .draining
        | .enablePending => if none' then (if reqValue r = 1 then .active else .disabled)
            else if reqValue r = 1 then .enablePending else .draining
        | .halted => if reqValue r = 1 then .active else if none' then .disabled else .draining

/-- A command-key slot only ever goes from BLANK to PROGRAMMED and from PROGRAMMED to REVOKED, and a revoked one keeps its key (R643,
R645, R646); the fuse security version never falls and no revocation fuse is restored, whatever is commanded (R669). -/
def Obligations.KeysAndFusesOnlyAdvance : Prop :=
  ∀ (c : Instr) (s t : State), exec c s = .next t →
    (∀ n : Fin 4, match s.persist.keys[n] with
      | .blank => t.persist.keys[n] = .blank ∨ ∃ k, t.persist.keys[n] = .programmed k
      | .programmed k => t.persist.keys[n] = .programmed k ∨ t.persist.keys[n] = .revoked k
      | .revoked k => t.persist.keys[n] = .revoked k)
    ∧ s.persist.fuseSv ≤ t.persist.fuseSv ∧ t.persist.omcenRevoked &&& s.persist.omcenRevoked = s.persist.omcenRevoked

/-- A protected range stays until an UNPROTECT does its work, now or when it has waited, or a SYS or PO reset is asserted (R455, R458,
R459, R513); a CORE reset keeps it. -/
def Obligations.ProtectedRangesStay : Prop :=
  ∀ (c : Instr) (s t : State), exec c s = .next t → ∀ x ∈ s.prot, x ∈ t.prot ∨ (∃ qp d, c = .unprotect qp d)
    ∨ (∃ qp idx e d f, c = .descriptorComplete qp idx ∧ findInFlight s qp idx = some e ∧ e.await = .held d f ∧ isShard 4 d = true)
    ∨ (c ∈ [Instr.resetBegin, .powerOn, .brownOut, .pinReset, .watchdog, .clockFailure]
      ∧ ∃ r, t.rst.run = some r ∧ (r.level = .sys ∨ r.level = .po))

/-- A report is ready once its device key has signed it, and staging ends with its outcome (R656, R663). -/
def Obligations.SecurityEngineFinishes : Prop :=
  ∀ s : State, running s = true →
    (∀ b, s.sec.pendingReport = some b → ∃ t, exec .reportReady s = .next t ∧ t.sec.reportState = 2 ∧ t.sec.pendingReport = none
      ∧ t.sec.report.map (fun x => x.take b.length) = some b ∧ t.persist = s.persist)
    ∧ (∀ w, s.sec.stagingWork = some w → ∃ t, exec .stagingComplete s = .next t ∧ t.sec.stagingWork = none
      ∧ t.sec.stagingOutcome = BitVec.ofNat 8 w.outcome ∧ t.persist.keys = s.persist.keys ∧ t.persist.bootSlot = s.persist.bootSlot
      ∧ t.persist.slot s.sec.runningSlot = s.persist.slot s.sec.runningSlot
      ∧ (w.outcome = 0 → ∀ b, w.info = some b → t.sec.stagingState = 2 ∧ t.persist.slot s.sec.runningSlot.other = some w.bytes)
      ∧ (w.outcome ≠ 0 → t.sec.stagingState = 3))

/-! ### Links (R572 to R582) -/

/-- ACK, NAK and the retry timeout (R573 to R575): an ACK frees the flits through the one it names, a NAK has the rest sent again, and so
does a timeout, whose eighth in a row trains the link again. What then waits for room in the retry buffer goes on (R577). That an ACK or
NAK of a number which names no unacknowledged flit frees none is the model's reading (LOG 56). -/
def Obligations.RetryBufferRules : Prop :=
  ∀ (l : LinkId) (a : BitVec 12) (s : State), passes s l = true →
    let k := s.lk.get l
    let goesOn := fun (t : State) => transmit l (returnOwed l t)
    (∀ pre f post, k.unacked = pre ++ f :: post → f.seq = a → (∀ g ∈ pre, g.seq ≠ a) →
      exec (.ack l a) s = .next (goesOn (setLink l { k with unacked := post, resends := 0 } s))
      ∧ ∃ t evs, exec (.nak l a) s = .next (goesOn t) ∧ (t.lk.get l).unacked = post
        ∧ t.outbox = s.outbox ++ evs ∧ flitsSent l post evs ∧ (t.lk.get l).resent = satAdd k.resent post.length)
    ∧ ((∀ f ∈ k.unacked, f.seq ≠ a) → exec (.ack l a) s = .next (goesOn s)
      ∧ ∃ t evs, exec (.nak l a) s = .next (goesOn t) ∧ (t.lk.get l).unacked = k.unacked
        ∧ t.outbox = s.outbox ++ evs ∧ flitsSent l k.unacked evs)
    ∧ (k.unacked ≠ [] → ∃ t, exec (.retryTimeout l) s = .next t ∧ (t.lk.get l).unacked = k.unacked
      ∧ (t.lk.get l).resent = satAdd k.resent k.unacked.length
      ∧ if 8 ≤ k.resends + 1 then (t.lk.get l).phase = .phy ∧ (t.lk.get l).trainings = satInc k.trainings
        else (t.lk.get l).phase = k.phase ∧ (t.lk.get l).resends = k.resends + 1
          ∧ ∃ evs, t.outbox = s.outbox ++ evs ∧ flitsSent l k.unacked evs)

/-- A flit that is discarded for its CRC or its place is answered with one NAK until a flit is taken again, and names the last one taken;
one that fails its CRC or has a reserved TYPE is counted; a CREDIT flit in order adds its units and one out of order is discarded; freed
units go back in a CREDIT flit, once the retry buffer has room (R571 to R574, R577). Before an INIT has said which number comes first
(`rxNext` none, the model's own field) any CREDIT is taken as in order and the number of a NAK is open (LOG 38). -/
def Obligations.CreditAndDiscardRules : Prop :=
  ∀ (l : LinkId) (s : State), passes s l = true →
    let k := s.lk.get l
    (∀ b : BadFlit, ∃ t, exec (.crcFailure l b) s = .next t ∧ (t.lk.get l).nakSent = (k.nakSent || b != .reservedType)
      ∧ (t.lk.get l).crcErrors = (if b = .outOfOrder then k.crcErrors else satInc k.crcErrors)
      ∧ (k.nakSent = true ∨ b = .reservedType → t.outbox = s.outbox)
      ∧ (k.nakSent = false → b ≠ .reservedType → ∃ evs, t.outbox = s.outbox ++ evs
        ∧ flitSent l (fun bs => ∃ ack, bs = flitBytes flitNak 0 k.txSeq ack [] ∧ ∀ n, k.rxNext = some n → ack = n - 1) evs))
    ∧ (∀ ack seq returns, returns.length ≤ 30 →
      (k.rxNext = none ∨ k.rxNext = some seq →
        exec (.credit l ack seq returns) s = .next (takeAck l ack
          (setLink l { k with rxNext := some (seq + 1), nakSent := false, credits := addReturns returns k.credits } s)))
      ∧ (∀ n, k.rxNext = some n → n ≠ seq → exec (.credit l ack seq returns) s = exec (.crcFailure l .outOfOrder) s))
    ∧ ((∃ n ∈ k.freed, n ≠ 0) →
      (k.unacked.length < 2048 → ∃ t evs, exec (.creditReturnTimeout l) s = .next t
        ∧ (t.lk.get l).freed = List.replicate 16 0 ∧ (t.lk.get l).txSeq = k.txSeq + 1
        ∧ (t.lk.get l).unacked = k.unacked ++ [⟨k.txSeq, .credit (creditEntries k.freed)⟩]
        ∧ t.outbox = s.outbox ++ evs ∧ flitsSent l [⟨k.txSeq, .credit (creditEntries k.freed)⟩] evs)
      ∧ (2048 ≤ k.unacked.length → exec (.creditReturnTimeout l) s = .next (setLink l { k with owed := true } s)))

/-- Training (R578 to R580, R676): a timeout or the loss of a PHY PLL starts one again, the flit boundary begins the INIT exchange, and
the link comes UP once an INIT with SEEN set has come and one has been sent. That a flit boundary changes nothing outside PHY is the
model's reading (LOG 58). -/
def Obligations.TrainingRules : Prop :=
  ∀ (l : LinkId) (s : State), running s = true → linkThere s l = true →
    let k := s.lk.get l
    (k.phase = .phy ∨ k.phase = .init → ∃ t, exec (.trainingTimeout l) s = .next t ∧ (t.lk.get l).phase = .phy
      ∧ (t.lk.get l).trainings = satInc k.trainings)
    ∧ (∃ t, exec (.linkPllLockLoss l) s = .next t ∧ t.rst.pllLosses = satInc s.rst.pllLosses
      ∧ (k.phase = .down → (t.lk.get l).phase = .down ∧ (t.lk.get l).trainings = k.trainings)
      ∧ (k.phase ≠ .down → (t.lk.get l).phase = .phy ∧ (t.lk.get l).trainings = satInc k.trainings))
    ∧ (k.phase = .phy → ∃ t, exec (.flitBoundaryLocated l) s = .next t ∧ (t.lk.get l).phase = .init
      ∧ (t.lk.get l).trainings = k.trainings)
    ∧ (k.phase ≠ .phy → exec (.flitBoundaryLocated l) s = .next s)
    ∧ (k.phase = .init → ∃ t ack, exec (.initSend l) s = .next t
      ∧ .flit l (flitBytes flitInit 0 k.txSeq ack (initBytes (ownInit s l))) ∈ t.outbox
      ∧ (t.lk.get l).phase = (if k.gotSeen && (k.sentSeen || k.seen) then
          (if majorsAgree k.proto (runningProtocol s) then .up else .upLimited) else .init))
    ∧ (k.phase = .init → ∀ m : InitMsg, m.grants.length = 16 → ∃ t, exec (.initFlit l m) s = .next t
      ∧ (t.lk.get l).role = m.role ∧ (t.lk.get l).board = m.board ∧ (t.lk.get l).peerInc = some m.incarnation
      ∧ (t.lk.get l).phase = (if (k.gotSeen || m.seen) && k.sentSeen then
          (if majorsAgree m.proto (runningProtocol s) then .up else .upLimited) else .init)
      ∧ (k.peerInc ≠ some m.incarnation → (t.lk.get l).phase = .init → (t.lk.get l).unacked = [] ∧ (t.lk.get l).txSeq = 0))

/-! ### The Carard link's memory channels (R584 to R593) -/

/-- A DRD answers its line with the status of R588, 4 without data where a codeword of it is uncorrectable, and changes no byte of memory;
one to a stack in reset, and one behind it, waits for the release (R515, R586). -/
def Obligations.DrdAnswers : Prop :=
  ∀ (tag : BitVec 12) (a : BitVec 48) (s : State), a.toNat % 256 = 0 → running s = true → clCarries s 1 = true →
    (deviceWaits a.toNat s = true → exec (.drd tag a) s = .next (holdRequest (.drd tag a.toNat) (arrived .cl 1 1 s)))
    ∧ (deviceWaits a.toNat s = false → ∃ t, exec (.drd tag a) s = .next t ∧ t.mem = s.mem ∧
      match resolve s a.toNat with
      | .unbacked => .drdData tag 2 [] ∈ t.outbox
      | .stack _ _ => (readableRange s a.toNat 256 → .drdData tag 0 (peekList s a.toNat 256) ∈ t.outbox)
        ∧ ((∃ i < 16, badCodeword s (a.toNat + 16 * i)) → .drdData tag 4 [] ∈ t.outbox)
      | _ => .drdData tag 1 [] ∈ t.outbox)

/-- A DWR stores its bytes and no others, and answers the status of R588; one that meets a protected range or no stack stores nothing
(R455, R588), and one to a stack in reset, or behind such a one, waits for the release (R515, R586). An uncorrectable codeword that it
covers in part stays as stored, the rest is written, and the status is 4 (R494, R588). The outputs of a running SAMPLE whose
table it writes are then unspecified (R321; LOG 5). -/
def Obligations.DwrWrites : Prop :=
  ∀ (tag : BitVec 12) (a : BitVec 48) (bs : List Byte) (s : State), dwrForm a bs.length = true → running s = true →
    clCarries s 1 = true → SharesLegal s →
    let n := bs.length
    (deviceWaits a.toNat s = true → exec (.dwr tag a bs) s = .next (holdRequest (.dwr tag a.toNat bs)
      (arrived .cl 1 (unitsOf (16 + n)) s)))
    ∧ (deviceWaits a.toNat s = false → ∃ t, exec (.dwr tag a bs) s = .next t
      ∧ (∀ x, x < a.toNat ∨ a.toNat + n ≤ x → outsideRuns s x → peek t x = peek s x) ∧
      match resolve s a.toNat with
      | .unbacked => .dwrDone tag 2 ∈ t.outbox ∧ t.mem = s.mem
      | .stack _ _ =>
        (firstProtected s.prot a.toNat n ≠ none → .dwrDone tag 3 ∈ t.outbox ∧ t.mem = s.mem
          ∧ t.shard.refused = satInc s.shard.refused)
        ∧ (firstProtected s.prot a.toNat n = none → holdsWritten a.toNat bs s t
          ∧ ((∃ i < n, leftAsStored s a.toNat n (a.toNat + i)) → .dwrDone tag 4 ∈ t.outbox)
          ∧ ((∀ i < n, ¬leftAsStored s a.toNat n (a.toNat + i)) → .dwrDone tag 0 ∈ t.outbox))
      | _ => .dwrDone tag 1 ∈ t.outbox ∧ t.mem = s.mem)

/-- SNP_INV empties the line from the caches and is acknowledged; DATA gives its line to what asked for it, and the bytes that come with
it are what companion memory holds (LOG 4), but for those that the module has written since it asked; a district in service caches it unless it was refused or snooped meanwhile; WR_DONE ends its
write, and a refused one ends its descriptor with the status of R588 (R500, R588, R590 to R592). A TAG that is free again goes to the next
write that waits for one (R585). -/
def Obligations.CoherentMessages : Prop :=
  ∀ s : State, running s = true → clCarries s 0 = true →
    (∀ (tag : BitVec 12) (a : BitVec 48), a.toNat % 256 = 0 → ∃ t, exec (.snpInv tag a) s = .next t ∧ t.mem = s.mem
      ∧ a.toNat ∉ t.stk.dcache ∧ (∀ r ∈ t.stk.rdShared, r.line = a.toNat → r.install = false) ∧ .snpAck tag ∈ t.outbox)
    ∧ (∀ (tag : BitVec 12) (st : Byte) (data : List Byte) (r : RdShared), data.length = (if st = 0 then 256 else 0) →
      companionStatus st = true → s.stk.rdShared.find? (fun x => x.tag == tag) = some r →
      ∃ t, exec (.dataResponse tag st data) s = .next t ∧ (∀ x ∈ t.stk.rdShared, x.tag ≠ r.tag)
        ∧ (∀ qp idx e, r.reader = .desc qp idx → findInFlight s qp idx = some e →
          findInFlight t qp idx = some { e with lines := e.lines ++ [⟨r.line, st⟩] })
        ∧ (∀ qp, r.reader = .queue qp → t.q.qps[qp] = { (s.q.qps[qp]) with ring := (s.q.qps[qp]).ring ++ [⟨r.line, st⟩] })
        ∧ (r.reader = .sched → t.sched.lines = s.sched.lines ++ [⟨r.line, st⟩])
        ∧ (st ≠ 0 → t.mem = s.mem) ∧ (st ≠ 0 ∨ r.install = false → t.stk.dcache = s.stk.dcache)
        ∧ (st = 0 → MemoryCanonical s → companionBase ≤ r.line → r.line + 256 ≤ companionBase + s.lk.cl.cbytes.toNat → ∀ i, i < 256 →
          let mine := r.written.any fun w => w.1 ≤ r.line + i && r.line + i < w.1 + w.2
          some (peek t (r.line + i)) = if mine = true then some (peek s (r.line + i)) else data[i]?)
        ∧ (st = 0 → r.install = true → companionBase ≤ r.line → districtsUp s ≠ [] → r.line ∈ t.stk.dcache))
    ∧ (∀ (tag : BitVec 12) (st : Byte) (w : WrInFlight), companionStatus st = true →
      s.stk.wr.find? (fun x => x.tag == tag) = some w →
      ∃ u, exec (.wrDone tag st) s = .next (nextWr u) ∧ u.stk.wr = s.stk.wr.erase w
        ∧ (st = 0 → u.mem = s.mem ∧ u.q = s.q)
        ∧ (st ≠ 0 → ∀ o e, w.owner = some o → findInFlight s o.1 o.2 = some e → e.status = .ok →
          (findInFlight u o.1 o.2).map (fun x => (x.status, x.faultAddr))
            = some (if st = 1 then .badDescriptor else .uncorrectableMem, some w.addr)))

/-! ### Members of a group (R415, R423 to R429, R461 to R463) -/

/-- Data of a member join the exchange they are for, and everything that the exchanges can then do is done; a GATHER counts what it
receives, and a REDUCE every payload of its lane (R415, R423, R426, R445, R461, R479). FIELDS are for the first descriptor of their kind
and group, in the order of starts, that lacks them, or are kept for one to come. -/
def Obligations.MemberDataJoin : Prop :=
  ∀ (av : Fin 8) (x : PeerMsg) (s : State), running s = true → x.bytes ≤ 4064 →
    (∀ f, avenueBrings s av (if fieldsOfKind .reduce f then 0 else 2) = true →
      ∃ u, exec (.fields av x f) s = .next (pumpAll u) ∧ u.mem = s.mem ∧ u.q = s.q
        ∧ u.red.received = (if fieldsOfKind .reduce f then satAdd s.red.received x.bytes else s.red.received) ∧
        (exchangesDistinct s → fieldsClear x f s →
          match s.red.exchanges.find? (wantsFields x f) with
          | some y => ∃ z ∈ u.red.exchanges, sameX y z = true ∧ (x.rank, f) ∈ z.peers
          | none => (∀ y ∈ s.red.exchanges, foreignFields s y ⟨x.groupId, x.epoch, x.rank, f, false⟩ = false) →
            ⟨x.groupId, x.epoch, x.rank, f, false⟩ ∈ u.red.early))
    ∧ (avenueBrings s av 0 = true →
      let counted := fun (u : State) => u.red.received = satAdd s.red.received x.bytes
      (∀ v, ∃ u, exec (.contrib av x v) s = .next (pumpAll u) ∧ counted u ∧ pieceJoins .reduce x (pieceOf .contrib x v [] []) s u)
      ∧ (∀ v, ∃ u, exec (.boardSum av x v) s = .next (pumpAll u) ∧ counted u ∧ pieceJoins .reduce x (boardPiece x v) s u)
      ∧ (∀ e c, ∃ u, exec (.reductionResult av x e c) s = .next (pumpAll u) ∧ counted u
        ∧ pieceJoins .reduce x (pieceOf .result x [] e c) s u)
      ∧ (∀ n, let z := { x with round := 0, first := 0 }
        ∃ u, exec (.count av x n) s = .next (pumpAll u) ∧ counted u ∧ pieceJoins .reduce z (pieceOf .count z [n] [] []) s u))
    ∧ (avenueBrings s av 2 = true → ∀ e c, let p := pieceOf .slice { x with round := 0, entry := 0 } [] e c
      ∃ u, exec (.slice av x e c) s = .next (pumpAll u) ∧ pieceJoins .gather x p s u
      ∧ u.shard.gatheredIn = if s.red.exchanges.any (wantsPiece .gather x p) then satAdd s.shard.gatheredIn (e.length + c.length)
          else s.shard.gatheredIn)

/-- An exchange that waits for other members ends with TIMEOUT when none reaches it in time: it leaves the exchanges, REDUCE counts it, its
record is written with that status once its writes are done, and everything that the others can then do is done (R429, R463, R549). A GATHER
that has seen FIELDS of another group for its place ends with REDUCE_MISMATCH, counted at 2A00:09 (R462; when it sees them is the model's
choice, LOG 68). -/
def Obligations.StalledExchangesEnd : Prop :=
  ∀ (qp : Fin 64) (idx : W32) (s : State) (x : Exchange), running s = true → (findInFlight s qp idx).isSome = true →
    let differs := s.red.early.any (foreignFields s x)
    let ends := fun (c : Instr) (n : W32) => ∃ u e,
      let y := { exchangeInfo x e with status := if differs = true then .reduceMismatch else .timeout, await := .nothing }
      exec c s = .next (pumpAll (if writesDone u e then finish y u else setInFlight y u))
      ∧ findInFlight u qp idx = some e ∧ u.q.qps = s.q.qps ∧ u.red.exchanges = s.red.exchanges.filter (fun y => !sameX x y)
      ∧ u.red.timeouts = n ∧ u.shard.mismatches = (if differs = true then satInc s.shard.mismatches else s.shard.mismatches)
    (findStalled s .reduce qp idx = some x → ends (.reduceStallTimeout qp idx) (satInc s.red.timeouts))
    ∧ (findStalled s .gather qp idx = some x → ends (.gatherTimeout qp idx) s.red.timeouts)

/-! ### Packets and the firmware chain (R594 to R605, R664) -/

/-- A PUT stores its payload in the all-to-all region, and nothing outside it; one that the region does not hold, or that meets a
protected byte, stores nothing (R455, R596), and one to a stack in reset, or behind such a one, waits (R515). An uncorrectable codeword that
it covers in part stays as stored (R494). The outputs of a running SAMPLE whose table it writes are then unspecified (R321; LOG 5). -/
def Obligations.PutWrites : Prop :=
  ∀ (av : Fin 8) (pk : Packet) (s : State), packetForm pk 1 0x20 true = true → arrives s av 1 = true → toSelf s pk = true →
    SharesLegal s →
    let a := s.lk.a2aBase.toNat + pk.offset.toNat
    let n := pk.payload.length
    let holds := s.lk.a2aBytes ≠ 0 ∧ pk.offset.toNat + n ≤ s.lk.a2aBytes.toNat
    ∃ t, exec (.putPacket av pk) s = .next t ∧ (∀ x, x < a ∨ a + n ≤ x → outsideRuns s x → peek t x = peek s x)
      ∧ (¬holds → t.mem = s.mem ∧ t.lk.discarded = satInc s.lk.discarded)
      ∧ (holds → peerWaits a n s = true → t = holdRequest (.peer a pk.payload true) (tookPacket av pk s))
      ∧ (holds → peerWaits a n s = false → firstProtected s.prot a n ≠ none → t.mem = s.mem ∧ t.shard.refused = satInc s.shard.refused)
      ∧ (holds → peerWaits a n s = false → firstProtected s.prot a n = none →
        (∀ i, i < n → ∃ m off, resolve s (a + i) = .stack m off) → holdsWritten a pk.payload s t)

/-- A packet for another module goes to the avenue its route names with HOP set, or is discarded and counted: a packet with HOP set,
without a route, or whose avenue cannot take it (R597, R598; of VL 3 and VL 4 that discard is the model's reading, LOG 46). PEER_STATE is what its avenue then shows of the neighbour (R601). -/
def Obligations.ForwardAndPeerState : Prop :=
  ∀ (av : Fin 8) (pk : Packet) (s : State),
    (packetOk pk = true → arrives s av pk.vl.toNat = true → toSelf s pk = false →
      let route := avenueOf (BitVec.ofNat 8 (packetRoute s pk))
      ∃ t, exec (.forward av pk) s = .next t ∧ t.mem = s.mem
        ∧ (∀ out, pk.hop = false → route = some out → routable s pk.vl.toNat out = true →
          handed t out { pk with hop := true } ∧ t.lk.discarded = s.lk.discarded)
        ∧ (pk.hop = true ∨ route = none ∨ (∃ out, route = some out ∧ routable s pk.vl.toNat out = false) →
          t.lk.discarded = satInc s.lk.discarded))
    ∧ (packetForm pk 4 0x50 (pk.payload.length == 16) = true → arrives s av 4 = true → toSelf s pk = true →
      ∃ t, exec (.peerState av pk) s = .next t ∧ t.mem = s.mem
        ∧ (t.lk.avs[av]).peerSv = BitVec.ofNat 32 (leNat (pk.payload.take 4)) ∧ (t.lk.avs[av]).peerLimited = (pk.payload.getD 4 0 == 1))

/-- The firmware chain (R602 to R605): an OFFER is accepted, or declined with its reason, a transfer's parts are recorded and stored at their
offsets in the receive region, within the length offered and nowhere else, and END, DECLINE, RESULT and a time without a packet end it; a
bundle that is refused is reported (R663, R722); no packet of the chain changes a protected byte. Where a stack in reset is to take a part,
or holds one, it waits (R515). The order of the reasons of a DECLINE, the outcome of an unreadable region and the RESULT of a timeout are
the model's choices (LOG 39), the codes of RESULT its reading (LOG 47), as is that a packet of no transfer changes nothing (LOG 58). -/
def Obligations.FirmwareChainRules : Prop :=
  (∀ (av : Fin 8) (pk : Packet) (s : State), packetOk pk = true → pk.vl = 3 → toSelf s pk = true → arrives s av 3 = true →
    let u := tookPacket av pk s
    (pk.ptype = 0x40 → pk.payload.length = 72 →
      let len := leNat (pk.payload.take 8)
      let why := declineReason av len (pk.payload.drop 8) s
      ∃ t, exec (.offer av pk) s = .next t ∧ t.mem = s.mem
        ∧ (why = 0 → t.lk.fwRx = some ⟨av, pk.obj, len, pk.payload.drop 8, pk.srcBoard, pk.srcPos, []⟩
          ∧ handed t av (answerPacket s pk 0x41 []))
        ∧ (why ≠ 0 → t.lk.fwRx = s.lk.fwRx ∧ handed t av (answerPacket s pk 0x42 [BitVec.ofNat 8 why])))
    ∧ (pk.ptype = 0x41 → pk.payload = [] → ∃ t, exec (.accept av pk) s = .next t ∧ t.mem = s.mem
        ∧ match txOf av pk false s with
          | some x => if peerWaits s.lk.rxBase.toNat x.len s = true then t = holdRequest (.accept av pk) u
              else t.lk.fwTx = some { x with accepted := true }
          | none => t = u)
    ∧ (pk.ptype = 0x42 → pk.payload.length = 1 → ∃ t, exec (.decline av pk) s = .next t ∧ t.mem = s.mem
        ∧ if (txOf av pk false s).isSome then t.lk.fwTx = none else t = u)
    ∧ (pk.ptype = 0x43 → ∃ t, exec (.part av pk) s = .next t
        ∧ (MemoryCanonical s → SharesLegal s → ∀ x, protHit s.prot x = true → peek t x = peek s x)
        ∧ match rxOf av pk s with
          | some x =>
            let off := pk.offset.toNat
            let bs := pk.payload.take (x.len - off)
            let a := s.lk.rxBase.toNat + off
            t.lk.fwRx = some { x with got := x.got ++ [(off, bs.length)] }
            ∧ (SharesLegal s → ∀ y, y < a ∨ a + bs.length ≤ y → outsideRuns s y → peek t y = peek s y)
            ∧ (bs ≠ [] → peerWaits a bs.length s = true → t.mem = s.mem
              ∧ t.stk.heldRequests = s.stk.heldRequests ++ [.peer a bs false])
            ∧ (SharesLegal s → bs ≠ [] → peerWaits a bs.length s = false → firstProtected s.prot a bs.length = none →
              (∀ i, i < bs.length → ∃ m o, resolve s (a + i) = .stack m o) → holdsWritten a bs s t)
          | none => t = u)
    ∧ (pk.ptype = 0x44 → pk.payload = [] → ∃ t, exec (.endBundle av pk) s = .next t ∧ t.mem = s.mem
        ∧ if peerWaits s.lk.rxBase.toNat (((rxOf av pk s).map FwRx.len).getD 0) s = true then t = holdRequest (.bundleEnd av pk) u
          else match rxOf av pk s with
          | some x =>
            let o := if (readByHall s.lk.rxBase.toNat x.len s).1 then 1 else transferOutcome x s
            t.lk.fwRx = none ∧ handed t av (answerPacket s pk 0x45 [BitVec.ofNat 8 o])
            ∧ (o ≠ 0 → t.sec.stagingState = 3 ∧ t.sec.stagingOutcome = BitVec.ofNat 8 o)
          | none => t = u)
    ∧ (pk.ptype = 0x45 → pk.payload.length = 1 → ∃ t, exec (.bundleResult av pk) s = .next t ∧ t.mem = s.mem
        ∧ if (txOf av pk true s).isSome then t.lk.fwTx = none else t = u))
  ∧ ∀ s : State, running s = true →
    (s.lk.fwTx ≠ none → ∃ t, exec (.transferTimeout true) s = .next t ∧ t.lk.fwTx = none ∧ t.lk.fwRx = s.lk.fwRx ∧ t.mem = s.mem)
    ∧ (∀ x, s.lk.fwRx = some x → ∃ t, exec (.transferTimeout false) s = .next t ∧ t.lk.fwRx = none ∧ t.lk.fwTx = s.lk.fwTx
      ∧ t.mem = s.mem ∧ handed t x.av (toNeighbour s x.av 3 0x45 x.num 0 [3]))

/-! ### Units, resets and power (R513 to R516, R551, R675 to R704) -/

/-- The idle handshake of one block (R551, R688, R691, R692): it ends as its state says, a descriptor that had work on a block which did not
reach idle ends with UNIT_RESET, and a block in reset returns ENABLED, or DISABLING where a FALSE is held; requests that waited for its
stacks then go on (R515). -/
def Obligations.UnitHandshakes : Prop :=
  ∀ (u : UnitId) (s : State), running s = true → unitPresent s.persist.variant u = true →
    let c := s.units.get u
    let after := fun (t : State) => (t.units.get u).asking = false
      ∧ (t.units.get u).state = match c.state with
        | .disabling => .disabled
        | .enablePending => .resetting
        | x => x
    (c.asking = true → unitBusy s u = false → ∃ t, exec (.unitIdle u) s = .next t ∧ after t ∧ t.mem = s.mem ∧ t.q = s.q)
    ∧ (c.asking = true → ∃ t, exec (.unitIdleTimeout u) s = .next t ∧ after t ∧ t.q.qps = s.q.qps
      ∧ ∀ e ∈ s.q.inflight, e.order < c.askedAt → e.uses s u = true → e.status = .ok →
        (∀ y ∈ s.q.inflight, y.qp = e.qp → y.idx = e.idx → y = e) →
        ∃ x ∈ t.q.inflight, x.qp = e.qp ∧ x.idx = e.idx ∧ x.status = .unitReset ∧ x.await = .nothing)
    ∧ (c.state = .resetting → c.asking = false → ∃ v, exec (.unitReturn u) s = .next (serveHeld v) ∧ v.mem = s.mem ∧ v.q = s.q
      ∧ (v.units.get u).state = (if c.heldFalse then .disabling else .enabled) ∧ (v.units.get u).asking = c.heldFalse
      ∧ (v.units.get u).resetAsked = false ∧ (v.units.get u).result = (if c.resetAsked then c.found else c.result))

/-- Every reset source asserts its level and cause (R678, R682; where two sources of a level may have come in one slow cycle, which cause
stays is the model's choice, LOG 9), and memory keeps what the level leaves it (R513, R514). The input that rises again after a trip or
after a fall below what the monitors need begins with POWER_ON (R727; LOG 41). A LOCK_UP while a reset is in progress changes
nothing: no kiosk has work then (R139; LOG 58). -/
def Obligations.ResetSourcesAssert : Prop :=
  ∀ s : State,
    (s.rst.off = true ∨ s.rst.source = true → ∃ t, exec .powerOn s = .next t ∧ asserted .po [1] t ∧ t.rst.off = false
      ∧ memoryAfterReset .po s t)
    ∧ (s.rst.off = false →
      let from' := fun (c : Instr) (l : Level) (cause : Byte) => ∃ t, exec c s = .next t
        ∧ asserted (sourceLevel l s) (sourceCauses l cause s) t ∧ memoryAfterReset (sourceLevel l s) s t
      from' .brownOut .po 2 ∧ from' .watchdog .sys 4
      ∧ (s.rst.rstDriven = false → waitsForPin s = false → from' .pinReset .sys 3)
      ∧ (s.rst.run = none → from' .lockUp .core 8) ∧ (s.rst.run ≠ none → exec .lockUp s = .next s)
      ∧ (∀ x, s.rst.pending = some x → from' .resetBegin x.1 x.2 ∧ ∀ t, exec .resetBegin s = .next t → t.rst.pending = none)
      ∧ (s.rst.source = true → from' .clockFailure .sys 7)
      ∧ (s.rst.source = false → ∃ t, exec .clockFailure s = .next t ∧ asserted .sys [7] t ∧ t.rst.clockGood = false
        ∧ memoryAfterReset .sys s t))

/-- What a CORE reset keeps (R367, R514, R537, R633, R681): memory and its shares, the keys and flash, the random-number and scheduler
settings, each pair's rings and settings, and each unit's Enable. -/
def Obligations.CoreResetKeeps : Prop :=
  ∀ s : State, s.rst.off = false → s.rst.run = none → ∃ t, exec .lockUp s = .next t
    ∧ t.mem = s.mem ∧ t.prot = s.prot ∧ t.persist = s.persist ∧ t.fmt = s.fmt ∧ t.rng = s.rng
    ∧ t.stk.k = s.stk.k ∧ t.stk.j = s.stk.j ∧ t.stk.ecc = s.stk.ecc ∧ t.stk.scrubPos = s.stk.scrubPos
    ∧ (∀ n : Fin 32, t.stk.selfRefresh[n] = true)
    ∧ t.turn.defaultDrain = s.turn.defaultDrain ∧ t.sched.mainPlan = s.sched.mainPlan ∧ t.sched.recBase = s.sched.recBase
    ∧ t.stash.base = s.stash.base ∧ t.stash.tag = nextTag s.stash.tag ∧ t.sec.running = s.sec.running
    ∧ (∀ q : Fin 64, (t.q.qps[q]).sqBase = (s.q.qps[q]).sqBase ∧ (t.q.qps[q]).cqBase = (s.q.qps[q]).cqBase
      ∧ (t.q.qps[q]).entries = (s.q.qps[q]).entries ∧ (t.q.qps[q]).enable = false ∧ (t.q.qps[q]).halt = 0)
    ∧ (∀ u, (t.units.get u).state = if (s.units.get u).enable then .enabled else .disabled)
    ∧ (∀ v : Fin 4, (t.vers[v]).state = .free) ∧ t.sched.slots = [] ∧ t.terr.tiles = []

/-- The way out of a reset (R675, R683, R685, R727): once the stretch has ended and clock-good is TRUE start-up runs, drawing a fresh
epoch that is not 0, and RST_N is driven no longer; it is released only then, with RESET_SEEN pending; the input's recovery ends the
brown-out source. -/
def Obligations.ResetEnds : Prop :=
  ∀ (s : State) (r : ResetRun), s.rst.off = false → s.rst.run = some r →
    let starts := fun (t : State) => t.rst.run = some { r with stretchDone := true, started := true } ∧ t.rst.rstDriven = false
      ∧ t.sec.epoch ≠ 0 ∧ t.sec.counter = 0 ∧ t.mem = s.mem
    (r.stretchDone = false → s.rst.source = false → r.started = false → ∃ t, exec .resetStretchEnd s = .next t
      ∧ if s.rst.clockGood then starts t else t = { s with rst := { s.rst with run := some { r with stretchDone := true } } })
    ∧ (s.rst.clockGood = false → r.started = false → ∃ t, exec .clockGood s = .next t
      ∧ if r.stretchDone then starts t ∧ t.rst.clockGood = true else t = { s with rst := { s.rst with clockGood := true } })
    ∧ (r.started = true → s.rst.clockGood = true → s.rst.source = false → ∃ t, exec .resetRelease s = .next t ∧ t.rst.run = none
      ∧ t.rst.rstDriven = false ∧ t.mem = s.mem ∧ (∀ n : Fin 32, t.stk.selfRefresh[n] = false)
      ∧ t.od.alertPending = if s.sec.limited = 0 then 1 else 0x201)
    ∧ (s.rst.source = true → ∃ t, exec .inputRecovered s = .next t ∧ t.rst.source = false ∧ t.rst.pwrGood = true
      ∧ t.rst.run = some { r with stretchDone := false, started := false } ∧ t.mem = s.mem)

/-- Power and heat (R695, R697 to R699, R703, R704): an input alert sets its bit, the duty moves with the hottest reading, a trip turns
the module off, and a wake brings the state asked for, with the stacks that are in no reset out of self-refresh (R690). -/
def Obligations.PowerRules : Prop :=
  ∀ s : State,
    (running s = true → ∃ t, exec .powerAlert s = .next t ∧ t.od.alertPending = s.od.alertPending ||| 0x800 ∧ t.mem = s.mem)
    ∧ (running s = true → ∀ h, ∃ t, exec (.throttleCheck h) s = .next t
      ∧ t.power.duty = (if s.power.onset + 15000 ≤ h then 1 else if s.power.onset ≤ h then max 1 (s.power.duty - 1)
          else if h ≤ s.power.onset - 5000 then min 16 (s.power.duty + 1) else s.power.duty)
      ∧ t.power.episodes = (if s.power.duty = 16 ∧ t.power.duty < 16 then satInc s.power.episodes else s.power.episodes))
    ∧ (s.rst.off = false → ∃ t, exec .thermalTrip s = .next t ∧ t.rst.off = true ∧ t.mem = s.mem
      ∧ t.persist.thermalTrips = satInc s.persist.thermalTrips ∧ t.persist.keys = s.persist.keys)
    ∧ (running s = true → ∀ x, s.power.waking = some x → ∃ t, exec .wakeComplete s = .next t ∧ t.power.current = x
      ∧ t.power.waking = none ∧ t.terr.tiles = [] ∧ t.mem = s.mem
      ∧ ∀ n : Fin 32, t.stk.selfRefresh[n] = (stackInReset s n.val && s.stk.selfRefresh[n]))

/-- While the module is off or in reset nothing of it works (R679, R683, R727); that every command which needs it running then faults with
notRunning is the model's reading (LOG 58). -/
def Obligations.NothingRunsInReset : Prop :=
  ∀ (c : Instr) (s : State), running s = false → c.wellFormed = true → misrouted c s = false →
    c ∉ [Instr.resetBegin, .powerOn, .brownOut, .inputRecovered, .pinReset, .watchdog, .clockFailure, .lockUp, .resetStretchEnd,
      .resetRelease, .thermalTrip, .clockGood] → exec c s = .fault .notRunning

/-! ### Services of the stacks and of generation (R259, R323, R493 to R508, R516) -/

/-- A scrub read corrects or reports its codeword and moves on by 16 bytes, counting a pass at the end of the stack; a stream fetches its
next lines and ends with its last; a stack of a parked module returns to self-refresh (R493, R498, R507, R508, R516). -/
def Obligations.StackServices : Prop :=
  ∀ s : State, running s = true →
    (∀ n : Fin 32, scrubs s n = true → ∃ t, exec (.scrubRead n) s = .next t ∧ t.mem = s.mem
      ∧ (let off := s.stk.scrubPos[n]
         let bad := eccAt s (n.val * stackBytes + off)
         t.stk.scrubPos[n] = (if stackBytes ≤ off + 16 then 0 else off + 16)
         ∧ t.stk.passes = (if stackBytes ≤ off + 16 then satInc s.stk.passes else s.stk.passes)
         ∧ t.stk.corrected = (if bad = some false then satInc s.stk.corrected else s.stk.corrected)
         ∧ t.stk.uncorrectable = (if bad = some true then satInc s.stk.uncorrectable else s.stk.uncorrectable)
         ∧ (bad = some false → eccAt t (n.val * stackBytes + off) = none)))
    ∧ (∀ (p : Fin 96) (tags : List (BitVec 12)) (x : Stream), s.stk.streams.find? (fun y => y.num == p) = some x →
      x.nextCount ≠ 0 → tagsSuit s x tags = true → fetchWaits s x = false → ∃ t, exec (.prefetchFetch p tags) s = .next t ∧ t.mem = s.mem
        ∧ if x.lines ≤ x.fetched + x.nextCount then ∀ y ∈ t.stk.streams, y.num ≠ p
          else { x with fetched := x.fetched + x.nextCount } ∈ t.stk.streams)
    ∧ (∀ n : Fin 32, unitPresent s.persist.variant (.stack n) = true → s.power.current = .park → s.stk.selfRefresh[n] = false →
      ∃ t, exec (.selfRefreshReturn n) s = .next t ∧ t.stk.selfRefresh[n] = true ∧ t.mem = s.mem)

/-- The scheduler takes a step when it may, has room for its record and no template makes it wait: 2800:18 counts it, which stops at its
largest value (R719), and its record moves PRODUCED; without room it waits and is counted once (R259, R288, R289). A step whose template,
ring or companion line has to wait changes nothing of the scheduler, and is tried again (R257, R515, R551; LOG 34). A mask cache flush
acts once the SAMPLEs before it are done, and then answers the requests that waited for it (R323, R616). -/
def Obligations.SchedulerSteps : Prop :=
  (∀ s : State, running s = true → schedMay s = true →
    match (runSched s).1 with
    | .ok true => ∃ t n, exec .schedulerStep s = .next t ∧ t.sched.steps = satInc s.sched.steps ∧ t.sched.stalled = false ∧ 64 ≤ n
      ∧ t.sched.recProduced = s.sched.recProduced + BitVec.ofNat 64 n ∧ t.q.qps = s.q.qps ∧ t.turn.cur = s.turn.cur
    | .ok false => ∃ t, exec .schedulerStep s = .next t ∧ t.sched.stalled = true ∧ t.sched.steps = s.sched.steps
      ∧ t.sched.stalls = (if s.sched.stalled then s.sched.stalls else satInc s.sched.stalls)
      ∧ t.sched.recProduced = s.sched.recProduced ∧ t.q.qps = s.q.qps ∧ t.mem = s.mem
    | .error _ => ∃ t, exec .schedulerStep s = .next t ∧ t.sched = s.sched ∧ t.q = s.q ∧ t.mem = s.mem)
  ∧ (∀ s : State, running s = true → schedMay s = false → exec .schedulerStep s = .next s)
  ∧ ∀ s : State, running s = true →
    ((∀ w ∈ s.gate.flushPending, sampleRuns s w.before = true) → exec .maskCacheFlushApply s = .next s)
    ∧ ∀ w ∈ s.gate.flushPending, sampleRuns s w.before = false → ∃ t, exec .maskCacheFlushApply s = .next t ∧ t.gate.cache = []
      ∧ t.gate.flushPending = s.gate.flushPending.filter (fun x => sampleRuns s x.before)
      ∧ ∀ a ∈ w.answers, match a with
        | .carard _ resp => .odResponse resp ∈ t.outbox
        | .field src _ resp => .fieldResponse src (fieldFrame 2 resp) ∈ t.outbox

/-! ### Arithmetic (R54, R67 to R71) -/

/-- Rounding is exact on what a format already holds: every F32 code that is not a NaN rounds to itself, and so does every A34 code with
exponent 1 to 1022 and both zeros, with nothing lost. F32 sums and products do not depend on the order of their operands, and a NaN
operand gives the canonical NaN (R55, R66, R71, R142). -/
def Obligations.RoundingIsExactOnCodes : Prop :=
  (∀ w : F32, f32IsNan w = false → f32Rnd (f32Dec w) = w)
  ∧ (∀ w : A34, (1 ≤ w.toNat / 2 ^ 23 % 1024 ∧ w.toNat / 2 ^ 23 % 1024 ≤ 1022) ∨ w.toNat % 2 ^ 33 = 0 → a34Rnd (a34Dec w) = (w, false))
  ∧ ∀ a b : F32, f32Add a b = f32Add b a ∧ f32Mul a b = f32Mul b a
    ∧ (f32IsNan a = true → f32Add a b = 0x7FC00000 ∧ f32Mul a b = 0x7FC00000)
end

