-- ==== Sys2Proof/Laws/Memory.lean ====
section
/-! SUPPORT. Memory: the canonical form is kept by every write, a byte reads as it was last written, and no other byte changes. -/

namespace Sys2Proof.Machine

theorem memWfFrom_mono {lo hi : Nat} (h : lo ≤ hi) : ∀ m : List Host.Cell, memWfFrom hi m = true → memWfFrom lo m = true
  | [], _ => rfl
  | (a, b) :: t, w => by
    simp only [memWfFrom, Bool.and_eq_true, decide_eq_true_eq] at w ⊢
    exact ⟨⟨Nat.le_trans h w.1.1, w.1.2⟩, w.2⟩

theorem memWfFrom_memSet {lo k : Nat} (v : Byte) (hk : lo ≤ k) :
    ∀ m : List Host.Cell, memWfFrom lo m = true → memWfFrom lo (memSet m k v) = true
  | [], _ => by
    unfold memSet
    split
    · rfl
    · next h => simp [memWfFrom, hk, h]
  | (a, b) :: t, w => by
    simp only [memWfFrom, Bool.and_eq_true, decide_eq_true_eq] at w
    unfold memSet
    split
    · next hlt =>
      split
      · simp [memWfFrom, w.1.1, w.1.2, w.2]
      · next hv =>
        have hka : k + 1 ≤ a := hlt
        simp [memWfFrom, hk, hv, hka, w.1.2, w.2]
    · split
      · next heq =>
        split
        · exact memWfFrom_mono (by omega) t w.2
        · next hv => simp [memWfFrom, hv, heq, w.2, w.1.1]
      · next h1 h2 =>
        have hak : a + 1 ≤ k := by omega
        simp [memWfFrom, w.1.1, w.1.2, memWfFrom_memSet v hak t w.2]

/-- A write of one byte keeps the canonical form. -/
theorem memSet_wf {m : List Host.Cell} (k : Nat) (v : Byte) (h : Memory.wf m = true) : Memory.wf (memSet m k v) = true :=
  memWfFrom_memSet v (Nat.zero_le k) m h

/-- A byte reads as it was last written. -/
theorem memGet_memSet_same (k : Nat) (v : Byte) : ∀ {lo : Nat} (m : List Host.Cell), memWfFrom lo m = true → memGet (memSet m k v) k = v
  | _, [], _ => by
    unfold memSet
    split
    · next h => simp [memGet, h]
    · simp [memGet]
  | lo, (a, b) :: t, w => by
    simp only [memWfFrom, Bool.and_eq_true, decide_eq_true_eq] at w
    have gap : ∀ {lo : Nat} (l : List Host.Cell), memWfFrom lo l = true → k < lo → memGet l k = memDefault := by
      intro lo l
      induction l generalizing lo with
      | nil => intros; rfl
      | cons c l ih =>
        intro hw hk
        simp only [memWfFrom, Bool.and_eq_true, decide_eq_true_eq] at hw
        have hne : c.1 ≠ k := by omega
        simp [memGet, hne, ih hw.2 (by omega)]
    unfold memSet
    split
    · next hlt =>
      split
      · next hv =>
        have hne : a ≠ k := by omega
        simp [memGet, hne, gap t w.2 (by omega), hv]
      · simp [memGet]
    · split
      · next heq =>
        split
        · next hv => rw [gap t w.2 (by omega), hv]
        · simp [memGet]
      · next h1 h2 =>
        have hne : a ≠ k := fun e => h2 e.symm
        simp [memGet, hne, memGet_memSet_same k v t w.2]

/-- No other byte changes. -/
theorem memGet_memSet_other {k j : Nat} (v : Byte) (hne : j ≠ k) : ∀ m : List Host.Cell, memGet (memSet m k v) j = memGet m j
  | [] => by
    unfold memSet
    split
    · rfl
    · simp [memGet, Ne.symm hne]
  | (a, b) :: t => by
    unfold memSet
    split
    · split
      · rfl
      · simp [memGet, Ne.symm hne]
    · split
      · next heq =>
        have ha : a ≠ j := fun e => hne (by omega)
        have hk : k ≠ j := Ne.symm hne
        split <;> simp [memGet, ha, hk]
      · simp only [memGet, memGet_memSet_other v hne t]

/-- Stores of bytes keep the canonical form. -/
theorem pokeList_wf (s : State) : ∀ (a : Nat) (bs : List Byte) (m : List Host.Cell), Memory.wf m = true → Memory.wf (pokeList s a bs m) = true
  | _, [], _, h => h
  | a, b :: t, m, h => by
    unfold pokeList
    apply pokeList_wf s (a + 1) t
    split
    · exact memSet_wf _ _ h
    · exact h

theorem poke_wf (s : State) (a : Nat) (bs : List Byte) (h : Memory.wf s.mem = true) : Memory.wf (poke s a bs).mem = true :=
  pokeList_wf s a bs s.mem h

/-- Dropping cells keeps the canonical form: what a reset does to memory. -/
theorem memWfFrom_filter (p : Host.Cell → Bool) : ∀ {lo : Nat} (m : List Host.Cell), memWfFrom lo m = true →
    memWfFrom lo (m.filter p) = true
  | _, [], _ => rfl
  | lo, (a, b) :: t, w => by
    simp only [memWfFrom, Bool.and_eq_true, decide_eq_true_eq] at w
    have ht := memWfFrom_filter p t w.2
    by_cases hp : p (a, b) = true
    · simp [List.filter, hp, memWfFrom, w.1.1, w.1.2, ht]
    · simp only [List.filter, hp]
      exact memWfFrom_mono (by omega) _ ht

theorem filter_wf (p : Host.Cell → Bool) {m : List Host.Cell} (h : Memory.wf m = true) : Memory.wf (m.filter p) = true :=
  memWfFrom_filter p m h

/-- A location that no stored byte takes keeps its value. -/
theorem memGet_pokeList_other (s : State) {j : Nat} : ∀ (a : Nat) (bs : List Byte) (m : List Host.Cell),
    (∀ i, i < bs.length → locOf s (a + i) ≠ some j) → memGet (pokeList s a bs m) j = memGet m j
  | _, [], _, _ => rfl
  | a, b :: t, m, h => by
    unfold pokeList
    rw [memGet_pokeList_other s (a + 1) t]
    · have h0 := h 0 (by simp)
      split
      · next l hl =>
        have hne : j ≠ l := fun e => h0 (by simpa [e] using hl)
        exact memGet_memSet_other _ hne _
      · rfl
    · intro i hi
      have := h (i + 1) (by simpa using hi)
      rwa [Nat.add_assoc, Nat.add_comm 1 i]

theorem stackReachable_congr {s t : State} (hp : t.persist.variant = s.persist.variant)
    (hu : t.units.stackUnits = s.units.stackUnits) (n : Nat) : stackReachable t n = stackReachable s n := by
  unfold stackReachable
  rw [hp, hu]

/-- What an address names depends on the shares, the stacks' own controls, the variant and the companion's memory alone. -/
theorem resolve_congr {s t : State} (hk : t.stk.k = s.stk.k) (hj : t.stk.j = s.stk.j) (hp : t.persist.variant = s.persist.variant)
    (hc : t.lk.cl.cbytes = s.lk.cl.cbytes) (hu : t.units.stackUnits = s.units.stackUnits) (a : Nat) : resolve t a = resolve s a := by
  delta resolve
  rw [hk, hj, hp, hc]
  simp only [stackReachable_congr hp hu]

theorem locOf_congr {s t : State} (hk : t.stk.k = s.stk.k) (hj : t.stk.j = s.stk.j) (hp : t.persist.variant = s.persist.variant)
    (hc : t.lk.cl.cbytes = s.lk.cl.cbytes) (hu : t.units.stackUnits = s.units.stackUnits) (a : Nat) : locOf t a = locOf s a := by
  unfold locOf
  rw [resolve_congr hk hj hp hc hu]

/-- A store moves no address. -/
@[simp] theorem resolve_poke (s : State) (a : Nat) (bs : List Byte) (x : Nat) : resolve (poke s a bs) x = resolve s x :=
  resolve_congr (by rfl) (by rfl) (by rfl) (by rfl) (by rfl) x

@[simp] theorem locOf_poke (s : State) (a : Nat) (bs : List Byte) (x : Nat) : locOf (poke s a bs) x = locOf s x :=
  locOf_congr (by rfl) (by rfl) (by rfl) (by rfl) (by rfl) x

/-- An address apart from every stored byte's place reads as before. -/
theorem peek_poke_other (s : State) (a : Nat) (bs : List Byte) (x : Nat)
    (h : ∀ i, i < bs.length → locOf s (a + i) ≠ locOf s x ∨ locOf s x = none) : peek (poke s a bs) x = peek s x := by
  unfold peek
  rw [locOf_poke]
  cases hl : locOf s x with
  | none => rfl
  | some l =>
    apply memGet_pokeList_other
    intro i hi
    rcases h i hi with h1 | h1
    · rwa [hl] at h1
    · simp [hl] at h1

/-- The stored bytes read back where their places are distinct. -/
theorem memGet_pokeList_same (s : State) : ∀ (a : Nat) (bs : List Byte) (m : List Host.Cell),
    Memory.wf m = true → (∀ i j l, i < bs.length → j < bs.length → locOf s (a + i) = some l → locOf s (a + j) = some l → i = j) →
    ∀ i l, (h : i < bs.length) → locOf s (a + i) = some l → memGet (pokeList s a bs m) l = bs[i]
  | _, [], _, _, _ => by intro i l h; simp at h
  | a, b :: t, m, hm, inj => by
    have hm' : Memory.wf (match locOf s a with
        | some l => memSet m l b
        | none => m) = true := by
      split
      · exact memSet_wf _ _ hm
      · exact hm
    intro i l h hl
    unfold pokeList
    cases i with
    | zero =>
      rw [memGet_pokeList_other]
      · simp only [Nat.add_zero] at hl
        simp only [hl]
        exact memGet_memSet_same l b (lo := 0) m hm
      · intro k hk e
        have := inj 0 (k + 1) l (by simp) (by simpa using hk) hl (by rw [← e]; congr 1; omega)
        omega
    | succ i =>
      have := memGet_pokeList_same s (a + 1) t _ hm' (by
        intro p q x hp hq h1 h2
        have := inj (p + 1) (q + 1) x (by simpa using hp) (by simpa using hq)
          (by rw [← h1]; congr 1; omega) (by rw [← h2]; congr 1; omega)
        omega) i l (by simpa using h) (by rw [← hl]; congr 1; omega)
      exact this

end Sys2Proof.Machine
end

