-- ==== Sys2Proof/Laws/Address.lean ====
section
/-! SUPPORT. The address map (R483 to R489): while the shares are legal, distinct addresses have distinct places. -/

namespace Sys2Proof.Machine

/-- The window parts of R485 and R486 with granules and shares as variables: a stack byte's offset lies in its own share. -/
theorem stackPlace_cases {k j S a n off : Nat} (h : stackPlace k j S a = some (n, off)) :
    (a < 32 * k * gib ∧ a < S * k * gib ∧ n = a / 4096 % S ∧ off = a / 4096 / S * 4096 + a % 4096)
    ∨ (32 * k * gib ≤ a ∧ a < 32 * (k + j) * gib ∧ n = 4 * ((a - 32 * k * gib) / (4 * j * gib)) + (a - 32 * k * gib) % (4 * j * gib) / 4096 % 4
      ∧ off = k * gib + (a - 32 * k * gib) % (4 * j * gib) / 4096 / 4 * 4096 + (a - 32 * k * gib) % (4 * j * gib) % 4096)
    ∨ (32 * (k + j) * gib ≤ a ∧ n = (a - 32 * (k + j) * gib) / ((96 - k - j) * gib)
      ∧ off = (k + j) * gib + (a - 32 * (k + j) * gib) % ((96 - k - j) * gib)) := by
  delta stackPlace at h
  dsimp only at h
  split at h
  · next c1 =>
    split at h
    · next c2 =>
      simp only [Option.some.injEq, Prod.mk.injEq] at h
      exact .inl ⟨c1, c2, h.1.symm, h.2.symm⟩
    · cases h
  · next c1 =>
    split at h
    · next c2 =>
      simp only [Option.some.injEq, Prod.mk.injEq] at h
      exact .inr (.inl ⟨Nat.le_of_not_lt c1, c2, h.1.symm, h.2.symm⟩)
    · next c2 =>
      simp only [Option.some.injEq, Prod.mk.injEq] at h
      exact .inr (.inr ⟨Nat.le_of_not_lt c2, h.1.symm, h.2.symm⟩)

/-- Distinct addresses of the stack region have distinct places. -/
theorem stackPlace_inj {k j S a b n off : Nat} (hS : 0 < S) (hkj : k + j ≤ 96) (ha : a < stackEnd) (hb : b < stackEnd)
    (h1 : stackPlace k j S a = some (n, off)) (h2 : stackPlace k j S b = some (n, off)) : a = b := by
  have hG : gib = 4096 * 262144 := by decide
  have hE : stackEnd = 32 * 96 * gib := by decide
  have all : ∀ x, x < S * k * gib → x / 4096 / S * 4096 + x % 4096 < k * gib := by
    intro x hx
    have : x / 4096 / S < k * 262144 := by
      rw [Nat.div_div_eq_div_mul, Nat.div_lt_iff_lt_mul (by positivity)]
      calc x < S * k * gib := hx
        _ = k * 262144 * (4096 * S) := by rw [hG]; ring
    have h3 : x % 4096 < 4096 := Nat.mod_lt _ (by norm_num)
    rw [hG]; nlinarith
  have dist : ∀ x, 0 < j → x % (4 * j * gib) / 4096 / 4 * 4096 + x % (4 * j * gib) % 4096 < j * gib := by
    intro x hj
    have hx : x % (4 * j * gib) < 4 * j * gib := Nat.mod_lt _ (by rw [hG]; positivity)
    generalize x % (4 * j * gib) = y at *
    have : y / 4096 / 4 < j * 262144 := by
      rw [Nat.div_div_eq_div_mul, Nat.div_lt_iff_lt_mul (by norm_num)]
      calc y < 4 * j * gib := hx
        _ = j * 262144 * (4096 * 4) := by rw [hG]; ring
    have h3 : y % 4096 < 4096 := Nat.mod_lt _ (by norm_num)
    rw [hG]; nlinarith
  have gran : ∀ x y : Nat, x / 4096 % S = y / 4096 % S → x / 4096 / S * 4096 + x % 4096 = y / 4096 / S * 4096 + y % 4096 → x = y := by
    intro x y e1 e2
    have q : x / 4096 / S = y / 4096 / S := by omega
    have r : x % 4096 = y % 4096 := by omega
    have hx := Nat.div_add_mod (x / 4096) S
    have hy := Nat.div_add_mod (y / 4096) S
    rw [q, e1] at hx
    omega
  have jpos : ∀ x, 32 * k * gib ≤ x → x < 32 * (k + j) * gib → 0 < j := by
    intro x h3 h4
    rcases Nat.eq_zero_or_pos j with h | h
    · subst h; simp at h4; omega
    · exact h
  rcases stackPlace_cases h1 with ⟨a1, a2, a3, a4⟩ | ⟨a1, a2, a3, a4⟩ | ⟨a1, a3, a4⟩ <;>
    rcases stackPlace_cases h2 with ⟨b1, b2, b3, b4⟩ | ⟨b1, b2, b3, b4⟩ | ⟨b1, b3, b4⟩
  · exact gran a b (a3.symm.trans b3) (a4.symm.trans b4)
  · have := all a a2; omega
  · have := all a a2; have e : (k + j) * gib = k * gib + j * gib := by ring
    omega
  · have := all b b2; omega
  · have hj := jpos a a1 a2
    have da := dist (a - 32 * k * gib) hj
    have db := dist (b - 32 * k * gib) hj
    have pa := Nat.div_add_mod (a - 32 * k * gib) (4 * j * gib)
    have pb := Nat.div_add_mod (b - 32 * k * gib) (4 * j * gib)
    have q : (a - 32 * k * gib) / (4 * j * gib) = (b - 32 * k * gib) / (4 * j * gib) := by omega
    rw [q] at pa
    omega
  · have hj := jpos a a1 a2
    have da := dist (a - 32 * k * gib) hj
    have e : (k + j) * gib = k * gib + j * gib := by ring
    omega
  · have := all b b2; have e : (k + j) * gib = k * gib + j * gib := by ring
    omega
  · have hj := jpos b b1 b2
    have db := dist (b - 32 * k * gib) hj
    have e : (k + j) * gib = k * gib + j * gib := by ring
    omega
  · have pa := Nat.div_add_mod (a - 32 * (k + j) * gib) ((96 - k - j) * gib)
    have pb := Nat.div_add_mod (b - 32 * (k + j) * gib) ((96 - k - j) * gib)
    rw [← a3] at pa
    rw [← b3] at pb
    omega

/-- An offset lies in its stack. -/
theorem stackPlace_bound {k j S a n off : Nat} (hkj : k + j ≤ 96) (ha : a < stackEnd) (h : stackPlace k j S a = some (n, off)) :
    off < stackBytes := by
  have hG : gib = 4096 * 262144 := by decide
  have hE : stackEnd = 32 * 96 * gib := by decide
  have hB : stackBytes = 96 * gib := by decide
  have e : (k + j) * gib = k * gib + j * gib := by ring
  have e2 : (96 - k - j) * gib + (k + j) * gib = 96 * gib := by rw [← Nat.add_mul]; congr 1; omega
  have gpos : 0 < gib := by rw [hG]; norm_num
  rw [hB]
  rcases stackPlace_cases h with ⟨a1, a2, a3, a4⟩ | ⟨a1, a2, a3, a4⟩ | ⟨a1, a3, a4⟩
  · have hS : 0 < S := by
      rcases Nat.eq_zero_or_pos S with h | h
      · subst h; simp at a2
      · exact h
    have : a / 4096 / S < k * 262144 := by
      rw [Nat.div_div_eq_div_mul, Nat.div_lt_iff_lt_mul (by positivity)]
      calc a < S * k * gib := a2
        _ = k * 262144 * (4096 * S) := by rw [hG]; ring
    have h3 : a % 4096 < 4096 := Nat.mod_lt _ (by norm_num)
    have : k * gib ≤ 96 * gib := Nat.mul_le_mul_right _ (by omega)
    rw [a4]; rw [hG] at *; omega
  · have hj : 0 < j := by
      rcases Nat.eq_zero_or_pos j with h | h
      · subst h; simp at a2; omega
      · exact h
    have hx : (a - 32 * k * gib) % (4 * j * gib) < 4 * j * gib := Nat.mod_lt _ (by rw [hG]; positivity)
    generalize (a - 32 * k * gib) % (4 * j * gib) = y at *
    have : y / 4096 / 4 < j * 262144 := by
      rw [Nat.div_div_eq_div_mul, Nat.div_lt_iff_lt_mul (by norm_num)]
      calc y < 4 * j * gib := hx
        _ = j * 262144 * (4096 * 4) := by rw [hG]; ring
    have h3 : y % 4096 < 4096 := Nat.mod_lt _ (by norm_num)
    have : (k + j) * gib ≤ 96 * gib := Nat.mul_le_mul_right _ hkj
    rw [a4]; rw [hG] at *; omega
  · rcases Nat.eq_zero_or_pos (96 - k - j) with h | h
    · have : k + j = 96 := by omega
      rw [this] at a1
      rw [hE] at ha
      omega
    · have : (a - 32 * (k + j) * gib) % ((96 - k - j) * gib) < (96 - k - j) * gib := Nat.mod_lt _ (Nat.mul_pos h gpos)
      rw [a4]; omega

/-- Distinct addresses have distinct places, while the shares are legal. -/
theorem locOf_inj {s : State} (h : s.stk.k + s.stk.j ≤ 96) {a b l : Nat} (ha : locOf s a = some l) (hb : locOf s b = some l) : a = b := by
  have hE : stackEnd = 32 * stackBytes := by decide
  have hC : 32 * stackBytes ≤ companionBase := by decide
  have hS : 0 < s.persist.variant.stacks := by cases s.persist.variant <;> decide
  have char : ∀ x, locOf s x = some l →
      (x < stackEnd ∧ ∃ n off, stackPlace s.stk.k s.stk.j s.persist.variant.stacks x = some (n, off) ∧ n < 32
        ∧ l = n * stackBytes + off) ∨ (companionBase ≤ x ∧ l = x) := by
    intro x hx
    delta locOf resolve at hx
    split at hx
    · next c =>
      split at hx
      · simp [Place.loc] at hx
      · next n off hp =>
        split at hx
        · next hr =>
          refine .inl ⟨c, n, off, hp, ?_, ?_⟩
          · unfold stackReachable at hr
            split at hr
            · assumption
            · simp at hr
          · simp only [Place.loc, Option.some.injEq] at hx
            exact hx.symm
        · simp [Place.loc] at hx
    · split at hx
      · simp [Place.loc] at hx
      · next c =>
        split at hx
        · simp only [Place.loc, Option.some.injEq] at hx
          exact .inr ⟨Nat.le_of_not_lt c, hx.symm⟩
        · simp [Place.loc] at hx
  rcases char a ha with ⟨a1, n, o, a2, a3, a4⟩ | ⟨a1, a2⟩ <;> rcases char b hb with ⟨b1, m, p, b2, b3, b4⟩ | ⟨b1, b2⟩
  · have ho := stackPlace_bound h a1 a2
    have hp := stackPlace_bound h b1 b2
    have e : n * stackBytes + o = m * stackBytes + p := a4.symm.trans b4
    have hn : n = m := by
      rcases Nat.lt_trichotomy n m with q | q | q
      · have := Nat.mul_le_mul_right stackBytes q
        rw [Nat.succ_mul] at this; omega
      · exact q
      · have := Nat.mul_le_mul_right stackBytes q
        rw [Nat.succ_mul] at this; omega
    subst hn
    have : o = p := by omega
    subst this
    exact stackPlace_inj hS h a1 b1 a2 b2
  · have ho := stackPlace_bound h a1 a2
    have : (n + 1) * stackBytes ≤ 32 * stackBytes := Nat.mul_le_mul_right _ a3
    rw [Nat.succ_mul] at this; omega
  · have hp := stackPlace_bound h b1 b2
    have : (m + 1) * stackBytes ≤ 32 * stackBytes := Nat.mul_le_mul_right _ b3
    rw [Nat.succ_mul] at this; omega
  · exact a2.symm.trans b2

end Sys2Proof.Machine
end

