-- ==== Sys2Proof/Laws/Keep.lean ====
section
/-! SUPPORT. What a command's parts leave unchanged, as relations between a state and a later one, and how a descriptor's work carries
them: `Quiet` for the work of a descriptor, `Calm` for every other service, `Tame` for every command. -/

namespace Sys2Proof.Machine

/-- The queue of commands stays, memory keeps its canonical form, and the shares stay legal. -/
structure Tame (s t : State) : Prop where
  pending : t.pending = s.pending
  mem : Memory.wf s.mem = true → Memory.wf t.mem = true
  shares : s.stk.k + s.stk.j ≤ 96 → t.stk.k + t.stk.j ≤ 96

/-- Also the key slots, the version and revocation fuses, the turn and the shares stay. -/
structure Firm (s t : State) : Prop where
  pending : t.pending = s.pending
  keys : t.persist.keys = s.persist.keys
  fuseSv : t.persist.fuseSv = s.persist.fuseSv
  omcen : t.persist.omcenRevoked = s.persist.omcenRevoked
  cur : t.turn.cur = s.turn.cur
  k : t.stk.k = s.stk.k
  j : t.stk.j = s.stk.j
  mem : Memory.wf s.mem = true → Memory.wf t.mem = true

/-- Also the key slots, the version and revocation fuses, the turn and the shares stay, and no protected range goes. -/
structure Calm (s t : State) : Prop where
  pending : t.pending = s.pending
  keys : t.persist.keys = s.persist.keys
  fuseSv : t.persist.fuseSv = s.persist.fuseSv
  omcen : t.persist.omcenRevoked = s.persist.omcenRevoked
  cur : t.turn.cur = s.turn.cur
  k : t.stk.k = s.stk.k
  j : t.stk.j = s.stk.j
  mem : Memory.wf s.mem = true → Memory.wf t.mem = true
  prot : ∀ x ∈ s.prot, x ∈ t.prot

/-- Also flash and fuses, the reset and power controllers, the turn's sequence number and every pair's counts and settings stay. -/
structure Quiet (s t : State) : Prop where
  calm : Calm s t
  persist : t.persist = s.persist
  rst : t.rst = s.rst
  power : t.power = s.power
  seq : t.turn.seq = s.turn.seq
  qps : t.q.qps = s.q.qps

theorem Tame.refl (s : State) : Tame s s := ⟨rfl, id, id⟩
theorem Calm.refl (s : State) : Calm s s := ⟨rfl, rfl, rfl, rfl, rfl, rfl, rfl, id, fun _ h => h⟩
theorem Quiet.refl (s : State) : Quiet s s := ⟨Calm.refl s, rfl, rfl, rfl, rfl, rfl⟩

theorem Tame.trans {s t u : State} (a : Tame s t) (b : Tame t u) : Tame s u :=
  ⟨b.pending.trans a.pending, b.mem ∘ a.mem, b.shares ∘ a.shares⟩
theorem Calm.trans {s t u : State} (a : Calm s t) (b : Calm t u) : Calm s u :=
  ⟨b.pending.trans a.pending, b.keys.trans a.keys, b.fuseSv.trans a.fuseSv, b.omcen.trans a.omcen, b.cur.trans a.cur, b.k.trans a.k,
    b.j.trans a.j, b.mem ∘ a.mem,
    fun x h => b.prot x (a.prot x h)⟩
theorem Quiet.trans {s t u : State} (a : Quiet s t) (b : Quiet t u) : Quiet s u :=
  ⟨a.calm.trans b.calm, b.persist.trans a.persist, b.rst.trans a.rst, b.power.trans a.power, b.seq.trans a.seq, b.qps.trans a.qps⟩

theorem Firm.trans {s t u : State} (a : Firm s t) (b : Firm t u) : Firm s u :=
  ⟨b.pending.trans a.pending, b.keys.trans a.keys, b.fuseSv.trans a.fuseSv, b.omcen.trans a.omcen, b.cur.trans a.cur, b.k.trans a.k,
    b.j.trans a.j, b.mem ∘ a.mem⟩
theorem Firm.tame {s t : State} (a : Firm s t) : Tame s t := ⟨a.pending, a.mem, fun h => by rw [a.k, a.j]; exact h⟩
theorem Calm.firm {s t : State} (a : Calm s t) : Firm s t := ⟨a.pending, a.keys, a.fuseSv, a.omcen, a.cur, a.k, a.j, a.mem⟩
theorem Calm.tame {s t : State} (a : Calm s t) : Tame s t := ⟨a.pending, a.mem, fun h => by rw [a.k, a.j]; exact h⟩
theorem Quiet.tame {s t : State} (a : Quiet s t) : Tame s t := a.calm.tame

/-- An equation that a simplification does not close by itself. -/
def Is {α : Type} (a b : α) : Prop := a = b
theorem Is.rfl {α : Type} {a : α} : Is a a := Eq.refl a

/-- An update of fields that a relation does not name carries it over. -/
theorem Tame.upd {s t u : State} (e1 : Is u.pending t.pending) (e2 : u.mem = t.mem) (e3 : u.stk.k = t.stk.k) (e4 : u.stk.j = t.stk.j)
    (h : Tame s t) : Tame s u := h.trans ⟨e1, fun w => e2 ▸ w, fun w => by rw [e3, e4]; exact w⟩
theorem Calm.upd {s t u : State} (e1 : Is u.pending t.pending) (e2 : u.mem = t.mem) (e3 : u.stk.k = t.stk.k) (e4 : u.stk.j = t.stk.j)
    (e5 : u.turn.cur = t.turn.cur) (e6 : u.prot = t.prot) (e7 : u.persist.keys = t.persist.keys)
    (e8 : u.persist.fuseSv = t.persist.fuseSv) (e9 : u.persist.omcenRevoked = t.persist.omcenRevoked) (h : Calm s t) : Calm s u :=
  h.trans ⟨e1, e7, e8, e9, e5, e3, e4, fun w => e2 ▸ w, fun _ w => e6 ▸ w⟩
theorem Quiet.upd {s t u : State} (e1 : Is u.pending t.pending) (e2 : u.mem = t.mem) (e3 : u.stk.k = t.stk.k) (e4 : u.stk.j = t.stk.j)
    (e5 : u.turn.cur = t.turn.cur) (e6 : u.prot = t.prot) (e7 : u.persist = t.persist) (e8 : u.rst = t.rst) (e9 : u.power = t.power)
    (e10 : u.turn.seq = t.turn.seq) (e11 : u.q.qps = t.q.qps) (h : Quiet s t) : Quiet s u :=
  ⟨h.calm.upd e1 e2 e3 e4 e5 e6 (congrArg _ e7) (congrArg _ e7) (congrArg _ e7), e7.trans h.persist, e8.trans h.rst, e9.trans h.power,
    e10.trans h.seq, e11.trans h.qps⟩

theorem Tame.foldl {α : Type} {f : State → α → State} (h : ∀ s x, Tame s (f s x)) :
    ∀ (l : List α) (s : State), Tame s (l.foldl f s)
  | [], s => Tame.refl s
  | x :: l, s => (h s x).trans (Tame.foldl h l (f s x))
theorem Calm.foldl {α : Type} {f : State → α → State} (h : ∀ s x, Calm s (f s x)) :
    ∀ (l : List α) (s : State), Calm s (l.foldl f s)
  | [], s => Calm.refl s
  | x :: l, s => (h s x).trans (Calm.foldl h l (f s x))
theorem Quiet.foldl {α : Type} {f : State → α → State} (h : ∀ s x, Quiet s (f s x)) :
    ∀ (l : List α) (s : State), Quiet s (l.foldl f s)
  | [], s => Quiet.refl s
  | x :: l, s => (h s x).trans (Quiet.foldl h l (f s x))
theorem Tame.fold {α : Type} {f : State → α → State} {l : List α} {s t : State} (h : ∀ s x, Tame s (f s x)) (w : Tame s t) :
    Tame s (l.foldl f t) := w.trans (Tame.foldl h l t)
theorem Calm.fold {α : Type} {f : State → α → State} {l : List α} {s t : State} (h : ∀ s x, Calm s (f s x)) (w : Calm s t) :
    Calm s (l.foldl f t) := w.trans (Calm.foldl h l t)
theorem Quiet.fold {α : Type} {f : State → α → State} {l : List α} {s t : State} (h : ∀ s x, Quiet s (f s x)) (w : Quiet s t) :
    Quiet s (l.foldl f t) := w.trans (Quiet.foldl h l t)
/-- The same of a fold that carries more than a state. -/
theorem Quiet.foldl2 {α β : Type} {f : β × State → α → β × State} (h : ∀ b x, Quiet b.2 (f b x).2) :
    ∀ (l : List α) (b : β × State), Quiet b.2 (l.foldl f b).2
  | [], b => Quiet.refl b.2
  | x :: l, b => (h b x).trans (Quiet.foldl2 h l (f b x))

theorem Quiet.fold2 {α β : Type} {f : β × State → α → β × State} {l : List α} {s : State} {b : β × State}
    (h : ∀ b x, Quiet b.2 (f b x).2) (w : Quiet s b.2) : Quiet s (l.foldl f b).2 := w.trans (Quiet.foldl2 h l b)

/-- A write that does not abort keeps a relation. -/
structure Gives (R : State → State → Prop) (s : State) (r : Except Nat State) : Prop where
  of : ∀ t, r = .ok t → R s t

theorem Gives.ok {R : State → State → Prop} {s t : State} (h : R s t) : Gives R s (.ok t) := ⟨fun _ e => by cases e; exact h⟩
theorem Gives.error {R : State → State → Prop} (s : State) (a : Nat) : Gives R s (.error a) := ⟨fun _ e => by cases e⟩
theorem Gives.quiet {R : State → State → Prop} {s : State} {r : Except Nat State} (hr : ∀ s t, Quiet s t → R s t)
    (h : Gives Quiet s r) : Gives R s r := ⟨fun t e => hr s t (h.of t e)⟩
theorem Gives.calm {s : State} {r : Except Nat State} (h : Gives Quiet s r) : Gives Calm s r := h.quiet fun _ _ => Quiet.calm
theorem Gives.tame {s : State} {r : Except Nat State} (h : Gives Calm s r) : Gives Tame s r := ⟨fun t e => (h.of t e).tame⟩

/-! ### A descriptor's work -/

/-- A descriptor's work is quiet, whether it ends OK or fails. -/
structure MQuiet {α : Type} (m : M α) : Prop where
  run : ∀ w : Work, Quiet w.s (m.run w).2.s

theorem MQuiet.pure {α : Type} (a : α) : MQuiet (pure a : M α) := ⟨fun w => Quiet.refl w.s⟩
theorem MQuiet.throw {α : Type} (e : Fail) : MQuiet (throw e : M α) := ⟨fun w => Quiet.refl w.s⟩
/-- A sequence runs its second part from where the first ended OK. -/
theorem M.run_bind {α β : Type} (m : M α) (f : α → M β) (w : Work) : (m >>= f).run w = (match m.run w with
    | (.ok a, w') => (f a).run w'
    | (.error e, w') => (.error e, w')) := by
  show ExceptT.bindCont f (m.run w).1 (m.run w).2 = _
  rcases m.run w with ⟨_ | _, _⟩ <;> rfl

theorem MQuiet.bind {α β : Type} {m : M α} {f : α → M β} (h : MQuiet m) (k : ∀ a, MQuiet (f a)) : MQuiet (m >>= f) := by
  refine ⟨fun w => ?_⟩
  have hm := h.run w
  rw [M.run_bind]
  generalize m.run w = r at hm
  obtain ⟨_ | a, w'⟩ := r
  · exact hm
  · exact hm.trans ((k a).run w')
theorem MQuiet.map {α β : Type} {m : M α} (f : α → β) (h : MQuiet m) : MQuiet (f <$> m) := by
  rw [map_eq_pure_bind]
  exact h.bind fun a => MQuiet.pure (f a)
theorem MQuiet.discard {α : Type} {m : M α} (h : MQuiet m) : MQuiet (discard m) := h.map fun _ => PUnit.unit
theorem MQuiet.get : MQuiet (get : M Work) := ⟨fun w => Quiet.refl w.s⟩
theorem MQuiet.getS : MQuiet getS := ⟨fun w => Quiet.refl w.s⟩
theorem MQuiet.modify {f : Work → Work} (h : ∀ w, Quiet w.s (f w).s) : MQuiet (modify f : M Unit) := ⟨fun w => h w⟩
theorem MQuiet.modS {f : State → State} (h : ∀ s, Quiet s (f s)) : MQuiet (modS f) := ⟨fun w => h w.s⟩
/-- Work that reads the state, replaces it by what it makes of it, and goes on. -/
theorem MQuiet.getMod {α : Type} {f : State → State} {k : State → M α} (h : ∀ s, Quiet s (f s)) (g : ∀ s, MQuiet (k s)) :
    MQuiet (Machine.getS >>= fun s => Machine.modS (fun _ => f s) >>= fun _ => k s) := by
  refine ⟨fun w => ?_⟩
  rw [M.run_bind, show Machine.getS.run w = (.ok w.s, w) from rfl]
  dsimp only
  rw [M.run_bind, show (Machine.modS fun _ => f w.s).run w = (.ok (), { w with s := f w.s }) from rfl]
  exact (h w.s).trans ((g w.s).run { w with s := f w.s })
theorem MQuiet.fail {α : Type} (st : Status) : MQuiet (fail st : M α) := MQuiet.throw _
theorem MQuiet.failAt {α : Type} (st : Status) (a : Nat) : MQuiet (failAt st a : M α) := MQuiet.throw _
theorem M.run_tryCatch {α : Type} (m : M α) (f : Fail → M α) (w : Work) : (tryCatch m f).run w = (match m.run w with
    | (.ok a, w') => (.ok a, w')
    | (.error e, w') => (f e).run w') := by
  rw [ExceptT.run_tryCatch]
  change StateT.bind m.run _ w = _
  unfold StateT.bind
  rcases m.run w with ⟨_ | _, _⟩ <;> rfl

theorem MQuiet.catches {α : Type} {m : M α} {f : Fail → M α} (h : MQuiet m) (k : ∀ e, MQuiet (f e)) : MQuiet (tryCatch m f) := by
  refine ⟨fun w => ?_⟩
  have hm := h.run w
  rw [M.run_tryCatch]
  generalize m.run w = r at hm
  obtain ⟨e' | a, w'⟩ := r
  · exact hm.trans ((k e').run w')
  · exact hm
theorem MQuiet.forM {α : Type} {f : α → M PUnit} (h : ∀ a, MQuiet (f a)) : ∀ l : List α, MQuiet (l.forM f)
  | [] => MQuiet.pure _
  | a :: l => (h a).bind fun _ => MQuiet.forM h l
theorem MQuiet.mapM {α β : Type} {f : α → M β} (h : ∀ a, MQuiet (f a)) (l : List α) : MQuiet (l.mapM f) := by
  rw [← List.mapM'_eq_mapM]
  induction l with
  | nil => exact MQuiet.pure _
  | cons a l ih => exact (h a).bind fun _ => ih.bind fun _ => MQuiet.pure _

theorem MQuiet.optMapM {α β : Type} {f : α → M β} (h : ∀ a, MQuiet (f a)) : ∀ o : Option α, MQuiet (o.mapM f)
  | none => MQuiet.pure _
  | some a => MQuiet.map _ (h a)
theorem MQuiet.foldlM {α β : Type} {f : β → α → M β} (h : ∀ b a, MQuiet (f b a)) :
    ∀ (l : List α) (b : β), MQuiet (l.foldlM f b)
  | [], _ => MQuiet.pure _
  | a :: l, b => by
    rw [List.foldlM_cons]
    exact (h b a).bind fun b => MQuiet.foldlM h l b
theorem MQuiet.ite {α : Type} {c : Prop} [Decidable c] {m n : M α} (h : c → MQuiet m) (k : ¬c → MQuiet n) : MQuiet (if c then m else n) := by
  by_cases hc : c
  · rw [if_pos hc]
    exact h hc
  · rw [if_neg hc]
    exact k hc
theorem MQuiet.need (c : Bool) (st : Status) : MQuiet (need c st) := by
  unfold Machine.need
  split
  · exact MQuiet.pure _
  · exact MQuiet.fail _
theorem MQuiet.needDesc (c : Bool) : MQuiet (needDesc c) := MQuiet.need c _

/-- What work finds out is itself a quiet change. -/
structure MSpoils (m : M (State → State)) : Prop where
  of : ∀ (w : Work) (f : State → State), (m.run w).1 = .ok f → ∀ s, Quiet s (f s)

theorem MSpoils.pure {f : State → State} (h : ∀ s, Quiet s (f s)) : MSpoils (pure f) := ⟨fun _ _ e => by cases e; exact h⟩
theorem MSpoils.bind {α : Type} {m : M α} {k : α → M (State → State)} (h : ∀ a, MSpoils (k a)) : MSpoils (m >>= k) := by
  refine ⟨fun w f e => ?_⟩
  rw [M.run_bind] at e
  generalize m.run w = r at e
  obtain ⟨_ | a, w'⟩ := r
  · cases e
  · exact (h a).of w' f e

/-- Work that is quiet but may drop protected ranges. -/
structure MFirm {α : Type} (m : M α) : Prop where
  run : ∀ w : Work, Firm w.s (m.run w).2.s

theorem MQuiet.firm {α : Type} {m : M α} (h : MQuiet m) : MFirm m := ⟨fun w => (h.run w).calm.firm⟩
theorem MFirm.seq {α β : Type} {m : M α} {f : α → M β} (h : MFirm m) (k : ∀ a, MFirm (f a)) : MFirm (m >>= f) := by
  refine ⟨fun w => ?_⟩
  have hm := h.run w
  rw [M.run_bind]
  generalize m.run w = r at hm
  obtain ⟨_ | a, w'⟩ := r
  · exact hm
  · exact hm.trans ((k a).run w')
theorem MFirm.bind {α β : Type} {m : M α} {f : α → M β} (h : MQuiet m) (k : ∀ a, MFirm (f a)) : MFirm (m >>= f) := h.firm.seq k
theorem MFirm.catches {α : Type} {m : M α} {f : Fail → M α} (h : MFirm m) (k : ∀ e, MFirm (f e)) : MFirm (tryCatch m f) := by
  refine ⟨fun w => ?_⟩
  have hm := h.run w
  rw [M.run_tryCatch]
  generalize m.run w = r at hm
  obtain ⟨e' | a, w'⟩ := r
  · exact hm.trans ((k e').run w')
  · exact hm

end Sys2Proof.Machine
end

