-- ==== Sys2Proof/Laws/KeepOps.lean ====
section
/-! SUPPORT. What the parts of a command keep (`Quiet`, `Calm`, `Firm`, `Tame` of Laws/Keep.lean): the shared operations, operands, the stash manager and the queues.
Each lemma is named after its function; a lemma about an `exec` function is about every next state it answers. -/

namespace Sys2Proof.Machine

/-! ### Ops -/

theorem countWork_quiet (u : UnitId) (n : Nat) (s : State) : Quiet s (countWork u n s) := by
  unfold countWork
  repeat' (first
    | with_reducible exact Quiet.refl _ | dsimp only
    | (apply Quiet.upd; (case e1 => dsimp only; with_reducible exact Is.rfl); iterate 10 dsimp only))

/-- A store keeps everything but memory, which it keeps in form. -/
theorem poke_quiet (s : State) (a : Nat) (bs : List Byte) : Quiet s (poke s a bs) :=
  ⟨⟨rfl, rfl, rfl, rfl, rfl, rfl, rfl, poke_wf s a bs, fun _ h => h⟩, rfl, rfl, rfl, rfl, rfl⟩

theorem setLink_quiet (i : LinkId) (l : Link) (s : State) : Quiet s (setLink i l s) := by
  unfold setLink
  repeat' (first
    | with_reducible exact Quiet.refl _ | (apply Quiet.upd; (case e1 => dsimp only; with_reducible exact Is.rfl); iterate 10 dsimp only))

theorem ackOf_quiet (i : LinkId) (s : State) : Quiet s (ackOf i s).2 := by
  unfold ackOf
  repeat' (first
    | with_reducible exact Quiet.refl _ | dsimp only
    | (apply Quiet.upd; (case e1 => dsimp only; with_reducible exact Is.rfl); iterate 10 dsimp only) | split)

theorem emitFlit_quiet (i : LinkId) (type : Nat) (ch : Nat) (seq : BitVec 12) (payload : List Byte) (s : State) : Quiet s
    (emitFlit i type ch seq payload s) := by
  unfold emitFlit
  repeat' (first
    | with_reducible exact Quiet.refl _ | dsimp only | with_reducible apply Quiet.trans ?_ (ackOf_quiet _ _)
    | (apply Quiet.upd; (case e1 => dsimp only; with_reducible exact Is.rfl); iterate 10 dsimp only))

theorem putFlit_quiet (i : LinkId) (type : Nat) (ch : Nat) (seq : BitVec 12) (payload : List Byte) (s : State) : Quiet s
    (putFlit i type ch seq payload s) := by
  unfold putFlit
  repeat' (first
    | with_reducible exact Quiet.refl _ | dsimp only | with_reducible apply Quiet.trans ?_ (emitFlit_quiet _ _ _ _ _ _)
    | with_reducible apply Quiet.trans ?_ (setLink_quiet _ _ _) | split)

theorem putSequenced_quiet (i : LinkId) (f : Flit) (s : State) : Quiet s (putSequenced i f s) := by
  unfold putSequenced
  repeat' (first
    | with_reducible exact Quiet.refl _ | with_reducible apply Quiet.trans ?_ (putFlit_quiet _ _ _ _ _ _) | split)

theorem sendFlit_quiet (i : LinkId) (b : FlitBody) (s : State) : Quiet s (sendFlit i b s) := by
  unfold sendFlit
  repeat' (first
    | with_reducible exact Quiet.refl _ | dsimp only | with_reducible apply Quiet.trans ?_ (putSequenced_quiet _ _ _)
    | with_reducible apply Quiet.trans ?_ (setLink_quiet _ _ _))

theorem takeMsgs_quiet (i : LinkId) (n : Nat) (taken : List OutMsg) (s : State) : Quiet s (takeMsgs i n taken s).2 := by
  induction n generalizing taken s with
  | zero => exact Quiet.refl s
  | succ n ih =>
    unfold takeMsgs
    split
    · exact (setLink_quiet i _ s).trans (ih _ _)
    · exact Quiet.refl s

theorem sendStreams_quiet (i : LinkId) (l : List OutMsg) (s : State) : Quiet s (sendStreams i l s) := by
  unfold sendStreams
  repeat' (first
    | with_reducible exact Quiet.refl _ | with_reducible apply Quiet.trans ?_ (sendFlit_quiet _ _ _) | with_reducible apply Quiet.fold
    | intro _)

theorem countPackets_quiet (i : LinkId) (n : Nat) (s : State) : Quiet s (countPackets i n s) := by
  unfold countPackets
  repeat' (first
    | with_reducible exact Quiet.refl _ | with_reducible apply Quiet.trans ?_ (countWork_quiet _ _ _) | split)

theorem countSent_quiet (n : Nat) (s : State) : Quiet s (countSent n s) := by
  unfold countSent
  repeat' (first
    | with_reducible exact Quiet.refl _ | dsimp only
    | (apply Quiet.upd; (case e1 => dsimp only; with_reducible exact Is.rfl); iterate 10 dsimp only))

theorem countReceived_quiet (n : Nat) (s : State) : Quiet s (countReceived n s) := by
  unfold countReceived
  repeat' (first
    | with_reducible exact Quiet.refl _ | dsimp only
    | (apply Quiet.upd; (case e1 => dsimp only; with_reducible exact Is.rfl); iterate 10 dsimp only))

theorem countGathered_quiet (n : Nat) (s : State) : Quiet s (countGathered n s) := by
  unfold countGathered
  repeat' (first
    | with_reducible exact Quiet.refl _ | dsimp only
    | (apply Quiet.upd; (case e1 => dsimp only; with_reducible exact Is.rfl); iterate 10 dsimp only))

theorem countPayload_quiet (s : State) (m : OutMsg) : Quiet s (countPayload s m) := by
  unfold countPayload
  repeat' (first
    | with_reducible exact Quiet.refl _ | with_reducible apply Quiet.trans ?_ (countSent_quiet _ _)
    | with_reducible apply Quiet.trans ?_ (countGathered_quiet _ _) | split)

theorem countMsgs_quiet (i : LinkId) (l : List OutMsg) (s : State) : Quiet s (countMsgs i l s) := by
  unfold countMsgs
  repeat' (first
    | with_reducible exact Quiet.refl _ | dsimp only | with_reducible apply Quiet.trans ?_ (countPayload_quiet _ _)
    | with_reducible apply Quiet.trans ?_ (countPackets_quiet _ _ _) | with_reducible apply Quiet.fold
    | (apply Quiet.upd; (case e1 => dsimp only; with_reducible exact Is.rfl); iterate 10 dsimp only) | split | intro _)

theorem transmit_quiet (i : LinkId) (s : State) : Quiet s (transmit i s) := by
  unfold transmit
  repeat' (first
    | with_reducible exact Quiet.refl _ | dsimp only | with_reducible apply Quiet.trans ?_ (takeMsgs_quiet _ _ _ _)
    | with_reducible apply Quiet.trans ?_ (sendStreams_quiet _ _ _) | with_reducible apply Quiet.trans ?_ (countMsgs_quiet _ _ _) | split)

theorem linkQueue_quiet (i : LinkId) (m : OutMsg) (s : State) : Quiet s (linkQueue i m s) := by
  unfold linkQueue
  repeat' (first
    | with_reducible exact Quiet.refl _ | dsimp only | with_reducible apply Quiet.trans ?_ (setLink_quiet _ _ _))

theorem linkPost_quiet (i : LinkId) (m : OutMsg) (s : State) : Quiet s (linkPost i m s) := by
  unfold linkPost
  repeat' (first
    | with_reducible exact Quiet.refl _ | with_reducible apply Quiet.trans ?_ (transmit_quiet _ _)
    | with_reducible apply Quiet.trans ?_ (linkQueue_quiet _ _ _))

theorem clRequest_quiet (ch : Nat) (op : Nat) (addr : Nat) (tag : Nat) (data : List Byte) (s : State) : Quiet s
    (clRequest ch op addr tag data s) := by
  unfold clRequest
  repeat' (first
    | with_reducible exact Quiet.refl _ | with_reducible apply Quiet.trans ?_ (linkPost_quiet _ _ _))

theorem clResponse_quiet (ch : Nat) (op : Nat) (status : Nat) (addr : Nat) (tag : Nat) (data : List Byte) (s : State) : Quiet s
    (clResponse ch op status addr tag data s) := by
  unfold clResponse
  repeat' (first
    | with_reducible exact Quiet.refl _ | with_reducible apply Quiet.trans ?_ (linkPost_quiet _ _ _))

theorem mailRequest_quiet (op : Nat) (data : List Byte) (s : State) : Quiet s (mailRequest op data s) := by
  unfold mailRequest
  repeat' (first
    | with_reducible exact Quiet.refl _ | dsimp only | with_reducible apply Quiet.trans ?_ (clRequest_quiet _ _ _ _ _ _)
    | (apply Quiet.upd; (case e1 => dsimp only; with_reducible exact Is.rfl); iterate 10 dsimp only))

theorem sendAlert_quiet (s : State) : Quiet s (sendAlert s) := by
  unfold sendAlert
  repeat' (first
    | with_reducible exact Quiet.refl _ | dsimp only | with_reducible apply Quiet.trans ?_ (mailRequest_quiet _ _ _)
    | (apply Quiet.upd; (case e1 => dsimp only; with_reducible exact Is.rfl); iterate 10 dsimp only) | split)

theorem alertGained_quiet (s : State) : Quiet s (alertGained s) := by
  unfold alertGained
  repeat' (first
    | with_reducible exact Quiet.refl _ | dsimp only | with_reducible apply Quiet.trans ?_ (sendAlert_quiet _)
    | (apply Quiet.upd; (case e1 => dsimp only; with_reducible exact Is.rfl); iterate 10 dsimp only) | split)

theorem raiseAlert_quiet (bits : W32) (s : State) : Quiet s (raiseAlert bits s) := by
  unfold raiseAlert
  repeat' (first
    | with_reducible exact Quiet.refl _ | dsimp only | with_reducible apply Quiet.trans ?_ (alertGained_quiet _)
    | (apply Quiet.upd; (case e1 => dsimp only; with_reducible exact Is.rfl); iterate 10 dsimp only) | split)

theorem eccClear_quiet (s : State) (loc : Nat) : Quiet s (eccClear s loc) := by
  unfold eccClear
  repeat' (first
    | with_reducible exact Quiet.refl _ | dsimp only
    | (apply Quiet.upd; (case e1 => dsimp only; with_reducible exact Is.rfl); iterate 10 dsimp only))

theorem countCorrected_quiet (n : Nat) (loc : Nat) (s : State) : Quiet s (countCorrected n loc s) := by
  unfold countCorrected
  repeat' (first
    | with_reducible exact Quiet.refl _ | dsimp only | with_reducible apply Quiet.trans ?_ (eccClear_quiet _ _)
    | (apply Quiet.upd; (case e1 => dsimp only; with_reducible exact Is.rfl); iterate 10 dsimp only))

theorem countUncorrectable_quiet (n : Nat) (addr : Nat) (source : Nat) (s : State) : Quiet s (countUncorrectable n addr source s) := by
  unfold countUncorrectable
  repeat' (first
    | with_reducible exact Quiet.refl _ | dsimp only | with_reducible apply Quiet.trans ?_ (raiseAlert_quiet _ _)
    | (apply Quiet.upd; (case e1 => dsimp only; with_reducible exact Is.rfl); iterate 10 dsimp only))

theorem hold_mquiet {α : Type} : MQuiet (hold : M α) := MQuiet.throw _

theorem holdIf_mquiet (c : Bool) : MQuiet (holdIf c) := by
  unfold holdIf
  repeat' (first
    | with_reducible exact MQuiet.pure _ | with_reducible exact hold_mquiet  | split)

theorem noteRead_mquiet (a : Nat) (len : Nat) : MQuiet (noteRead a len) := by
  unfold noteRead
  repeat' (first
    | with_reducible apply MQuiet.modify | with_reducible exact Quiet.refl _ | intro _ | split)

theorem noteWrite_mquiet (a : Nat) (len : Nat) : MQuiet (noteWrite a len) := by
  unfold noteWrite
  repeat' (first
    | with_reducible apply MQuiet.modify | with_reducible exact Quiet.refl _ | intro _ | split)

theorem inTurn_mquiet {α : Type} (k : Nat) (m : M α) (hm : MQuiet m) : MQuiet (inTurn k m) := by
  unfold inTurn
  repeat' (first
    | with_reducible assumption | with_reducible exact MQuiet.pure _ | with_reducible exact MQuiet.get | with_reducible apply MQuiet.bind
    | with_reducible apply MQuiet.modify | with_reducible exact Quiet.refl _ | dsimp only | intro _)

theorem asData_mquiet {α : Type} (m : M α) (hm : MQuiet m) : MQuiet (asData m) := by
  unfold asData
  repeat' (first
    | with_reducible assumption | with_reducible exact MQuiet.pure _ | with_reducible apply MQuiet.bind
    | with_reducible apply MQuiet.modify | with_reducible exact Quiet.refl _ | dsimp only | intro _)

theorem setInfo_mquiet (l : List Byte) : MQuiet (setInfo l) := by
  unfold setInfo
  repeat' (first
    | with_reducible apply MQuiet.modify | with_reducible exact Quiet.refl _ | dsimp only | intro _)

theorem orExc_mquiet (e : W16) : MQuiet (orExc e) := by
  unfold orExc
  repeat' (first
    | with_reducible apply MQuiet.modify | with_reducible exact Quiet.refl _ | dsimp only | intro _)

theorem setAwait_mquiet (a : Await) : MQuiet (setAwait a) := by
  unfold setAwait
  repeat' (first
    | with_reducible apply MQuiet.modify | with_reducible exact Quiet.refl _ | dsimp only | intro _)

theorem useUnits_mquiet (us : List UnitId) : MQuiet (useUnits us) := by
  unfold useUnits
  repeat' (first
    | with_reducible apply MQuiet.modify | with_reducible exact Quiet.refl _ | dsimp only
    | with_reducible apply Quiet.trans ?_ (countWork_quiet _ _ _) | with_reducible apply Quiet.fold | intro _ | split)

theorem touch_mquiet (a : Nat) : MQuiet (touch a) := by
  unfold touch
  repeat' (first
    | with_reducible exact MQuiet.pure _ | with_reducible exact MQuiet.get | with_reducible exact MQuiet.failAt _ _
    | with_reducible exact hold_mquiet  | with_reducible apply MQuiet.bind | with_reducible apply MQuiet.modS
    | with_reducible exact Quiet.refl _ | dsimp only | with_reducible apply Quiet.trans ?_ (countCorrected_quiet _ _ _)
    | with_reducible apply Quiet.trans ?_ (countUncorrectable_quiet _ _ _ _) | intro _ | split)

theorem needLines_mquiet (a : Nat) (len : Nat) : MQuiet (needLines a len) := by
  unfold needLines
  repeat' (first
    | with_reducible exact MQuiet.pure _ | with_reducible exact MQuiet.get | with_reducible exact hold_mquiet 
    | with_reducible apply MQuiet.bind | with_reducible apply MQuiet.modify | with_reducible exact Quiet.refl _ | dsimp only | intro _
    | split)

theorem touchRange_mquiet (a : Nat) (len : Nat) : MQuiet (touchRange a len) := by
  unfold touchRange
  repeat' (first
    | with_reducible exact MQuiet.pure _ | with_reducible exact MQuiet.get | with_reducible exact needLines_mquiet _ _
    | with_reducible exact touch_mquiet _ | with_reducible apply MQuiet.bind | with_reducible apply MQuiet.forM | dsimp only | intro _
    | split)

theorem Work.keep_quiet (a : Nat) (bs : List Byte) (w : Work) : Quiet w.s (w.keep a bs).s := Quiet.refl w.s

theorem fetchBytes_mquiet (a : Nat) (len : Nat) : MQuiet (fetchBytes a len) := by
  unfold fetchBytes
  repeat' (first
    | with_reducible exact MQuiet.pure _ | with_reducible exact MQuiet.get | with_reducible exact touchRange_mquiet _ _
    | with_reducible apply MQuiet.bind | intro _)

theorem readSerial_mquiet (a : Nat) (len : Nat) : MQuiet (readSerial a len) := by
  unfold readSerial
  repeat' (first
    | with_reducible exact fetchBytes_mquiet _ _ | with_reducible apply MQuiet.bind | with_reducible apply MQuiet.modify
    | with_reducible exact Quiet.refl _ | dsimp only | intro _)

theorem readBytes_mquiet (a : Nat) (len : Nat) : MQuiet (readBytes a len) := by
  unfold readBytes
  repeat' (first
    | with_reducible exact noteRead_mquiet _ _ | with_reducible exact fetchBytes_mquiet _ _ | with_reducible apply MQuiet.bind | intro _)

theorem readU_mquiet (n : Nat) (a : Nat) : MQuiet (readU n a) := by
  unfold readU
  repeat' (first
    | with_reducible exact MQuiet.pure _ | with_reducible exact readBytes_mquiet _ _ | with_reducible apply MQuiet.bind | intro _)

theorem readU8_mquiet (a : Nat) : MQuiet (readU8 a) := by
  unfold readU8
  repeat' (first
    | with_reducible exact readU_mquiet _ _)

theorem readU32_mquiet (a : Nat) : MQuiet (readU32 a) := by
  unfold readU32
  repeat' (first
    | with_reducible exact readU_mquiet _ _)

theorem readU64_mquiet (a : Nat) : MQuiet (readU64 a) := by
  unfold readU64
  repeat' (first
    | with_reducible exact MQuiet.pure _ | with_reducible exact readU_mquiet _ _ | with_reducible apply MQuiet.bind | intro _)

theorem writeCodeword_mquiet (source : Nat) (base : Nat) (bs : List Byte) (lo : Nat) (hi : Nat) : MQuiet
    (writeCodeword source base bs lo hi) := by
  unfold writeCodeword
  repeat' (first
    | with_reducible exact MQuiet.pure _ | with_reducible exact MQuiet.getS | with_reducible exact MQuiet.failAt _ _
    | with_reducible exact holdIf_mquiet _ | with_reducible apply MQuiet.bind | with_reducible apply MQuiet.modS
    | with_reducible exact Quiet.refl _ | dsimp only | with_reducible apply Quiet.trans ?_ (eccClear_quiet _ _)
    | with_reducible apply Quiet.trans ?_ (poke_quiet _ _ _) | with_reducible apply Quiet.trans ?_ (countUncorrectable_quiet _ _ _ _)
    | with_reducible apply Quiet.trans ?_ (countCorrected_quiet _ _ _) | intro _ | split)

theorem postWr_quiet (owner : Option (Fin 64 × W32)) (a : Nat) (data : List Byte) (s : State) : Quiet s (postWr owner a data s) := by
  unfold postWr
  repeat' (first
    | with_reducible exact Quiet.refl _ | dsimp only | with_reducible apply Quiet.trans ?_ (linkQueue_quiet _ _ _)
    | (apply Quiet.upd; (case e1 => dsimp only; with_reducible exact Is.rfl); iterate 10 dsimp only))

theorem outdate_quiet (a : Nat) (len : Nat) (s : State) : Quiet s (outdate a len s) := by
  unfold outdate
  repeat' (first
    | with_reducible exact Quiet.refl _ | dsimp only
    | (apply Quiet.upd; (case e1 => dsimp only; with_reducible exact Is.rfl); iterate 10 dsimp only))

theorem sendWrLine_quiet (owner : Option (Fin 64 × W32)) (lo : Nat) (hi : Nat) (s0 : State) : Quiet s0 (sendWrLine owner lo hi s0) := by
  unfold sendWrLine
  repeat' (first
    | with_reducible exact Quiet.refl _ | dsimp only | with_reducible apply Quiet.trans ?_ (outdate_quiet _ _ _)
    | with_reducible apply Quiet.trans ?_ (postWr_quiet _ _ _ _)
    | (apply Quiet.upd; (case e1 => dsimp only; with_reducible exact Is.rfl); iterate 10 dsimp only) | split)

theorem nextWr_quiet (s : State) : Quiet s (nextWr s) := by
  unfold nextWr
  repeat' (first
    | with_reducible exact Quiet.refl _ | dsimp only | with_reducible apply Quiet.trans ?_ (transmit_quiet _ _)
    | with_reducible apply Quiet.trans ?_ (postWr_quiet _ _ _ _)
    | (apply Quiet.upd; (case e1 => dsimp only; with_reducible exact Is.rfl); iterate 10 dsimp only) | split)

theorem readLine_quiet (reader : Reader) (line : Nat) (tag : BitVec 12) (s : State) : Quiet s (readLine reader line tag s) := by
  unfold readLine
  repeat' (first
    | with_reducible exact Quiet.refl _ | dsimp only | with_reducible apply Quiet.trans ?_ (linkQueue_quiet _ _ _)
    | (apply Quiet.upd; (case e1 => dsimp only; with_reducible exact Is.rfl); iterate 10 dsimp only))

theorem askLine_quiet (reader : Reader) (s : State) (line : Nat) : Quiet s (askLine reader s line) := by
  unfold askLine
  repeat' (first
    | with_reducible exact Quiet.refl _ | with_reducible apply Quiet.trans ?_ (readLine_quiet _ _ _ _)
    | (apply Quiet.upd; (case e1 => dsimp only; with_reducible exact Is.rfl); iterate 10 dsimp only) | split)

theorem askLines_quiet (reader : Reader) (l : List Nat) (s : State) : Quiet s (askLines reader l s) := by
  unfold askLines
  repeat' (first
    | with_reducible exact Quiet.refl _ | with_reducible apply Quiet.trans ?_ (transmit_quiet _ _)
    | with_reducible apply Quiet.trans ?_ (askLine_quiet _ _ _) | with_reducible apply Quiet.fold | intro _)

theorem queueWr_quiet (owner : Option (Fin 64 × W32)) (a : Nat) (bs : List Byte) (s : State) : Quiet s (queueWr owner a bs s) := by
  unfold queueWr
  repeat' (first
    | with_reducible exact Quiet.refl _ | dsimp only | with_reducible apply Quiet.trans ?_ (sendWrLine_quiet _ _ _ _)
    | with_reducible apply Quiet.fold | split | intro _)

theorem sendWr_quiet (owner : Option (Fin 64 × W32)) (a : Nat) (bs : List Byte) (s : State) : Quiet s (sendWr owner a bs s) := by
  unfold sendWr
  repeat' (first
    | with_reducible exact Quiet.refl _ | with_reducible apply Quiet.trans ?_ (transmit_quiet _ _)
    | with_reducible apply Quiet.trans ?_ (queueWr_quiet _ _ _ _))

theorem sendQueued_quiet (old : State) (s : State) : Quiet s (sendQueued old s) := by
  unfold sendQueued
  repeat' (first
    | with_reducible exact Quiet.refl _ | with_reducible apply Quiet.trans ?_ (transmit_quiet _ _) | split)

theorem storeFrom_mquiet (source : Nat) (a : Nat) (bs : List Byte) : MQuiet (storeFrom source a bs) := by
  unfold storeFrom
  repeat' (first
    | with_reducible exact MQuiet.pure _ | with_reducible exact MQuiet.failAt _ _ | with_reducible exact writeCodeword_mquiet _ _ _ _ _
    | with_reducible apply MQuiet.bind | with_reducible apply MQuiet.mapM | dsimp only | intro _ | split)

theorem probeEdges_mquiet (a : Nat) (len : Nat) : MQuiet (probeEdges a len) := by
  unfold probeEdges
  repeat' (first
    | with_reducible exact MQuiet.pure _ | with_reducible exact MQuiet.getS | with_reducible exact storeFrom_mquiet _ _ _
    | with_reducible apply MQuiet.bind | dsimp only | intro _ | split)

theorem markStack_quiet (n : Nat) (s : State) : Quiet s (markStack n s) := by
  unfold markStack
  repeat' (first
    | with_reducible exact Quiet.refl _ | with_reducible apply Quiet.trans ?_ (countWork_quiet _ _ _) | split)

theorem markLine_quiet (a : Nat) (s : State) : Quiet s (markLine a s) := by
  unfold markLine
  repeat' (first
    | with_reducible exact Quiet.refl _ | with_reducible apply Quiet.trans ?_ (markStack_quiet _ _) | split)

theorem markRange_quiet (a : Nat) (len : Nat) (s : State) : Quiet s (markRange a len s) := by
  unfold markRange
  repeat' (first
    | with_reducible exact Quiet.refl _ | with_reducible apply Quiet.trans ?_ (markLine_quiet _ _) | with_reducible apply Quiet.fold
    | intro _)

theorem invalidateLines_quiet (a : Nat) (len : Nat) (s : State) : Quiet s (invalidateLines a len s) := by
  unfold invalidateLines
  repeat' (first
    | with_reducible exact Quiet.refl _ | dsimp only
    | (apply Quiet.upd; (case e1 => dsimp only; with_reducible exact Is.rfl); iterate 10 dsimp only))

theorem storeBytes_mquiet (a : Nat) (bs : List Byte) : MQuiet (storeBytes a bs) := by
  unfold storeBytes
  repeat' (first
    | with_reducible exact MQuiet.get | with_reducible exact storeFrom_mquiet _ _ _ | with_reducible apply MQuiet.bind
    | with_reducible apply MQuiet.modS | with_reducible exact Quiet.refl _ | dsimp only
    | with_reducible apply Quiet.trans ?_ (markRange_quiet _ _ _) | with_reducible apply Quiet.trans ?_ (invalidateLines_quiet _ _ _)
    | intro _ | split)

theorem refuseProtected_mquiet (x : Nat) : MQuiet (refuseProtected x) := by
  unfold refuseProtected
  repeat' (first
    | with_reducible exact MQuiet.failAt _ _ | with_reducible apply MQuiet.bind | with_reducible apply MQuiet.modS
    | with_reducible exact Quiet.refl _ | dsimp only
    | (apply Quiet.upd; (case e1 => dsimp only; with_reducible exact Is.rfl); iterate 10 dsimp only) | intro _)

theorem writeSerial_mquiet (a : Nat) (bs : List Byte) : MQuiet (writeSerial a bs) := by
  unfold writeSerial
  repeat' (first
    | with_reducible exact MQuiet.pure _ | with_reducible exact MQuiet.get | with_reducible exact refuseProtected_mquiet _
    | with_reducible exact storeBytes_mquiet _ _ | with_reducible apply MQuiet.bind | with_reducible apply MQuiet.modS
    | with_reducible apply MQuiet.modify | with_reducible exact Quiet.refl _ | with_reducible apply Quiet.trans ?_ (Work.keep_quiet _ _ _)
    | with_reducible apply Quiet.trans ?_ (poke_quiet _ _ _) | with_reducible apply Quiet.trans ?_ (queueWr_quiet _ _ _ _) | intro _
    | split)

theorem writeBeside_mquiet (a : Nat) (bs : List Byte) : MQuiet (writeBeside a bs) := by
  unfold writeBeside
  repeat' (first
    | with_reducible exact MQuiet.getS | with_reducible exact writeSerial_mquiet _ _ | with_reducible apply MQuiet.bind
    | with_reducible apply MQuiet.modS | with_reducible apply MQuiet.modify | with_reducible exact Quiet.refl _ | dsimp only
    | (apply Quiet.upd; (case e1 => dsimp only; with_reducible exact Is.rfl); iterate 10 dsimp only) | intro _ | split)

theorem writeBytes_mquiet (a : Nat) (bs : List Byte) : MQuiet (writeBytes a bs) := by
  unfold writeBytes
  repeat' (first
    | with_reducible exact noteWrite_mquiet _ _ | with_reducible exact writeSerial_mquiet _ _ | with_reducible apply MQuiet.bind | intro _)

theorem writeU_mquiet (n : Nat) (a : Nat) (v : Nat) : MQuiet (writeU n a v) := by
  unfold writeU
  repeat' (first
    | with_reducible exact writeBytes_mquiet _ _)

theorem noteRequests_quiet (l : List Nat) (s : State) : Quiet s (noteRequests l s) := by
  unfold noteRequests
  repeat' (first
    | with_reducible exact Quiet.refl _ | dsimp only
    | (apply Quiet.upd; (case e1 => dsimp only; with_reducible exact Is.rfl); iterate 10 dsimp only) | split)

theorem readCodewords_quiet (a : Nat) (len : Nat) (source : Nat) (s : State) : Quiet s (readCodewords a len source s).2 := by
  unfold readCodewords
  repeat' (first
    | with_reducible exact Quiet.refl _ | dsimp only | with_reducible apply Quiet.trans ?_ (countCorrected_quiet _ _ _)
    | with_reducible apply Quiet.trans ?_ (countUncorrectable_quiet _ _ _ _) | with_reducible apply Quiet.fold2 | split | intro _)

theorem markKey_quiet (l : Nat) (s : State) : Quiet s (markKey l s) := by
  unfold markKey
  repeat' (first
    | with_reducible exact Quiet.refl _ | with_reducible apply Quiet.trans ?_ (markStack_quiet _ _) | split)

theorem fillLine_quiet (l : Nat) (s : State) : Quiet s (fillLine l s) := by
  unfold fillLine
  repeat' (first
    | with_reducible exact Quiet.refl _ | dsimp only
    | (apply Quiet.upd; (case e1 => dsimp only; with_reducible exact Is.rfl); iterate 10 dsimp only))

theorem useLine_quiet (l : Nat) (s : State) : Quiet s (useLine l s) := by
  unfold useLine
  repeat' (first
    | with_reducible exact Quiet.refl _ | dsimp only | with_reducible apply Quiet.trans ?_ (fillLine_quiet _ _)
    | with_reducible apply Quiet.trans ?_ (markKey_quiet _ _)
    | (apply Quiet.upd; (case e1 => dsimp only; with_reducible exact Is.rfl); iterate 10 dsimp only) | split)

theorem useLines_quiet (a : Nat) (len : Nat) (s : State) : Quiet s (useLines a len s) := by
  unfold useLines
  repeat' (first
    | with_reducible exact Quiet.refl _ | with_reducible apply Quiet.trans ?_ (useLine_quiet _ _) | with_reducible apply Quiet.fold
    | intro _)

theorem readCached_quiet (a : Nat) (len : Nat) (source : Nat) (s : State) : Quiet s (readCached a len source s).2 := by
  unfold readCached
  repeat' (first
    | with_reducible exact Quiet.refl _ | with_reducible apply Quiet.trans ?_ (readCodewords_quiet _ _ _ _)
    | with_reducible apply Quiet.trans ?_ (useLines_quiet _ _ _) | with_reducible apply Quiet.trans ?_ (noteRequests_quiet _ _))

theorem readByHall_quiet (a : Nat) (len : Nat) (s : State) : Quiet s (readByHall a len s).2 := by
  unfold readByHall
  repeat' (first
    | with_reducible exact Quiet.refl _ | with_reducible apply Quiet.trans ?_ (readCached_quiet _ _ _ _)
    | (apply Quiet.upd; (case e1 => dsimp only; with_reducible exact Is.rfl); iterate 10 dsimp only))

theorem cacheReads_quiet (got : List GotLine) (reads : List MemAccess) (s : State) : Quiet s (cacheReads got reads s) := by
  unfold cacheReads
  repeat' (first
    | with_reducible exact Quiet.refl _ | with_reducible apply Quiet.trans ?_ (useLine_quiet _ _) | with_reducible apply Quiet.fold
    | intro _)

theorem needMapped_mquiet (a : Nat) (len : Nat) : MQuiet (needMapped a len) := by
  unfold needMapped
  repeat' (first
    | with_reducible exact MQuiet.pure _ | with_reducible exact MQuiet.getS | with_reducible exact MQuiet.failAt _ _
    | with_reducible apply MQuiet.bind | intro _ | split)

theorem needInStacks_mquiet (a : Nat) (len : Nat) : MQuiet (needInStacks a len) := by
  unfold needInStacks
  repeat' (first
    | with_reducible exact MQuiet.needDesc _ | with_reducible exact needMapped_mquiet _ _ | with_reducible apply MQuiet.bind | intro _)

theorem needBacked_mquiet (a : Nat) (len : Nat) : MQuiet (needBacked a len) := by
  unfold needBacked
  repeat' (first
    | with_reducible exact MQuiet.pure _ | with_reducible exact MQuiet.get | with_reducible exact MQuiet.failAt _ _
    | with_reducible apply MQuiet.bind | intro _ | split)

theorem needWritable_mquiet (a : Nat) (len : Nat) : MQuiet (needWritable a len) := by
  unfold needWritable
  repeat' (first
    | with_reducible exact MQuiet.pure _ | with_reducible exact MQuiet.get | with_reducible exact refuseProtected_mquiet _
    | with_reducible apply MQuiet.bind | intro _ | split)

theorem takeFree_quiet (n : Nat) (s : State) : Quiet s (takeFree n s).2 := by
  unfold takeFree
  repeat' (first
    | with_reducible exact Quiet.refl _ | dsimp only
    | (apply Quiet.upd; (case e1 => dsimp only; with_reducible exact Is.rfl); iterate 10 dsimp only))

theorem scramble_quiet (a : Nat) (len : Nat) (s : State) : Quiet s (scramble a len s) := by
  unfold scramble
  repeat' (first
    | with_reducible exact Quiet.refl _ | dsimp only | with_reducible apply Quiet.trans ?_ (takeFree_quiet _ _)
    | with_reducible apply Quiet.trans ?_ (poke_quiet _ _ _))

theorem scrambleAll_quiet (l : List (Nat × Nat)) (s : State) : Quiet s (scrambleAll l s) := by
  unfold scrambleAll
  repeat' (first
    | with_reducible exact Quiet.refl _ | with_reducible apply Quiet.trans ?_ (scramble_quiet _ _ _) | with_reducible apply Quiet.fold
    | intro _)

theorem freeBlock_mquiet (n : Nat) : MQuiet (freeBlock n) := MQuiet.getMod (fun s => takeFree_quiet n s) fun _ => MQuiet.pure _

theorem writeFree_mquiet (a : Nat) (len : Nat) : MQuiet (writeFree a len) := by
  unfold writeFree
  repeat' (first
    | with_reducible exact freeBlock_mquiet _ | with_reducible exact writeBytes_mquiet _ _ | with_reducible apply MQuiet.bind | intro _)

theorem restoreRanges_quiet (l : List (Nat × List Byte)) (s : State) : Quiet s (restoreRanges l s) := by
  unfold restoreRanges
  repeat' (first
    | with_reducible exact Quiet.refl _ | with_reducible apply Quiet.trans ?_ (poke_quiet _ _ _) | with_reducible apply Quiet.fold
    | intro _)

theorem sparing_quiet (l : List (Nat × Nat)) (f : State → State) (h : ∀ s, Quiet s (f s)) (s : State) : Quiet s (sparing l f s) :=
  (h s).trans (restoreRanges_quiet _ _)

theorem spoil_mquiet (f : State → State) (h : ∀ s, Quiet s (f s)) : MQuiet (spoil f) :=
  MQuiet.modify fun w => sparing_quiet _ f h w.s

theorem orScramble_mquiet {α : Type} (outs : List (Nat × Nat)) (m : M α) (hm : MQuiet m) : MQuiet (orScramble outs m) := by
  unfold orScramble
  repeat' (first
    | with_reducible assumption | with_reducible exact MQuiet.throw _ | with_reducible refine spoil_mquiet _ ?_
    | with_reducible apply MQuiet.bind | with_reducible apply MQuiet.catches | with_reducible exact Quiet.refl _ | dsimp only
    | with_reducible apply Quiet.trans ?_ (scrambleAll_quiet _ _) | intro _ | split)

theorem settleLate_quiet {α : Type} {s : State} {r : Except Fail α × Work} (h : Quiet s r.2.s) : Quiet s (settleLate r).2.s := by
  unfold settleLate
  split
  · exact h.trans (Quiet.foldl (fun s (a : MemAccess) => scramble_quiet a.lo a.len s) _ _)
  · exact h

theorem settleLate_ok {α : Type} {r : Except Fail α × Work} {a : α} (h : (settleLate r).1 = .ok a) : r.1 = .ok a := by
  unfold settleLate at h
  split at h
  · cases h
  · exact h

theorem runWorkAt_quiet {α : Type} (order : Nat) (lines : List GotLine) (body : M α) (h : MQuiet body) (s : State) :
    Quiet s (runWorkAt order lines body s).2.s :=
  (settleLate_quiet (h.run (Work.start order lines s))).trans (sendQueued_quiet s _)

theorem runWork_quiet {α : Type} (body : M α) (h : MQuiet body) (s : State) : Quiet s (runWork body s).2.s :=
  runWorkAt_quiet _ _ body h s

theorem orNone_mquiet {α : Type} (m : M (List α)) (hm : MQuiet m) : MQuiet (orNone m) := by
  unfold orNone
  repeat' (first
    | with_reducible assumption | with_reducible exact MQuiet.pure _ | with_reducible exact MQuiet.throw _
    | with_reducible apply MQuiet.catches | intro _ | split)

theorem orUnreadBy_mquiet {α : Type} (how : M (State → State)) (m : M α) (hs : MSpoils how) (h : MQuiet m) :
    MQuiet (orUnreadBy how m) := by
  refine h.catches fun e => ?_
  dsimp only
  split
  · refine (spoil_mquiet _ fun s => ?_).bind fun _ => MQuiet.throw _
    split
    · rename_i f hf
      exact hs.of _ f hf s
    · exact Quiet.refl s
  · exact MQuiet.throw _

theorem orUnread_mquiet {α : Type} (outs : M (List (Nat × Nat))) (m : M α) (h : MQuiet m) : MQuiet (orUnread outs m) :=
  orUnreadBy_mquiet _ m (MSpoils.bind fun l => MSpoils.pure fun s => scrambleAll_quiet l s) h

theorem attempt_mquiet {α : Type} (m : M α) (hm : MQuiet m) : MQuiet (attempt m) := by
  unfold attempt
  repeat' (first
    | with_reducible assumption | with_reducible exact MQuiet.pure _ | with_reducible exact MQuiet.throw _
    | with_reducible apply MQuiet.bind | with_reducible apply MQuiet.catches | intro _ | split)

theorem soften_mquiet {α : Type} (m : M α) (hm : MQuiet m) : MQuiet (soften m) := by
  unfold soften
  repeat' (first
    | with_reducible assumption | with_reducible exact MQuiet.pure _ | with_reducible exact MQuiet.throw _
    | with_reducible apply MQuiet.bind | with_reducible apply MQuiet.catches | intro _ | split)

theorem hardened_mquiet {α : Type} : ∀ x : Except Nat α, MQuiet (hardened x)
  | .ok _ => MQuiet.pure _
  | .error _ => MQuiet.failAt _ _

theorem thenAlways_mquiet {α : Type} (m : M α) (after : M Unit) (hm : MQuiet m) (hafter : MQuiet after) : MQuiet (thenAlways m after) := by
  unfold thenAlways
  repeat' (first
    | with_reducible assumption | with_reducible exact MQuiet.pure _ | with_reducible exact MQuiet.throw _
    | with_reducible apply MQuiet.bind | with_reducible apply MQuiet.catches | intro _)

theorem holding_mquiet (l : List (Nat × List Byte)) (m : M Unit) (hm : MQuiet m) : MQuiet (holding l m) := by
  unfold holding
  repeat' (first
    | with_reducible assumption | with_reducible exact MQuiet.pure _ | with_reducible exact MQuiet.get
    | with_reducible refine thenAlways_mquiet _ _ ?_ ?_ | with_reducible apply MQuiet.bind | with_reducible apply MQuiet.modify
    | with_reducible exact Quiet.refl _ | dsimp only | intro _)

theorem State.withDefaults_quiet (s : State) (x : Defaults) : Quiet s (State.withDefaults s x) := by
  unfold State.withDefaults
  repeat' (first
    | with_reducible exact Quiet.refl _ | dsimp only
    | (apply Quiet.upd; (case e1 => dsimp only; with_reducible exact Is.rfl); iterate 10 dsimp only))

theorem underDefaults_mquiet {α : Type} (x : Defaults) (m : M α) (h : MQuiet m) : MQuiet (underDefaults x m) := by
  refine MQuiet.getS.bind fun s => (MQuiet.modS fun _ => ?_).bind fun _ => thenAlways_mquiet m _ h (MQuiet.modS fun _ => ?_)
  · exact ⟨⟨rfl, rfl, rfl, rfl, rfl, rfl, rfl, id, fun _ h => h⟩, rfl, rfl, rfl, rfl, rfl⟩
  · exact ⟨⟨rfl, rfl, rfl, rfl, rfl, rfl, rfl, id, fun _ h => h⟩, rfl, rfl, rfl, rfl, rfl⟩

/-! ### Operands -/

theorem getTRec_mquiet (a : Nat) : MQuiet (getTRec a) := by
  unfold getTRec
  repeat' (first
    | with_reducible exact MQuiet.pure _ | with_reducible exact MQuiet.needDesc _ | with_reducible exact MQuiet.fail _
    | with_reducible exact needMapped_mquiet _ _ | with_reducible exact readU64_mquiet _ | with_reducible apply MQuiet.bind | dsimp only
    | intro _ | split)

theorem readRanges_mquiet (l : List (Nat × Nat)) : MQuiet (readRanges l) := by
  unfold readRanges
  repeat' (first
    | with_reducible exact noteRead_mquiet _ _ | with_reducible exact touchRange_mquiet _ _ | with_reducible apply MQuiet.bind
    | with_reducible apply MQuiet.forM | intro _)

theorem openRec_mquiet (t : TRec) (R : Nat) (C : Nat) : MQuiet (openRec t R C) := by
  unfold openRec
  repeat' (first
    | with_reducible exact MQuiet.pure _ | with_reducible exact MQuiet.get | with_reducible exact readRanges_mquiet _
    | with_reducible apply MQuiet.bind | intro _)

theorem codedW_mquiet (a : Nat) : MQuiet (codedW a) := by
  unfold codedW
  repeat' (first
    | with_reducible exact MQuiet.pure _ | with_reducible exact MQuiet.needDesc _ | with_reducible exact readU8_mquiet _
    | with_reducible apply MQuiet.bind | dsimp only | intro _)

theorem codedOffset_mquiet (data : Nat) : ∀ k off : Nat, MQuiet (codedOffset data k off)
  | 0, _ => MQuiet.pure _
  | k + 1, _ => (codedW_mquiet _).bind fun _ => codedOffset_mquiet data k _

theorem checkCoded_mquiet (t : TRec) : MQuiet (checkCoded t) := by
  unfold checkCoded
  repeat' (first
    | with_reducible exact MQuiet.pure _ | with_reducible exact MQuiet.getS | with_reducible exact MQuiet.needDesc _
    | with_reducible exact MQuiet.fail _ | with_reducible exact readU64_mquiet _ | with_reducible apply MQuiet.bind | dsimp only | intro _
    | split)

theorem codedBlock_mquiet (t : TRec) (b : Nat) : MQuiet (codedBlock t b) := by
  unfold codedBlock
  repeat' (first
    | with_reducible exact MQuiet.pure _ | with_reducible exact MQuiet.needDesc _ | with_reducible exact MQuiet.fail _
    | with_reducible exact readU64_mquiet _ | with_reducible exact readU32_mquiet _ | with_reducible exact codedOffset_mquiet _ _ _
    | with_reducible exact codedW_mquiet _ | with_reducible exact readBytes_mquiet _ _ | with_reducible apply MQuiet.bind | dsimp only
    | intro _ | split)

theorem blockOf_mquiet (t : TRec) (b : Nat) : MQuiet (blockOf t b) := by
  unfold blockOf
  repeat' (first
    | with_reducible exact MQuiet.pure _ | with_reducible exact readU8_mquiet _ | with_reducible exact codedBlock_mquiet _ _
    | with_reducible exact readBytes_mquiet _ _ | with_reducible apply MQuiet.bind | intro _ | split)

theorem openAny_mquiet (t : TRec) (R : Nat) (C : Nat) : MQuiet (openAny t R C) := by
  unfold openAny
  repeat' (first
    | with_reducible exact MQuiet.pure _ | with_reducible exact checkCoded_mquiet _ | with_reducible exact blockOf_mquiet _ _
    | with_reducible exact openRec_mquiet _ _ _ | with_reducible apply MQuiet.bind | with_reducible apply MQuiet.mapM
    | with_reducible apply MQuiet.discard | intro _ | split)

theorem getPairHead_mquiet (a : Nat) : MQuiet (getPairHead a) := by
  unfold getPairHead
  repeat' (first
    | with_reducible exact MQuiet.pure _ | with_reducible exact MQuiet.needDesc _ | with_reducible exact needInStacks_mquiet _ _
    | with_reducible exact readU64_mquiet _ | with_reducible exact readSerial_mquiet _ _ | with_reducible apply MQuiet.bind | dsimp only
    | intro _)

theorem promotePair_mquiet (h : PairHead) (r0 : TRec) (r1 : TRec) : MQuiet (promotePair h r0 r1) := by
  unfold promotePair
  repeat' (first
    | with_reducible exact MQuiet.pure _ | with_reducible exact MQuiet.getS | with_reducible exact writeBeside_mquiet _ _
    | with_reducible apply MQuiet.bind | intro _ | split)

theorem getPair_mquiet (a : Nat) : MQuiet (getPair a) := by
  unfold getPair
  repeat' (first
    | with_reducible exact MQuiet.needDesc _ | with_reducible exact getPairHead_mquiet _ | with_reducible exact getTRec_mquiet _
    | with_reducible exact promotePair_mquiet _ _ _ | with_reducible apply MQuiet.bind | intro _)

theorem softPair_mquiet (a : Nat) : MQuiet (softPair a) := by
  unfold softPair
  repeat' (first
    | with_reducible exact MQuiet.pure _ | with_reducible exact MQuiet.needDesc _ | with_reducible refine soften_mquiet _ ?_
    | with_reducible exact getPairHead_mquiet _ | with_reducible exact getTRec_mquiet _ | with_reducible exact promotePair_mquiet _ _ _
    | with_reducible apply MQuiet.bind | intro _ | split)

theorem setNextTag_mquiet (p : Pair) (tag : W32) : MQuiet (setNextTag p tag) := by
  unfold setNextTag
  repeat' (first
    | with_reducible exact writeSerial_mquiet _ _)

theorem getDelta_mquiet (a : Nat) : MQuiet (getDelta a) := by
  unfold getDelta
  repeat' (first
    | with_reducible exact MQuiet.pure _ | with_reducible exact MQuiet.getS | with_reducible exact MQuiet.needDesc _
    | with_reducible exact needMapped_mquiet _ _ | with_reducible exact readU64_mquiet _ | with_reducible exact getTRec_mquiet _
    | with_reducible apply MQuiet.bind | dsimp only | intro _)

theorem deltaWalk_mquiet (f : Fmt) (k a : Nat) : MQuiet (deltaWalk f k a) := by
  induction k generalizing a with
  | zero => exact MQuiet.pure _
  | succ k ih =>
    refine (readU8_mquiet _).bind fun b => ?_
    split
    · exact ih _
    · exact MQuiet.fail _

theorem deltaGroup_mquiet (d : Delta) (g : Nat) (cur : Nat) : MQuiet (deltaGroup d g cur) := by
  unfold deltaGroup
  repeat' (first
    | with_reducible exact MQuiet.pure _ | with_reducible exact MQuiet.needDesc _ | with_reducible exact readU64_mquiet _
    | with_reducible exact readU32_mquiet _ | with_reducible exact deltaWalk_mquiet _ _ _ | with_reducible apply MQuiet.bind | intro _)

theorem deltaGroups_mquiet (d : Delta) : ∀ n g cur : Nat, MQuiet (deltaGroups d n g cur)
  | 0, _, _ => (MQuiet.needDesc _).bind fun _ => MQuiet.pure _
  | n + 1, _, _ => (deltaGroup_mquiet _ _ _).bind fun _ => (deltaGroups_mquiet d n _ _).bind fun _ => MQuiet.pure _

theorem deltaBlock_mquiet (d : Delta) (x : W64 × Nat) (b : Nat) : MQuiet (deltaBlock d x b) := by
  unfold deltaBlock
  repeat' (first
    | with_reducible exact MQuiet.pure _ | with_reducible exact MQuiet.needDesc _ | with_reducible exact blockOf_mquiet _ _
    | with_reducible exact deltaWalk_mquiet _ _ _ | with_reducible exact readU8_mquiet _ | with_reducible exact readBytes_mquiet _ _
    | with_reducible apply MQuiet.bind | dsimp only | intro _ | split)

theorem openDelta_mquiet (d : Delta) (R : Nat) (C : Nat) : MQuiet (openDelta d R C) := by
  unfold openDelta
  repeat' (first
    | with_reducible exact MQuiet.pure _ | with_reducible exact checkCoded_mquiet _ | with_reducible exact deltaGroups_mquiet _ _ _ _
    | with_reducible exact deltaBlock_mquiet _ _ _ | with_reducible apply MQuiet.bind | with_reducible apply MQuiet.mapM
    | with_reducible apply MQuiet.discard | dsimp only | intro _ | split)

theorem noteSat_mquiet (sat : Bool) : MQuiet (noteSat sat) := by
  unfold noteSat
  repeat' (first
    | with_reducible exact MQuiet.pure _ | with_reducible exact orExc_mquiet _ | split)

theorem noteValues_mquiet (m : OutMode) (l : List Num) : MQuiet (noteValues m l) := by
  unfold noteValues
  repeat' (first
    | with_reducible exact MQuiet.pure _ | with_reducible exact orExc_mquiet _ | split)

theorem writeBlock_mquiet (t : TRec) (m : OutMode) (b : Nat) (ps : List (Option (Nat × Nat))) (w : Nat → Nat → Num) : MQuiet
    (writeBlock t m b ps w) := by
  unfold writeBlock
  repeat' (first
    | with_reducible exact MQuiet.pure _ | with_reducible exact noteSat_mquiet _ | with_reducible exact noteValues_mquiet _ _
    | with_reducible exact writeBytes_mquiet _ _ | with_reducible apply MQuiet.bind | intro _)

theorem writeTensor_mquiet (t : TRec) (m : OutMode) (R : Nat) (C : Nat) (w : Nat → Nat → Num) : MQuiet (writeTensor t m R C w) := by
  unfold writeTensor
  repeat' (first
    | with_reducible exact MQuiet.pure _ | with_reducible exact writeBlock_mquiet _ _ _ _ _ | with_reducible exact noteSat_mquiet _
    | with_reducible exact noteValues_mquiet _ _ | with_reducible exact writeBytes_mquiet _ _ | with_reducible apply MQuiet.bind
    | with_reducible apply MQuiet.mapM | dsimp only | intro _ | split)

/-! ### StashMgr -/

theorem getEntry_mquiet (a : Nat) : MQuiet (getEntry a) := by
  unfold getEntry
  repeat' (first
    | with_reducible exact MQuiet.pure _ | with_reducible exact MQuiet.getS | with_reducible exact MQuiet.needDesc _
    | with_reducible exact needInStacks_mquiet _ _ | with_reducible exact readU64_mquiet _ | with_reducible exact getTRec_mquiet _
    | with_reducible apply MQuiet.bind | dsimp only | intro _)

theorem writeEntry_mquiet (e : Entry) (copy : Nat) (state : Nat) (readsDone : Nat) : MQuiet (writeEntry e copy state readsDone) := by
  unfold writeEntry
  repeat' (first
    | with_reducible exact MQuiet.getS | with_reducible exact writeSerial_mquiet _ _ | with_reducible apply MQuiet.bind | intro _)

theorem recPlanes_mquiet (t : TRec) : MQuiet (recPlanes t) := by
  unfold recPlanes
  repeat' (first
    | with_reducible exact MQuiet.pure _ | with_reducible exact readBytes_mquiet _ _ | with_reducible apply MQuiet.bind | intro _)

theorem convertedRec_mquiet (e : Entry) : MQuiet (convertedRec e) := by
  unfold convertedRec
  repeat' (first
    | with_reducible exact MQuiet.pure _ | with_reducible exact openRec_mquiet _ _ _ | with_reducible exact recPlanes_mquiet _
    | with_reducible apply MQuiet.bind | dsimp only | intro _ | split)

theorem freeCopies_quiet (p : StashCopy → Bool) (s : State) : Quiet s (freeCopies p s) := by
  unfold freeCopies
  repeat' (first
    | with_reducible exact Quiet.refl _ | dsimp only
    | (apply Quiet.upd; (case e1 => dsimp only; with_reducible exact Is.rfl); iterate 10 dsimp only))

theorem copyReads_mquiet (c : StashCopy) : MQuiet (copyReads c) := by
  unfold copyReads
  repeat' (first
    | with_reducible exact MQuiet.pure _ | with_reducible exact readSerial_mquiet _ _ | with_reducible apply MQuiet.bind | intro _)

theorem dropUnit_mquiet (u : Nat) : MQuiet (dropUnit u) := by
  unfold dropUnit
  repeat' (first
    | with_reducible exact MQuiet.getS | with_reducible exact copyReads_mquiet _ | with_reducible exact writeSerial_mquiet _ _
    | with_reducible apply MQuiet.bind | with_reducible apply MQuiet.modS | with_reducible apply MQuiet.forM
    | with_reducible exact Quiet.refl _ | dsimp only | with_reducible apply Quiet.trans ?_ (freeCopies_quiet _ _)
    | (apply Quiet.upd; (case e1 => dsimp only; with_reducible exact Is.rfl); iterate 10 dsimp only) | intro _)

theorem reclaim_mquiet (n : Nat) (l : List StashUnit) : MQuiet (reclaim n l) := by
  induction l with
  | nil => exact MQuiet.pure _
  | cons u l ih =>
    refine MQuiet.getS.bind fun s => ?_
    split
    · exact MQuiet.pure _
    · dsimp only
      split
      · exact (dropUnit_mquiet _).bind fun _ => ih
      · exact ih

theorem writeCopy_mquiet (grans : List Nat) (bs : List Byte) : MQuiet (writeCopy grans bs) := by
  unfold writeCopy
  repeat' (first
    | with_reducible exact writeBytes_mquiet _ _ | with_reducible apply MQuiet.forM | intro _)

theorem readCopy_mquiet (grans : List Nat) (n : Nat) : MQuiet (readCopy grans n) := by
  unfold readCopy
  repeat' (first
    | with_reducible exact MQuiet.pure _ | with_reducible exact readBytes_mquiet _ _ | with_reducible apply MQuiet.bind
    | with_reducible apply MQuiet.mapM | intro _)

theorem keepCopy_mquiet (e : Entry) (elem : List Byte) (scale : List Byte) : MQuiet (keepCopy e elem scale) := by
  unfold keepCopy
  repeat' (first
    | with_reducible exact MQuiet.getS | with_reducible exact writeCopy_mquiet _ _ | with_reducible exact writeEntry_mquiet _ _ _ _
    | with_reducible apply MQuiet.bind | with_reducible apply MQuiet.modS | with_reducible exact Quiet.refl _ | dsimp only
    | (apply Quiet.upd; (case e1 => dsimp only; with_reducible exact Is.rfl); iterate 10 dsimp only) | intro _)

theorem firstInner_mquiet (e : Entry) : MQuiet (firstInner e) := by
  unfold firstInner
  repeat' (first
    | with_reducible exact MQuiet.pure _ | with_reducible exact MQuiet.getS | with_reducible apply MQuiet.bind
    | with_reducible apply MQuiet.modS | with_reducible exact Quiet.refl _ | dsimp only
    | (apply Quiet.upd; (case e1 => dsimp only; with_reducible exact Is.rfl); iterate 10 dsimp only) | intro _ | split)

theorem keepMade_mquiet (e : Entry) (c : List Byte × List Byte × Bool) : MQuiet (keepMade e c) := by
  unfold keepMade
  repeat' (first
    | with_reducible exact orExc_mquiet _ | with_reducible exact keepCopy_mquiet _ _ _ | with_reducible apply MQuiet.bind | intro _)

theorem capture_mquiet (e : Entry) : MQuiet (capture e) := by
  unfold capture
  repeat' (first
    | with_reducible exact MQuiet.pure _ | with_reducible exact MQuiet.getS | with_reducible exact MQuiet.fail _
    | with_reducible exact writeEntry_mquiet _ _ _ _ | with_reducible exact openRec_mquiet _ _ _ | with_reducible exact recPlanes_mquiet _
    | with_reducible exact firstInner_mquiet _ | with_reducible exact keepMade_mquiet _ _ | with_reducible exact dropUnit_mquiet _
    | with_reducible exact reclaim_mquiet _ _ | with_reducible apply MQuiet.bind | with_reducible apply MQuiet.modS
    | with_reducible exact Quiet.refl _ | dsimp only
    | (apply Quiet.upd; (case e1 => dsimp only; with_reducible exact Is.rfl); iterate 10 dsimp only) | intro _ | split)

theorem openCopy_mquiet (e : Entry) : MQuiet (openCopy e) := by
  unfold openCopy
  repeat' (first
    | with_reducible exact MQuiet.pure _ | with_reducible exact MQuiet.getS | with_reducible exact readCopy_mquiet _ _
    | with_reducible exact convertedRec_mquiet _ | with_reducible apply MQuiet.bind | intro _ | split)

theorem openEntry_mquiet (e0 : Entry) : MQuiet (openEntry e0) := by
  unfold openEntry
  repeat' (first
    | with_reducible exact MQuiet.pure _ | with_reducible exact MQuiet.needDesc _ | with_reducible exact getEntry_mquiet _
    | with_reducible exact openCopy_mquiet _ | with_reducible exact convertedRec_mquiet _ | with_reducible exact writeEntry_mquiet _ _ _ _
    | with_reducible apply MQuiet.bind | with_reducible apply MQuiet.modS | with_reducible exact Quiet.refl _ | dsimp only
    | with_reducible apply Quiet.trans ?_ (freeCopies_quiet _ _)
    | (apply Quiet.upd; (case e1 => dsimp only; with_reducible exact Is.rfl); iterate 10 dsimp only) | intro _ | split)

theorem getIn_mquiet (a : Nat) (deltaOk : Bool) (codedOk : Bool) : MQuiet (getIn a deltaOk codedOk) := by
  unfold getIn
  repeat' (first
    | with_reducible exact MQuiet.pure _ | with_reducible exact MQuiet.needDesc _ | with_reducible exact needMapped_mquiet _ _
    | with_reducible exact readU64_mquiet _ | with_reducible exact getEntry_mquiet _ | with_reducible exact getPair_mquiet _
    | with_reducible exact getDelta_mquiet _ | with_reducible exact getTRec_mquiet _ | with_reducible apply MQuiet.bind | dsimp only
    | intro _ | split)

theorem InSlot.openR_mquiet (i : InSlot) (R : Nat) (C : Nat) : MQuiet (InSlot.openR i R C) := by
  unfold InSlot.openR
  repeat' (first
    | with_reducible exact openAny_mquiet _ _ _ | with_reducible exact openEntry_mquiet _ | with_reducible exact openDelta_mquiet _ _ _
    | split)

theorem needReadable_mquiet : ∀ (seen : List Nat) (l : List InSlot), MQuiet (needReadable seen l)
  | _, [] => MQuiet.pure _
  | _, .entry _ :: l => (getEntry_mquiet _).bind fun _ => (MQuiet.needDesc _).bind fun _ => needReadable_mquiet _ l
  | seen, .tensor _ :: l => needReadable_mquiet seen l
  | seen, .delta _ :: l => needReadable_mquiet seen l

theorem getOut_mquiet (a : Nat) : MQuiet (getOut a) := by
  unfold getOut
  repeat' (first
    | with_reducible exact MQuiet.pure _ | with_reducible exact MQuiet.needDesc _ | with_reducible exact needMapped_mquiet _ _
    | with_reducible exact readU64_mquiet _ | with_reducible exact getEntry_mquiet _ | with_reducible exact getTRec_mquiet _
    | with_reducible apply MQuiet.bind | dsimp only | intro _ | split)

theorem OutSlot.captured_mquiet (o : OutSlot) : MQuiet (OutSlot.captured o) := by
  unfold OutSlot.captured
  repeat' (first
    | with_reducible exact MQuiet.pure _ | with_reducible exact capture_mquiet _ | split)

theorem captureAll_mquiet (l : List OutSlot) : MQuiet (captureAll l) := by
  unfold captureAll
  repeat' (first
    | with_reducible exact MQuiet.pure _ | with_reducible exact MQuiet.fail _ | with_reducible exact MQuiet.throw _
    | with_reducible exact OutSlot.captured_mquiet _ | with_reducible apply MQuiet.bind | with_reducible apply MQuiet.catches
    | with_reducible apply MQuiet.mapM | intro _ | split)

theorem needEntryTurn_mquiet (names : Bool) : MQuiet (needEntryTurn names) := by
  unfold needEntryTurn
  repeat' (first
    | with_reducible exact MQuiet.getS | with_reducible exact MQuiet.need _ _ | with_reducible apply MQuiet.bind | intro _)

theorem needStash_mquiet (names : Bool) : MQuiet (needStash names) := by
  unfold needStash
  repeat' (first
    | with_reducible exact MQuiet.getS | with_reducible exact MQuiet.need _ _ | with_reducible apply MQuiet.bind | intro _)

theorem countSkip_mquiet : MQuiet countSkip := by
  unfold countSkip
  repeat' (first
    | with_reducible apply MQuiet.modS | with_reducible exact Quiet.refl _ | dsimp only
    | (apply Quiet.upd; (case e1 => dsimp only; with_reducible exact Is.rfl); iterate 10 dsimp only) | intro _)

theorem needOutBacked_mquiet (l : List (Nat × Nat)) : MQuiet (needOutBacked l) := by
  unfold needOutBacked
  repeat' (first
    | with_reducible exact needBacked_mquiet _ _ | with_reducible apply MQuiet.forM | intro _)

theorem needOutWritable_mquiet (l : List (Nat × Nat)) : MQuiet (needOutWritable l) := by
  unfold needOutWritable
  repeat' (first
    | with_reducible exact needWritable_mquiet _ _ | with_reducible apply MQuiet.forM | intro _)

/-! ### Auth -/

theorem countRefusal_quiet (reason : Nat) (s : State) : Quiet s (countRefusal reason s) := by
  unfold countRefusal
  repeat' (first
    | with_reducible exact Quiet.refl _ | dsimp only
    | (apply Quiet.upd; (case e1 => dsimp only; with_reducible exact Is.rfl); iterate 10 dsimp only))

theorem checkCritical_quiet (counter : W64) (tag : List Byte) (command : List Byte) (custom : String) (s : State) : Quiet s
    (checkCritical counter tag command custom s).2 := by
  unfold checkCritical
  repeat' (first
    | with_reducible exact Quiet.refl _ | dsimp only | with_reducible apply Quiet.trans ?_ (countRefusal_quiet _ _)
    | (apply Quiet.upd; (case e1 => dsimp only; with_reducible exact Is.rfl); iterate 10 dsimp only) | split)

theorem checkDescTag_quiet (d : Desc) (s : State) : Quiet s (checkDescTag d s).2 := by
  unfold checkDescTag
  repeat' (first
    | with_reducible exact Quiet.refl _ | with_reducible apply Quiet.trans ?_ (checkCritical_quiet _ _ _ _ _))

/-! ### Queue -/

theorem needPlazas_mquiet (first : Nat) (n : Nat) : MQuiet (needPlazas first n) := by
  unfold needPlazas
  repeat' (first
    | with_reducible exact MQuiet.getS | with_reducible exact MQuiet.need _ _ | with_reducible apply MQuiet.bind | intro _)

theorem awaitPlazas_mquiet (first : Nat) (n : Nat) : MQuiet (awaitPlazas first n) := by
  unfold awaitPlazas
  repeat' (first
    | with_reducible exact MQuiet.getS | with_reducible exact holdIf_mquiet _ | with_reducible apply MQuiet.bind | intro _)

theorem inStartOrder_mquiet (d : Desc) : MQuiet (inStartOrder d) := by
  unfold inStartOrder
  repeat' (first
    | with_reducible exact MQuiet.get | with_reducible exact holdIf_mquiet _ | with_reducible apply MQuiet.bind | intro _)

theorem showFront_calm (qp : Fin 64) (d : Desc) (s : State) : Calm s (showFront qp d s) := by
  unfold showFront
  repeat' (first
    | with_reducible exact Calm.refl _ | dsimp only
    | (apply Calm.upd; (case e1 => dsimp only; with_reducible exact Is.rfl); iterate 8 dsimp only) | split)

theorem headChecks_quiet (s : State) (idx : W32) (d : Desc) : Quiet s (headChecks s idx d).2 := by
  unfold headChecks
  repeat' (first
    | with_reducible exact Quiet.refl _ | dsimp only | with_reducible apply Quiet.trans ?_ (checkDescTag_quiet _ _) | split)

theorem openStep_quiet (d : Desc) (s : State) : Quiet s (openStep d s) := by
  unfold openStep
  repeat' (first
    | with_reducible exact Quiet.refl _ | dsimp only
    | (apply Quiet.upd; (case e1 => dsimp only; with_reducible exact Is.rfl); iterate 10 dsimp only) | split)

theorem writeAfter_quiet (a : Nat) (bs : List Byte) (s : State) : Quiet s (writeAfter a bs s) := by
  unfold writeAfter
  repeat' (first
    | with_reducible exact Quiet.refl _ | with_reducible apply Quiet.trans ?_ (runWork_quiet _ ?_ _)
    | with_reducible exact writeSerial_mquiet _ _)

theorem leaveMark_quiet (m : LateMark) (s : State) : Quiet s (leaveMark m s) := by
  unfold leaveMark
  repeat' (first
    | with_reducible exact Quiet.refl _ | dsimp only
    | (apply Quiet.upd; (case e1 => dsimp only; with_reducible exact Is.rfl); iterate 10 dsimp only))

theorem writeLate_quiet (a : Nat) (bs : List Byte) (s : State) : Quiet s (writeLate a bs s) := by
  unfold writeLate
  repeat' (first
    | with_reducible exact Quiet.refl _ | with_reducible apply Quiet.trans ?_ (leaveMark_quiet _ _)
    | with_reducible apply Quiet.trans ?_ (writeAfter_quiet _ _ _) | split)

theorem clearTag_quiet (a : Nat) (s : State) : Quiet s (clearTag a s) := by
  unfold clearTag
  repeat' (first
    | with_reducible exact Quiet.refl _ | with_reducible apply Quiet.trans ?_ (writeLate_quiet _ _ _) | split)

theorem dropPair_quiet (e : InFlight) (s : State) : Quiet s (dropPair e s) := by
  unfold dropPair
  repeat' (first
    | with_reducible exact Quiet.refl _ | with_reducible apply Quiet.trans ?_ (clearTag_quiet _ _) | split)

theorem overlap_quiet (e : InFlight) (reads : List MemAccess) (writes : List MemAccess) (s : State) : Quiet s
    (overlap e reads writes s) := by
  unfold overlap
  repeat' (first
    | with_reducible exact Quiet.refl _ | dsimp only | with_reducible apply Quiet.trans ?_ (scrambleAll_quiet _ _))

theorem scrambleTerrace_quiet (p : Fin 64) (s : State) : Quiet s (scrambleTerrace p s) := by
  unfold scrambleTerrace
  repeat' (first
    | with_reducible exact Quiet.refl _ | dsimp only | with_reducible apply Quiet.trans ?_ (takeFree_quiet _ _)
    | (apply Quiet.upd; (case e1 => dsimp only; with_reducible exact Is.rfl); iterate 10 dsimp only))

theorem scrambleGate_quiet (slots : List Nat) (s : State) : Quiet s (scrambleGate slots s) := by
  unfold scrambleGate
  repeat' (first
    | with_reducible exact Quiet.refl _ | dsimp only | with_reducible apply Quiet.fold
    | (apply Quiet.upd; (case e1 => dsimp only; with_reducible exact Is.rfl); iterate 10 dsimp only) | split | intro _)

theorem freeInfoOf_quiet (order : Nat) (s : State) : Quiet s (freeInfoOf order s) := by
  unfold freeInfoOf
  repeat' (first
    | with_reducible exact Quiet.refl _ | dsimp only
    | (apply Quiet.upd; (case e1 => dsimp only; with_reducible exact Is.rfl); iterate 10 dsimp only))

theorem spoilRuns_quiet (own : Option Nat) (l : List (Nat × Nat)) (s : State) : Quiet s (spoilRuns own l s) := by
  unfold spoilRuns
  repeat' (first
    | with_reducible exact Quiet.refl _ | dsimp only | with_reducible apply Quiet.trans ?_ (freeInfoOf_quiet _ _)
    | with_reducible apply Quiet.trans ?_ (scrambleGate_quiet _ _) | with_reducible apply Quiet.trans ?_ (scramble_quiet _ _ _)
    | with_reducible apply Quiet.fold | (apply Quiet.upd; (case e1 => dsimp only; with_reducible exact Is.rfl); iterate 10 dsimp only)
    | split | intro _)

theorem raceEntry_quiet (e : InFlight) (decides : Bool) (s : State) : Quiet s (raceEntry e decides s).2 := by
  unfold raceEntry
  repeat' (first
    | with_reducible exact Quiet.refl _ | dsimp only | with_reducible apply Quiet.trans ?_ (takeFree_quiet _ _)
    | with_reducible apply Quiet.trans ?_ (scrambleTerrace_quiet _ _) | with_reducible apply Quiet.trans ?_ (scrambleGate_quiet _ _)
    | with_reducible apply Quiet.trans ?_ (dropPair_quiet _ _) | with_reducible apply Quiet.fold | split | intro _)

theorem demandReads_quiet (reads : List MemAccess) (s : State) : Quiet s (demandReads reads s) := by
  unfold demandReads
  repeat' (first
    | with_reducible exact Quiet.refl _ | dsimp only
    | (apply Quiet.upd; (case e1 => dsimp only; with_reducible exact Is.rfl); iterate 10 dsimp only))

theorem raceAll_quiet (beside : InFlight → Bool) (writes : List MemAccess) (l : List InFlight) (s : State) :
    Quiet s (raceAll beside writes l s).2 := by
  induction l generalizing s with
  | nil => exact Quiet.refl s
  | cons e l ih =>
    unfold raceAll
    dsimp only
    refine Quiet.trans ?_ (ih _)
    split
    · exact raceEntry_quiet e _ s
    · exact Quiet.refl s

theorem settleReads_quiet (w : Work) (s : State) : Quiet s (settleReads w s) := by
  unfold settleReads
  repeat' (first
    | with_reducible exact Quiet.refl _ | dsimp only | with_reducible apply Quiet.trans ?_ (noteRequests_quiet _ _)
    | with_reducible apply Quiet.trans ?_ (demandReads_quiet _ _) | with_reducible apply Quiet.trans ?_ (markRange_quiet _ _ _)
    | with_reducible apply Quiet.trans ?_ (cacheReads_quiet _ _ _) | with_reducible apply Quiet.fold | split | intro _)

theorem settleAmong_quiet (beside : InFlight → Bool) (w : Work) : Quiet w.s (settleAmong beside w) := by
  unfold settleAmong
  repeat' (first
    | with_reducible exact Quiet.refl _ | dsimp only | with_reducible apply Quiet.trans ?_ (spoilRuns_quiet _ _ _)
    | with_reducible apply Quiet.trans ?_ (overlap_quiet _ _ _ _) | with_reducible apply Quiet.trans ?_ (raceAll_quiet _ _ _ _)
    | with_reducible apply Quiet.trans ?_ (settleReads_quiet _ _) | with_reducible apply Quiet.fold
    | (apply Quiet.upd; (case e1 => dsimp only; with_reducible exact Is.rfl); iterate 10 dsimp only) | intro _)

theorem settleWork_quiet (w : Work) : Quiet w.s (settleWork w) := by
  unfold settleWork
  repeat' (first
    | with_reducible exact Quiet.refl _ | with_reducible apply Quiet.trans ?_ (settleAmong_quiet _ _))

theorem raceOwn_quiet (w : Work) (since : List (Nat × Nat)) (e : InFlight) (s : State) : Quiet s (raceOwn w since e s).2 := by
  unfold raceOwn
  repeat' (first
    | with_reducible exact Quiet.refl _ | dsimp only | with_reducible apply Quiet.trans ?_ (raceEntry_quiet _ _ _)
    | with_reducible apply Quiet.trans ?_ (scrambleAll_quiet _ _) | split)

theorem advanceHead_calm (qp : Fin 64) (n : Nat) (s : State) : Calm s (advanceHead qp n s) := by
  unfold advanceHead
  repeat' (first
    | with_reducible exact Calm.refl _ | dsimp only
    | (apply Calm.upd; (case e1 => dsimp only; with_reducible exact Is.rfl); iterate 8 dsimp only))

theorem notePeak_quiet (s : State) : Quiet s (notePeak s) := by
  unfold notePeak
  repeat' (first
    | with_reducible exact Quiet.refl _ | dsimp only
    | (apply Quiet.upd; (case e1 => dsimp only; with_reducible exact Is.rfl); iterate 10 dsimp only))

theorem pushInFlight_quiet (e : InFlight) (s : State) : Quiet s (pushInFlight e s) := by
  unfold pushInFlight
  repeat' (first
    | with_reducible exact Quiet.refl _ | dsimp only | with_reducible apply Quiet.trans ?_ (notePeak_quiet _)
    | (apply Quiet.upd; (case e1 => dsimp only; with_reducible exact Is.rfl); iterate 10 dsimp only))

theorem holdRequests_quiet (reads : List MemAccess) (x : InFlight × State) : Quiet x.2 (holdRequests reads x).2 := ⟨⟨rfl, rfl, rfl, rfl, rfl, rfl, rfl, id, fun _ h => h⟩, rfl, rfl, rfl, rfl, rfl⟩

theorem ownWrites_quiet (old : State) (qp : Fin 64) (idx : W32) (s : State) : Quiet s (ownWrites old qp idx s) := by
  unfold ownWrites
  repeat' (first
    | with_reducible exact Quiet.refl _ | dsimp only
    | (apply Quiet.upd; (case e1 => dsimp only; with_reducible exact Is.rfl); iterate 10 dsimp only))

theorem dropSuppressed_quiet (d : Desc) (w : Work) (s : State) : Quiet s (dropSuppressed d w s) := by
  unfold dropSuppressed
  repeat' (first
    | with_reducible exact Quiet.refl _ | with_reducible apply Quiet.trans ?_ (clearTag_quiet _ _) | split)

/-- What settles a descriptor's work keeps what the work's end state has. -/
theorem settleEntry_quiet (old : State) (d : Desc) (e : InFlight) (r : Except Fail Unit × Work) :
    Quiet r.2.s (settleEntry old d e r).2 :=
  (((settleWork_quiet r.2).trans (raceOwn_quiet r.2 _ _ _)).trans (holdRequests_quiet r.2.reads _)).trans
    ((dropSuppressed_quiet d r.2 _).trans (ownWrites_quiet old e.qp e.idx _))

theorem askFor_quiet (reader : Reader) (w : Work) (s : State) : Quiet s (askFor reader w s) := by
  unfold askFor
  repeat' (first
    | with_reducible exact Quiet.refl _ | with_reducible apply Quiet.trans ?_ (askLines_quiet _ _ _)
    | (apply Quiet.upd; (case e1 => dsimp only; with_reducible exact Is.rfl); iterate 10 dsimp only))

theorem runBody_quiet (qp : Fin 64) (idx : W32) (d : Desc) (body : M Unit) (h : MQuiet body) (s : State) :
    Quiet s (runBody qp idx d body s) := by
  unfold runBody
  dsimp only
  split
  · exact ((openStep_quiet d s).trans (askFor_quiet _ _ _)).trans (pushInFlight_quiet _ _)
  · exact (((openStep_quiet d s).trans (runWork_quiet body h _)).trans (settleEntry_quiet _ _ _ _)).trans (pushInFlight_quiet _ _)

/-- A started descriptor moves its HEAD and is otherwise quiet. -/
theorem startOne_calm (qp : Fin 64) (d : Desc) (body : M Unit) (h : MQuiet body) (s : State) : Calm s (startOne qp d body s) := by
  unfold startOne
  refine (advanceHead_calm qp 1 s).trans ?_
  have hc := headChecks_quiet (advanceHead qp 1 s) (s.q.qps[qp]).head d
  dsimp only
  split
  · exact (hc.trans (runBody_quiet qp _ d body h _)).calm
  · exact (hc.trans (pushInFlight_quiet _ _)).calm

/-- A descriptor-start command whose work is quiet moves its pair's HEAD and keeps the rest. -/
theorem startDesc_calm {isRow : Bool} {qp : Fin 64} {d : Desc} {body : M Unit} {s t : State} (hb : MQuiet body)
    (h : startDesc isRow qp d body s = .next t) : Calm s t := by
  unfold startDesc at h
  split at h
  · cases h
  · split at h
    · cases h
    · split at h
      · cases h
        exact startOne_calm qp d body hb s
      · cases h
        exact showFront_calm qp d s

theorem countOk_quiet (e : InFlight) (s : State) : Quiet s (countOk e s) := by
  unfold countOk
  repeat' (first
    | with_reducible exact Quiet.refl _ | dsimp only
    | (apply Quiet.upd; (case e1 => dsimp only; with_reducible exact Is.rfl); iterate 10 dsimp only) | split)

theorem setInFlight_quiet (e : InFlight) (s : State) : Quiet s (setInFlight e s) := by
  unfold setInFlight
  repeat' (first
    | with_reducible exact Quiet.refl _ | dsimp only | with_reducible apply Quiet.trans ?_ (notePeak_quiet _)
    | (apply Quiet.upd; (case e1 => dsimp only; with_reducible exact Is.rfl); iterate 10 dsimp only))

theorem writeRecord_calm (e : InFlight) (s : State) : Calm s (writeRecord e s) := by
  unfold writeRecord
  repeat' (first
    | with_reducible exact Calm.refl _ | dsimp only | with_reducible apply Calm.trans ?_ ((sendWr_quiet _ _ _ _).calm)
    | with_reducible apply Calm.trans ?_ ((poke_quiet _ _ _).calm) | with_reducible apply Calm.trans ?_ ((countOk_quiet _ _).calm)
    | with_reducible apply Calm.trans ?_ ((mailRequest_quiet _ _ _).calm)
    | with_reducible apply Calm.trans ?_ ((raiseAlert_quiet _ _).calm)
    | (apply Calm.upd; (case e1 => dsimp only; with_reducible exact Is.rfl); iterate 8 dsimp only) | split)

theorem finish_calm (e : InFlight) (s : State) : Calm s (finish e s) := by
  unfold finish
  repeat' (first
    | with_reducible exact Calm.refl _ | with_reducible apply Calm.trans ?_ (writeRecord_calm _ _)
    | with_reducible apply Calm.trans ?_ ((setInFlight_quiet _ _).calm) | split)

theorem ignoreDoorbell_quiet (s : State) : Quiet s (ignoreDoorbell s) := by
  unfold ignoreDoorbell
  repeat' (first
    | with_reducible exact Quiet.refl _ | dsimp only
    | (apply Quiet.upd; (case e1 => dsimp only; with_reducible exact Is.rfl); iterate 10 dsimp only))

theorem ringTail_calm (w : W64) (s : State) : Calm s (ringTail w s) := by
  unfold ringTail
  repeat' (first
    | with_reducible exact Calm.refl _ | dsimp only | with_reducible apply Calm.trans ?_ ((ignoreDoorbell_quiet _).calm)
    | (apply Calm.upd; (case e1 => dsimp only; with_reducible exact Is.rfl); iterate 8 dsimp only) | split)

theorem ringHead_calm (w : W64) (s : State) : Calm s (ringHead w s) := by
  unfold ringHead
  repeat' (first
    | with_reducible exact Calm.refl _ | dsimp only | with_reducible apply Calm.trans ?_ ((ignoreDoorbell_quiet _).calm)
    | (apply Calm.upd; (case e1 => dsimp only; with_reducible exact Is.rfl); iterate 8 dsimp only) | split)

end Sys2Proof.Machine
end

