-- ==== Sys2Proof/Laws/KeepWork.lean ====
section
/-! SUPPORT. What the parts of a command keep (`Quiet`, `Calm`, `Firm`, `Tame` of Laws/Keep.lean): tiles, kernels, attention, batch records, links, bundles, CARE, moves, samples and the coherent link.
Each lemma is named after its function; a lemma about an `exec` function is about every next state it answers. -/

namespace Sys2Proof.Machine

/-! ### Squares -/

theorem setSquare_quiet (x : SquareRegs) (s : State) : Quiet s (setSquare x s) := by
  unfold setSquare
  repeat' (first
    | with_reducible exact Quiet.refl _ | dsimp only
    | (apply Quiet.upd; (case e1 => dsimp only; with_reducible exact Is.rfl); iterate 10 dsimp only))

theorem countPanels_quiet (p : Fin 64) (square : Nat) (n : Nat) (s : State) : Quiet s (countPanels p square n s) := by
  unfold countPanels
  repeat' (first
    | with_reducible exact Quiet.refl _ | dsimp only
    | (apply Quiet.upd; (case e1 => dsimp only; with_reducible exact Is.rfl); iterate 10 dsimp only))

theorem runStreet_quiet (w : Nat → Nat → Weight) (p : Fin 64) (base : Nat) (L : Nat) (passes : List Pass) (s : State) : Quiet s
    (runStreet w p base L passes s) := by
  unfold runStreet
  repeat' (first
    | with_reducible exact Quiet.refl _ | with_reducible apply Quiet.trans ?_ (setSquare_quiet _ _) | with_reducible apply Quiet.fold
    | split | intro _)

theorem setRecirc_quiet (p : Fin 64) (street : Nat) (rows : List (List A34)) (s : State) : Quiet s (setRecirc p street rows s) := by
  unfold setRecirc
  repeat' (first
    | with_reducible exact Quiet.refl _ | dsimp only
    | (apply Quiet.upd; (case e1 => dsimp only; with_reducible exact Is.rfl); iterate 10 dsimp only))

theorem setSplit_quiet (p : Fin 64) (split : Nat) (s : State) : Quiet s (setSplit p split s) := by
  unfold setSplit
  repeat' (first
    | with_reducible exact Quiet.refl _ | dsimp only
    | (apply Quiet.upd; (case e1 => dsimp only; with_reducible exact Is.rfl); iterate 10 dsimp only))

theorem setJunction_quiet (p : Fin 64) (rows : List (List A34)) (s : State) : Quiet s (setJunction p rows s) := by
  unfold setJunction
  repeat' (first
    | with_reducible exact Quiet.refl _ | dsimp only
    | (apply Quiet.upd; (case e1 => dsimp only; with_reducible exact Is.rfl); iterate 10 dsimp only) | split)

theorem someRecirc_quiet (p : Fin 64) (street : Nat) (s : State) : Quiet s (someRecirc p street s) := by
  unfold someRecirc
  repeat' (first
    | with_reducible exact Quiet.refl _ | dsimp only | with_reducible apply Quiet.trans ?_ (setRecirc_quiet _ _ _ _)
    | (apply Quiet.upd; (case e1 => dsimp only; with_reducible exact Is.rfl); iterate 10 dsimp only) | split)

theorem someWaiting_quiet (p : Fin 64) (s : State) : Quiet s (someWaiting p s) := by
  unfold someWaiting
  repeat' (first
    | with_reducible exact Quiet.refl _ | dsimp only | with_reducible apply Quiet.trans ?_ (setJunction_quiet _ _ _)
    | (apply Quiet.upd; (case e1 => dsimp only; with_reducible exact Is.rfl); iterate 10 dsimp only))

theorem attnSquares_quiet (first : Nat) (n : Nat) (w : Nat → Weight) (folds : Bool) (s : State) : Quiet s
    (attnSquares first n w folds s) := by
  unfold attnSquares
  repeat' (first
    | with_reducible exact Quiet.refl _ | dsimp only | with_reducible apply Quiet.trans ?_ (countPanels_quiet _ _ _ _)
    | with_reducible apply Quiet.trans ?_ (setSquare_quiet _ _) | with_reducible apply Quiet.trans ?_ (someRecirc_quiet _ _ _)
    | with_reducible apply Quiet.trans ?_ (someWaiting_quiet _ _) | with_reducible apply Quiet.fold
    | (apply Quiet.upd; (case e1 => dsimp only; with_reducible exact Is.rfl); iterate 10 dsimp only) | split | intro _)

theorem clearArrays_quiet (a : Nat) (b : Nat) (s : State) : Quiet s (clearArrays a b s) := by
  unfold clearArrays
  repeat' (first
    | with_reducible exact Quiet.refl _ | dsimp only
    | (apply Quiet.upd; (case e1 => dsimp only; with_reducible exact Is.rfl); iterate 10 dsimp only))

/-! ### Tile -/

theorem tileSlots_mquiet (t : TileFields) : MQuiet (tileSlots t) := by
  unfold tileSlots
  repeat' (first
    | with_reducible exact MQuiet.pure _ | with_reducible exact MQuiet.needDesc _ | with_reducible exact getIn_mquiet _ _ _
    | with_reducible exact getOut_mquiet _ | with_reducible apply MQuiet.bind | intro _ | split)

theorem drain_mquiet (t : TileFields) (seed : Nat) (y : OutSlot) (f : F32) (v : Nat → Nat → A34) : MQuiet (drain t seed y f v) := by
  unfold drain
  repeat' (first
    | with_reducible exact MQuiet.getS | with_reducible exact writeBytes_mquiet _ _ | with_reducible exact writeTensor_mquiet _ _ _ _ _
    | with_reducible exact OutSlot.captured_mquiet _ | with_reducible apply MQuiet.bind | with_reducible apply MQuiet.forM
    | with_reducible apply MQuiet.discard | dsimp only | intro _ | split)

theorem TileFields.useStreet_quiet (t : TileFields) (a : Operand) (b : Operand) (p : Fin 64) (street : Nat) (base : Nat) (L : Nat)
    (groups : List Nat) (s : State) : Quiet s (TileFields.useStreet t a b p street base L groups s) := by
  unfold TileFields.useStreet
  repeat' (first
    | with_reducible exact Quiet.refl _ | dsimp only | with_reducible apply Quiet.trans ?_ (countPanels_quiet _ _ _ _)
    | with_reducible apply Quiet.trans ?_ (runStreet_quiet _ _ _ _ _ _) | with_reducible apply Quiet.trans ?_ (setRecirc_quiet _ _ _ _)
    | with_reducible apply Quiet.fold | split | intro _)

theorem TileFields.useArrays_quiet (t : TileFields) (a : Operand) (b : Operand) (s : State) : Quiet s (TileFields.useArrays t a b s) := by
  unfold TileFields.useArrays
  repeat' (first
    | with_reducible exact Quiet.refl _ | dsimp only | with_reducible apply Quiet.trans ?_ (TileFields.useStreet_quiet _ _ _ _ _ _ _ _ _)
    | with_reducible apply Quiet.trans ?_ (setJunction_quiet _ _ _) | with_reducible apply Quiet.fold | split | intro _)

theorem TileFields.takeSplit_quiet (t : TileFields) (s : State) : Quiet s (TileFields.takeSplit t s) := by
  unfold TileFields.takeSplit
  repeat' (first
    | with_reducible exact Quiet.refl _ | with_reducible apply Quiet.trans ?_ (setSplit_quiet _ _ _) | with_reducible apply Quiet.fold
    | intro _)

theorem TileFields.start_mquiet (t : TileFields) : MQuiet (TileFields.start t) := by
  unfold TileFields.start
  repeat' (first
    | with_reducible exact MQuiet.getS | with_reducible exact awaitPlazas_mquiet _ _ | with_reducible exact holdIf_mquiet _
    | with_reducible exact useUnits_mquiet _ | with_reducible apply MQuiet.bind | with_reducible apply MQuiet.modS
    | with_reducible exact Quiet.refl _ | with_reducible apply Quiet.trans ?_ (TileFields.takeSplit_quiet _ _) | intro _)

theorem openTile_mquiet (t : TileFields) (x : TileSlots) : MQuiet (openTile t x) := by
  unfold openTile
  repeat' (first
    | with_reducible exact MQuiet.pure _ | with_reducible exact InSlot.openR_mquiet _ _ _ | with_reducible apply MQuiet.bind | dsimp only
    | intro _ | split)

theorem plainWork_mquiet (t : TileFields) (x : TileSlots) : MQuiet (plainWork t x) := by
  unfold plainWork
  repeat' (first
    | with_reducible exact MQuiet.pure _ | with_reducible exact MQuiet.getS | with_reducible exact openTile_mquiet _ _
    | with_reducible exact setInfo_mquiet _ | with_reducible exact drain_mquiet _ _ _ _ _ | with_reducible apply MQuiet.bind
    | with_reducible apply MQuiet.modS | with_reducible exact Quiet.refl _ | dsimp only
    | with_reducible apply Quiet.trans ?_ (TileFields.useArrays_quiet _ _ _ _) | intro _ | split)

theorem terrSet_quiet (p : Fin 64) (row : Nat) (col : Nat) (v : A34) (s : State) : Quiet s (terrSet p row col v s) := by
  unfold terrSet
  repeat' (first
    | with_reducible exact Quiet.refl _ | dsimp only
    | (apply Quiet.upd; (case e1 => dsimp only; with_reducible exact Is.rfl); iterate 10 dsimp only))

theorem setTile_quiet (x : OpenTile) (s : State) : Quiet s (setTile x s) := by
  unfold setTile
  repeat' (first
    | with_reducible exact Quiet.refl _ | dsimp only
    | (apply Quiet.upd; (case e1 => dsimp only; with_reducible exact Is.rfl); iterate 10 dsimp only))

theorem dropTile_quiet (p : Nat) (tRow : Nat) (s : State) : Quiet s (dropTile p tRow s) := by
  unfold dropTile
  repeat' (first
    | with_reducible exact Quiet.refl _ | dsimp only
    | (apply Quiet.upd; (case e1 => dsimp only; with_reducible exact Is.rfl); iterate 10 dsimp only))

theorem addPanel_mquiet (t : TileFields) (a : Operand) (b : Operand) (x : OpenTile) (i : Nat) : MQuiet (addPanel t a b x i) := by
  unfold addPanel
  repeat' (first
    | with_reducible exact MQuiet.pure _ | with_reducible exact MQuiet.getS | with_reducible apply MQuiet.bind
    | with_reducible apply MQuiet.modS | with_reducible exact Quiet.refl _ | dsimp only
    | with_reducible apply Quiet.trans ?_ (terrSet_quiet _ _ _ _ _) | with_reducible apply Quiet.fold | intro _)

theorem addPanels_mquiet (t : TileFields) (a b : Operand) :
    ∀ (n i : Nat) (x : OpenTile) (e : W16) (f : Option FirstInvalid), MQuiet (addPanels t a b n i x e f)
  | 0, _, _, _, _ => MQuiet.pure _
  | n + 1, i, x, _, _ => (addPanel_mquiet t a b x i).bind fun _ => addPanels_mquiet t a b n (i + 1) _ _ _

theorem closeTile_mquiet (t : TileFields) (seed : Nat) (x : OpenTile) (y : OutSlot) : MQuiet (closeTile t seed x y) := by
  unfold closeTile
  repeat' (first
    | with_reducible exact MQuiet.getS | with_reducible exact setInfo_mquiet _ | with_reducible exact drain_mquiet _ _ _ _ _
    | with_reducible apply MQuiet.bind | with_reducible apply MQuiet.modS | with_reducible exact Quiet.refl _ | dsimp only
    | with_reducible apply Quiet.trans ?_ (dropTile_quiet _ _ _) | intro _)

theorem terraceWork_mquiet (t : TileFields) (x : TileSlots) : MQuiet (terraceWork t x) := by
  unfold terraceWork
  repeat' (first
    | with_reducible exact MQuiet.pure _ | with_reducible exact MQuiet.getS | with_reducible exact MQuiet.throw _
    | with_reducible exact openTile_mquiet _ _ | with_reducible exact addPanels_mquiet _ _ _ _ _ _ _ _
    | with_reducible exact setInfo_mquiet _ | with_reducible exact closeTile_mquiet _ _ _ _ | with_reducible apply MQuiet.bind
    | with_reducible apply MQuiet.modS | with_reducible apply MQuiet.catches | with_reducible exact Quiet.refl _ | dsimp only
    | with_reducible apply Quiet.trans ?_ (TileFields.useArrays_quiet _ _ _ _) | with_reducible apply Quiet.trans ?_ (setTile_quiet _ _)
    | with_reducible apply Quiet.trans ?_ (dropTile_quiet _ _ _)
    | (apply Quiet.upd; (case e1 => dsimp only; with_reducible exact Is.rfl); iterate 10 dsimp only) | intro _ | split)

theorem tileRest_mquiet (s : State) (d : Desc) (t : TileFields) (x : TileSlots) : MQuiet (tileRest s d t x) := by
  unfold tileRest
  repeat' (first
    | with_reducible exact MQuiet.need _ _ | with_reducible exact MQuiet.needDesc _ | with_reducible exact needPlazas_mquiet _ _
    | with_reducible exact needOutBacked_mquiet _ | with_reducible exact needEntryTurn_mquiet _ | with_reducible exact needStash_mquiet _
    | with_reducible exact inStartOrder_mquiet _ | with_reducible exact needOutWritable_mquiet _ | with_reducible apply MQuiet.bind
    | intro _)

theorem tileChecks_mquiet (d : Desc) : MQuiet (tileChecks d) := by
  unfold tileChecks
  repeat' (first
    | with_reducible exact MQuiet.pure _ | with_reducible exact MQuiet.getS | with_reducible exact MQuiet.needDesc _
    | with_reducible exact tileSlots_mquiet _ | with_reducible exact tileRest_mquiet _ _ _ _ | with_reducible apply MQuiet.bind | intro _)

theorem tileReach_mquiet (t : TileFields) : MQuiet (tileReach t) := by
  unfold tileReach
  repeat' (first
    | with_reducible exact MQuiet.pure _ | with_reducible exact getOut_mquiet _ | with_reducible apply MQuiet.bind | intro _ | split)

theorem orClose_mquiet {α : Type} (t : TileFields) (m : M α) (hm : MQuiet m) : MQuiet (orClose t m) := by
  unfold orClose
  repeat' (first
    | with_reducible assumption | with_reducible exact MQuiet.throw _ | with_reducible apply MQuiet.bind
    | with_reducible apply MQuiet.modS | with_reducible apply MQuiet.catches | with_reducible exact Quiet.refl _ | dsimp only
    | with_reducible apply Quiet.trans ?_ (dropTile_quiet _ _ _) | intro _ | split)

theorem tileWork_mquiet (d : Desc) (x : TileSlots) : MQuiet (tileWork d x) := by
  unfold tileWork
  repeat' (first
    | with_reducible exact countSkip_mquiet  | with_reducible exact TileFields.start_mquiet _
    | with_reducible refine orScramble_mquiet _ _ ?_ | with_reducible exact terraceWork_mquiet _ _
    | with_reducible exact plainWork_mquiet _ _ | with_reducible apply MQuiet.bind | dsimp only | intro _ | split)

theorem tileReadable_mquiet (t : TileFields) (x : TileSlots) : MQuiet (tileReadable t x) := by
  unfold tileReadable
  repeat' (first
    | with_reducible exact MQuiet.pure _ | with_reducible exact needReadable_mquiet _ _ | split)

theorem tileReady_mquiet (d : Desc) : MQuiet (tileReady d) := by
  unfold tileReady
  repeat' (first
    | with_reducible exact MQuiet.pure _ | with_reducible exact tileChecks_mquiet _ | with_reducible exact tileReadable_mquiet _ _
    | with_reducible apply MQuiet.bind | intro _)

theorem tileBody_mquiet (d : Desc) : MQuiet (tileBody d) := by
  unfold tileBody
  repeat' (first
    | with_reducible exact setInfo_mquiet _ | with_reducible refine orUnread_mquiet _ _ ?_ | with_reducible refine orClose_mquiet _ _ ?_
    | with_reducible exact tileReady_mquiet _ | with_reducible exact tileWork_mquiet _ _ | with_reducible apply MQuiet.bind | intro _)

/-! ### Kernel -/

theorem kernelSlot_mquiet (f : KernelFields) (k : KSpec) (n : Nat) : MQuiet (kernelSlot f k n) := by
  unfold kernelSlot
  repeat' (first
    | with_reducible exact MQuiet.pure _ | with_reducible exact MQuiet.needDesc _ | with_reducible exact readU64_mquiet _
    | with_reducible exact getIn_mquiet _ _ _ | with_reducible exact getOut_mquiet _ | with_reducible apply MQuiet.bind | dsimp only
    | intro _ | split)

theorem kernelSlots_mquiet (d : Desc) (paired : Bool) : MQuiet (kernelSlots d paired) := by
  unfold kernelSlots
  repeat' (first
    | with_reducible exact MQuiet.pure _ | with_reducible exact MQuiet.needDesc _ | with_reducible exact MQuiet.fail _
    | with_reducible exact needMapped_mquiet _ _ | with_reducible exact kernelSlot_mquiet _ _ _ | with_reducible apply MQuiet.bind
    | with_reducible apply MQuiet.mapM | dsimp only | intro _ | split)

theorem kernelRest_mquiet (r : KReady) : MQuiet (kernelRest r) := by
  unfold kernelRest
  repeat' (first
    | with_reducible exact needPlazas_mquiet _ _ | with_reducible exact needOutBacked_mquiet _
    | with_reducible exact needEntryTurn_mquiet _ | with_reducible exact needStash_mquiet _
    | with_reducible exact needOutWritable_mquiet _ | with_reducible apply MQuiet.bind | intro _)

theorem kernelChecks_mquiet (d : Desc) (paired : Bool) : MQuiet (kernelChecks d paired) := by
  unfold kernelChecks
  repeat' (first
    | with_reducible exact MQuiet.pure _ | with_reducible exact kernelSlots_mquiet _ _ | with_reducible exact kernelRest_mquiet _
    | with_reducible apply MQuiet.bind | intro _)

theorem kernelReach_mquiet (d : Desc) : MQuiet (kernelReach d) := by
  unfold kernelReach
  repeat' (first
    | with_reducible exact MQuiet.pure _ | with_reducible refine orNone_mquiet _ ?_ | with_reducible exact kernelSlot_mquiet _ _ _
    | with_reducible apply MQuiet.bind | with_reducible apply MQuiet.mapM | dsimp only | intro _ | split)

theorem kernelOpen_mquiet (r : KReady) (n : Nat) (lastPos : Nat) : MQuiet (kernelOpen r n lastPos) := by
  unfold kernelOpen
  repeat' (first
    | with_reducible exact MQuiet.pure _ | with_reducible exact InSlot.openR_mquiet _ _ _ | with_reducible refine inTurn_mquiet _ _ ?_
    | with_reducible exact openRec_mquiet _ _ _ | with_reducible apply MQuiet.bind | dsimp only | intro _ | split)

theorem kernelWrite_mquiet (r : KReady) (seed : Nat) (o : Nat × KSlot × OutSlot × TRec) (v : List (List F32)) : MQuiet
    (kernelWrite r seed o v) := by
  unfold kernelWrite
  repeat' (first
    | with_reducible exact MQuiet.pure _ | with_reducible exact MQuiet.getS | with_reducible exact MQuiet.get
    | with_reducible exact writeTensor_mquiet _ _ _ _ _ | with_reducible refine inTurn_mquiet _ _ ?_ | with_reducible apply MQuiet.bind
    | dsimp only | intro _ | split)

theorem kernelWriteAll_mquiet (r : KReady) (seed : Nat) (res : KRes) (l : List (Nat × KSlot × OutSlot × TRec)) (e : W16)
    (fi : Option FirstInvalid) : MQuiet (kernelWriteAll r seed res l e fi) := by
  induction l generalizing e fi with
  | nil => exact MQuiet.pure _
  | cons o l ih => exact (kernelWrite_mquiet r seed o _).bind fun _ => (setInfo_mquiet _).bind fun _ => ih _ _

theorem kernelCompute_mquiet (r : KReady) : MQuiet (kernelCompute r) := by
  unfold kernelCompute
  repeat' (first
    | with_reducible exact MQuiet.pure _ | with_reducible exact MQuiet.getS | with_reducible exact kernelOpen_mquiet _ _ _
    | with_reducible exact setInfo_mquiet _ | with_reducible exact kernelWriteAll_mquiet _ _ _ _ _ _
    | with_reducible exact captureAll_mquiet _ | with_reducible apply MQuiet.bind | with_reducible apply MQuiet.mapM | dsimp only
    | intro _ | split)

theorem useKiosks_mquiet (first : Nat) (n : Nat) (rows : Nat) : MQuiet (useKiosks first n rows) := by
  unfold useKiosks
  repeat' (first
    | with_reducible exact MQuiet.pure _ | with_reducible exact MQuiet.getS | with_reducible exact freeBlock_mquiet _
    | with_reducible exact useUnits_mquiet _ | with_reducible apply MQuiet.bind | with_reducible apply MQuiet.modify
    | with_reducible exact Quiet.refl _ | dsimp only | intro _)

theorem countRows_quiet (l : List (UnitId × Nat)) (s : State) : Quiet s (countRows l s) := by
  unfold countRows
  repeat' (first
    | with_reducible exact Quiet.refl _ | with_reducible apply Quiet.trans ?_ (countWork_quiet _ _ _) | with_reducible apply Quiet.fold
    | intro _)

theorem kernelReadable_mquiet (r : KReady) : MQuiet (kernelReadable r) := by
  unfold kernelReadable
  repeat' (first
    | with_reducible exact MQuiet.pure _ | with_reducible exact needReadable_mquiet _ _ | split)

theorem kernelWork_mquiet (d : Desc) (r : KReady) : MQuiet (kernelWork d r) := by
  unfold kernelWork
  repeat' (first
    | with_reducible exact countSkip_mquiet  | with_reducible exact awaitPlazas_mquiet _ _ | with_reducible exact inStartOrder_mquiet _
    | with_reducible exact useKiosks_mquiet _ _ _ | with_reducible refine orScramble_mquiet _ _ ?_
    | with_reducible exact kernelCompute_mquiet _ | with_reducible apply MQuiet.bind | with_reducible apply MQuiet.modS
    | with_reducible exact Quiet.refl _ | with_reducible apply Quiet.trans ?_ (countRows_quiet _ _) | intro _ | split)

theorem kernelReady_mquiet (d : Desc) : MQuiet (kernelReady d) := by
  unfold kernelReady
  repeat' (first
    | with_reducible exact MQuiet.pure _ | with_reducible exact kernelChecks_mquiet _ _ | with_reducible exact kernelReadable_mquiet _
    | with_reducible apply MQuiet.bind | intro _)

theorem kernelBody_mquiet (d : Desc) : MQuiet (kernelBody d) := by
  unfold kernelBody
  repeat' (first
    | with_reducible exact kernelWork_mquiet _ _ | with_reducible refine orUnread_mquiet _ _ ?_
    | with_reducible exact kernelReady_mquiet _ | with_reducible apply MQuiet.bind | intro _)

theorem startKernel_calm {num : Nat} {qp : Fin 64} {d : Desc} {s t : State} (h : startKernel num qp d s = .next t) : Calm s t := by
  unfold startKernel at h
  split at h
  · cases h
    exact showFront_calm qp d s
  · exact startDesc_calm (kernelBody_mquiet d) h

theorem execConvert_calm (qp : Fin 64) (d : Desc) (s : State) {t : State} (h : execConvert qp d s = .next t) : Calm s t := by
  unfold execConvert at h
  repeat' (first
    | with_reducible refine startKernel_calm h)

theorem execAmax_calm (qp : Fin 64) (d : Desc) (s : State) {t : State} (h : execAmax qp d s = .next t) : Calm s t := by
  unfold execAmax at h
  repeat' (first
    | with_reducible refine startKernel_calm h)

theorem execResidualAdd_calm (qp : Fin 64) (d : Desc) (s : State) {t : State} (h : execResidualAdd qp d s = .next t) : Calm s t := by
  unfold execResidualAdd at h
  repeat' (first
    | with_reducible refine startKernel_calm h)

theorem execRmsnormFwd_calm (qp : Fin 64) (d : Desc) (s : State) {t : State} (h : execRmsnormFwd qp d s = .next t) : Calm s t := by
  unfold execRmsnormFwd at h
  repeat' (first
    | with_reducible refine startKernel_calm h)

theorem execRmsnormBwd_calm (qp : Fin 64) (d : Desc) (s : State) {t : State} (h : execRmsnormBwd qp d s = .next t) : Calm s t := by
  unfold execRmsnormBwd at h
  repeat' (first
    | with_reducible refine startKernel_calm h)

theorem execLayernormFwd_calm (qp : Fin 64) (d : Desc) (s : State) {t : State} (h : execLayernormFwd qp d s = .next t) : Calm s t := by
  unfold execLayernormFwd at h
  repeat' (first
    | with_reducible refine startKernel_calm h)

theorem execLayernormBwd_calm (qp : Fin 64) (d : Desc) (s : State) {t : State} (h : execLayernormBwd qp d s = .next t) : Calm s t := by
  unfold execLayernormBwd at h
  repeat' (first
    | with_reducible refine startKernel_calm h)

theorem execSoftmaxFwd_calm (qp : Fin 64) (d : Desc) (s : State) {t : State} (h : execSoftmaxFwd qp d s = .next t) : Calm s t := by
  unfold execSoftmaxFwd at h
  repeat' (first
    | with_reducible refine startKernel_calm h)

theorem execSoftmaxBwd_calm (qp : Fin 64) (d : Desc) (s : State) {t : State} (h : execSoftmaxBwd qp d s = .next t) : Calm s t := by
  unfold execSoftmaxBwd at h
  repeat' (first
    | with_reducible refine startKernel_calm h)

theorem execTokenLogprob_calm (qp : Fin 64) (d : Desc) (s : State) {t : State} (h : execTokenLogprob qp d s = .next t) : Calm s t := by
  unfold execTokenLogprob at h
  repeat' (first
    | with_reducible refine startKernel_calm h)

theorem execTokenLogprobBwd_calm (qp : Fin 64) (d : Desc) (s : State) {t : State} (h : execTokenLogprobBwd qp d s = .next t)
    : Calm s t := by
  unfold execTokenLogprobBwd at h
  repeat' (first
    | with_reducible refine startKernel_calm h)

theorem execSwigluFwd_calm (qp : Fin 64) (d : Desc) (s : State) {t : State} (h : execSwigluFwd qp d s = .next t) : Calm s t := by
  unfold execSwigluFwd at h
  repeat' (first
    | with_reducible refine startKernel_calm h)

theorem execSwigluBwd_calm (qp : Fin 64) (d : Desc) (s : State) {t : State} (h : execSwigluBwd qp d s = .next t) : Calm s t := by
  unfold execSwigluBwd at h
  repeat' (first
    | with_reducible refine startKernel_calm h)

theorem execGeluFwd_calm (qp : Fin 64) (d : Desc) (s : State) {t : State} (h : execGeluFwd qp d s = .next t) : Calm s t := by
  unfold execGeluFwd at h
  repeat' (first
    | with_reducible refine startKernel_calm h)

theorem execGeluBwd_calm (qp : Fin 64) (d : Desc) (s : State) {t : State} (h : execGeluBwd qp d s = .next t) : Calm s t := by
  unfold execGeluBwd at h
  repeat' (first
    | with_reducible refine startKernel_calm h)

theorem execRope_calm (qp : Fin 64) (d : Desc) (s : State) {t : State} (h : execRope qp d s = .next t) : Calm s t := by
  unfold execRope at h
  repeat' (first
    | with_reducible refine startKernel_calm h)

theorem execDropout_calm (qp : Fin 64) (d : Desc) (s : State) {t : State} (h : execDropout qp d s = .next t) : Calm s t := by
  unfold execDropout at h
  repeat' (first
    | with_reducible refine startKernel_calm h)

theorem execFillUniform_calm (qp : Fin 64) (d : Desc) (s : State) {t : State} (h : execFillUniform qp d s = .next t) : Calm s t := by
  unfold execFillUniform at h
  repeat' (first
    | with_reducible refine startKernel_calm h)

theorem execFillNormal_calm (qp : Fin 64) (d : Desc) (s : State) {t : State} (h : execFillNormal qp d s = .next t) : Calm s t := by
  unfold execFillNormal at h
  repeat' (first
    | with_reducible refine startKernel_calm h)

theorem execOrthonorm_calm (qp : Fin 64) (d : Desc) (s : State) {t : State} (h : execOrthonorm qp d s = .next t) : Calm s t := by
  unfold execOrthonorm at h
  repeat' (first
    | with_reducible refine startKernel_calm h)

theorem slotWord_mquiet (f : KernelFields) (n : Nat) : MQuiet (slotWord f n) := by
  unfold slotWord
  repeat' (first
    | with_reducible exact MQuiet.pure _ | with_reducible exact readU64_mquiet _ | with_reducible apply MQuiet.bind | intro _)

theorem fusedOk_mquiet (k : KReady) (t : TileFields) (out : List (Nat × Nat)) : MQuiet (fusedOk k t out) := by
  unfold fusedOk
  repeat' (first
    | with_reducible exact MQuiet.pure _ | with_reducible exact MQuiet.needDesc _ | with_reducible exact MQuiet.fail _
    | with_reducible exact slotWord_mquiet _ _ | with_reducible apply MQuiet.bind | dsimp only | intro _ | split)

theorem holdRanges_mquiet (l : List (Nat × Nat)) : MQuiet (holdRanges l) := by
  unfold holdRanges
  repeat' (first
    | with_reducible apply MQuiet.modify | with_reducible exact Quiet.refl _ | dsimp only | intro _)

theorem halfReach_mquiet (d : Desc) : MQuiet (halfReach d) := by
  unfold halfReach
  repeat' (first
    | with_reducible exact kernelReach_mquiet _ | with_reducible exact tileReach_mquiet _ | split)

theorem orCloseHalf_mquiet {α : Type} (d : Desc) (m : M α) (hm : MQuiet m) : MQuiet (orCloseHalf d m) := by
  unfold orCloseHalf
  repeat' (first
    | with_reducible assumption | with_reducible refine orClose_mquiet _ _ ?_ | split)

theorem unkept_mquiet (d1 : Desc) (d2 : Desc) : MQuiet (unkept d1 d2) := by
  unfold unkept
  repeat' (first
    | with_reducible exact MQuiet.pure _ | with_reducible refine orNone_mquiet _ ?_ | with_reducible exact tileReach_mquiet _
    | with_reducible exact kernelSlot_mquiet _ _ _ | with_reducible apply MQuiet.bind | dsimp only | intro _ | split)

theorem halfChecks_mquiet {α : Type} (d1 d2 d : Desc) (m : M α) (hm : MQuiet m) : MQuiet (halfChecks d1 d2 d m) :=
  orUnreadBy_mquiet _ _ (MSpoils.bind fun _ => MSpoils.bind fun _ => MSpoils.pure fun s => sparing_quiet _ _ (scrambleAll_quiet _) s)
    (orCloseHalf_mquiet d m hm)

theorem preChecks_mquiet (kd : Desc) (td : Desc) : MQuiet (preChecks kd td) := by
  unfold preChecks
  repeat' (first
    | with_reducible exact MQuiet.pure _ | with_reducible refine halfChecks_mquiet _ _ _ _ ?_
    | with_reducible exact kernelSlots_mquiet _ _ | with_reducible exact fusedOk_mquiet _ _ _ | with_reducible exact holdRanges_mquiet _
    | with_reducible exact kernelRest_mquiet _ | with_reducible exact tileChecks_mquiet _ | with_reducible apply MQuiet.bind | dsimp only
    | intro _)

theorem postChecks_mquiet (td : Desc) (kd : Desc) : MQuiet (postChecks td kd) := by
  unfold postChecks
  repeat' (first
    | with_reducible exact MQuiet.pure _ | with_reducible exact MQuiet.getS | with_reducible exact MQuiet.needDesc _
    | with_reducible refine halfChecks_mquiet _ _ _ _ ?_ | with_reducible exact tileSlots_mquiet _
    | with_reducible exact holdRanges_mquiet _ | with_reducible exact tileRest_mquiet _ _ _ _
    | with_reducible exact kernelSlots_mquiet _ _ | with_reducible exact fusedOk_mquiet _ _ _ | with_reducible exact kernelRest_mquiet _
    | with_reducible apply MQuiet.bind | dsimp only | intro _)

theorem fusedChecks_mquiet (d1 : Desc) (d2 : Desc) : MQuiet (fusedChecks d1 d2) := by
  unfold fusedChecks
  repeat' (first
    | with_reducible exact MQuiet.pure _ | with_reducible exact MQuiet.needDesc _ | with_reducible exact preChecks_mquiet _ _
    | with_reducible exact postChecks_mquiet _ _ | with_reducible exact holdRanges_mquiet _ | with_reducible apply MQuiet.bind
    | dsimp only | intro _ | split)

theorem tileHalf_mquiet (d : Desc) (x : TileSlots) : MQuiet (tileHalf d x) := by
  unfold tileHalf
  repeat' (first
    | with_reducible exact setInfo_mquiet _ | with_reducible exact tileReadable_mquiet _ _ | with_reducible exact tileWork_mquiet _ _
    | with_reducible apply MQuiet.bind | intro _)

theorem kernelHalf_mquiet (d : Desc) (r : KReady) : MQuiet (kernelHalf d r) := by
  unfold kernelHalf
  repeat' (first
    | with_reducible exact kernelReadable_mquiet _ | with_reducible exact kernelWork_mquiet _ _ | with_reducible apply MQuiet.bind
    | intro _)

theorem firstHalf_mquiet (d1 : Desc) (d2 : Desc) : MQuiet (firstHalf d1 d2) := by
  unfold firstHalf
  repeat' (first
    | with_reducible exact MQuiet.getS | with_reducible exact setInfo_mquiet _ | with_reducible exact fusedChecks_mquiet _ _
    | with_reducible refine holding_mquiet _ _ ?_ | with_reducible refine orUnread_mquiet _ _ ?_
    | with_reducible exact kernelHalf_mquiet _ _ | with_reducible exact tileHalf_mquiet _ _ | with_reducible apply MQuiet.bind
    | dsimp only | intro _ | split)

theorem secondHalf_mquiet (d : Desc) : MQuiet (secondHalf d) := by
  unfold secondHalf
  repeat' (first
    | with_reducible exact setInfo_mquiet _ | with_reducible refine orUnread_mquiet _ _ ?_ | with_reducible exact kernelHalf_mquiet _ _
    | with_reducible exact kernelSlots_mquiet _ _ | with_reducible exact tileHalf_mquiet _ _ | with_reducible exact tileSlots_mquiet _
    | with_reducible apply MQuiet.bind | intro _ | split)

theorem pushBoth_quiet (qp : Fin 64) (idx : W32) (d1 : Desc) (d2 : Desc) (st : Status) (s : State) : Quiet s
    (pushBoth qp idx d1 d2 st s) := by
  unfold pushBoth
  repeat' (first
    | with_reducible exact Quiet.refl _ | dsimp only | with_reducible apply Quiet.trans ?_ (pushInFlight_quiet _ _))

theorem dropAnswer_quiet {α : Type} {s : State} {r : Except Fail α × Work} (h : Quiet s r.2.s) : Quiet s (dropAnswer r).2.s := h

theorem runFused_quiet (qp : Fin 64) (idx : W32) (d1 d2 : Desc) (s : State) : Quiet s (runFused qp idx d1 d2 s) := by
  unfold runFused
  dsimp only
  split
  · exact (((openStep_quiet d1 s).trans (askFor_quiet _ _ _)).trans (pushInFlight_quiet _ _)).trans (pushInFlight_quiet _ _)
  · have h := runWork_quiet (firstHalf d1 d2) (firstHalf_mquiet d1 d2) (openStep d1 s)
    exact ((((openStep_quiet d1 s).trans (dropAnswer_quiet h)).trans (settleEntry_quiet _ _ _ _)).trans (pushInFlight_quiet _ _)).trans
      (pushInFlight_quiet _ _)

theorem startFused_calm (qp : Fin 64) (d1 d2 : Desc) (s : State) : Calm s (startFused qp d1 d2 s) := by
  unfold startFused
  refine (advanceHead_calm qp 2 s).trans ?_
  dsimp only
  have h1 := headChecks_quiet (advanceHead qp 2 s) (s.q.qps[qp]).head d1
  generalize headChecks (advanceHead qp 2 s) _ d1 = c1 at h1 ⊢
  split
  · exact (h1.trans (pushBoth_quiet _ _ _ _ _ _)).calm
  · have h2 := h1.trans (headChecks_quiet c1.2 ((s.q.qps[qp]).head + 1) d2)
    generalize headChecks c1.2 _ d2 = c2 at h2 ⊢
    split
    · exact (h2.trans (pushBoth_quiet _ _ _ _ _ _)).calm
    · exact (h2.trans (runFused_quiet _ _ _ _ _)).calm

theorem retryFirst_quiet (e x : InFlight) (h : FusedHalf) (d1 : Desc) (df : Defaults) (s : State) :
    Quiet s (retryFirst e x h d1 df s) := by
  unfold retryFirst
  dsimp only
  split
  · exact askFor_quiet _ _ _
  · have w := runWorkAt_quiet e.order e.lines _ (underDefaults_mquiet df _ (firstHalf_mquiet d1 h.d)) s
    exact (((dropAnswer_quiet w).trans (settleEntry_quiet _ _ _ _)).trans (setInFlight_quiet _ _)).trans (setInFlight_quiet _ _)

theorem runSecond_quiet (x : InFlight) (h : FusedHalf) (s : State) : Quiet s (runSecond x h s) := by
  unfold runSecond
  dsimp only
  split
  · exact (askFor_quiet _ _ _).trans (setInFlight_quiet _ _)
  · have w := runWorkAt_quiet x.order x.lines _
      (underDefaults_mquiet h.defaults _ (holding_mquiet h.held _ (secondHalf_mquiet h.d))) s
    exact ((dropAnswer_quiet w).trans (settleEntry_quiet _ _ _ _)).trans (setInFlight_quiet _ _)

theorem followOn_quiet (e : InFlight) (s : State) : Quiet s (followOn e s) := by
  unfold followOn
  repeat' (first
    | with_reducible exact Quiet.refl _ | with_reducible apply Quiet.trans ?_ (setInFlight_quiet _ _)
    | with_reducible apply Quiet.trans ?_ (runSecond_quiet _ _ _) | split)

theorem execFusedPair_calm (qp : Fin 64) (d1 : Desc) (d2 : Desc) (s : State) {t : State} (h : execFusedPair qp d1 d2 s = .next t)
    : Calm s t := by
  unfold execFusedPair at h
  repeat' (first
    | split at h | cases h | dsimp only at h | with_reducible exact Calm.refl _
    | with_reducible apply Calm.trans ?_ (startFused_calm _ _ _ _) | with_reducible apply Calm.trans ?_ (showFront_calm _ _ _))

theorem askNext_calm (qp : Fin 64) (d : Desc) (s : State) : Calm s (askNext qp d s) := by
  unfold askNext
  repeat' (first
    | with_reducible exact Calm.refl _ | dsimp only | with_reducible apply Calm.trans ?_ ((askLines_quiet _ _ _).calm)
    | with_reducible apply Calm.trans ?_ (showFront_calm _ _ _))

theorem startTile_calm {isRow : Bool} {qp : Fin 64} {d : Desc} {s t : State} (h : startTile isRow qp d s = .next t) : Calm s t := by
  unfold startTile at h
  split at h
  · cases h
  · split at h
    · cases h
      exact askNext_calm qp d s
    · split at h
      · exact execFusedPair_calm _ _ _ _ h
      · exact startDesc_calm (tileBody_mquiet d) h

theorem execTile_calm (qp : Fin 64) (d : Desc) (s : State) {t : State} (h : execTile qp d s = .next t) : Calm s t := by
  unfold execTile at h
  repeat' (first
    | with_reducible refine startTile_calm h)

theorem execTerraceOpen_calm (qp : Fin 64) (d : Desc) (s : State) {t : State} (h : execTerraceOpen qp d s = .next t) : Calm s t := by
  unfold execTerraceOpen at h
  repeat' (first
    | with_reducible refine startTile_calm h)

theorem execTerraceContribute_calm (qp : Fin 64) (d : Desc) (s : State) {t : State} (h : execTerraceContribute qp d s = .next t)
    : Calm s t := by
  unfold execTerraceContribute at h
  repeat' (first
    | with_reducible refine startTile_calm h)

theorem execTerraceClose_calm (qp : Fin 64) (d : Desc) (s : State) {t : State} (h : execTerraceClose qp d s = .next t) : Calm s t := by
  unfold execTerraceClose at h
  repeat' (first
    | with_reducible refine startTile_calm h)

/-! ### Attn -/

theorem getQEntry_mquiet (f : AttnFields) (i : Nat) : MQuiet (getQEntry f i) := by
  unfold getQEntry
  repeat' (first
    | with_reducible exact MQuiet.pure _ | with_reducible exact MQuiet.needDesc _ | with_reducible exact readU64_mquiet _
    | with_reducible apply MQuiet.bind | dsimp only | intro _)

theorem attnSlot_mquiet (f : AttnFields) (tokens : Nat) (n : Nat) : MQuiet (attnSlot f tokens n) := by
  unfold attnSlot
  repeat' (first
    | with_reducible exact MQuiet.pure _ | with_reducible exact MQuiet.needDesc _ | with_reducible exact readU64_mquiet _
    | with_reducible exact getOut_mquiet _ | with_reducible exact getIn_mquiet _ _ _ | with_reducible apply MQuiet.bind | dsimp only
    | intro _ | split)

theorem getPage_mquiet (a : Nat) (fmt : Nat) (bytes : Nat) (j : Nat) : MQuiet (getPage a fmt bytes j) := by
  unfold getPage
  repeat' (first
    | with_reducible exact MQuiet.pure _ | with_reducible exact MQuiet.needDesc _ | with_reducible exact readU64_mquiet _
    | with_reducible exact needInStacks_mquiet _ _ | with_reducible apply MQuiet.bind | dsimp only | intro _)

theorem getPages_mquiet (a : Nat) (n : Nat) (fmt : Nat) (bytes : Nat) : MQuiet (getPages a n fmt bytes) := by
  unfold getPages
  repeat' (first
    | with_reducible exact needMapped_mquiet _ _ | with_reducible exact getPage_mquiet _ _ _ _ | with_reducible apply MQuiet.bind
    | with_reducible apply MQuiet.mapM | intro _)

theorem loadPages_mquiet (f : AttnFields) (e : QEntry) : MQuiet (loadPages f e) := by
  unfold loadPages
  repeat' (first
    | with_reducible exact MQuiet.pure _ | with_reducible exact getPages_mquiet _ _ _ _ | with_reducible apply MQuiet.bind | dsimp only
    | intro _ | split)

theorem kvRow_mquiet (f : AttnFields) (e : QEntry) (part : Nat) (h : Nat) (pos : Nat) : MQuiet (kvRow f e part h pos) := by
  unfold kvRow
  repeat' (first
    | with_reducible exact MQuiet.pure _ | with_reducible refine inTurn_mquiet _ _ ?_ | with_reducible exact readBytes_mquiet _ _
    | with_reducible apply MQuiet.bind | dsimp only | intro _)

theorem kvRows_mquiet (f : AttnFields) (e : QEntry) (part : Nat) (h : Nat) : MQuiet (kvRows f e part h) := by
  unfold kvRows
  repeat' (first
    | with_reducible exact kvRow_mquiet _ _ _ _ _ | with_reducible apply MQuiet.mapM | intro _)

theorem addEv_mquiet (e : AttnEv) : MQuiet (addEv e) := by
  unfold addEv
  repeat' (first
    | with_reducible apply MQuiet.modify | with_reducible exact Quiet.refl _ | dsimp only | intro _)

theorem appendRow_mquiet (f : AttnFields) (e : QEntry) (seed : Nat) (prop : Bool) (st : Bool) (part : Nat) (h : Nat) (pos : Nat) (src
    : Nat → F32) : MQuiet (appendRow f e seed prop st part h pos src) := by
  unfold appendRow
  repeat' (first
    | with_reducible exact addEv_mquiet _ | with_reducible refine inTurn_mquiet _ _ ?_ | with_reducible exact writeBytes_mquiet _ _
    | with_reducible apply MQuiet.bind | intro _)

theorem appendEntry_mquiet (f : AttnFields) (seed : Nat) (kNew : Operand) (vNew : Operand) (e : QEntry) : MQuiet
    (appendEntry f seed kNew vNew e) := by
  unfold appendEntry
  repeat' (first
    | with_reducible exact MQuiet.getS | with_reducible exact appendRow_mquiet _ _ _ _ _ _ _ _ _ | with_reducible apply MQuiet.bind
    | with_reducible apply MQuiet.forM | dsimp only | intro _)

theorem writePart_mquiet (t : TRec) (m : OutMode) (row : Nat) (R : Nat) (C : Nat) (v : Nat → Nat → Num) : MQuiet
    (writePart t m row R C v) := by
  unfold writePart
  repeat' (first
    | with_reducible exact MQuiet.get | with_reducible exact writeTensor_mquiet _ _ _ _ _ | with_reducible exact addEv_mquiet _
    | with_reducible apply MQuiet.bind | with_reducible apply MQuiet.discard | dsimp only | intro _)

theorem writeRow_mquiet (t : TRec) (m : OutMode) (row : Nat) (f : F32) (v : List F32) : MQuiet (writeRow t m row f v) := by
  unfold writeRow
  repeat' (first
    | with_reducible exact writePart_mquiet _ _ _ _ _ _)

theorem writeRowBlock_mquiet (t : TRec) (m : OutMode) (R : Nat) (rows : List (Nat × (Nat → Num))) (b : Nat) : MQuiet
    (writeRowBlock t m R rows b) := by
  unfold writeRowBlock
  repeat' (first
    | with_reducible exact writePart_mquiet _ _ _ _ _ _ | with_reducible exact writeFree_mquiet _ _ | with_reducible apply MQuiet.bind
    | dsimp only | intro _ | split)

theorem writeRows_mquiet (t : TRec) (m : OutMode) (R : Nat) (rows : List (Nat × (Nat → Num))) : MQuiet (writeRows t m R rows) := by
  unfold writeRows
  repeat' (first
    | with_reducible exact writeRowBlock_mquiet _ _ _ _ _ | with_reducible exact writePart_mquiet _ _ _ _ _ _
    | with_reducible apply MQuiet.forM | intro _ | split)

theorem attnForwardEntry_mquiet (r : AttnReady) (seed : Nat) (q : Operand) (o : OutSlot) (lse : OutSlot) (e : QEntry) : MQuiet
    (attnForwardEntry r seed q o lse e) := by
  unfold attnForwardEntry
  repeat' (first
    | with_reducible exact MQuiet.getS | with_reducible exact kvRows_mquiet _ _ _ _ | with_reducible exact addEv_mquiet _
    | with_reducible exact writeRow_mquiet _ _ _ _ _ | with_reducible apply MQuiet.bind | with_reducible apply MQuiet.forM | dsimp only
    | intro _)

theorem addGrad_mquiet (a : Nat) (g : List F32) : MQuiet (addGrad a g) := by
  unfold addGrad
  repeat' (first
    | with_reducible refine inTurn_mquiet _ _ ?_ | with_reducible exact readBytes_mquiet _ _ | with_reducible exact addEv_mquiet _
    | with_reducible exact writeBytes_mquiet _ _ | with_reducible apply MQuiet.bind | dsimp only | intro _)

theorem attnBackwardEntry_mquiet (r : AttnReady) (q : Operand) (o : Operand) (lse : Operand) (dO : Operand) (dq : OutSlot) (e : QEntry)
    : MQuiet (attnBackwardEntry r q o lse dO dq e) := by
  unfold attnBackwardEntry
  repeat' (first
    | with_reducible exact MQuiet.pure _ | with_reducible exact kvRows_mquiet _ _ _ _ | with_reducible exact addEv_mquiet _
    | with_reducible exact addGrad_mquiet _ _ | with_reducible apply MQuiet.bind | with_reducible apply MQuiet.mapM
    | with_reducible apply MQuiet.forM | dsimp only | intro _)

theorem attnNames_mquiet (d : Desc) : MQuiet (attnNames d) := by
  unfold attnNames
  repeat' (first
    | with_reducible exact MQuiet.pure _ | with_reducible exact MQuiet.needDesc _ | with_reducible exact needMapped_mquiet _ _
    | with_reducible exact getQEntry_mquiet _ _ | with_reducible exact attnSlot_mquiet _ _ _ | with_reducible apply MQuiet.bind
    | with_reducible apply MQuiet.mapM | dsimp only | intro _)

theorem attnChecks_mquiet (d : Desc) : MQuiet (attnChecks d) := by
  unfold attnChecks
  repeat' (first
    | with_reducible exact MQuiet.pure _ | with_reducible exact MQuiet.getS | with_reducible exact MQuiet.need _ _
    | with_reducible exact attnNames_mquiet _ | with_reducible exact needPlazas_mquiet _ _ | with_reducible exact needOutBacked_mquiet _
    | with_reducible exact needEntryTurn_mquiet _ | with_reducible exact needStash_mquiet _ | with_reducible exact loadPages_mquiet _ _
    | with_reducible exact needOutWritable_mquiet _ | with_reducible apply MQuiet.bind | with_reducible apply MQuiet.mapM | intro _)

theorem attnReach_mquiet (d : Desc) : MQuiet (attnReach d) := by
  unfold attnReach
  repeat' (first
    | with_reducible exact MQuiet.pure _ | with_reducible refine orNone_mquiet _ ?_ | with_reducible exact getQEntry_mquiet _ _
    | with_reducible exact attnSlot_mquiet _ _ _ | with_reducible exact getPage_mquiet _ _ _ _ | with_reducible apply MQuiet.bind
    | with_reducible apply MQuiet.mapM | dsimp only | intro _ | split)

theorem attnOpen_mquiet (r : AttnReady) (tokens : Nat) (n : Nat) : MQuiet (attnOpen r tokens n) := by
  unfold attnOpen
  repeat' (first
    | with_reducible exact MQuiet.pure _ | with_reducible exact InSlot.openR_mquiet _ _ _ | split)

theorem attnLoad_mquiet (r : AttnReady) (q : Operand) (dO : Operand) : MQuiet (attnLoad r q dO) := by
  unfold attnLoad
  repeat' (first
    | with_reducible apply MQuiet.modify | with_reducible exact Quiet.refl _ | dsimp only
    | with_reducible apply Quiet.trans ?_ (attnSquares_quiet _ _ _ _ _) | intro _)

theorem attnCompute_mquiet (r : AttnReady) : MQuiet (attnCompute r) := by
  unfold attnCompute
  repeat' (first
    | with_reducible exact MQuiet.pure _ | with_reducible exact MQuiet.getS | with_reducible exact attnOpen_mquiet _ _ _
    | with_reducible exact appendEntry_mquiet _ _ _ _ _ | with_reducible exact attnLoad_mquiet _ _ _
    | with_reducible exact attnForwardEntry_mquiet _ _ _ _ _ _ | with_reducible exact captureAll_mquiet _
    | with_reducible exact attnBackwardEntry_mquiet _ _ _ _ _ _ _ | with_reducible exact writeRows_mquiet _ _ _ _
    | with_reducible apply MQuiet.bind | with_reducible apply MQuiet.mapM | with_reducible apply MQuiet.forM | dsimp only | intro _
    | split)

theorem attnReady_mquiet (d : Desc) : MQuiet (attnReady d) := by
  unfold attnReady
  repeat' (first
    | with_reducible exact MQuiet.pure _ | with_reducible exact attnChecks_mquiet _ | with_reducible exact needReadable_mquiet _ _
    | with_reducible apply MQuiet.bind | dsimp only | intro _ | split)

theorem attnWork_mquiet (d : Desc) (r : AttnReady) : MQuiet (attnWork d r) := by
  unfold attnWork
  repeat' (first
    | with_reducible exact countSkip_mquiet  | with_reducible exact awaitPlazas_mquiet _ _ | with_reducible exact inStartOrder_mquiet _
    | with_reducible exact useKiosks_mquiet _ _ _ | with_reducible refine orScramble_mquiet _ _ ?_
    | with_reducible exact attnCompute_mquiet _ | with_reducible apply MQuiet.bind | intro _ | split)

theorem attnBody_mquiet (d : Desc) : MQuiet (attnBody d) := by
  unfold attnBody
  repeat' (first
    | with_reducible exact attnWork_mquiet _ _ | with_reducible refine orUnread_mquiet _ _ ?_ | with_reducible exact attnReady_mquiet _
    | with_reducible apply MQuiet.bind | intro _)

theorem execAttnForward_calm (qp : Fin 64) (d : Desc) (s : State) {t : State} (h : execAttnForward qp d s = .next t) : Calm s t := by
  unfold execAttnForward at h
  repeat' (first
    | with_reducible refine startDesc_calm ?_ h | with_reducible exact attnBody_mquiet _)

theorem execAttnBackward_calm (qp : Fin 64) (d : Desc) (s : State) {t : State} (h : execAttnBackward qp d s = .next t) : Calm s t := by
  unfold execAttnBackward at h
  repeat' (first
    | with_reducible refine startDesc_calm ?_ h | with_reducible exact attnBody_mquiet _)

theorem execAppendOnly_calm (qp : Fin 64) (d : Desc) (s : State) {t : State} (h : execAppendOnly qp d s = .next t) : Calm s t := by
  unfold execAppendOnly at h
  repeat' (first
    | with_reducible refine startDesc_calm ?_ h | with_reducible exact attnBody_mquiet _)

/-! ### Batch -/

theorem schedWrite_quiet (a : Nat) (bs : List Byte) (s : State) : Quiet s (schedWrite a bs s) := by
  unfold schedWrite
  repeat' (first
    | with_reducible exact Quiet.refl _ | with_reducible apply Quiet.trans ?_ (sendWr_quiet _ _ _ _)
    | with_reducible apply Quiet.trans ?_ (poke_quiet _ _ _))

theorem writeBatch_quiet (h : BatchHead) (es : List BatchEntry) (s : State) : Quiet s (writeBatch h es s) := by
  unfold writeBatch
  have h1 := Quiet.foldl (fun s p => schedWrite_quiet p.1 p.2 s)
    (ringPieces s.sched.recBase.toNat s.sched.recBytes.toNat s.sched.recProduced.toNat (batchBytes s h es)) s
  have h2 := h1.trans (schedWrite_quiet (s.sched.recBase.toNat + 128)
    (leBytes 8 (s.sched.recProduced + BitVec.ofNat 64 (batchBytes s h es).length).toNat) _)
  exact h2.trans ⟨⟨rfl, rfl, rfl, rfl, rfl, rfl, rfl, id, fun _ h => h⟩, rfl, rfl, rfl, rfl, rfl⟩

theorem freeSlot_quiet (n : Nat) (s : State) : Quiet s (freeSlot n s) := by
  unfold freeSlot
  repeat' (first
    | with_reducible exact Quiet.refl _ | dsimp only
    | (apply Quiet.upd; (case e1 => dsimp only; with_reducible exact Is.rfl); iterate 10 dsimp only))

theorem showFree_quiet (s : State) : Quiet s (showFree s) := by
  unfold showFree
  repeat' (first
    | with_reducible exact Quiet.refl _ | dsimp only
    | (apply Quiet.upd; (case e1 => dsimp only; with_reducible exact Is.rfl); iterate 10 dsimp only))

theorem suspendSlot_quiet (n : Nat) (s : State) : Quiet s (suspendSlot n s) := by
  unfold suspendSlot
  repeat' (first
    | with_reducible exact Quiet.refl _ | dsimp only
    | (apply Quiet.upd; (case e1 => dsimp only; with_reducible exact Is.rfl); iterate 10 dsimp only))

theorem settle_quiet (r : TurnReq) (s : State) : Quiet s (settle r s) := by
  unfold settle
  repeat' (first
    | with_reducible exact Quiet.refl _ | dsimp only | with_reducible apply Quiet.trans ?_ (freeSlot_quiet _ _)
    | with_reducible apply Quiet.trans ?_ (suspendSlot_quiet _ _) | with_reducible apply Quiet.fold
    | (apply Quiet.upd; (case e1 => dsimp only; with_reducible exact Is.rfl); iterate 10 dsimp only) | split | intro _)

theorem settleAll_quiet (r : TurnReq) (s : State) : Quiet s (settleAll r s) := by
  unfold settleAll
  repeat' (first
    | with_reducible exact Quiet.refl _ | dsimp only | with_reducible apply Quiet.trans ?_ (showFree_quiet _)
    | with_reducible apply Quiet.trans ?_ (settle_quiet _ _) | with_reducible apply Quiet.trans ?_ (writeBatch_quiet _ _ _) | split)

/-! ### Link -/

theorem setPhase_quiet (i : LinkId) (p : LinkPhase) (s : State) : Quiet s (setPhase i p s) := by
  unfold setPhase
  repeat' (first
    | with_reducible exact Quiet.refl _ | dsimp only | with_reducible apply Quiet.trans ?_ (setLink_quiet _ _ _)
    | with_reducible apply Quiet.trans ?_ (raiseAlert_quiet _ _) | split)

/-- A command of a link does what its effect does, or nothing. -/
theorem linkDo_keeps {R : State → State → Prop} {i : LinkId} {c : Bool} {f : State → State} {s t : State} (hr : R s s)
    (hf : ∀ s, R s (f s)) (h : linkDo i c f s = .next t) : R s t := by
  unfold linkDo at h
  repeat' (first | split at h | cases h)
  · exact hf s
  · exact hr

theorem returnCredits_quiet (i : LinkId) (s : State) : Quiet s (returnCredits i s) := by
  unfold returnCredits
  repeat' (first
    | with_reducible exact Quiet.refl _ | dsimp only | with_reducible apply Quiet.trans ?_ (sendFlit_quiet _ _ _)
    | with_reducible apply Quiet.trans ?_ (setLink_quiet _ _ _) | split)

theorem returnOwed_quiet (i : LinkId) (s : State) : Quiet s (returnOwed i s) := by
  unfold returnOwed
  repeat' (first
    | with_reducible exact Quiet.refl _ | with_reducible apply Quiet.trans ?_ (returnCredits_quiet _ _) | split)

theorem takeAck_quiet (i : LinkId) (a : BitVec 12) (s : State) : Quiet s (takeAck i a s) := by
  unfold takeAck
  repeat' (first
    | with_reducible exact Quiet.refl _ | with_reducible apply Quiet.trans ?_ (transmit_quiet _ _)
    | with_reducible apply Quiet.trans ?_ (returnOwed_quiet _ _) | with_reducible apply Quiet.trans ?_ (setLink_quiet _ _ _))

theorem resendAll_quiet (i : LinkId) (s : State) : Quiet s (resendAll i s) := by
  unfold resendAll
  repeat' (first
    | with_reducible exact Quiet.refl _ | dsimp only | with_reducible apply Quiet.trans ?_ (putSequenced_quiet _ _ _)
    | with_reducible apply Quiet.trans ?_ (setLink_quiet _ _ _) | with_reducible apply Quiet.fold | intro _)

theorem startTraining_quiet (i : LinkId) (p : LinkPhase) (s : State) : Quiet s (startTraining i p s) := by
  unfold startTraining
  repeat' (first
    | with_reducible exact Quiet.refl _ | dsimp only | with_reducible apply Quiet.trans ?_ (setPhase_quiet _ _ _)
    | with_reducible apply Quiet.trans ?_ (setLink_quiet _ _ _))

theorem execAck_calm (l : LinkId) (ack : BitVec 12) (s : State) {t : State} (h : execAck l ack s = .next t) : Calm s t := by
  unfold execAck at h
  repeat' (first
    | with_reducible refine linkDo_keeps (Calm.refl _) (fun _ => ?_) h | with_reducible exact Calm.refl _
    | with_reducible apply Calm.trans ?_ ((takeAck_quiet _ _ _).calm))

theorem execNak_calm (l : LinkId) (ack : BitVec 12) (s : State) {t : State} (h : execNak l ack s = .next t) : Calm s t := by
  unfold execNak at h
  repeat' (first
    | with_reducible refine linkDo_keeps (Calm.refl _) (fun _ => ?_) h | with_reducible exact Calm.refl _
    | with_reducible apply Calm.trans ?_ ((transmit_quiet _ _).calm) | with_reducible apply Calm.trans ?_ ((returnOwed_quiet _ _).calm)
    | with_reducible apply Calm.trans ?_ ((resendAll_quiet _ _).calm) | with_reducible apply Calm.trans ?_ ((setLink_quiet _ _ _).calm))

theorem retryOnce_quiet (i : LinkId) (s : State) : Quiet s (retryOnce i s) := by
  unfold retryOnce
  repeat' (first
    | with_reducible exact Quiet.refl _ | dsimp only | with_reducible apply Quiet.trans ?_ (resendAll_quiet _ _)
    | with_reducible apply Quiet.trans ?_ (startTraining_quiet _ _ _) | with_reducible apply Quiet.trans ?_ (setLink_quiet _ _ _) | split)

theorem execRetryTimeout_calm (l : LinkId) (s : State) {t : State} (h : execRetryTimeout l s = .next t) : Calm s t := by
  unfold execRetryTimeout at h
  repeat' (first
    | with_reducible refine linkDo_keeps (Calm.refl _) (fun _ => ?_) h | with_reducible exact Calm.refl _
    | with_reducible apply Calm.trans ?_ ((retryOnce_quiet _ _).calm))

theorem sendNak_quiet (i : LinkId) (s : State) : Quiet s (sendNak i s) := by
  unfold sendNak
  repeat' (first
    | with_reducible exact Quiet.refl _ | dsimp only | with_reducible apply Quiet.trans ?_ (putFlit_quiet _ _ _ _ _ _)
    | with_reducible apply Quiet.trans ?_ (setLink_quiet _ _ _))

theorem nakOnce_quiet (i : LinkId) (s : State) : Quiet s (nakOnce i s) := by
  unfold nakOnce
  repeat' (first
    | with_reducible exact Quiet.refl _ | dsimp only | with_reducible apply Quiet.trans ?_ (sendNak_quiet _ _) | split)

theorem countBadFlit_quiet (i : LinkId) (s : State) : Quiet s (countBadFlit i s) := by
  unfold countBadFlit
  repeat' (first
    | with_reducible exact Quiet.refl _ | dsimp only | with_reducible apply Quiet.trans ?_ (setLink_quiet _ _ _))

theorem dropFlit_quiet (i : LinkId) (b : BadFlit) (s : State) : Quiet s (dropFlit i b s) := by
  unfold dropFlit
  repeat' (first
    | with_reducible exact Quiet.refl _ | with_reducible apply Quiet.trans ?_ (nakOnce_quiet _ _)
    | with_reducible apply Quiet.trans ?_ (countBadFlit_quiet _ _) | split)

theorem execCrcFailure_calm (l : LinkId) (bad : BadFlit) (s : State) {t : State} (h : execCrcFailure l bad s = .next t) : Calm s t := by
  unfold execCrcFailure at h
  repeat' (first
    | with_reducible refine linkDo_keeps (Calm.refl _) (fun _ => ?_) h | split at h | dsimp only at h | with_reducible exact Calm.refl _
    | with_reducible apply Calm.trans ?_ ((dropFlit_quiet _ _ _).calm))

theorem arrived_quiet (i : LinkId) (pool : Nat) (units : Nat) (s : State) : Quiet s (arrived i pool units s) := by
  unfold arrived
  repeat' (first
    | with_reducible exact Quiet.refl _ | dsimp only | with_reducible apply Quiet.trans ?_ (setLink_quiet _ _ _)
    | with_reducible apply Quiet.trans ?_ (returnCredits_quiet _ _)
    | (apply Quiet.upd; (case e1 => dsimp only; with_reducible exact Is.rfl); iterate 10 dsimp only) | split)

theorem takeCredit_quiet (i : LinkId) (ack : BitVec 12) (seq : BitVec 12) (returns : List W32) (s : State) : Quiet s
    (takeCredit i ack seq returns s) := by
  unfold takeCredit
  repeat' (first
    | with_reducible exact Quiet.refl _ | dsimp only | with_reducible apply Quiet.trans ?_ (takeAck_quiet _ _ _)
    | with_reducible apply Quiet.trans ?_ (setLink_quiet _ _ _) | with_reducible apply Quiet.trans ?_ (dropFlit_quiet _ _ _) | split)

theorem execCredit_calm (l : LinkId) (ack : BitVec 12) (seq : BitVec 12) (returns : List W32) (s : State) {t : State} (h
    : execCredit l ack seq returns s = .next t) : Calm s t := by
  unfold execCredit at h
  repeat' (first
    | with_reducible refine linkDo_keeps (Calm.refl _) (fun _ => ?_) h | split at h | cases h | with_reducible exact Calm.refl _
    | with_reducible apply Calm.trans ?_ ((takeCredit_quiet _ _ _ _ _).calm))

theorem execCreditReturnTimeout_calm (l : LinkId) (s : State) {t : State} (h : execCreditReturnTimeout l s = .next t) : Calm s t := by
  unfold execCreditReturnTimeout at h
  repeat' (first
    | with_reducible refine linkDo_keeps (Calm.refl _) (fun _ => ?_) h | with_reducible exact Calm.refl _
    | with_reducible apply Calm.trans ?_ ((returnCredits_quiet _ _).calm))

theorem sendPacket_quiet (av : Fin 8) (p : Packet) (s : State) : Quiet s (sendPacket av p s) := by
  unfold sendPacket
  repeat' (first
    | with_reducible exact Quiet.refl _ | with_reducible apply Quiet.trans ?_ (linkPost_quiet _ _ _))

theorem sendPeerState_quiet (av : Fin 8) (s : State) : Quiet s (sendPeerState av s) := by
  unfold sendPeerState
  repeat' (first
    | with_reducible exact Quiet.refl _ | with_reducible apply Quiet.trans ?_ (sendPacket_quiet _ _ _))

theorem endFwRx_quiet (s : State) : Quiet s (endFwRx s) := by
  unfold endFwRx
  repeat' (first
    | with_reducible exact Quiet.refl _ | dsimp only | with_reducible apply Quiet.trans ?_ (raiseAlert_quiet _ _)
    | (apply Quiet.upd; (case e1 => dsimp only; with_reducible exact Is.rfl); iterate 10 dsimp only))

theorem endFwTx_quiet (s : State) : Quiet s (endFwTx s) := by
  unfold endFwTx
  repeat' (first
    | with_reducible exact Quiet.refl _ | dsimp only | with_reducible apply Quiet.trans ?_ (raiseAlert_quiet _ _)
    | (apply Quiet.upd; (case e1 => dsimp only; with_reducible exact Is.rfl); iterate 10 dsimp only))

theorem abandonTransfers_quiet (i : LinkId) (s : State) : Quiet s (abandonTransfers i s) := by
  unfold abandonTransfers
  repeat' (first
    | with_reducible exact Quiet.refl _ | dsimp only | with_reducible apply Quiet.trans ?_ (endFwRx_quiet _)
    | with_reducible apply Quiet.trans ?_ (endFwTx_quiet _) | split)

theorem dropWaiting_quiet (av : Fin 8) (gone : OutMsg → Bool) (s : State) : Quiet s (dropWaiting av gone s) := by
  unfold dropWaiting
  repeat' (first
    | with_reducible exact Quiet.refl _ | dsimp only | with_reducible apply Quiet.trans ?_ (setLink_quiet _ _ _)
    | (apply Quiet.upd; (case e1 => dsimp only; with_reducible exact Is.rfl); iterate 10 dsimp only))

theorem dropLimited_quiet (av : Fin 8) (s : State) : Quiet s (dropLimited av s) := by
  unfold dropLimited
  repeat' (first
    | with_reducible exact Quiet.refl _ | with_reducible apply Quiet.trans ?_ (dropWaiting_quiet _ _ _))

theorem dropDisabled_quiet (av : Fin 8) (s : State) : Quiet s (dropDisabled av s) := by
  unfold dropDisabled
  repeat' (first
    | with_reducible exact Quiet.refl _ | with_reducible apply Quiet.trans ?_ (dropWaiting_quiet _ _ _))

theorem enterUp_quiet (i : LinkId) (s : State) : Quiet s (enterUp i s) := by
  unfold enterUp
  repeat' (first
    | with_reducible exact Quiet.refl _ | dsimp only | with_reducible apply Quiet.trans ?_ (setPhase_quiet _ _ _)
    | with_reducible apply Quiet.trans ?_ (transmit_quiet _ _) | with_reducible apply Quiet.trans ?_ (sendPeerState_quiet _ _)
    | with_reducible apply Quiet.trans ?_ (dropLimited_quiet _ _) | split)

theorem tryUp_quiet (i : LinkId) (s : State) : Quiet s (tryUp i s) := by
  unfold tryUp
  repeat' (first
    | with_reducible exact Quiet.refl _ | dsimp only | with_reducible apply Quiet.trans ?_ (enterUp_quiet _ _) | split)

theorem takeInit_quiet (i : LinkId) (m : InitMsg) (s : State) : Quiet s (takeInit i m s) := by
  unfold takeInit
  repeat' (first
    | with_reducible exact Quiet.refl _ | dsimp only | with_reducible apply Quiet.trans ?_ (tryUp_quiet _ _)
    | with_reducible apply Quiet.trans ?_ (setLink_quiet _ _ _) | with_reducible apply Quiet.trans ?_ (abandonTransfers_quiet _ _) | split)

theorem execInitFlit_calm (l : LinkId) (m : InitMsg) (s : State) {t : State} (h : execInitFlit l m s = .next t) : Calm s t := by
  unfold execInitFlit at h
  repeat' (first
    | with_reducible refine linkDo_keeps (Calm.refl _) (fun _ => ?_) h | split at h | cases h | with_reducible exact Calm.refl _
    | with_reducible apply Calm.trans ?_ ((takeInit_quiet _ _ _).calm) | split)

theorem sendInit_quiet (i : LinkId) (s : State) : Quiet s (sendInit i s) := by
  unfold sendInit
  repeat' (first
    | with_reducible exact Quiet.refl _ | dsimp only | with_reducible apply Quiet.trans ?_ (setLink_quiet _ _ _)
    | with_reducible apply Quiet.trans ?_ (tryUp_quiet _ _) | with_reducible apply Quiet.trans ?_ (putFlit_quiet _ _ _ _ _ _))

theorem execInitSend_calm (l : LinkId) (s : State) {t : State} (h : execInitSend l s = .next t) : Calm s t := by
  unfold execInitSend at h
  repeat' (first
    | with_reducible refine linkDo_keeps (Calm.refl _) (fun _ => ?_) h | with_reducible exact Calm.refl _
    | with_reducible apply Calm.trans ?_ ((sendInit_quiet _ _).calm))

theorem execFlitBoundaryLocated_calm (l : LinkId) (s : State) {t : State} (h : execFlitBoundaryLocated l s = .next t) : Calm s t := by
  unfold execFlitBoundaryLocated at h
  repeat' (first
    | with_reducible refine linkDo_keeps (Calm.refl _) (fun _ => ?_) h | with_reducible exact Calm.refl _
    | with_reducible apply Calm.trans ?_ ((setPhase_quiet _ _ _).calm))

theorem execTrainingTimeout_calm (l : LinkId) (s : State) {t : State} (h : execTrainingTimeout l s = .next t) : Calm s t := by
  unfold execTrainingTimeout at h
  repeat' (first
    | with_reducible refine linkDo_keeps (Calm.refl _) (fun _ => ?_) h | dsimp only at h | with_reducible exact Calm.refl _
    | with_reducible apply Calm.trans ?_ ((startTraining_quiet _ _ _).calm))

theorem losePll_calm (i : LinkId) (s : State) : Calm s (losePll i s) := by
  unfold losePll
  repeat' (first
    | with_reducible exact Calm.refl _ | dsimp only | with_reducible apply Calm.trans ?_ ((startTraining_quiet _ _ _).calm)
    | (apply Calm.upd; (case e1 => dsimp only; with_reducible exact Is.rfl); iterate 8 dsimp only) | split)

theorem execLinkPllLockLoss_calm (l : LinkId) (s : State) {t : State} (h : execLinkPllLockLoss l s = .next t) : Calm s t := by
  unfold execLinkPllLockLoss at h
  repeat' (first
    | with_reducible refine linkDo_keeps (Calm.refl _) (fun _ => ?_) h | with_reducible exact Calm.refl _
    | with_reducible apply Calm.trans ?_ (losePll_calm _ _))

/-! ### Bundle -/

theorem offerOnward_quiet (len : Nat) (digest : List Byte) (s : State) : Quiet s (offerOnward len digest s) := by
  unfold offerOnward
  repeat' (first
    | with_reducible exact Quiet.refl _ | dsimp only | with_reducible apply Quiet.trans ?_ (sendPacket_quiet _ _ _)
    | (apply Quiet.upd; (case e1 => dsimp only; with_reducible exact Is.rfl); iterate 10 dsimp only) | split)

theorem startStaging_quiet (fromChain : Bool) (s0 : State) : Quiet s0 (startStaging fromChain s0) := by
  unfold startStaging
  repeat' (first
    | with_reducible exact Quiet.refl _ | dsimp only | with_reducible apply Quiet.trans ?_ (readByHall_quiet _ _ _)
    | with_reducible apply Quiet.trans ?_ (offerOnward_quiet _ _ _)
    | (apply Quiet.upd; (case e1 => dsimp only; with_reducible exact Is.rfl); iterate 10 dsimp only) | split)

theorem endStaging_calm (w : StagingWork) (s : State) : Calm s (endStaging w s) := by
  have h : ∀ (x : FlashSlot) (b : Option (List Byte)) (p : Persist), (p.setSlot x b).keys = p.keys
      ∧ (p.setSlot x b).fuseSv = p.fuseSv ∧ (p.setSlot x b).omcenRevoked = p.omcenRevoked := fun x b p => by
    cases x <;> exact ⟨rfl, rfl, rfl⟩
  unfold endStaging
  dsimp only
  split
  · exact ⟨rfl, (h _ _ _).1, (h _ _ _).2.1, (h _ _ _).2.2, rfl, rfl, rfl, id, fun _ h => h⟩
  · refine Calm.trans ?_ (raiseAlert_quiet _ _).calm
    exact ⟨rfl, (h _ _ _).1, (h _ _ _).2.1, (h _ _ _).2.2, rfl, rfl, rfl, id, fun _ h => h⟩
  · refine Calm.trans ?_ (raiseAlert_quiet _ _).calm
    exact ⟨rfl, rfl, rfl, rfl, rfl, rfl, rfl, id, fun _ h => h⟩

theorem execStagingComplete_calm (s : State) {t : State} (h : execStagingComplete s = .next t) : Calm s t := by
  unfold execStagingComplete at h
  repeat' (first
    | split at h | cases h | with_reducible exact Calm.refl _ | with_reducible apply Calm.trans ?_ (endStaging_calm _ _))

/-! ### Care -/

theorem getCareNames_mquiet (w : List W64) : MQuiet (getCareNames w) := by
  unfold getCareNames
  repeat' (first
    | with_reducible exact MQuiet.pure _ | with_reducible refine soften_mquiet _ ?_ | with_reducible exact getTRec_mquiet _
    | with_reducible exact softPair_mquiet _ | with_reducible apply MQuiet.bind | dsimp only | intro _ | split)

theorem careRecOf_mquiet (a : Nat) (st : Nat) (w : List W64) (x : CareNames) : MQuiet (careRecOf a st w x) := by
  unfold careRecOf
  repeat' (first
    | with_reducible exact MQuiet.pure _ | with_reducible exact hardened_mquiet _ | with_reducible apply MQuiet.bind
    | with_reducible apply MQuiet.optMapM | dsimp only | intro _)

theorem getCareWords_mquiet (a : Nat) : MQuiet (getCareWords a) := by
  unfold getCareWords
  repeat' (first
    | with_reducible exact readU64_mquiet _ | with_reducible apply MQuiet.mapM | intro _)

theorem getCareRec_mquiet (f : CareFields) (a : Nat) : MQuiet (getCareRec f a) := by
  unfold getCareRec
  repeat' (first
    | with_reducible exact MQuiet.pure _ | with_reducible exact MQuiet.getS | with_reducible exact MQuiet.needDesc _
    | with_reducible exact MQuiet.fail _ | with_reducible refine soften_mquiet _ ?_ | with_reducible exact getCareWords_mquiet _
    | with_reducible exact getCareNames_mquiet _ | with_reducible exact careRecOf_mquiet _ _ _ _ | with_reducible apply MQuiet.bind
    | intro _ | split)

theorem getHyper_mquiet (a : Nat) : MQuiet (getHyper a) := by
  unfold getHyper
  repeat' (first
    | with_reducible exact MQuiet.pure _ | with_reducible exact needMapped_mquiet _ _ | with_reducible exact readBytes_mquiet _ _
    | with_reducible apply MQuiet.bind | dsimp only | intro _)

theorem getCareGate_mquiet (f : CareFields) : MQuiet (getCareGate f) := by
  unfold getCareGate
  repeat' (first
    | with_reducible exact MQuiet.pure _ | with_reducible exact MQuiet.getS | with_reducible exact MQuiet.needDesc _
    | with_reducible exact needInStacks_mquiet _ _ | with_reducible exact readU64_mquiet _ | with_reducible exact needMapped_mquiet _ _
    | with_reducible apply MQuiet.bind | dsimp only | intro _ | split)

theorem flatValues_mquiet (t : TRec) (n : Nat) : MQuiet (flatValues t n) := by
  unfold flatValues
  repeat' (first
    | with_reducible exact MQuiet.pure _ | with_reducible exact openRec_mquiet _ _ _ | with_reducible apply MQuiet.bind | intro _)

theorem writeFlat_mquiet (t : TRec) (prop : Bool) (rnd : Nat → Rnd) (v : List F32) : MQuiet (writeFlat t prop rnd v) := by
  unfold writeFlat
  repeat' (first
    | with_reducible exact writeTensor_mquiet _ _ _ _ _)

theorem f32Plane_mquiet (a : Nat) (n : Nat) : MQuiet (f32Plane a n) := by
  unfold f32Plane
  repeat' (first
    | with_reducible exact MQuiet.pure _ | with_reducible exact readBytes_mquiet _ _ | with_reducible apply MQuiet.bind | intro _)

theorem writeAmax_mquiet (r : CareRec) (amax : F32) (utag : W32) : MQuiet (writeAmax r amax utag) := by
  unfold writeAmax
  repeat' (first
    | with_reducible exact writeBytes_mquiet _ _ | with_reducible apply MQuiet.bind | intro _)

theorem CareRec.inTurn_mquiet {α : Type} (r : CareRec) (m : M α) (h : MQuiet m) : MQuiet (r.inTurn m) := Machine.inTurn_mquiet _ m h

theorem updateCalc_mquiet (h : Hyper) (o : CareOnce) (r : CareRec) : MQuiet (updateCalc h o r) := by
  unfold updateCalc
  repeat' (first
    | with_reducible exact MQuiet.pure _ | with_reducible exact f32Plane_mquiet _ _ | with_reducible exact flatValues_mquiet _ _
    | with_reducible apply MQuiet.bind | dsimp only | intro _ | split)

theorem updateWrite_mquiet (r : CareRec) (es : List CareElem) : MQuiet (updateWrite r es) := by
  unfold updateWrite
  repeat' (first
    | with_reducible exact MQuiet.getS | with_reducible exact writeBytes_mquiet _ _ | with_reducible exact writeFlat_mquiet _ _ _ _
    | with_reducible exact writeAmax_mquiet _ _ _ | with_reducible apply MQuiet.bind | with_reducible apply MQuiet.modS
    | with_reducible exact Quiet.refl _ | dsimp only
    | (apply Quiet.upd; (case e1 => dsimp only; with_reducible exact Is.rfl); iterate 10 dsimp only) | intro _ | split)

theorem emitRec_mquiet (f : CareFields) (seed : Nat) (e : Emission) : MQuiet (emitRec f seed e) := by
  unfold emitRec
  repeat' (first
    | with_reducible exact MQuiet.pure _ | with_reducible exact MQuiet.getS | with_reducible exact f32Plane_mquiet _ _
    | with_reducible exact writeFlat_mquiet _ _ _ _ | with_reducible exact writeBytes_mquiet _ _
    | with_reducible exact setNextTag_mquiet _ _ | with_reducible apply MQuiet.bind | with_reducible apply MQuiet.modS
    | with_reducible exact Quiet.refl _ | dsimp only
    | (apply Quiet.upd; (case e1 => dsimp only; with_reducible exact Is.rfl); iterate 10 dsimp only) | intro _)

theorem scanRec_mquiet (r : CareRec) : MQuiet (scanRec r) := by
  unfold scanRec
  repeat' (first
    | with_reducible exact MQuiet.pure _ | with_reducible exact f32Plane_mquiet _ _ | with_reducible exact writeAmax_mquiet _ _ _
    | with_reducible apply MQuiet.bind | dsimp only | intro _)

theorem setInfoRest_mquiet (l : List Byte) : MQuiet (setInfoRest l) := by
  unfold setInfoRest
  repeat' (first
    | with_reducible apply MQuiet.modify | with_reducible exact Quiet.refl _ | dsimp only | intro _)

theorem getCareList_mquiet (f : CareFields) : MQuiet (getCareList f) := by
  unfold getCareList
  repeat' (first
    | with_reducible exact MQuiet.pure _ | with_reducible exact MQuiet.needDesc _ | with_reducible exact needMapped_mquiet _ _
    | with_reducible refine soften_mquiet _ ?_ | with_reducible exact readU64_mquiet _ | with_reducible refine inTurn_mquiet _ _ ?_
    | with_reducible exact getCareRec_mquiet _ _ | with_reducible apply MQuiet.bind | with_reducible apply MQuiet.mapM | dsimp only
    | intro _)

theorem skipCare_mquiet (r : CareReady) (n : Nat) : MQuiet (skipCare r n) := by
  unfold skipCare
  repeat' (first
    | with_reducible exact MQuiet.fail _ | with_reducible exact setInfo_mquiet _ | with_reducible apply MQuiet.bind
    | with_reducible apply MQuiet.modS | with_reducible exact Quiet.refl _ | dsimp only
    | with_reducible apply Quiet.trans ?_ (raiseAlert_quiet _ _)
    | (apply Quiet.upd; (case e1 => dsimp only; with_reducible exact Is.rfl); iterate 10 dsimp only) | intro _)

theorem careNames_mquiet (d : Desc) : MQuiet (careNames d) := by
  unfold careNames
  repeat' (first
    | with_reducible exact MQuiet.pure _ | with_reducible exact MQuiet.needDesc _ | with_reducible refine soften_mquiet _ ?_
    | with_reducible exact getHyper_mquiet _ | with_reducible exact getCareList_mquiet _ | with_reducible exact getCareGate_mquiet _
    | with_reducible apply MQuiet.bind | dsimp only | intro _ | split)

theorem shownWord_mquiet (a : Nat) : MQuiet (shownWord a) := by
  unfold shownWord
  repeat' (first
    | with_reducible exact MQuiet.pure _ | with_reducible exact MQuiet.getS | with_reducible refine attempt_mquiet _ ?_
    | with_reducible exact readU64_mquiet _ | with_reducible apply MQuiet.bind | intro _ | split)

theorem careShown_mquiet (f : CareFields) : MQuiet (careShown f) := by
  unfold careShown
  repeat' (first
    | with_reducible exact MQuiet.pure _ | with_reducible exact shownWord_mquiet _ | with_reducible refine inTurn_mquiet _ _ ?_
    | with_reducible apply MQuiet.bind | with_reducible apply MQuiet.mapM | dsimp only | intro _ | split)

theorem careChecks_mquiet (d : Desc) : MQuiet (careChecks d) := by
  unfold careChecks
  repeat' (first
    | with_reducible exact MQuiet.pure _ | with_reducible exact MQuiet.getS | with_reducible exact MQuiet.need _ _
    | with_reducible exact MQuiet.failAt _ _ | with_reducible exact MQuiet.throw _ | with_reducible exact careNames_mquiet _
    | with_reducible exact setInfo_mquiet _ | with_reducible exact careShown_mquiet _ | with_reducible exact skipCare_mquiet _ _
    | with_reducible exact needOutWritable_mquiet _ | with_reducible apply MQuiet.bind | with_reducible apply MQuiet.catches | dsimp only
    | intro _ | split)

theorem careReach_mquiet (d : Desc) : MQuiet (careReach d) := by
  unfold careReach
  repeat' (first
    | with_reducible exact MQuiet.pure _ | with_reducible refine orNone_mquiet _ ?_ | with_reducible exact readU64_mquiet _
    | with_reducible exact getCareWords_mquiet _ | with_reducible exact getTRec_mquiet _ | with_reducible exact getPair_mquiet _
    | with_reducible apply MQuiet.bind | with_reducible apply MQuiet.mapM | dsimp only | intro _ | split)

theorem emissions_mquiet (f : CareFields) (rs : List (CareRec × F32)) : MQuiet (emissions f rs) := by
  unfold emissions
  repeat' (first
    | with_reducible exact MQuiet.pure _ | with_reducible exact MQuiet.getS | with_reducible exact MQuiet.needDesc _
    | with_reducible apply MQuiet.bind | with_reducible apply MQuiet.modS | with_reducible exact Quiet.refl _ | dsimp only
    | (apply Quiet.upd; (case e1 => dsimp only; with_reducible exact Is.rfl); iterate 10 dsimp only) | intro _)

theorem emitAll_mquiet (f : CareFields) (seed : Nat) (es : List Emission) : MQuiet (emitAll f seed es) := by
  unfold emitAll
  repeat' (first
    | with_reducible exact orExc_mquiet _ | with_reducible refine CareRec.inTurn_mquiet _ _ ?_ | with_reducible exact emitRec_mquiet _ _ _
    | with_reducible apply MQuiet.bind | with_reducible apply MQuiet.forM | intro _)

theorem careCompute_mquiet (r : CareReady) : MQuiet (careCompute r) := by
  unfold careCompute
  repeat' (first
    | with_reducible exact MQuiet.pure _ | with_reducible exact MQuiet.getS | with_reducible refine CareRec.inTurn_mquiet _ _ ?_
    | with_reducible exact updateCalc_mquiet _ _ _ | with_reducible exact orExc_mquiet _ | with_reducible exact scanRec_mquiet _
    | with_reducible exact emissions_mquiet _ _ | with_reducible exact setInfoRest_mquiet _ | with_reducible exact updateWrite_mquiet _ _
    | with_reducible exact emitAll_mquiet _ _ _ | with_reducible apply MQuiet.bind | with_reducible apply MQuiet.modS
    | with_reducible apply MQuiet.mapM | with_reducible apply MQuiet.forM | with_reducible exact Quiet.refl _ | dsimp only
    | (apply Quiet.upd; (case e1 => dsimp only; with_reducible exact Is.rfl); iterate 10 dsimp only) | intro _ | split)

theorem careBody_mquiet (d : Desc) : MQuiet (careBody d) := by
  unfold careBody
  repeat' (first
    | with_reducible exact MQuiet.throw _ | with_reducible exact inStartOrder_mquiet _ | with_reducible refine orUnread_mquiet _ _ ?_
    | with_reducible exact careChecks_mquiet _ | with_reducible exact useUnits_mquiet _ | with_reducible exact careCompute_mquiet _
    | with_reducible apply MQuiet.bind | with_reducible apply MQuiet.modS | with_reducible apply MQuiet.catches
    | with_reducible exact Quiet.refl _ | dsimp only | with_reducible apply Quiet.trans ?_ (scrambleAll_quiet _ _) | intro _ | split)

theorem execUpdate_calm (qp : Fin 64) (d : Desc) (s : State) {t : State} (h : execUpdate qp d s = .next t) : Calm s t := by
  unfold execUpdate at h
  repeat' (first
    | with_reducible refine startDesc_calm ?_ h | with_reducible exact careBody_mquiet _)

theorem execEmit_calm (qp : Fin 64) (d : Desc) (s : State) {t : State} (h : execEmit qp d s = .next t) : Calm s t := by
  unfold execEmit at h
  repeat' (first
    | with_reducible refine startDesc_calm ?_ h | with_reducible exact careBody_mquiet _)

theorem execUpdateEmit_calm (qp : Fin 64) (d : Desc) (s : State) {t : State} (h : execUpdateEmit qp d s = .next t) : Calm s t := by
  unfold execUpdateEmit at h
  repeat' (first
    | with_reducible refine startDesc_calm ?_ h | with_reducible exact careBody_mquiet _)

theorem execScan_calm (qp : Fin 64) (d : Desc) (s : State) {t : State} (h : execScan qp d s = .next t) : Calm s t := by
  unfold execScan at h
  repeat' (first
    | with_reducible refine startDesc_calm ?_ h | with_reducible exact careBody_mquiet _)

/-! ### Move -/

theorem copyBody_mquiet (f : MoveFields) : MQuiet (copyBody f) := by
  unfold copyBody
  repeat' (first
    | with_reducible exact needMapped_mquiet _ _ | with_reducible exact needBacked_mquiet _ _
    | with_reducible exact needWritable_mquiet _ _ | with_reducible refine orScramble_mquiet _ _ ?_
    | with_reducible exact writeBytes_mquiet _ _ | with_reducible exact readBytes_mquiet _ _ | with_reducible exact setInfo_mquiet _
    | with_reducible apply MQuiet.bind | intro _)

theorem moveSource_mquiet (a : Nat) : MQuiet (moveSource a) := by
  unfold moveSource
  repeat' (first
    | with_reducible exact MQuiet.pure _ | with_reducible exact MQuiet.needDesc _ | with_reducible exact needMapped_mquiet _ _
    | with_reducible refine soften_mquiet _ ?_ | with_reducible exact readU64_mquiet _ | with_reducible exact softPair_mquiet _
    | with_reducible exact getTRec_mquiet _ | with_reducible apply MQuiet.bind | intro _ | split)

theorem fillNext_mquiet (p : Pair) (src : TRec) (bytes : List Byte) (scales : List Byte) : MQuiet (fillNext p src bytes scales) := by
  unfold fillNext
  repeat' (first
    | with_reducible exact MQuiet.getS | with_reducible exact writeBytes_mquiet _ _ | with_reducible exact setNextTag_mquiet _ _
    | with_reducible apply MQuiet.bind | intro _)

theorem spoilNext_spoils (f : MoveFields) : MSpoils (spoilNext f) :=
  MSpoils.bind fun p => MSpoils.pure fun s => (scrambleAll_quiet (nextParts p) s).trans (writeLate_quiet _ _ _)

theorem copyChecks_mquiet (f : MoveFields) : MQuiet (copyChecks f) := by
  unfold copyChecks
  repeat' (first
    | with_reducible exact MQuiet.pure _ | with_reducible exact MQuiet.needDesc _ | with_reducible exact moveSource_mquiet _
    | with_reducible exact softPair_mquiet _ | with_reducible exact hardened_mquiet _ | with_reducible apply MQuiet.bind | dsimp only
    | intro _)

theorem copyTensorBody_mquiet (f : MoveFields) : MQuiet (copyTensorBody f) := by
  unfold copyTensorBody
  repeat' (first
    | with_reducible refine orUnreadBy_mquiet _ _ ?_ ?_ | with_reducible exact spoilNext_spoils _
    | with_reducible exact copyChecks_mquiet _ | with_reducible exact needOutBacked_mquiet _
    | with_reducible exact needOutWritable_mquiet _ | with_reducible exact setNextTag_mquiet _ _
    | with_reducible refine orScramble_mquiet _ _ ?_ | with_reducible refine asData_mquiet _ ?_
    | with_reducible exact readBytes_mquiet _ _ | with_reducible exact fillNext_mquiet _ _ _ _ | with_reducible exact setInfo_mquiet _
    | with_reducible apply MQuiet.bind | dsimp only | intro _)

theorem armBody_mquiet (f : MoveFields) : MQuiet (armBody f) := by
  delta armBody
  refine (MQuiet.forM (fun _ => needMapped_mquiet _ _) _).bind fun _ => ?_
  refine (MQuiet.forM (fun _ => needBacked_mquiet _ _) _).bind fun _ => ?_
  refine MQuiet.getS.bind fun s => ?_
  split
  · split
    · refine MQuiet.bind (MQuiet.modS fun s => ?_) fun _ => setInfo_mquiet _
      exact ⟨⟨rfl, rfl, rfl, rfl, rfl, rfl, rfl, id, fun _ h => h⟩, rfl, rfl, rfl, rfl, rfl⟩
    · exact setInfo_mquiet _
  · exact setInfo_mquiet _

theorem disarmBody_mquiet (f : MoveFields) : MQuiet (disarmBody f) := by
  unfold disarmBody
  repeat' (first
    | with_reducible exact setInfo_mquiet _ | with_reducible apply MQuiet.bind | with_reducible apply MQuiet.modS
    | with_reducible exact Quiet.refl _ | dsimp only
    | (apply Quiet.upd; (case e1 => dsimp only; with_reducible exact Is.rfl); iterate 10 dsimp only) | intro _)

theorem moveBody_mquiet (d : Desc) : MQuiet (moveBody d) := by
  unfold moveBody
  repeat' (first
    | with_reducible exact MQuiet.needDesc _ | with_reducible exact setInfo_mquiet _ | with_reducible exact copyBody_mquiet _
    | with_reducible exact copyTensorBody_mquiet _ | with_reducible exact armBody_mquiet _ | with_reducible exact disarmBody_mquiet _
    | with_reducible apply MQuiet.bind | intro _ | split)

theorem execCopy_calm (qp : Fin 64) (d : Desc) (s : State) {t : State} (h : execCopy qp d s = .next t) : Calm s t := by
  unfold execCopy at h
  repeat' (first
    | with_reducible refine startDesc_calm ?_ h | with_reducible exact moveBody_mquiet _)

theorem execCopyTensor_calm (qp : Fin 64) (d : Desc) (s : State) {t : State} (h : execCopyTensor qp d s = .next t) : Calm s t := by
  unfold execCopyTensor at h
  repeat' (first
    | with_reducible refine startDesc_calm ?_ h | with_reducible exact moveBody_mquiet _)

theorem execArm_calm (qp : Fin 64) (d : Desc) (s : State) {t : State} (h : execArm qp d s = .next t) : Calm s t := by
  unfold execArm at h
  repeat' (first
    | with_reducible refine startDesc_calm ?_ h | with_reducible exact moveBody_mquiet _)

theorem execDisarm_calm (qp : Fin 64) (d : Desc) (s : State) {t : State} (h : execDisarm qp d s = .next t) : Calm s t := by
  unfold execDisarm at h
  repeat' (first
    | with_reducible refine startDesc_calm ?_ h | with_reducible exact moveBody_mquiet _)

theorem fetchLine_quiet (num : Fin 96) (a : Nat) (tag : BitVec 12) (s : State) : Quiet s (fetchLine num a tag s) := by
  unfold fetchLine
  repeat' (first
    | with_reducible exact Quiet.refl _ | dsimp only | with_reducible apply Quiet.trans ?_ (readCodewords_quiet _ _ _ _)
    | with_reducible apply Quiet.trans ?_ (useLine_quiet _ _) | with_reducible apply Quiet.trans ?_ (readLine_quiet _ _ _ _) | split)

theorem noteFetch_quiet (x : Stream) (s : State) : Quiet s (noteFetch x s) := by
  unfold noteFetch
  repeat' (first
    | with_reducible exact Quiet.refl _ | dsimp only
    | (apply Quiet.upd; (case e1 => dsimp only; with_reducible exact Is.rfl); iterate 10 dsimp only) | split)

theorem fetchNext_quiet (x : Stream) (tags : List (BitVec 12)) (s : State) : Quiet s (fetchNext x tags s) := by
  unfold fetchNext
  repeat' (first
    | with_reducible exact Quiet.refl _ | dsimp only | with_reducible apply Quiet.trans ?_ (fetchLine_quiet _ _ _ _)
    | with_reducible apply Quiet.trans ?_ (noteFetch_quiet _ _) | with_reducible apply Quiet.trans ?_ (transmit_quiet _ _)
    | with_reducible apply Quiet.fold | (apply Quiet.upd; (case e1 => dsimp only; with_reducible exact Is.rfl); iterate 10 dsimp only)
    | intro _)

theorem execPrefetchFetch_calm (prefetcher : Fin 96) (tags : List (BitVec 12)) (s : State) {t : State} (h
    : execPrefetchFetch prefetcher tags s = .next t) : Calm s t := by
  unfold execPrefetchFetch at h
  repeat' (first
    | split at h | cases h | with_reducible exact Calm.refl _ | with_reducible apply Calm.trans ?_ ((fetchNext_quiet _ _ _).calm))

theorem scrubRead_quiet (n : Nat) (a : Nat) (loc : Nat) (s : State) : Quiet s (scrubRead n a loc s) := by
  unfold scrubRead
  repeat' (first
    | with_reducible exact Quiet.refl _ | dsimp only | with_reducible apply Quiet.trans ?_ (markStack_quiet _ _)
    | with_reducible apply Quiet.trans ?_ (countCorrected_quiet _ _ _)
    | with_reducible apply Quiet.trans ?_ (countUncorrectable_quiet _ _ _ _) | split)

theorem moveScrub_quiet (n : Fin 32) (off : Nat) (s : State) : Quiet s (moveScrub n off s) := by
  unfold moveScrub
  repeat' (first
    | with_reducible exact Quiet.refl _ | dsimp only
    | (apply Quiet.upd; (case e1 => dsimp only; with_reducible exact Is.rfl); iterate 10 dsimp only))

theorem scrubOne_quiet (n : Fin 32) (s : State) : Quiet s (scrubOne n s) := by
  unfold scrubOne
  repeat' (first
    | with_reducible exact Quiet.refl _ | dsimp only | with_reducible apply Quiet.trans ?_ (moveScrub_quiet _ _ _)
    | with_reducible apply Quiet.trans ?_ (scrubRead_quiet _ _ _ _))

theorem execScrubRead_calm (stack : Fin 32) (s : State) {t : State} (h : execScrubRead stack s = .next t) : Calm s t := by
  unfold execScrubRead at h
  repeat' (first
    | split at h | cases h | with_reducible exact Calm.refl _ | with_reducible apply Calm.trans ?_ ((scrubOne_quiet _ _).calm))

theorem execSelfRefreshReturn_calm (stack : Fin 32) (s : State) {t : State} (h : execSelfRefreshReturn stack s = .next t) : Calm s t := by
  unfold execSelfRefreshReturn at h
  repeat' (first
    | split at h | cases h | with_reducible exact Calm.refl _ | dsimp only
    | (apply Calm.upd; (case e1 => dsimp only; with_reducible exact Is.rfl); iterate 8 dsimp only))

/-! ### Sample -/

theorem getSRec_mquiet (a : Nat) : MQuiet (getSRec a) := by
  unfold getSRec
  repeat' (first
    | with_reducible exact MQuiet.pure _ | with_reducible exact MQuiet.needDesc _ | with_reducible exact needMapped_mquiet _ _
    | with_reducible exact readU64_mquiet _ | with_reducible apply MQuiet.bind | dsimp only | intro _)

theorem getSEntry_mquiet (f : SampleFields) (sched : Bool) (main : TRec) (draft : Option TRec) (n : Nat) : MQuiet
    (getSEntry f sched main draft n) := by
  unfold getSEntry
  repeat' (first
    | with_reducible exact MQuiet.pure _ | with_reducible exact MQuiet.getS | with_reducible exact MQuiet.needDesc _
    | with_reducible exact readU64_mquiet _ | with_reducible exact readU32_mquiet _ | with_reducible exact getSRec_mquiet _
    | with_reducible apply MQuiet.bind | with_reducible apply MQuiet.mapM | dsimp only | intro _ | split)

theorem getGState_mquiet (gate : Nat) (n : Nat) : MQuiet (getGState gate n) := by
  unfold getGState
  repeat' (first
    | with_reducible exact MQuiet.pure _ | with_reducible exact MQuiet.needDesc _ | with_reducible exact needMapped_mquiet _ _
    | with_reducible exact readU64_mquiet _ | with_reducible exact readU32_mquiet _ | with_reducible apply MQuiet.bind
    | with_reducible apply MQuiet.mapM | dsimp only | intro _ | split)

theorem gateNext_mquiet (gate : Nat) (n : Nat) (x : Nat) : MQuiet (gateNext gate n x) := by
  unfold gateNext
  repeat' (first
    | with_reducible exact MQuiet.pure _ | with_reducible exact getGState_mquiet _ _ | with_reducible apply MQuiet.bind | intro _ | split)

theorem gateFinal_mquiet (gate : Nat) (n : Nat) : MQuiet (gateFinal gate n) := by
  unfold gateFinal
  repeat' (first
    | with_reducible exact MQuiet.pure _ | with_reducible exact getGState_mquiet _ _ | with_reducible apply MQuiet.bind | intro _ | split)

theorem maskBytes_mquiet (a : Nat) : MQuiet (maskBytes a) := by
  unfold maskBytes
  repeat' (first
    | with_reducible exact MQuiet.pure _ | with_reducible exact MQuiet.getS | with_reducible exact needMapped_mquiet _ _
    | with_reducible exact readBytes_mquiet _ _ | with_reducible apply MQuiet.bind | with_reducible apply MQuiet.modS
    | with_reducible exact Quiet.refl _ | dsimp only
    | (apply Quiet.upd; (case e1 => dsimp only; with_reducible exact Is.rfl); iterate 10 dsimp only) | intro _ | split)

theorem keepTable_quiet (slot : Nat) (gate : Nat) (s : State) : Quiet s (keepTable slot gate s) := by
  unfold keepTable
  repeat' (first
    | with_reducible exact Quiet.refl _ | dsimp only
    | (apply Quiet.upd; (case e1 => dsimp only; with_reducible exact Is.rfl); iterate 10 dsimp only))

theorem gateMask_mquiet (gate : Nat) (st : Nat) (v : Nat) : MQuiet (gateMask gate st v) := by
  unfold gateMask
  repeat' (first
    | with_reducible exact MQuiet.pure _ | with_reducible exact MQuiet.getS | with_reducible exact getGState_mquiet _ _
    | with_reducible exact maskBytes_mquiet _ | with_reducible exact freeBlock_mquiet _ | with_reducible apply MQuiet.bind | dsimp only
    | intro _ | split)

theorem passRow_mquiet (c : SCtx) (e : SEntry) (main : Bool) (row : Nat) (st : Nat) : MQuiet (passRow c e main row st) := by
  unfold passRow
  repeat' (first
    | with_reducible exact MQuiet.pure _ | with_reducible exact gateMask_mquiet _ _ _ | with_reducible exact addEv_mquiet _
    | with_reducible apply MQuiet.bind | with_reducible apply MQuiet.modS | with_reducible exact Quiet.refl _ | dsimp only
    | (apply Quiet.upd; (case e1 => dsimp only; with_reducible exact Is.rfl); iterate 10 dsimp only) | intro _)

theorem mkTok_mquiet (e : SEntry) (r : SRow) (st : Nat) (x : Nat) (drafted : Bool) : MQuiet (mkTok e r st x drafted) := by
  unfold mkTok
  repeat' (first
    | with_reducible exact MQuiet.pure _ | with_reducible exact gateNext_mquiet _ _ _ | with_reducible exact gateFinal_mquiet _ _
    | with_reducible apply MQuiet.bind | intro _)

theorem drawEntry_mquiet (c : SCtx) (cells : List GateCell) (e : SEntry) : MQuiet (drawEntry c cells e) := by
  unfold drawEntry
  repeat' (first
    | with_reducible exact MQuiet.pure _ | with_reducible exact passRow_mquiet _ _ _ _ _ | with_reducible exact mkTok_mquiet _ _ _ _ _
    | with_reducible apply MQuiet.bind | intro _ | split)

theorem verifyFrom_mquiet (c : SCtx) (e : SEntry) (n st : Nat) (toks : List STok) (ev : AttnEv) :
    MQuiet (verifyFrom c e n st toks ev) := by
  induction n generalizing st toks ev with
  | zero =>
    unfold verifyFrom
    repeat' (first
      | with_reducible exact MQuiet.pure _
      | with_reducible exact MQuiet.getS
      | with_reducible exact passRow_mquiet _ _ _ _ _
      | with_reducible exact mkTok_mquiet _ _ _ _ _
      | with_reducible apply MQuiet.bind
      | with_reducible apply MQuiet.forM
      | dsimp only
      | intro _
      | split)
  | succ n ih =>
    unfold verifyFrom
    repeat' (first
      | with_reducible exact MQuiet.pure _
      | with_reducible exact MQuiet.getS
      | with_reducible exact ih _ _ _
      | with_reducible exact passRow_mquiet _ _ _ _ _
      | with_reducible exact mkTok_mquiet _ _ _ _ _
      | with_reducible exact addEv_mquiet _
      | with_reducible apply MQuiet.bind
      | with_reducible apply MQuiet.forM
      | dsimp only
      | intro _
      | split)

theorem verifyEntry_mquiet (c : SCtx) (cells : List GateCell) (e : SEntry) : MQuiet (verifyEntry c cells e) := by
  unfold verifyEntry
  repeat' (first
    | with_reducible exact MQuiet.pure _ | with_reducible exact verifyFrom_mquiet _ _ _ _ _ _ | with_reducible apply MQuiet.bind
    | dsimp only | intro _)

theorem logitRec_mquiet (a : Nat) (fmt : Nat) : MQuiet (logitRec a fmt) := by
  unfold logitRec
  repeat' (first
    | with_reducible exact MQuiet.pure _ | with_reducible exact MQuiet.needDesc _ | with_reducible exact getTRec_mquiet _
    | with_reducible apply MQuiet.bind | intro _)

theorem sampleNames_mquiet (d : Desc) (sched : Bool) : MQuiet (sampleNames d sched) := by
  unfold sampleNames
  repeat' (first
    | with_reducible exact MQuiet.pure _ | with_reducible exact logitRec_mquiet _ _ | with_reducible exact needMapped_mquiet _ _
    | with_reducible exact getSEntry_mquiet _ _ _ _ _ | with_reducible apply MQuiet.bind | with_reducible apply MQuiet.mapM | dsimp only
    | intro _ | split)

theorem sampleChecks_mquiet (d : Desc) (sched : Bool) : MQuiet (sampleChecks d sched) := by
  unfold sampleChecks
  repeat' (first
    | with_reducible exact MQuiet.pure _ | with_reducible exact MQuiet.getS | with_reducible exact MQuiet.needDesc _
    | with_reducible exact needPlazas_mquiet _ _ | with_reducible exact sampleNames_mquiet _ _
    | with_reducible exact needBacked_mquiet _ _ | with_reducible exact needWritable_mquiet _ _ | with_reducible apply MQuiet.bind
    | dsimp only | intro _ | split)

theorem runEntries_mquiet (c : SCtx) (verify : Bool) (l : List SEntry) (cells : List GateCell) (acc : List SOut) :
    MQuiet (runEntries c verify l cells acc) := by
  induction l generalizing cells acc with
  | nil => exact MQuiet.pure _
  | cons e l ih =>
    unfold runEntries
    repeat' (first
      | with_reducible exact MQuiet.pure _
      | with_reducible exact MQuiet.getS
      | with_reducible exact ih _ _
      | with_reducible exact verifyEntry_mquiet _ _ _
      | with_reducible exact drawEntry_mquiet _ _ _
      | with_reducible apply MQuiet.bind
      | with_reducible apply MQuiet.forM
      | dsimp only
      | intro _
      | split)

theorem spoilSample_quiet (f : SampleFields) (slots : List Nat) (s : State) : Quiet s (spoilSample f slots s) := by
  unfold spoilSample
  repeat' (first
    | with_reducible exact Quiet.refl _ | with_reducible apply Quiet.trans ?_ (scrambleGate_quiet _ _)
    | with_reducible apply Quiet.trans ?_ (scramble_quiet _ _ _))

theorem sampleReach_spoils (d : Desc) : MSpoils (sampleReach d) :=
  MSpoils.bind fun l => MSpoils.pure fun s => spoilSample_quiet _ l s

theorem sampleReady_mquiet (d : Desc) (sched : Bool) : MQuiet (sampleReady d sched) := by
  unfold sampleReady
  repeat' (first
    | with_reducible refine orUnreadBy_mquiet _ _ ?_ ?_ | with_reducible exact sampleReach_spoils _
    | with_reducible exact sampleChecks_mquiet _ _)

theorem emptyForFlush_mquiet : MQuiet emptyForFlush := by
  unfold emptyForFlush
  repeat' (first
    | with_reducible apply MQuiet.modify | with_reducible exact Quiet.refl _ | dsimp only
    | (apply Quiet.upd; (case e1 => dsimp only; with_reducible exact Is.rfl); iterate 10 dsimp only) | intro _ | split)

theorem sampleWork_mquiet (d : Desc) (r : SampleReady) : MQuiet (sampleWork d r) := by
  unfold sampleWork
  repeat' (first
    | with_reducible exact MQuiet.pure _ | with_reducible exact MQuiet.getS | with_reducible exact MQuiet.throw _
    | with_reducible exact awaitPlazas_mquiet _ _ | with_reducible exact inStartOrder_mquiet _
    | with_reducible exact emptyForFlush_mquiet  | with_reducible exact useUnits_mquiet _ | with_reducible exact openRec_mquiet _ _ _
    | with_reducible exact runEntries_mquiet _ _ _ _ _ | with_reducible exact writeBytes_mquiet _ _ | with_reducible apply MQuiet.bind
    | with_reducible apply MQuiet.modS | with_reducible apply MQuiet.catches | with_reducible exact Quiet.refl _ | dsimp only
    | with_reducible apply Quiet.trans ?_ (spoilSample_quiet _ _ _)
    | (apply Quiet.upd; (case e1 => dsimp only; with_reducible exact Is.rfl); iterate 10 dsimp only) | intro _ | split)

theorem noteRun_mquiet (r : SampleReady) : MQuiet (noteRun r) := by
  unfold noteRun
  repeat' (first
    | with_reducible apply MQuiet.modify | with_reducible exact Quiet.refl _ | dsimp only
    | (apply Quiet.upd; (case e1 => dsimp only; with_reducible exact Is.rfl); iterate 10 dsimp only) | intro _)

theorem sampleBody_mquiet (d : Desc) : MQuiet (sampleBody d) := by
  unfold sampleBody
  repeat' (first
    | with_reducible exact sampleReady_mquiet _ _ | with_reducible exact sampleWork_mquiet _ _ | with_reducible exact noteRun_mquiet _
    | with_reducible apply MQuiet.bind | intro _)

theorem execDraw_calm (qp : Fin 64) (d : Desc) (s : State) {t : State} (h : execDraw qp d s = .next t) : Calm s t := by
  unfold execDraw at h
  repeat' (first
    | with_reducible refine startDesc_calm ?_ h | with_reducible exact sampleBody_mquiet _)

theorem execVerify_calm (qp : Fin 64) (d : Desc) (s : State) {t : State} (h : execVerify qp d s = .next t) : Calm s t := by
  unfold execVerify at h
  repeat' (first
    | with_reducible refine startDesc_calm ?_ h | with_reducible exact sampleBody_mquiet _)

/-! ### Coherent -/

theorem clMessage_keeps {R : State → State → Prop} {w : Bool} {ch : Nat} {f : State → State} {s t : State} (hr : R s s)
    (hf : ∀ s, R s (f s)) (h : clMessage w ch f s = .next t) : R s t := by
  unfold clMessage at h
  repeat' (first | split at h | cases h)
  · exact hf s
  · exact hr

theorem wakeStack_quiet (a : Nat) (s : State) : Quiet s (wakeStack a s) := by
  unfold wakeStack
  repeat' (first
    | with_reducible exact Quiet.refl _ | dsimp only
    | (apply Quiet.upd; (case e1 => dsimp only; with_reducible exact Is.rfl); iterate 10 dsimp only) | split)

theorem readForCompanion_quiet (a : Nat) (s : State) : Quiet s (readForCompanion a s).2.2 := by
  unfold readForCompanion
  repeat' (first
    | with_reducible exact Quiet.refl _ | dsimp only | with_reducible apply Quiet.trans ?_ (readCached_quiet _ _ _ _)
    | with_reducible apply Quiet.trans ?_ (wakeStack_quiet _ _) | split)

theorem answerDrd_quiet (tag : BitVec 12) (a : Nat) (s : State) : Quiet s (answerDrd tag a s) := by
  unfold answerDrd
  repeat' (first
    | with_reducible exact Quiet.refl _ | dsimp only | with_reducible apply Quiet.trans ?_ (readForCompanion_quiet _ _)
    | with_reducible apply Quiet.trans ?_ (clResponse_quiet _ _ _ _ _ _ _)
    | (apply Quiet.upd; (case e1 => dsimp only; with_reducible exact Is.rfl); iterate 10 dsimp only))

theorem outsideWrite_quiet (source : Nat) (a : Nat) (bs : List Byte) (s : State) : Quiet s (outsideWrite source a bs s).2 := by
  unfold outsideWrite
  repeat' (first
    | with_reducible exact Quiet.refl _ | dsimp only | with_reducible apply Quiet.trans ?_ (runWork_quiet _ ?_ _)
    | with_reducible apply Quiet.trans ?_ (markRange_quiet _ _ _) | with_reducible apply Quiet.trans ?_ (spoilRuns_quiet _ _ _)
    | with_reducible exact storeFrom_mquiet _ _ _)

theorem refuseOutside_quiet (s : State) : Quiet s (refuseOutside s) := by
  unfold refuseOutside
  repeat' (first
    | with_reducible exact Quiet.refl _ | dsimp only
    | (apply Quiet.upd; (case e1 => dsimp only; with_reducible exact Is.rfl); iterate 10 dsimp only))

theorem writeForCompanion_quiet (a : Nat) (bs : List Byte) (s : State) : Quiet s (writeForCompanion a bs s).2 := by
  unfold writeForCompanion
  repeat' (first
    | with_reducible exact Quiet.refl _ | dsimp only | with_reducible apply Quiet.trans ?_ (refuseOutside_quiet _)
    | with_reducible apply Quiet.trans ?_ (outsideWrite_quiet _ _ _ _) | with_reducible apply Quiet.trans ?_ (wakeStack_quiet _ _) | split)

theorem answerDwr_quiet (tag : BitVec 12) (a : Nat) (bs : List Byte) (s : State) : Quiet s (answerDwr tag a bs s) := by
  unfold answerDwr
  repeat' (first
    | with_reducible exact Quiet.refl _ | dsimp only | with_reducible apply Quiet.trans ?_ (writeForCompanion_quiet _ _ _)
    | with_reducible apply Quiet.trans ?_ (clResponse_quiet _ _ _ _ _ _ _)
    | (apply Quiet.upd; (case e1 => dsimp only; with_reducible exact Is.rfl); iterate 10 dsimp only))

theorem holdRequest_quiet (r : HeldRequest) (s : State) : Quiet s (holdRequest r s) := by
  unfold holdRequest
  repeat' (first
    | with_reducible exact Quiet.refl _ | dsimp only
    | (apply Quiet.upd; (case e1 => dsimp only; with_reducible exact Is.rfl); iterate 10 dsimp only))

theorem takeDrd_quiet (tag : BitVec 12) (a : Nat) (s : State) : Quiet s (takeDrd tag a s) := by
  unfold takeDrd
  repeat' (first
    | with_reducible exact Quiet.refl _ | with_reducible apply Quiet.trans ?_ (holdRequest_quiet _ _)
    | with_reducible apply Quiet.trans ?_ (answerDrd_quiet _ _ _) | split)

theorem takeDwr_quiet (tag : BitVec 12) (a : Nat) (bs : List Byte) (s : State) : Quiet s (takeDwr tag a bs s) := by
  unfold takeDwr
  repeat' (first
    | with_reducible exact Quiet.refl _ | with_reducible apply Quiet.trans ?_ (holdRequest_quiet _ _)
    | with_reducible apply Quiet.trans ?_ (answerDwr_quiet _ _ _ _) | split)

theorem execDrd_calm (tag : BitVec 12) (addr : BitVec 48) (s : State) {t : State} (h : execDrd tag addr s = .next t) : Calm s t := by
  unfold execDrd at h
  repeat' (first
    | with_reducible refine clMessage_keeps (Calm.refl _) (fun _ => ?_) h | with_reducible exact Calm.refl _
    | with_reducible apply Calm.trans ?_ ((takeDrd_quiet _ _ _).calm) | with_reducible apply Calm.trans ?_ ((arrived_quiet _ _ _ _).calm))

theorem execDwr_calm (tag : BitVec 12) (addr : BitVec 48) (data : List Byte) (s : State) {t : State} (h
    : execDwr tag addr data s = .next t) : Calm s t := by
  unfold execDwr at h
  repeat' (first
    | with_reducible refine clMessage_keeps (Calm.refl _) (fun _ => ?_) h | with_reducible exact Calm.refl _
    | with_reducible apply Calm.trans ?_ ((takeDwr_quiet _ _ _ _).calm)
    | with_reducible apply Calm.trans ?_ ((arrived_quiet _ _ _ _).calm))

theorem ringDoorbell_calm (w : W64) (s : State) : Calm s (ringDoorbell w s) := by
  unfold ringDoorbell
  repeat' (first
    | with_reducible exact Calm.refl _ | with_reducible apply Calm.trans ?_ (ringHead_calm _ _)
    | with_reducible apply Calm.trans ?_ (ringTail_calm _ _) | split)

theorem takeDoorbell_calm (w : W64) (s : State) : Calm s (takeDoorbell w s) := by
  unfold takeDoorbell
  repeat' (first
    | with_reducible exact Calm.refl _ | with_reducible apply Calm.trans ?_ ((holdRequest_quiet _ _).calm)
    | with_reducible apply Calm.trans ?_ (ringDoorbell_calm _ _) | split)

theorem doorbell_calm {w : W64} {s t : State} (h : doorbell w s = .next t) : Calm s t := by
  unfold doorbell at h
  split at h
  · cases h
  · cases h
    exact (arrived_quiet _ _ _ _).calm.trans (takeDoorbell_calm w _)

theorem execSubmissionTail_calm (word : W64) (s : State) {t : State} (h : execSubmissionTail word s = .next t) : Calm s t := by
  unfold execSubmissionTail at h
  repeat' (first
    | with_reducible refine doorbell_calm h | split at h | cases h)

theorem execCompletionHead_calm (word : W64) (s : State) {t : State} (h : execCompletionHead word s = .next t) : Calm s t := by
  unfold execCompletionHead at h
  repeat' (first
    | with_reducible refine doorbell_calm h | split at h | cases h)

theorem snoop_quiet (a : Nat) (s : State) : Quiet s (snoop a s) := by
  unfold snoop
  repeat' (first
    | with_reducible exact Quiet.refl _ | dsimp only
    | (apply Quiet.upd; (case e1 => dsimp only; with_reducible exact Is.rfl); iterate 10 dsimp only))

theorem execSnpInv_calm (tag : BitVec 12) (addr : BitVec 48) (s : State) {t : State} (h : execSnpInv tag addr s = .next t) : Calm s t := by
  unfold execSnpInv at h
  repeat' (first
    | with_reducible refine clMessage_keeps (Calm.refl _) (fun _ => ?_) h | dsimp only at h | with_reducible exact Calm.refl _
    | dsimp only | with_reducible apply Calm.trans ?_ ((snoop_quiet _ _).calm)
    | with_reducible apply Calm.trans ?_ ((arrived_quiet _ _ _ _).calm)
    | with_reducible apply Calm.trans ?_ ((clResponse_quiet _ _ _ _ _ _ _).calm)
    | (apply Calm.upd; (case e1 => dsimp only; with_reducible exact Is.rfl); iterate 8 dsimp only))

theorem installLine_quiet (r : RdShared) (status : Byte) (data : List Byte) (s : State) : Quiet s (installLine r status data s) := by
  unfold installLine
  repeat' (first
    | with_reducible exact Quiet.refl _ | dsimp only | with_reducible apply Quiet.trans ?_ (sparing_quiet _ _ ?_ _)
    | with_reducible apply Quiet.trans ?_ (poke_quiet _ _ _) | with_reducible apply Quiet.trans ?_ (fillLine_quiet _ _)
    | (apply Quiet.upd; (case e1 => dsimp only; with_reducible exact Is.rfl); iterate 10 dsimp only) | split | intro _)

theorem deliver_calm (r : RdShared) (status : Byte) (s : State) : Calm s (deliver r status s) := by
  unfold deliver
  repeat' (first
    | with_reducible exact Calm.refl _ | dsimp only | with_reducible apply Calm.trans ?_ ((setInFlight_quiet _ _).calm)
    | (apply Calm.upd; (case e1 => dsimp only; with_reducible exact Is.rfl); iterate 8 dsimp only) | split)

theorem takeData_calm (r : RdShared) (status : Byte) (data : List Byte) (s : State) : Calm s (takeData r status data s) := by
  unfold takeData
  repeat' (first
    | with_reducible exact Calm.refl _ | dsimp only | with_reducible apply Calm.trans ?_ ((nextWr_quiet _).calm)
    | with_reducible apply Calm.trans ?_ ((installLine_quiet _ _ _ _).calm) | with_reducible apply Calm.trans ?_ (deliver_calm _ _ _)
    | (apply Calm.upd; (case e1 => dsimp only; with_reducible exact Is.rfl); iterate 8 dsimp only))

theorem execDataResponse_calm (tag : BitVec 12) (status : Byte) (data : List Byte) (s : State) {t : State} (h
    : execDataResponse tag status data s = .next t) : Calm s t := by
  unfold execDataResponse at h
  repeat' (first
    | split at h | cases h | with_reducible exact Calm.refl _ | with_reducible apply Calm.trans ?_ (takeData_calm _ _ _ _)
    | with_reducible apply Calm.trans ?_ ((arrived_quiet _ _ _ _).calm))

theorem failWriter_quiet (w : WrInFlight) (status : Byte) (s : State) : Quiet s (failWriter w status s) := by
  unfold failWriter
  repeat' (first
    | with_reducible exact Quiet.refl _ | with_reducible apply Quiet.trans ?_ (setInFlight_quiet _ _)
    | with_reducible apply Quiet.trans ?_ (dropPair_quiet _ _) | split)

theorem takeWrDone_quiet (w : WrInFlight) (status : Byte) (s : State) : Quiet s (takeWrDone w status s) := by
  unfold takeWrDone
  repeat' (first
    | with_reducible exact Quiet.refl _ | dsimp only | with_reducible apply Quiet.trans ?_ (nextWr_quiet _)
    | with_reducible apply Quiet.trans ?_ (scramble_quiet _ _ _) | with_reducible apply Quiet.trans ?_ (failWriter_quiet _ _ _)
    | (apply Quiet.upd; (case e1 => dsimp only; with_reducible exact Is.rfl); iterate 10 dsimp only) | split)

theorem execWrDone_calm (tag : BitVec 12) (status : Byte) (s : State) {t : State} (h : execWrDone tag status s = .next t) : Calm s t := by
  unfold execWrDone at h
  repeat' (first
    | split at h | cases h | with_reducible exact Calm.refl _ | with_reducible apply Calm.trans ?_ ((takeWrDone_quiet _ _ _).calm)
    | with_reducible apply Calm.trans ?_ ((arrived_quiet _ _ _ _).calm))

end Sys2Proof.Machine
end

