-- ==== Sys2Proof/Laws/KeepGroups.lean ====
section
/-! SUPPORT. What the parts of a command keep (`Quiet`, `Calm`, `Firm`, `Tame` of Laws/Keep.lean): exchanges, reduction, shards and members.
Each lemma is named after its function; a lemma about an `exec` function is about every next state it answers. -/

namespace Sys2Proof.Machine

/-! ### Exchange -/

theorem getGroup_mquiet (a : Nat) : MQuiet (getGroup a) := by
  unfold getGroup
  repeat' (first
    | with_reducible exact MQuiet.pure _ | with_reducible exact MQuiet.getS | with_reducible exact MQuiet.needDesc _
    | with_reducible exact needMapped_mquiet _ _ | with_reducible exact readU64_mquiet _ | with_reducible exact readBytes_mquiet _ _
    | with_reducible apply MQuiet.bind | dsimp only | intro _)

theorem discardPackets_quiet (n : Nat) (s : State) : Quiet s (discardPackets n s) := by
  unfold discardPackets
  repeat' (first
    | with_reducible exact Quiet.refl _ | dsimp only
    | (apply Quiet.upd; (case e1 => dsimp only; with_reducible exact Is.rfl); iterate 10 dsimp only))

theorem discardPacket_quiet (s : State) : Quiet s (discardPacket s) := by
  unfold discardPacket
  repeat' (first
    | with_reducible exact Quiet.refl _ | with_reducible apply Quiet.trans ?_ (discardPackets_quiet _ _))

theorem payloadCount_quiet (n : Option Nat) (s : State) : Quiet s (payloadCount n s).2 := by
  unfold payloadCount
  repeat' (first
    | with_reducible exact Quiet.refl _ | dsimp only
    | (apply Quiet.upd; (case e1 => dsimp only; with_reducible exact Is.rfl); iterate 10 dsimp only) | split)

theorem queueParts_quiet (av : Fin 8) (x : Exchange) (dst : Nat) (ptype : Byte) (k left offset : Nat) (note : Option OutEvent) (s : State) :
    Quiet s (queueParts av x dst ptype k left offset note s) := by
  induction k generalizing left offset note s with
  | zero => exact Quiet.refl s
  | succ k ih =>
    unfold queueParts
    refine Quiet.trans (Quiet.trans ?_ (linkQueue_quiet _ _ _)) (ih _ _ _ _)
    exact ⟨⟨rfl, rfl, rfl, rfl, rfl, rfl, rfl, id, fun _ h => h⟩, rfl, rfl, rfl, rfl, rfl⟩

theorem sendMember_quiet (x : Exchange) (dst : Nat) (ptype : Byte) (payload : Option Nat) (offset : Nat) (ev : OutEvent) (s : State)
    : Quiet s (sendMember x dst ptype payload offset ev s) := by
  unfold sendMember
  repeat' (first
    | with_reducible exact Quiet.refl _ | dsimp only | with_reducible apply Quiet.trans ?_ (payloadCount_quiet _ _)
    | with_reducible apply Quiet.trans ?_ (queueParts_quiet _ _ _ _ _ _ _ _ _)
    | with_reducible apply Quiet.trans ?_ (discardPackets_quiet _ _) | split)

theorem post_quiet (dst : Nat) (p : Piece) (x : XS) : Quiet x.2 (post dst p x).2 := by
  unfold post
  repeat' (first
    | with_reducible exact Quiet.refl _ | dsimp only | with_reducible apply Quiet.trans ?_ (sendMember_quiet _ _ _ _ _ _ _) | split)

theorem postAll_quiet (dsts : List Nat) (p : Piece) (x : XS) : Quiet x.2 (postAll dsts p x).2 := by
  unfold postAll
  repeat' (first
    | with_reducible exact Quiet.refl _ | with_reducible apply Quiet.trans ?_ (post_quiet _ _ _) | with_reducible apply Quiet.fold2
    | intro _)

theorem postContrib_quiet (v : XRef) (x : XS) : Quiet x.2 (postContrib v x).2 := by
  unfold postContrib
  repeat' (first
    | with_reducible exact Quiet.refl _ | dsimp only | with_reducible apply Quiet.trans ?_ (post_quiet _ _ _)
    | with_reducible apply Quiet.fold2 | split | intro _)

theorem postBoard_quiet (v : XRef) (x : XS) : Quiet x.2 (postBoard v x).2 := by
  unfold postBoard
  repeat' (first
    | with_reducible exact Quiet.refl _ | dsimp only | with_reducible apply Quiet.trans ?_ (post_quiet _ _ _)
    | with_reducible apply Quiet.fold2 | split | intro _)

theorem postResult_quiet (v : XRef) (x : XS) : Quiet x.2 (postResult v x).2 := by
  unfold postResult
  repeat' (first
    | with_reducible exact Quiet.refl _ | dsimp only | with_reducible apply Quiet.trans ?_ (postAll_quiet _ _ _) | split)

theorem postCounts_quiet (x : XS) : Quiet x.2 (postCounts x).2 := by
  unfold postCounts
  repeat' (first
    | with_reducible exact Quiet.refl _ | with_reducible apply Quiet.trans ?_ (postAll_quiet _ _ _) | with_reducible apply Quiet.fold2
    | split | intro _)

theorem reduceMove_quiet (x y : XS) (h : reduceMove x = some y) : Quiet x.2 y.2 := by
  have f4 := postCounts_quiet x
  unfold reduceMove at h
  dsimp only at h
  split at h
  case h_8 => split at h <;> cases h; exact Quiet.refl _
  case h_9 => cases h
  all_goals
    split at h <;> cases h
    first
      | exact Quiet.fold2 (fun (b : XS) v => postContrib_quiet v b) (Quiet.refl _)
      | exact Quiet.fold2 (fun (b : XS) v => postBoard_quiet v b) (Quiet.refl _)
      | exact Quiet.fold2 (fun (b : XS) v => postResult_quiet v b) (Quiet.refl _)
      | exact f4

theorem gatherMove_quiet (x y : XS) (h : gatherMove x = some y) : Quiet x.2 y.2 := by
  unfold gatherMove at h
  dsimp only at h
  split at h
  · split at h <;> cases h
    refine Quiet.foldl2 (fun b p => Quiet.foldl2 (fun b r => ?_) _ b) _ _
    split
    · exact Quiet.refl _
    · exact sendMember_quiet _ _ _ _ _ _ _
  · split at h <;> cases h
    exact Quiet.refl _
  · cases h

theorem xMove_quiet (x y : XS) (h : xMove x = some y) : Quiet x.2 y.2 := by
  unfold xMove at h
  split at h
  · exact reduceMove_quiet x y h
  · exact gatherMove_quiet x y h
  · cases h

theorem xMoves_quiet : ∀ (n : Nat) (x : XS), Quiet x.2 (xMoves n x).2
  | 0, x => Quiet.refl x.2
  | n + 1, x => by
    unfold xMoves
    split
    · rename_i y h
      exact (xMove_quiet x y h).trans (xMoves_quiet n y)
    · exact Quiet.refl x.2

theorem sendFields_quiet (x : Exchange) (s : State) : Quiet s (sendFields x s) := by
  unfold sendFields
  repeat' (first
    | with_reducible exact Quiet.refl _ | with_reducible apply Quiet.trans ?_ (sendMember_quiet _ _ _ _ _ _ _)
    | with_reducible apply Quiet.fold | split | intro _)

/-! ### Reduce -/

theorem getBucket_mquiet (a : Nat) : MQuiet (getBucket a) := by
  unfold getBucket
  repeat' (first
    | with_reducible exact MQuiet.pure _ | with_reducible exact MQuiet.needDesc _ | with_reducible exact needInStacks_mquiet _ _
    | with_reducible exact readU64_mquiet _ | with_reducible exact readSerial_mquiet _ _ | with_reducible exact readBytes_mquiet _ _
    | with_reducible exact needMapped_mquiet _ _ | with_reducible apply MQuiet.bind | dsimp only | intro _)

theorem getLowRank_mquiet (a : Nat) (rows : Nat) (cols : Nat) : MQuiet (getLowRank a rows cols) := by
  unfold getLowRank
  repeat' (first
    | with_reducible exact MQuiet.pure _ | with_reducible exact MQuiet.needDesc _ | with_reducible exact needInStacks_mquiet _ _
    | with_reducible exact readU64_mquiet _ | with_reducible exact readBytes_mquiet _ _ | with_reducible exact getTRec_mquiet _
    | with_reducible exact needMapped_mquiet _ _ | with_reducible apply MQuiet.bind | dsimp only | intro _)

theorem getBEntry_mquiet (a : Nat) (base : Nat) : MQuiet (getBEntry a base) := by
  unfold getBEntry
  repeat' (first
    | with_reducible exact MQuiet.pure _ | with_reducible exact MQuiet.needDesc _ | with_reducible exact readU64_mquiet _
    | with_reducible exact readSerial_mquiet _ _ | with_reducible exact getTRec_mquiet _ | with_reducible exact getLowRank_mquiet _ _ _
    | with_reducible apply MQuiet.bind | dsimp only | intro _ | split)

theorem getBEntries_mquiet : ∀ n a base : Nat, MQuiet (getBEntries n a base)
  | 0, _, _ => MQuiet.pure _
  | n + 1, _, _ => (getBEntry_mquiet _ _).bind fun _ => (getBEntries_mquiet n _ _).bind fun _ => MQuiet.pure _

theorem checkSum_mquiet (f : RedFields) : MQuiet (checkSum f) := by
  unfold checkSum
  repeat' (first
    | with_reducible exact MQuiet.pure _ | with_reducible exact MQuiet.getS | with_reducible exact MQuiet.needDesc _
    | with_reducible exact getBucket_mquiet _ | with_reducible exact getBEntries_mquiet _ _ _ | with_reducible apply MQuiet.bind
    | dsimp only | intro _)

theorem checkSumsq_mquiet (f : RedFields) : MQuiet (checkSumsq f) := by
  unfold checkSumsq
  repeat' (first
    | with_reducible exact MQuiet.needDesc _ | with_reducible exact needMapped_mquiet _ _ | with_reducible exact readU64_mquiet _
    | with_reducible exact getBucket_mquiet _ | with_reducible apply MQuiet.bind | with_reducible apply MQuiet.mapM | intro _)

theorem checkMeanvar_mquiet (f : RedFields) : MQuiet (checkMeanvar f) := by
  unfold checkMeanvar
  repeat' (first
    | with_reducible exact MQuiet.pure _ | with_reducible exact MQuiet.needDesc _ | with_reducible exact needMapped_mquiet _ _
    | with_reducible exact getTRec_mquiet _ | with_reducible apply MQuiet.bind | intro _)

theorem checkUnits_mquiet (f : RedFields) (g : Group) (thins : Bool) (ins : List (Nat × Nat)) (outs : List (Nat × Nat)) : MQuiet
    (checkUnits f g thins ins outs) := by
  unfold checkUnits
  repeat' (first
    | with_reducible exact MQuiet.getS | with_reducible exact MQuiet.need _ _ | with_reducible exact needPlazas_mquiet _ _
    | with_reducible exact needOutBacked_mquiet _ | with_reducible apply MQuiet.bind | intro _)

theorem contribute_mquiet (x : BEntry × Nat) (prop : Bool) (extra : Nat) : MQuiet (contribute x prop extra) := by
  unfold contribute
  repeat' (first
    | with_reducible exact MQuiet.pure _ | with_reducible exact flatValues_mquiet _ _ | with_reducible exact f32Plane_mquiet _ _
    | with_reducible apply MQuiet.bind | dsimp only | intro _ | split)

theorem beginSum_mquiet (x : Exchange) (f : RedFields) (g : Group) : MQuiet (beginSum x f g) := by
  unfold beginSum
  repeat' (first
    | with_reducible exact MQuiet.pure _ | with_reducible exact MQuiet.getS | with_reducible exact checkSum_mquiet _
    | with_reducible exact checkUnits_mquiet _ _ _ _ _ | with_reducible exact needOutWritable_mquiet _
    | with_reducible exact noteWrite_mquiet _ _ | with_reducible exact contribute_mquiet _ _ _ | with_reducible apply MQuiet.bind
    | with_reducible apply MQuiet.mapM | with_reducible apply MQuiet.forM | dsimp only | intro _ | split)

theorem beginSumsq_mquiet (x : Exchange) (f : RedFields) (g : Group) : MQuiet (beginSumsq x f g) := by
  unfold beginSumsq
  repeat' (first
    | with_reducible exact MQuiet.pure _ | with_reducible exact MQuiet.getS | with_reducible exact MQuiet.need _ _
    | with_reducible exact checkSumsq_mquiet _ | with_reducible exact checkUnits_mquiet _ _ _ _ _
    | with_reducible exact needWritable_mquiet _ _ | with_reducible exact noteWrite_mquiet _ _ | with_reducible apply MQuiet.bind
    | dsimp only | intro _)

theorem beginMeanvar_mquiet (x : Exchange) (f : RedFields) (g : Group) : MQuiet (beginMeanvar x f g) := by
  unfold beginMeanvar
  repeat' (first
    | with_reducible exact MQuiet.pure _ | with_reducible exact MQuiet.getS | with_reducible exact checkMeanvar_mquiet _
    | with_reducible exact checkUnits_mquiet _ _ _ _ _ | with_reducible exact needOutWritable_mquiet _
    | with_reducible exact noteWrite_mquiet _ _ | with_reducible exact flatValues_mquiet _ _ | with_reducible apply MQuiet.bind
    | with_reducible apply MQuiet.forM | dsimp only | intro _)

theorem beginReduce_mquiet (x : Exchange) : MQuiet (beginReduce x) := by
  unfold beginReduce
  repeat' (first
    | with_reducible exact MQuiet.pure _ | with_reducible exact MQuiet.getS | with_reducible exact MQuiet.needDesc _
    | with_reducible exact getGroup_mquiet _ | with_reducible exact beginSum_mquiet _ _ _ | with_reducible exact beginSumsq_mquiet _ _ _
    | with_reducible exact beginMeanvar_mquiet _ _ _ | with_reducible exact awaitPlazas_mquiet _ _
    | with_reducible exact useUnits_mquiet _ | with_reducible apply MQuiet.bind | dsimp only | intro _ | split)

theorem readFlat_mquiet (t : TRec) (lo : Nat) (hi : Nat) : MQuiet (readFlat t lo hi) := by
  unfold readFlat
  repeat' (first
    | with_reducible exact MQuiet.pure _ | with_reducible exact readSerial_mquiet _ _ | with_reducible apply MQuiet.bind | intro _ | split)

theorem writeConverted_mquiet (t : TRec) (lo : Nat) (elems : List Byte) (scales : List Byte) : MQuiet
    (writeConverted t lo elems scales) := by
  unfold writeConverted
  repeat' (first
    | with_reducible exact writeBytes_mquiet _ _ | with_reducible apply MQuiet.bind | intro _ | split)

theorem writeFull_mquiet (x : Exchange) (e : BEntry) (v : XRef) : MQuiet (writeFull x e v) := by
  unfold writeFull
  repeat' (first
    | with_reducible exact MQuiet.pure _ | with_reducible exact orExc_mquiet _ | with_reducible exact writeConverted_mquiet _ _ _ _
    | with_reducible apply MQuiet.bind | with_reducible apply MQuiet.forM | dsimp only | intro _ | split)

theorem writeThinned_mquiet (x : Exchange) (f : RedFields) (e : BEntry) (l : LowRank) (v : XRef) : MQuiet (writeThinned x f e l v) := by
  unfold writeThinned
  repeat' (first
    | with_reducible exact orExc_mquiet _ | with_reducible exact writeConverted_mquiet _ _ _ _
    | with_reducible exact writeBytes_mquiet _ _ | with_reducible apply MQuiet.bind | with_reducible apply MQuiet.modS
    | with_reducible exact Quiet.refl _ | dsimp only | with_reducible apply Quiet.trans ?_ (scramble_quiet _ _ _) | intro _ | split)

theorem writeLow_mquiet (x : Exchange) (f : RedFields) (e : BEntry) (l : LowRank) (v : XRef) : MQuiet (writeLow x f e l v) := by
  unfold writeLow
  repeat' (first
    | with_reducible exact MQuiet.getS | with_reducible exact orExc_mquiet _ | with_reducible exact writeConverted_mquiet _ _ _ _
    | with_reducible exact writeBytes_mquiet _ _ | with_reducible apply MQuiet.bind | dsimp only | intro _)

theorem writeEntryM_mquiet (tag : W32) (r : EntryDone) : MQuiet (writeEntryM tag r) := by
  unfold writeEntryM
  repeat' (first
    | with_reducible exact writeSerial_mquiet _ _)

theorem writeEntryOut_mquiet (x : Exchange) (f : RedFields) (es : List BEntry) (c : XEntry) : MQuiet (writeEntryOut x f es c) := by
  unfold writeEntryOut
  repeat' (first
    | with_reducible exact MQuiet.pure _ | with_reducible exact MQuiet.fail _ | with_reducible exact writeThinned_mquiet _ _ _ _ _
    | with_reducible exact writeFull_mquiet _ _ _ | with_reducible apply MQuiet.bind | dsimp only | intro _ | split)

theorem entrySsq_mquiet (x : Exchange) (r : EntryDone) : MQuiet (entrySsq x r) := by
  unfold entrySsq
  repeat' (first
    | with_reducible exact MQuiet.pure _ | with_reducible exact readFlat_mquiet _ _ _ | with_reducible apply MQuiet.bind | intro _)

theorem entryM_mquiet (a : Nat) : MQuiet (entryM a) := by
  unfold entryM
  repeat' (first
    | with_reducible exact MQuiet.pure _ | with_reducible exact readSerial_mquiet _ _ | with_reducible apply MQuiet.bind | intro _)

theorem setLocal_quiet (hdr : Nat) (tag : W32) (n : Option Nat) (s : State) : Quiet s (setLocal hdr tag n s) := by
  unfold setLocal
  repeat' (first
    | with_reducible exact Quiet.refl _ | dsimp only
    | (apply Quiet.upd; (case e1 => dsimp only; with_reducible exact Is.rfl); iterate 10 dsimp only))

theorem bucketMs_mquiet (b : Bucket) (rs : List EntryDone) : MQuiet (bucketMs b rs) := by
  unfold bucketMs
  repeat' (first
    | with_reducible exact MQuiet.pure _ | with_reducible exact entryM_mquiet _ | with_reducible apply MQuiet.mapM | intro _ | split)

theorem closeBucket_mquiet (b : Bucket) (tag : W32) (own : Nat) (ms : List (F32 × Nat)) : MQuiet (closeBucket b tag own ms) := by
  unfold closeBucket
  repeat' (first
    | with_reducible exact MQuiet.pure _ | with_reducible exact writeSerial_mquiet _ _ | with_reducible apply MQuiet.bind
    | with_reducible apply MQuiet.modS | with_reducible exact Quiet.refl _ | dsimp only
    | with_reducible apply Quiet.trans ?_ (setLocal_quiet _ _ _ _)
    | (apply Quiet.upd; (case e1 => dsimp only; with_reducible exact Is.rfl); iterate 10 dsimp only) | intro _)

theorem writeLows_mquiet (x : Exchange) (f : RedFields) (b : Bucket) (rs : List EntryDone) : MQuiet (writeLows x f b rs) := by
  unfold writeLows
  repeat' (first
    | with_reducible exact MQuiet.pure _ | with_reducible exact probeEdges_mquiet _ _ | with_reducible exact writeLow_mquiet _ _ _ _ _
    | with_reducible apply MQuiet.bind | with_reducible apply MQuiet.forM | intro _ | split)

theorem setReduceInfo_mquiet (thinned : Nat) (nonfinite : Nat) (value : F32) (zeros : Nat) : MQuiet
    (setReduceInfo thinned nonfinite value zeros) := by
  unfold setReduceInfo
  repeat' (first
    | with_reducible apply MQuiet.modify | with_reducible exact Quiet.refl _ | dsimp only | intro _)

theorem finishSum_mquiet (x : Exchange) (f : RedFields) : MQuiet (finishSum x f) := by
  unfold finishSum
  repeat' (first
    | with_reducible exact MQuiet.pure _ | with_reducible exact MQuiet.getS | with_reducible exact setInfo_mquiet _
    | with_reducible exact getBucket_mquiet _ | with_reducible exact getBEntries_mquiet _ _ _
    | with_reducible exact writeEntryOut_mquiet _ _ _ _ | with_reducible exact entrySsq_mquiet _ _
    | with_reducible exact bucketMs_mquiet _ _ | with_reducible exact writeLows_mquiet _ _ _ _
    | with_reducible exact writeEntryM_mquiet _ _ | with_reducible exact closeBucket_mquiet _ _ _ _
    | with_reducible exact writeSerial_mquiet _ _ | with_reducible exact setReduceInfo_mquiet _ _ _ _ | with_reducible apply MQuiet.bind
    | with_reducible apply MQuiet.modS | with_reducible apply MQuiet.mapM | with_reducible apply MQuiet.forM
    | with_reducible exact Quiet.refl _ | dsimp only | with_reducible apply Quiet.trans ?_ (setLocal_quiet _ _ _ _)
    | (apply Quiet.upd; (case e1 => dsimp only; with_reducible exact Is.rfl); iterate 10 dsimp only) | intro _ | split)

theorem finishSumsq_mquiet (x : Exchange) (f : RedFields) : MQuiet (finishSumsq x f) := by
  unfold finishSumsq
  repeat' (first
    | with_reducible exact MQuiet.getS | with_reducible exact setInfo_mquiet _ | with_reducible exact writeBytes_mquiet _ _
    | with_reducible apply MQuiet.bind | intro _)

theorem finishMeanvar_mquiet (x : Exchange) (f : RedFields) : MQuiet (finishMeanvar x f) := by
  unfold finishMeanvar
  repeat' (first
    | with_reducible exact MQuiet.pure _ | with_reducible exact MQuiet.getS | with_reducible exact setInfo_mquiet _
    | with_reducible exact writeBytes_mquiet _ _ | with_reducible exact getTRec_mquiet _ | with_reducible exact orExc_mquiet _
    | with_reducible exact writeFlat_mquiet _ _ _ _ | with_reducible apply MQuiet.bind | with_reducible apply MQuiet.discard | dsimp only
    | intro _ | split)

theorem finishReduce_mquiet (x : Exchange) : MQuiet (finishReduce x) := by
  unfold finishReduce
  repeat' (first
    | with_reducible exact finishSum_mquiet _ _ | with_reducible exact finishSumsq_mquiet _ _
    | with_reducible exact finishMeanvar_mquiet _ _ | dsimp only | split)

theorem failHeader_quiet (hdr : Nat) (step : W32) (s : State) : Quiet s (failHeader hdr step s) := by
  unfold failHeader
  repeat' (first
    | with_reducible exact Quiet.refl _ | with_reducible apply Quiet.trans ?_ (leaveMark_quiet _ _)
    | with_reducible apply Quiet.trans ?_ (runWork_quiet _ ?_ _) | with_reducible apply MQuiet.bind
    | with_reducible exact readSerial_mquiet _ _ | with_reducible exact writeSerial_mquiet _ _ | split | intro _)

theorem sumOuts_mquiet (x : Exchange) : MQuiet (sumOuts x) := by
  unfold sumOuts
  repeat' (first
    | with_reducible exact MQuiet.pure _ | with_reducible exact getBucket_mquiet _ | with_reducible refine orNone_mquiet _ ?_
    | with_reducible exact getBEntry_mquiet _ _ | with_reducible apply MQuiet.bind | with_reducible apply MQuiet.mapM | dsimp only
    | intro _ | split)

theorem spoilSum_quiet (x : Exchange) (s : State) : Quiet s (spoilSum x s) := by
  unfold spoilSum
  repeat' (first
    | with_reducible exact Quiet.refl _ | dsimp only | with_reducible apply Quiet.trans ?_ (failHeader_quiet _ _ _)
    | with_reducible apply Quiet.trans ?_ (scrambleAll_quiet _ _) | split)

/-! ### Shard -/

theorem needShardTurn_mquiet (op : Nat) : MQuiet (needShardTurn op) := by
  unfold needShardTurn
  repeat' (first
    | with_reducible exact MQuiet.getS | with_reducible exact MQuiet.need _ _ | with_reducible apply MQuiet.bind | intro _)

theorem getMapEntry_mquiet (a : Nat) : MQuiet (getMapEntry a) := by
  unfold getMapEntry
  repeat' (first
    | with_reducible exact MQuiet.pure _ | with_reducible exact MQuiet.needDesc _ | with_reducible exact readU64_mquiet _
    | with_reducible exact needMapped_mquiet _ _ | with_reducible apply MQuiet.bind | dsimp only | intro _)

theorem takenEntries_mquiet (rank : Nat) (l : List Nat) : MQuiet (takenEntries rank l) := by
  unfold takenEntries
  repeat' (first
    | with_reducible exact MQuiet.pure _ | with_reducible exact readU64_mquiet _ | with_reducible exact setInfo_mquiet _
    | with_reducible apply MQuiet.bind | with_reducible apply MQuiet.foldlM | dsimp only | intro _ | split)

theorem loadChecks_mquiet (f : ShardFields) : MQuiet (loadChecks f) := by
  unfold loadChecks
  repeat' (first
    | with_reducible exact MQuiet.pure _ | with_reducible exact MQuiet.getS | with_reducible exact MQuiet.need _ _
    | with_reducible exact MQuiet.needDesc _ | with_reducible exact needMapped_mquiet _ _ | with_reducible exact readU64_mquiet _
    | with_reducible exact readBytes_mquiet _ _ | with_reducible refine soften_mquiet _ ?_ | with_reducible exact getGroup_mquiet _
    | with_reducible exact takenEntries_mquiet _ _ | with_reducible exact getMapEntry_mquiet _
    | with_reducible exact needShardTurn_mquiet _ | with_reducible exact hardened_mquiet _ | with_reducible exact needOutBacked_mquiet _
    | with_reducible exact needOutWritable_mquiet _ | with_reducible apply MQuiet.bind | with_reducible apply MQuiet.mapM | dsimp only
    | intro _ | split)

theorem addRange_quiet (base len : Nat) (s : State) : Quiet s (addRange base len s) :=
  ⟨⟨rfl, rfl, rfl, rfl, rfl, rfl, rfl, id, fun _ h => List.mem_append_left _ h⟩, rfl, rfl, rfl, rfl, rfl⟩

theorem loadOne_mquiet (n : Nat) (done : Nat) (e : MapEntry) : MQuiet (loadOne n done e) := by
  unfold loadOne
  repeat' (first
    | with_reducible exact MQuiet.pure _ | with_reducible exact writeBytes_mquiet _ _ | with_reducible exact readBytes_mquiet _ _
    | with_reducible exact setInfo_mquiet _ | with_reducible apply MQuiet.bind | with_reducible apply MQuiet.modS
    | with_reducible exact Quiet.refl _ | dsimp only | with_reducible apply Quiet.trans ?_ (addRange_quiet _ _ _)
    | (apply Quiet.upd; (case e1 => dsimp only; with_reducible exact Is.rfl); iterate 10 dsimp only) | intro _ | split)

theorem loadBody_mquiet (d : Desc) : MQuiet (loadBody d) := by
  unfold loadBody
  repeat' (first
    | with_reducible exact MQuiet.needDesc _ | with_reducible exact loadChecks_mquiet _ | with_reducible refine orScramble_mquiet _ _ ?_
    | with_reducible exact loadOne_mquiet _ _ _ | with_reducible apply MQuiet.bind | with_reducible apply MQuiet.foldlM
    | with_reducible apply MQuiet.discard | intro _)

theorem protectBody_mquiet (d : Desc) : MQuiet (protectBody d) := by
  unfold protectBody
  repeat' (first
    | with_reducible exact MQuiet.getS | with_reducible exact MQuiet.needDesc _ | with_reducible exact setInfo_mquiet _
    | with_reducible exact needShardTurn_mquiet _ | with_reducible exact needBacked_mquiet _ _ | with_reducible apply MQuiet.bind
    | with_reducible apply MQuiet.modS | with_reducible exact Quiet.refl _ | with_reducible apply Quiet.trans ?_ (addRange_quiet _ _ _)
    | intro _)

theorem settleLate_firm {α : Type} {s : State} {r : Except Fail α × Work} (h : Firm s r.2.s) : Firm s (settleLate r).2.s := by
  unfold settleLate
  split
  · exact h.trans (Quiet.foldl (fun s (a : MemAccess) => scramble_quiet a.lo a.len s) _ _).calm.firm
  · exact h

theorem runWorkAt_firm {α : Type} (order : Nat) (lines : List GotLine) (body : M α) (h : MFirm body) (s : State) :
    Firm s (runWorkAt order lines body s).2.s :=
  (settleLate_firm (h.run (Work.start order lines s))).trans (sendQueued_quiet s _).calm.firm

theorem runBody_firm (qp : Fin 64) (idx : W32) (d : Desc) (body : M Unit) (h : MFirm body) (s : State) :
    Firm s (runBody qp idx d body s) := by
  unfold runBody
  dsimp only
  split
  · exact (((openStep_quiet d s).trans (askFor_quiet _ _ _)).trans (pushInFlight_quiet _ _)).calm.firm
  · exact ((openStep_quiet d s).calm.firm.trans (runWorkAt_firm _ _ body h _)).trans
      ((settleEntry_quiet _ _ _ _).trans (pushInFlight_quiet _ _)).calm.firm

theorem unprotectBody_firm (d : Desc) : MFirm (unprotectBody d) := by
  unfold unprotectBody
  exact MFirm.bind (MQuiet.needDesc _) fun _ => MFirm.bind (needShardTurn_mquiet _) fun _ => MFirm.bind MQuiet.getS fun _ =>
    MFirm.bind (MQuiet.need _ _) fun _ => ⟨fun _ => ⟨rfl, rfl, rfl, rfl, rfl, rfl, rfl, id⟩⟩

theorem execUnprotect_firm (qp : Fin 64) (d : Desc) (s : State) {t : State} (h : execUnprotect qp d s = .next t) : Firm s t := by
  unfold execUnprotect startDesc at h
  split at h
  · cases h
  · split at h
    · cases h
    · split at h
      · cases h
        unfold startOne
        refine (advanceHead_calm qp 1 s).firm.trans ?_
        have hc := (headChecks_quiet (advanceHead qp 1 s) (s.q.qps[qp]).head d).calm.firm
        dsimp only
        split
        · exact hc.trans (runBody_firm qp _ d _ (unprotectBody_firm d) _)
        · exact hc.trans (pushInFlight_quiet _ _).calm.firm
      · cases h
        exact (showFront_calm qp d s).firm

theorem zeroBody_mquiet (d : Desc) : MQuiet (zeroBody d) := by
  unfold zeroBody
  repeat' (first
    | with_reducible exact MQuiet.needDesc _ | with_reducible exact setInfo_mquiet _ | with_reducible exact needMapped_mquiet _ _
    | with_reducible exact needShardTurn_mquiet _ | with_reducible exact needBacked_mquiet _ _
    | with_reducible exact needWritable_mquiet _ _ | with_reducible exact writeBytes_mquiet _ _ | with_reducible apply MQuiet.bind
    | intro _)

theorem gatherSource_mquiet (src : Nat) : MQuiet (gatherSource src) := by
  unfold gatherSource
  repeat' (first
    | with_reducible exact MQuiet.pure _ | with_reducible exact MQuiet.getS | with_reducible exact getPair_mquiet _
    | with_reducible apply MQuiet.bind | intro _ | split)

theorem slicePiece_mquiet (t : Option TRec) (rank : Nat) (lo : Nat) : MQuiet (slicePiece t rank lo) := by
  unfold slicePiece
  repeat' (first
    | with_reducible exact MQuiet.pure _ | with_reducible exact readBytes_mquiet _ _ | with_reducible apply MQuiet.bind | dsimp only
    | intro _ | split)

theorem beginGather_mquiet (x : Exchange) : MQuiet (beginGather x) := by
  unfold beginGather
  repeat' (first
    | with_reducible exact MQuiet.pure _ | with_reducible exact MQuiet.getS | with_reducible exact MQuiet.need _ _
    | with_reducible exact MQuiet.needDesc _ | with_reducible refine soften_mquiet _ ?_ | with_reducible exact getGroup_mquiet _
    | with_reducible exact setInfo_mquiet _ | with_reducible exact getPair_mquiet _ | with_reducible exact gatherSource_mquiet _
    | with_reducible exact needShardTurn_mquiet _ | with_reducible exact hardened_mquiet _ | with_reducible exact needOutBacked_mquiet _
    | with_reducible exact needOutWritable_mquiet _ | with_reducible exact noteWrite_mquiet _ _
    | with_reducible exact slicePiece_mquiet _ _ _ | with_reducible apply MQuiet.bind | with_reducible apply MQuiet.forM | dsimp only
    | intro _ | split)

theorem finishGather_mquiet (x : Exchange) : MQuiet (finishGather x) := by
  unfold finishGather
  repeat' (first
    | with_reducible exact MQuiet.pure _ | with_reducible exact MQuiet.getS | with_reducible exact setInfo_mquiet _
    | with_reducible exact getPair_mquiet _ | with_reducible exact writeBytes_mquiet _ _ | with_reducible exact setNextTag_mquiet _ _
    | with_reducible apply MQuiet.bind | with_reducible apply MQuiet.forM | dsimp only | intro _ | split)

theorem dropGather_quiet (x : Exchange) (spoils : Bool) (s : State) : Quiet s (dropGather x spoils s) := by
  unfold dropGather
  repeat' (first
    | with_reducible exact Quiet.refl _ | dsimp only | with_reducible apply Quiet.trans ?_ (writeLate_quiet _ _ _)
    | with_reducible apply Quiet.trans ?_ (scrambleAll_quiet _ _) | split)

theorem baseRanges_mquiet (t : TRec) : MQuiet (baseRanges t) := by
  unfold baseRanges
  repeat' (first
    | with_reducible exact MQuiet.pure _ | with_reducible exact checkCoded_mquiet _ | with_reducible apply MQuiet.bind | intro _ | split)

theorem rebuildChecks_mquiet (f : ShardFields) : MQuiet (rebuildChecks f) := by
  unfold rebuildChecks
  repeat' (first
    | with_reducible exact MQuiet.pure _ | with_reducible exact MQuiet.getS | with_reducible exact MQuiet.need _ _
    | with_reducible exact MQuiet.needDesc _ | with_reducible refine soften_mquiet _ ?_ | with_reducible exact getTRec_mquiet _
    | with_reducible exact baseRanges_mquiet _ | with_reducible exact getPair_mquiet _ | with_reducible exact needMapped_mquiet _ _
    | with_reducible exact needShardTurn_mquiet _ | with_reducible exact hardened_mquiet _ | with_reducible exact needOutBacked_mquiet _
    | with_reducible exact needOutWritable_mquiet _ | with_reducible apply MQuiet.bind | dsimp only | intro _)

theorem spoilDelta_quiet (f : ShardFields) (s : State) : Quiet s (spoilDelta f s) := by
  unfold spoilDelta
  repeat' (first
    | with_reducible exact Quiet.refl _ | dsimp only | with_reducible apply Quiet.trans ?_ (scrambleAll_quiet _ _)
    | with_reducible apply Quiet.trans ?_ (writeLate_quiet _ _ _) | split)

theorem rebuildWork_mquiet (r : RebuildReady) : MQuiet (rebuildWork r) := by
  unfold rebuildWork
  repeat' (first
    | with_reducible exact MQuiet.pure _ | with_reducible exact MQuiet.fail _ | with_reducible exact writeBytes_mquiet _ _
    | with_reducible exact noteWrite_mquiet _ _ | with_reducible exact blockOf_mquiet _ _ | with_reducible exact setInfo_mquiet _
    | with_reducible apply MQuiet.bind | with_reducible apply MQuiet.modS | with_reducible apply MQuiet.mapM
    | with_reducible exact Quiet.refl _ | dsimp only | with_reducible apply Quiet.trans ?_ (scramble_quiet _ _ _)
    | with_reducible apply Quiet.trans ?_ (invalidateLines_quiet _ _ _)
    | (apply Quiet.upd; (case e1 => dsimp only; with_reducible exact Is.rfl); iterate 10 dsimp only) | intro _ | split)

theorem rebuildBody_mquiet (d : Desc) : MQuiet (rebuildBody d) := by
  unfold rebuildBody
  repeat' (first
    | with_reducible exact MQuiet.needDesc _ | with_reducible refine orUnreadBy_mquiet _ _ ?_ ?_
    | with_reducible exact rebuildChecks_mquiet _ | with_reducible exact useUnits_mquiet _
    | with_reducible refine orScramble_mquiet _ _ ?_ | with_reducible exact rebuildWork_mquiet _
    | with_reducible exact MSpoils.pure (spoilDelta_quiet _) | with_reducible apply MQuiet.bind | dsimp only | intro _ | split)

theorem execLoad_calm (qp : Fin 64) (d : Desc) (s : State) {t : State} (h : execLoad qp d s = .next t) : Calm s t := by
  unfold execLoad at h
  repeat' (first
    | with_reducible refine startDesc_calm ?_ h | with_reducible exact loadBody_mquiet _)

theorem execProtect_calm (qp : Fin 64) (d : Desc) (s : State) {t : State} (h : execProtect qp d s = .next t) : Calm s t := by
  unfold execProtect at h
  repeat' (first
    | with_reducible refine startDesc_calm ?_ h | with_reducible exact protectBody_mquiet _)

theorem execZero_calm (qp : Fin 64) (d : Desc) (s : State) {t : State} (h : execZero qp d s = .next t) : Calm s t := by
  unfold execZero at h
  repeat' (first
    | with_reducible refine startDesc_calm ?_ h | with_reducible exact zeroBody_mquiet _)

/-! ### Members -/

theorem setExchange_quiet (x : Exchange) (s : State) : Quiet s (setExchange x s) := by
  unfold setExchange
  repeat' (first
    | with_reducible exact Quiet.refl _ | dsimp only
    | (apply Quiet.upd; (case e1 => dsimp only; with_reducible exact Is.rfl); iterate 10 dsimp only))

theorem dropExchange_quiet (x : Exchange) (s : State) : Quiet s (dropExchange x s) := by
  unfold dropExchange
  repeat' (first
    | with_reducible exact Quiet.refl _ | dsimp only
    | (apply Quiet.upd; (case e1 => dsimp only; with_reducible exact Is.rfl); iterate 10 dsimp only))

theorem settleBeside_quiet (e : InFlight) (w : Work) : Quiet w.s (settleBeside e w) := by
  unfold settleBeside
  repeat' (first
    | with_reducible exact Quiet.refl _ | with_reducible apply Quiet.trans ?_ (settleAmong_quiet _ _))

theorem endExchange_quiet (x : Exchange) (f : Status × Option Nat) (s : State) : Quiet s (endExchange x f s) := by
  unfold endExchange
  repeat' (first
    | with_reducible exact Quiet.refl _ | dsimp only | with_reducible apply Quiet.trans ?_ (dropExchange_quiet _ _)
    | with_reducible apply Quiet.trans ?_ (setInFlight_quiet _ _) | split)

theorem afterFailure_quiet (x : Exchange) (st : Status) (s : State) : Quiet s (afterFailure x st s) := by
  unfold afterFailure
  repeat' (first
    | with_reducible exact Quiet.refl _ | dsimp only | with_reducible apply Quiet.trans ?_ (spoilSum_quiet _ _)
    | with_reducible apply Quiet.trans ?_ (dropGather_quiet _ _ _)
    | (apply Quiet.upd; (case e1 => dsimp only; with_reducible exact Is.rfl); iterate 10 dsimp only) | split)

theorem peekGroup_mquiet (a : Nat) : MQuiet (peekGroup a) := by
  unfold peekGroup
  repeat' (first
    | with_reducible exact MQuiet.pure _ | with_reducible exact readBytes_mquiet _ _ | with_reducible apply MQuiet.bind
    | with_reducible apply MQuiet.catches | dsimp only | intro _)

theorem takeEarly_quiet (r : Nat) (x : XS) : Quiet x.2 (takeEarly r x).2 := by
  unfold takeEarly
  repeat' (first
    | with_reducible exact Quiet.refl _ | dsimp only
    | (apply Quiet.upd; (case e1 => dsimp only; with_reducible exact Is.rfl); iterate 10 dsimp only) | split)

theorem dealFields_quiet (l : List Exchange) (s : State) : Quiet s (dealFields l s) := by
  induction l generalizing s with
  | nil => exact Quiet.refl s
  | cons x l ih =>
    unfold dealFields
    split
    · exact Quiet.refl s
    · split
      · exact ((Quiet.foldl2 (fun y r => takeEarly_quiet r y) _ (x, s)).trans (setExchange_quiet _ _)).trans (ih _)
      · exact ih s

theorem dealEarly_quiet (s : State) : Quiet s (dealEarly s) := by
  unfold dealEarly
  repeat' (first
    | with_reducible exact Quiet.refl _ | with_reducible apply Quiet.trans ?_ (dealFields_quiet _ _))

theorem exchangeLocks_mquiet (k : XKind) (d : Desc) : MQuiet (exchangeLocks k d) := by
  unfold exchangeLocks
  repeat' (first
    | with_reducible exact MQuiet.pure _ | with_reducible exact MQuiet.getS | with_reducible exact needLines_mquiet _ _
    | with_reducible apply MQuiet.bind | dsimp only | intro _ | split)

theorem nameOne_quiet (x : Exchange) (s : State) {t : State} (h : nameOne x s = some t) : Quiet s t := by
  unfold nameOne at h
  repeat' (first
    | split at h | cases h | with_reducible exact Quiet.refl _ | with_reducible apply Quiet.trans ?_ (setExchange_quiet _ _))

theorem beginBody_mquiet (x : Exchange) : MQuiet (beginBody x) := by
  unfold beginBody
  repeat' (first
    | with_reducible exact MQuiet.pure _ | with_reducible exact beginReduce_mquiet _ | with_reducible exact beginGather_mquiet _
    | with_reducible exact rebuildBody_mquiet _ | with_reducible apply MQuiet.bind | intro _ | split)

theorem runExchange_quiet {α : Type} (x : Exchange) (m : M α) (s : State) (h : MQuiet m) {r : Except Fail α × State}
    (e : runExchange x m s = some r) : Quiet s r.2 := by
  unfold runExchange at e
  split at e
  · cases e
  · dsimp only at e
    split at e
    · cases e
    · cases e
      exact ((((runWorkAt_quiet _ _ _ (underDefaults_mquiet _ _ h) s).trans (settleBeside_quiet _ _)).trans
        (holdRequests_quiet _ (mergeWork _ _, settleBeside _ _))).trans
        (ownWrites_quiet s _ _ _)).trans (setInFlight_quiet _ _)

theorem prepareOne_quiet (x : Exchange) (s : State) {t : State} (h : prepareOne x s = some t) : Quiet s t := by
  unfold prepareOne at h
  obtain ⟨r, e, rfl⟩ := Option.map_eq_some_iff.mp h
  have q := runExchange_quiet x (beginBody x) s (beginBody_mquiet x) e
  split
  · exact (q.trans (setExchange_quiet _ _)).trans (dealEarly_quiet _)
  · exact q.trans (endExchange_quiet _ _ _)
  · exact (q.trans (endExchange_quiet _ _ _)).trans (afterFailure_quiet _ _ _)

theorem openExchange_quiet (x : Exchange) (s : State) : Quiet s (openExchange x s) := by
  unfold openExchange
  repeat' (first
    | with_reducible exact Quiet.refl _ | dsimp only | with_reducible apply Quiet.trans ?_ (setExchange_quiet _ _)
    | with_reducible apply Quiet.trans ?_ (sendFields_quiet _ _))

theorem freeOwn_quiet (x : XS) : Quiet x.2 (freeOwn x).2 := by
  unfold freeOwn
  repeat' (first
    | with_reducible exact Quiet.refl _ | dsimp only
    | (apply Quiet.upd; (case e1 => dsimp only; with_reducible exact Is.rfl); iterate 10 dsimp only))

theorem moveOn_quiet (x : Exchange) (s : State) : Quiet s (moveOn x s).2 := by
  unfold moveOn
  repeat' (first
    | with_reducible exact Quiet.refl _ | with_reducible apply Quiet.trans ?_ (xMoves_quiet _ _)
    | with_reducible apply Quiet.trans ?_ (freeOwn_quiet _) | split)

theorem settleSpoiled_quiet (x : Exchange) (s : State) : Quiet s (settleSpoiled x s) := by
  unfold settleSpoiled
  repeat' (first
    | with_reducible exact Quiet.refl _ | dsimp only | with_reducible apply Quiet.trans ?_ (scrambleAll_quiet _ _)
    | with_reducible apply Quiet.trans ?_ (raceEntry_quiet _ _ _) | with_reducible apply Quiet.trans ?_ (setInFlight_quiet _ _) | split)

theorem finishOne_quiet (x : Exchange) (s : State) {t : State} (h : finishOne x s = some t) : Quiet s t := by
  unfold finishOne at h
  obtain ⟨r, e, rfl⟩ := Option.map_eq_some_iff.mp h
  have q := runExchange_quiet x _ s (by
    split
    · exact finishGather_mquiet x
    · exact finishReduce_mquiet x) e
  split
  · exact (q.trans (endExchange_quiet _ _ _)).trans (settleSpoiled_quiet _ _)
  · exact (q.trans (endExchange_quiet _ _ _)).trans (afterFailure_quiet _ _ _)

theorem pumpOne_quiet (x : Exchange) (s t : State) (h : pumpOne x s = some t) : Quiet s t := by
  unfold pumpOne at h
  have hx := moveOn_quiet x s
  generalize moveOn x s = y at h hx
  dsimp only at h
  split at h
  · exact nameOne_quiet x s h
  · split at h
    · split at h
      · cases h
        exact (endExchange_quiet _ _ _).trans (afterFailure_quiet _ _ _)
      · split at h
        · cases h
          exact hx.trans (setExchange_quiet _ _)
        · split at h
          · exact finishOne_quiet x s h
          · cases h
    · split at h
      · cases h
        exact openExchange_quiet x s
      · split at h
        · exact prepareOne_quiet x s h
        · cases h

theorem pump_quiet : ∀ (n : Nat) (s : State), Quiet s (pump n s)
  | 0, s => Quiet.refl s
  | n + 1, s => by
    unfold pump
    split
    · rename_i t h
      obtain ⟨x, -, h⟩ := List.exists_of_findSome?_eq_some h
      exact (pumpOne_quiet x s t h).trans (pump_quiet n t)
    · exact Quiet.refl s

theorem askHeld_quiet (s : State) : Quiet s (askHeld s) := by
  unfold askHeld
  repeat' (first
    | with_reducible exact Quiet.refl _ | dsimp only | with_reducible apply Quiet.trans ?_ (askLines_quiet _ _ _)
    | with_reducible apply Quiet.fold | (apply Quiet.upd; (case e1 => dsimp only; with_reducible exact Is.rfl); iterate 10 dsimp only)
    | intro _)

theorem transmitAll_quiet (s : State) : Quiet s (transmitAll s) := by
  unfold transmitAll
  repeat' (first
    | with_reducible exact Quiet.refl _ | with_reducible apply Quiet.trans ?_ (transmit_quiet _ _) | with_reducible apply Quiet.fold
    | intro _)

theorem pumpAll_quiet (s : State) : Quiet s (pumpAll s) := by
  unfold pumpAll
  repeat' (first
    | with_reducible exact Quiet.refl _ | with_reducible apply Quiet.trans ?_ (transmitAll_quiet _)
    | with_reducible apply Quiet.trans ?_ (askHeld_quiet _) | with_reducible apply Quiet.trans ?_ (pump_quiet _ _) | split)

theorem enrol_quiet (x : Exchange) (s : State) : Quiet s (enrol x s) := by
  unfold enrol
  repeat' (first
    | with_reducible exact Quiet.refl _ | dsimp only | with_reducible apply Quiet.trans ?_ (dealEarly_quiet _)
    | (apply Quiet.upd; (case e1 => dsimp only; with_reducible exact Is.rfl); iterate 10 dsimp only))

theorem exchangeBody_mquiet (k : XKind) (qp : Fin 64) (idx : W32) (d : Desc) : MQuiet (exchangeBody k qp idx d) := by
  unfold exchangeBody
  repeat' (first
    | with_reducible exact MQuiet.pure _ | with_reducible exact setAwait_mquiet _ | with_reducible exact peekGroup_mquiet _
    | with_reducible exact exchangeLocks_mquiet _ _ | with_reducible apply MQuiet.bind | with_reducible apply MQuiet.modS
    | with_reducible apply MQuiet.catches | with_reducible exact Quiet.refl _ | dsimp only
    | with_reducible apply Quiet.trans ?_ (enrol_quiet _ _) | intro _ | split)

theorem startExchange_calm {isRow : Bool} {k : XKind} {qp : Fin 64} {d : Desc} {s t : State}
    (h : startExchange isRow k qp d s = .next t) : Calm s t := by
  unfold startExchange at h
  split at h
  · cases h
  · split at h
    · cases h
    · split at h
      · cases h
        exact (startOne_calm qp d _ (exchangeBody_mquiet _ _ _ _) s).trans (pumpAll_quiet _).calm
      · cases h
        exact showFront_calm qp d s

theorem execSum_calm (qp : Fin 64) (d : Desc) (s : State) {t : State} (h : execSum qp d s = .next t) : Calm s t := by
  unfold execSum at h
  repeat' (first
    | with_reducible refine startExchange_calm h)

theorem execSumsq_calm (qp : Fin 64) (d : Desc) (s : State) {t : State} (h : execSumsq qp d s = .next t) : Calm s t := by
  unfold execSumsq at h
  repeat' (first
    | with_reducible refine startExchange_calm h)

theorem execMeanvar_calm (qp : Fin 64) (d : Desc) (s : State) {t : State} (h : execMeanvar qp d s = .next t) : Calm s t := by
  unfold execMeanvar at h
  repeat' (first
    | with_reducible refine startExchange_calm h)

theorem execGather_calm (qp : Fin 64) (d : Desc) (s : State) {t : State} (h : execGather qp d s = .next t) : Calm s t := by
  unfold execGather at h
  repeat' (first
    | with_reducible refine startExchange_calm h)

theorem execRebuild_calm (qp : Fin 64) (d : Desc) (s : State) {t : State} (h : execRebuild qp d s = .next t) : Calm s t := by
  unfold execRebuild at h
  repeat' (first
    | with_reducible refine startExchange_calm h)

theorem takeFields_quiet (x : PeerMsg) (f : PeerFields) (s : State) : Quiet s (takeFields x f s) := by
  unfold takeFields
  repeat' (first
    | with_reducible exact Quiet.refl _ | dsimp only | with_reducible apply Quiet.trans ?_ (dealEarly_quiet _)
    | (apply Quiet.upd; (case e1 => dsimp only; with_reducible exact Is.rfl); iterate 10 dsimp only))

theorem takePiece_quiet (x : PeerMsg) (p : Piece) (s : State) : Quiet s (takePiece x p s) := by
  unfold takePiece
  repeat' (first
    | with_reducible exact Quiet.refl _ | with_reducible apply Quiet.trans ?_ (countReceived_quiet _ _)
    | with_reducible apply Quiet.trans ?_ (setExchange_quiet _ _) | split)

theorem takeSlice_quiet (x : PeerMsg) (p : Piece) (s : State) : Quiet s (takeSlice x p s) := by
  unfold takeSlice
  repeat' (first
    | with_reducible exact Quiet.refl _ | dsimp only | with_reducible apply Quiet.trans ?_ (setExchange_quiet _ _)
    | (apply Quiet.upd; (case e1 => dsimp only; with_reducible exact Is.rfl); iterate 10 dsimp only) | split)

theorem memberPacket_calm {av : Fin 8} {k : XKind} {x : PeerMsg} {take : State → State} {s t : State} (hf : ∀ s, Calm s (take s))
    (h : memberPacket av k x take s = .next t) : Calm s t := by
  unfold memberPacket at h
  split at h
  · cases h
  · split at h
    · cases h
    · split at h
      · cases h
        exact ((arrived_quiet _ _ _ _).calm.trans (hf _)).trans (pumpAll_quiet _).calm
      · cases h
        exact Calm.refl s

theorem execFields_calm (av : Fin 8) (x : PeerMsg) (f : PeerFields) (s : State) {t : State} (h : execFields av x f s = .next t)
    : Calm s t := by
  unfold execFields at h
  repeat' (first
    | with_reducible refine memberPacket_calm (fun _ => ?_) h | split at h | dsimp only at h | with_reducible exact Calm.refl _
    | with_reducible apply Calm.trans ?_ ((takeFields_quiet _ _ _).calm)
    | with_reducible apply Calm.trans ?_ ((countReceived_quiet _ _).calm) | split)

theorem execContrib_calm (av : Fin 8) (x : PeerMsg) (vals : List F32) (s : State) {t : State} (h : execContrib av x vals s = .next t)
    : Calm s t := by
  unfold execContrib at h
  repeat' (first
    | with_reducible refine memberPacket_calm (fun _ => ?_) h | with_reducible exact Calm.refl _
    | with_reducible apply Calm.trans ?_ ((takePiece_quiet _ _ _).calm))

theorem execBoardSum_calm (av : Fin 8) (x : PeerMsg) (vals : List (F32 × Bool)) (s : State) {t : State} (h
    : execBoardSum av x vals s = .next t) : Calm s t := by
  unfold execBoardSum at h
  repeat' (first
    | with_reducible refine memberPacket_calm (fun _ => ?_) h | with_reducible exact Calm.refl _
    | with_reducible apply Calm.trans ?_ ((takePiece_quiet _ _ _).calm))

theorem execReductionResult_calm (av : Fin 8) (x : PeerMsg) (elems : List Byte) (scales : List Byte) (s : State) {t : State} (h
    : execReductionResult av x elems scales s = .next t) : Calm s t := by
  unfold execReductionResult at h
  repeat' (first
    | with_reducible refine memberPacket_calm (fun _ => ?_) h | with_reducible exact Calm.refl _
    | with_reducible apply Calm.trans ?_ ((takePiece_quiet _ _ _).calm))

theorem execCount_calm (av : Fin 8) (x : PeerMsg) (count : W32) (s : State) {t : State} (h : execCount av x count s = .next t)
    : Calm s t := by
  unfold execCount at h
  repeat' (first
    | with_reducible refine memberPacket_calm (fun _ => ?_) h | with_reducible exact Calm.refl _
    | with_reducible apply Calm.trans ?_ ((takePiece_quiet _ _ _).calm))

theorem execSlice_calm (av : Fin 8) (x : PeerMsg) (elems : List Byte) (scales : List Byte) (s : State) {t : State} (h
    : execSlice av x elems scales s = .next t) : Calm s t := by
  unfold execSlice at h
  repeat' (first
    | with_reducible refine memberPacket_calm (fun _ => ?_) h | with_reducible exact Calm.refl _
    | with_reducible apply Calm.trans ?_ ((takeSlice_quiet _ _ _).calm))

theorem stall_calm (x : Exchange) (s : State) : Calm s (stall x s) := by
  unfold stall
  repeat' (first
    | with_reducible exact Calm.refl _ | dsimp only | with_reducible apply Calm.trans ?_ ((afterFailure_quiet _ _ _).calm)
    | with_reducible apply Calm.trans ?_ ((dropExchange_quiet _ _).calm) | with_reducible apply Calm.trans ?_ ((pumpAll_quiet _).calm)
    | with_reducible apply Calm.trans ?_ (finish_calm _ _) | with_reducible apply Calm.trans ?_ ((setInFlight_quiet _ _).calm)
    | (apply Calm.upd; (case e1 => dsimp only; with_reducible exact Is.rfl); iterate 8 dsimp only) | split)

theorem execReduceStallTimeout_calm (qp : Fin 64) (idx : W32) (s : State) {t : State} (h : execReduceStallTimeout qp idx s = .next t)
    : Calm s t := by
  unfold execReduceStallTimeout at h
  repeat' (first
    | split at h | cases h | with_reducible exact Calm.refl _ | dsimp only | with_reducible apply Calm.trans ?_ (stall_calm _ _)
    | (apply Calm.upd; (case e1 => dsimp only; with_reducible exact Is.rfl); iterate 8 dsimp only))

theorem execGatherTimeout_calm (qp : Fin 64) (idx : W32) (s : State) {t : State} (h : execGatherTimeout qp idx s = .next t) : Calm s t := by
  unfold execGatherTimeout at h
  repeat' (first
    | split at h | cases h | with_reducible exact Calm.refl _ | with_reducible apply Calm.trans ?_ (stall_calm _ _))

end Sys2Proof.Machine
end

