-- ==== Sys2Proof/Laws/KeepTurns.lean ====
section
/-! SUPPORT. What the parts of a command keep (`Quiet`, `Calm`, `Firm`, `Tame` of Laws/Keep.lean): turns, fences, versions and completion.
Each lemma is named after its function; a lemma about an `exec` function is about every next state it answers. -/

namespace Sys2Proof.Machine

/-! ### StepFence -/

theorem forgetCopies_quiet (s : State) : Quiet s (forgetCopies s).2 := by
  unfold forgetCopies
  repeat' (first
    | with_reducible exact Quiet.refl _ | dsimp only | with_reducible apply Quiet.trans ?_ (runWork_quiet _ ?_ _)
    | with_reducible exact writeSerial_mquiet _ _ | with_reducible apply Quiet.fold2 | intro _)

theorem closeStep_quiet (s : State) : Quiet s (closeStep s) := by
  unfold closeStep
  repeat' (first
    | with_reducible exact Quiet.refl _ | dsimp only
    | (apply Quiet.upd; (case e1 => dsimp only; with_reducible exact Is.rfl); iterate 10 dsimp only))

theorem endStep_quiet (st : Status) (s : State) : Quiet s (endStep st s).2 := by
  unfold endStep
  repeat' (first
    | with_reducible exact Quiet.refl _ | dsimp only | with_reducible apply Quiet.trans ?_ (forgetCopies_quiet _)
    | with_reducible apply Quiet.trans ?_ (closeStep_quiet _))

theorem stepFenceAct_quiet (s : State) : Quiet s (stepFenceAct s).2 := by
  unfold stepFenceAct
  repeat' (first
    | with_reducible exact Quiet.refl _ | dsimp only | with_reducible apply Quiet.trans ?_ (endStep_quiet _ _)
    | with_reducible apply Quiet.trans ?_ (raiseAlert_quiet _ _)
    | (apply Quiet.upd; (case e1 => dsimp only; with_reducible exact Is.rfl); iterate 10 dsimp only) | split)

theorem actStep_quiet (e : InFlight) (s : State) : Quiet s (actStep e s) := by
  unfold actStep
  repeat' (first
    | with_reducible exact Quiet.refl _ | dsimp only | with_reducible apply Quiet.trans ?_ (stepFenceAct_quiet _)
    | with_reducible apply Quiet.trans ?_ (setInFlight_quiet _ _))

theorem finishStep_calm (e : InFlight) (s : State) : Calm s (finishStep e s) := by
  unfold finishStep
  repeat' (first
    | with_reducible exact Calm.refl _ | dsimp only | with_reducible apply Calm.trans ?_ ((stepFenceAct_quiet _).calm)
    | with_reducible apply Calm.trans ?_ (finish_calm _ _) | split)

/-! ### TurnOps -/

theorem noteRefusal_quiet (st : Status) (s : State) : Quiet s (noteRefusal st s) := by
  unfold noteRefusal
  repeat' (first
    | with_reducible exact Quiet.refl _ | dsimp only
    | (apply Quiet.upd; (case e1 => dsimp only; with_reducible exact Is.rfl); iterate 10 dsimp only))

theorem endTurn_calm (qp : Fin 64) (idx : W32) (st : Status) (suspended : W32) (ended : W32) (s : State) : Calm s
    (endTurn qp idx st suspended ended s) := by
  unfold endTurn
  repeat' (first
    | with_reducible exact Calm.refl _ | with_reducible apply Calm.trans ?_ (finish_calm _ _) | split)

theorem acceptTurn_quiet (r : TurnReq) (s : State) : Quiet s (acceptTurn r s) := by
  unfold acceptTurn
  repeat' (first
    | with_reducible exact Quiet.refl _ | dsimp only
    | (apply Quiet.upd; (case e1 => dsimp only; with_reducible exact Is.rfl); iterate 10 dsimp only))

theorem decideTurn_calm (r : TurnReq) (s : State) : Calm s (decideTurn r s) := by
  unfold decideTurn
  repeat' (first
    | with_reducible exact Calm.refl _ | with_reducible apply Calm.trans ?_ ((acceptTurn_quiet _ _).calm)
    | with_reducible apply Calm.trans ?_ ((noteRefusal_quiet _ _).calm) | with_reducible apply Calm.trans ?_ (endTurn_calm _ _ _ _ _ _)
    | split)

theorem turnBody_mquiet (qp : Fin 64) (idx : W32) (d : Desc) : MQuiet (turnBody qp idx d) := by
  unfold turnBody
  repeat' (first
    | with_reducible exact MQuiet.getS | with_reducible exact MQuiet.fail _ | with_reducible exact setAwait_mquiet _
    | with_reducible apply MQuiet.bind | with_reducible apply MQuiet.modS | with_reducible exact Quiet.refl _ | dsimp only
    | with_reducible apply Quiet.trans ?_ (acceptTurn_quiet _ _) | with_reducible apply Quiet.trans ?_ (noteRefusal_quiet _ _)
    | (apply Quiet.upd; (case e1 => dsimp only; with_reducible exact Is.rfl); iterate 10 dsimp only) | intro _ | split)

theorem noteHeadRefusal_calm (qp : Fin 64) (d : Desc) (s : State) : Calm s (noteHeadRefusal qp d s) := by
  unfold noteHeadRefusal
  repeat' (first
    | with_reducible exact Calm.refl _ | dsimp only | with_reducible apply Calm.trans ?_ (startOne_calm _ _ _ ?_ _)
    | with_reducible apply Calm.trans ?_ ((noteRefusal_quiet _ _).calm) | with_reducible exact turnBody_mquiet _ _ _ | split)

theorem execTurn_calm (qp : Fin 64) (d : Desc) (s : State) {t : State} (h : execTurn qp d s = .next t) : Calm s t := by
  unfold execTurn at h
  repeat' (first
    | split at h | cases h | with_reducible exact Calm.refl _ | with_reducible apply Calm.trans ?_ (noteHeadRefusal_calm _ _ _)
    | with_reducible apply Calm.trans ?_ (showFront_calm _ _ _))

theorem execTurnWaitResume_calm (s : State) {t : State} (h : execTurnWaitResume s = .next t) : Calm s t := by
  unfold execTurnWaitResume at h
  repeat' (first
    | split at h | cases h | with_reducible exact Calm.refl _ | dsimp only | with_reducible apply Calm.trans ?_ (decideTurn_calm _ _)
    | (apply Calm.upd; (case e1 => dsimp only; with_reducible exact Is.rfl); iterate 8 dsimp only))

theorem endTransition_calm (t : TurnTrans) (st : Status) (s : State) : Calm s (endTransition t st s) := by
  unfold endTransition
  repeat' (first
    | with_reducible exact Calm.refl _ | dsimp only | with_reducible apply Calm.trans ?_ (endTurn_calm _ _ _ _ _ _)
    | (apply Calm.upd; (case e1 => dsimp only; with_reducible exact Is.rfl); iterate 8 dsimp only))

theorem leaveGenerate_quiet (s : State) : Quiet s (leaveGenerate s) := by
  unfold leaveGenerate
  repeat' (first
    | with_reducible exact Quiet.refl _ | dsimp only
    | (apply Quiet.upd; (case e1 => dsimp only; with_reducible exact Is.rfl); iterate 10 dsimp only) | split)

theorem enterTurn_tame (t : TurnTrans) (x : Turn) (slowCycles : W64) (s : State) : Tame s (enterTurn t x slowCycles s) := by
  unfold enterTurn
  repeat' (first
    | with_reducible exact Tame.refl _ | dsimp only | with_reducible apply Tame.trans ?_ ((endTransition_calm _ _ _).tame)
    | (apply Tame.upd; (case e1 => dsimp only; with_reducible exact Is.rfl); iterate 3 dsimp only))

theorem doEntry_tame (t : TurnTrans) (slowCycles : W64) (s0 : State) : Tame s0 (doEntry t slowCycles s0) := by
  unfold doEntry
  repeat' (first
    | with_reducible exact Tame.refl _ | dsimp only | with_reducible apply Tame.trans ?_ ((leaveGenerate_quiet _).tame)
    | with_reducible apply Tame.trans ?_ ((settleAll_quiet _ _).tame) | with_reducible apply Tame.trans ?_ ((noteRefusal_quiet _ _).tame)
    | with_reducible apply Tame.trans ?_ ((endTransition_calm _ _ _).tame) | with_reducible apply Tame.trans ?_ (enterTurn_tame _ _ _ _)
    | (apply Tame.upd; (case e1 => dsimp only; with_reducible exact Is.rfl); iterate 3 dsimp only) | split)

theorem afterAwaited_calm {x : TurnTrans} {s t : State} (h : afterAwaited x s = some t) : Calm s t := by
  unfold afterAwaited at h
  split at h
  · obtain ⟨e, -, rfl⟩ := Option.map_eq_some_iff.mp h
    exact finishStep_calm e s
  · cases h
    exact Calm.refl s

theorem execTurnEntry_tame (slowCycles : W64) (s : State) {t : State} (h : execTurnEntry slowCycles s = .next t) : Tame s t := by
  unfold execTurnEntry at h
  split at h
  · cases h
  · split at h
    · split at h
      · rename_i h1
        split at h <;> cases h
        · exact (afterAwaited_calm h1).tame.trans (doEntry_tame _ _ _)
        · exact Tame.refl s
      · cases h
        exact Tame.refl s
    · cases h
      exact Tame.refl s

theorem execTurnDrainTimeout_calm (s : State) {t : State} (h : execTurnDrainTimeout s = .next t) : Calm s t := by
  unfold execTurnDrainTimeout at h
  repeat' (first
    | split at h | cases h | with_reducible exact Calm.refl _ | with_reducible apply Calm.trans ?_ ((noteRefusal_quiet _ _).calm)
    | with_reducible apply Calm.trans ?_ (endTransition_calm _ _ _))

/-! ### Fence -/

theorem fenceBody_mquiet (qp : Fin 64) (d : Desc) : MQuiet (fenceBody qp d) := by
  unfold fenceBody
  repeat' (first
    | with_reducible exact MQuiet.needDesc _ | with_reducible exact setAwait_mquiet _ | with_reducible apply MQuiet.bind | intro _)

theorem startStep_calm (qp : Fin 64) (d : Desc) (s : State) : Calm s (startStep qp d s) := by
  unfold startStep
  repeat' (first
    | with_reducible exact Calm.refl _ | dsimp only | with_reducible apply Calm.trans ?_ (startOne_calm _ _ _ ?_ _)
    | with_reducible apply Calm.trans ?_ ((actStep_quiet _ _).calm) | with_reducible exact fenceBody_mquiet _ _ | split)

theorem execQueueFence_calm (qp : Fin 64) (d : Desc) (s : State) {t : State} (h : execQueueFence qp d s = .next t) : Calm s t := by
  unfold execQueueFence at h
  repeat' (first
    | with_reducible refine startDesc_calm ?_ h | with_reducible exact fenceBody_mquiet _ _)

theorem execWaitFence_calm (qp : Fin 64) (d : Desc) (s : State) {t : State} (h : execWaitFence qp d s = .next t) : Calm s t := by
  unfold execWaitFence at h
  repeat' (first
    | with_reducible refine startDesc_calm ?_ h | with_reducible exact fenceBody_mquiet _ _)

theorem execStepFence_calm (qp : Fin 64) (d : Desc) (s : State) {t : State} (h : execStepFence qp d s = .next t) : Calm s t := by
  unfold execStepFence at h
  repeat' (first
    | split at h | cases h | with_reducible exact Calm.refl _ | with_reducible apply Calm.trans ?_ (startStep_calm _ _ _)
    | with_reducible apply Calm.trans ?_ (showFront_calm _ _ _))

theorem execDrainFence_calm (qp : Fin 64) (d : Desc) (s : State) {t : State} (h : execDrainFence qp d s = .next t) : Calm s t := by
  unfold execDrainFence at h
  repeat' (first
    | with_reducible refine startDesc_calm ?_ h | with_reducible exact fenceBody_mquiet _ _)

theorem completeFence_calm (e : InFlight) (s : State) {t : State} (h : completeFence e s = some t) : Calm s t := by
  unfold completeFence at h
  cases ha : e.await <;> rw [ha] at h <;> dsimp only at h
  all_goals first | cases h | split at h <;> cases h
  all_goals first | exact finishStep_calm _ _ | exact finish_calm _ _

theorem execWaitTimeout_calm (qp : Fin 64) (idx : W32) (s : State) {t : State} (h : execWaitTimeout qp idx s = .next t) : Calm s t := by
  unfold execWaitTimeout at h
  repeat' (first
    | split at h | cases h | with_reducible exact Calm.refl _ | with_reducible apply Calm.trans ?_ (finish_calm _ _))

/-! ### Version -/

theorem setSlot_quiet (x : SlotId) (w : WSlot) (s : State) : Quiet s (setSlot x w s) := by
  unfold setSlot
  repeat' (first
    | with_reducible exact Quiet.refl _ | (apply Quiet.upd; (case e1 => dsimp only; with_reducible exact Is.rfl); iterate 10 dsimp only)
    | split)

theorem retireSlot_quiet (x : SlotId) (force : Bool) (s : State) : Quiet s (retireSlot x force s) := by
  unfold retireSlot
  repeat' (first
    | with_reducible exact Quiet.refl _ | dsimp only | with_reducible apply Quiet.trans ?_ (setSlot_quiet _ _ _))

theorem viewKind_mquiet (a : Nat) : MQuiet (viewKind a) := by
  unfold viewKind
  repeat' (first
    | with_reducible exact MQuiet.pure _ | with_reducible exact MQuiet.needDesc _ | with_reducible exact readU64_mquiet _
    | with_reducible exact needMapped_mquiet _ _ | with_reducible apply MQuiet.bind | dsimp only | intro _)

theorem followStart_quiet (v : Fin 4) (s : State) : Quiet s (followStart v s) := by
  unfold followStart
  repeat' (first
    | with_reducible exact Quiet.refl _ | dsimp only
    | (apply Quiet.upd; (case e1 => dsimp only; with_reducible exact Is.rfl); iterate 10 dsimp only) | split)

theorem publishSlot_quiet (f : VersionFields) (v : Fin 4) (s : State) : Quiet s (publishSlot f v s).2 := by
  unfold publishSlot
  repeat' (first
    | with_reducible exact Quiet.refl _ | dsimp only | with_reducible apply Quiet.trans ?_ (followStart_quiet _ _)
    | with_reducible apply Quiet.trans ?_ (setSlot_quiet _ _ _)
    | (apply Quiet.upd; (case e1 => dsimp only; with_reducible exact Is.rfl); iterate 10 dsimp only) | split)

theorem retireVersion_quiet (f : VersionFields) (v : Fin 4) (s : State) : Quiet s (retireVersion f v s).2 := by
  unfold retireVersion
  repeat' (first
    | with_reducible exact Quiet.refl _ | dsimp only | with_reducible apply Quiet.trans ?_ (retireSlot_quiet _ _ _) | split)

theorem loadAdapter_quiet (f : VersionFields) (a : Fin 256) (s : State) : Quiet s (loadAdapter f a s).2 := by
  unfold loadAdapter
  repeat' (first
    | with_reducible exact Quiet.refl _ | dsimp only | with_reducible apply Quiet.trans ?_ (retireSlot_quiet _ _ _)
    | with_reducible apply Quiet.trans ?_ (setSlot_quiet _ _ _)
    | (apply Quiet.upd; (case e1 => dsimp only; with_reducible exact Is.rfl); iterate 10 dsimp only) | split)

theorem retireAdapter_quiet (f : VersionFields) (s : State) : Quiet s (retireAdapter f s).2 := by
  unfold retireAdapter
  repeat' (first
    | with_reducible exact Quiet.refl _ | dsimp only | with_reducible apply Quiet.trans ?_ (retireSlot_quiet _ _ _) | split)

theorem versionAct_quiet (f : VersionFields) (s : State) : Quiet s (versionAct f s).2 := by
  unfold versionAct
  repeat' (first
    | with_reducible exact Quiet.refl _ | with_reducible apply Quiet.trans ?_ (publishSlot_quiet _ _ _)
    | with_reducible apply Quiet.trans ?_ (retireVersion_quiet _ _ _) | with_reducible apply Quiet.trans ?_ (loadAdapter_quiet _ _ _)
    | with_reducible apply Quiet.trans ?_ (retireAdapter_quiet _ _) | split)

theorem completeVersion_calm (e : InFlight) (d : Desc) (s : State) : Calm s (completeVersion e d s) := by
  unfold completeVersion
  repeat' (first
    | with_reducible exact Calm.refl _ | dsimp only | with_reducible apply Calm.trans ?_ ((versionAct_quiet _ _).calm)
    | with_reducible apply Calm.trans ?_ (finish_calm _ _)
    | (apply Calm.upd; (case e1 => dsimp only; with_reducible exact Is.rfl); iterate 8 dsimp only) | split)

theorem versionBody_mquiet (d : Desc) : MQuiet (versionBody d) := by
  unfold versionBody
  repeat' (first
    | with_reducible exact MQuiet.getS | with_reducible exact MQuiet.need _ _ | with_reducible exact MQuiet.needDesc _
    | with_reducible exact setAwait_mquiet _ | with_reducible exact needMapped_mquiet _ _ | with_reducible exact viewKind_mquiet _
    | with_reducible apply MQuiet.bind | with_reducible apply MQuiet.mapM | dsimp only | intro _ | split)

theorem execPublish_calm (qp : Fin 64) (d : Desc) (s : State) {t : State} (h : execPublish qp d s = .next t) : Calm s t := by
  unfold execPublish at h
  repeat' (first
    | with_reducible refine startDesc_calm ?_ h | with_reducible exact versionBody_mquiet _)

theorem execRetire_calm (qp : Fin 64) (d : Desc) (s : State) {t : State} (h : execRetire qp d s = .next t) : Calm s t := by
  unfold execRetire at h
  repeat' (first
    | with_reducible refine startDesc_calm ?_ h | with_reducible exact versionBody_mquiet _)

theorem execLoadAdapter_calm (qp : Fin 64) (d : Desc) (s : State) {t : State} (h : execLoadAdapter qp d s = .next t) : Calm s t := by
  unfold execLoadAdapter at h
  repeat' (first
    | with_reducible refine startDesc_calm ?_ h | with_reducible exact versionBody_mquiet _)

theorem execRetireAdapter_calm (qp : Fin 64) (d : Desc) (s : State) {t : State} (h : execRetireAdapter qp d s = .next t) : Calm s t := by
  unfold execRetireAdapter at h
  repeat' (first
    | with_reducible refine startDesc_calm ?_ h | with_reducible exact versionBody_mquiet _)

theorem execSlotFreed_calm (x : SlotId) (s : State) {t : State} (h : execSlotFreed x s = .next t) : Calm s t := by
  unfold execSlotFreed at h
  repeat' (first
    | split at h | cases h | with_reducible exact Calm.refl _ | with_reducible apply Calm.trans ?_ ((setSlot_quiet _ _ _).calm))

/-! ### Complete -/

/-- The work of a descriptor that is no UNPROTECT keeps every protected range. -/
theorem bodyOf_mquiet (d : Desc) (h : isShard 4 d = false) : MQuiet (bodyOf d) := by
  unfold bodyOf
  refine MQuiet.ite (fun _ => MQuiet.fail _) fun _ => MQuiet.ite (fun _ => tileBody_mquiet d) fun _ => ?_
  refine MQuiet.ite (fun _ => kernelBody_mquiet d) fun _ => MQuiet.ite (fun _ => attnBody_mquiet d) fun _ => ?_
  refine MQuiet.ite (fun _ => sampleBody_mquiet d) fun _ => MQuiet.ite (fun _ => careBody_mquiet d) fun _ => ?_
  refine MQuiet.ite (fun _ => moveBody_mquiet d) fun _ => MQuiet.ite (fun _ => versionBody_mquiet d) fun _ => ?_
  refine MQuiet.ite (fun hc => ?_) fun _ => MQuiet.fail _
  refine MQuiet.ite (fun _ => loadBody_mquiet d) fun _ => MQuiet.ite (fun _ => protectBody_mquiet d) fun _ => ?_
  exact MQuiet.ite (fun ho => absurd h (by rw [isShard, hc, ho]; decide)) fun _ => zeroBody_mquiet d

theorem bodyOf_firm (d : Desc) : MFirm (bodyOf d) := by
  cases h : isShard 4 d with
  | false => exact (bodyOf_mquiet d h).firm
  | true =>
    unfold bodyOf
    have hc : descClass d = clsShard ∧ (shardFields d).op = 4 := by simpa [isShard] using h
    rw [hc.1, hc.2]
    dsimp only
    cases isReserved d with
    | true => exact (MQuiet.fail _).firm
    | false => exact unprotectBody_firm d

theorem retryHeld_quiet (e : InFlight) (d : Desc) (x : Defaults) (s : State) (h : isShard 4 d = false) : Quiet s (retryHeld e d x s) := by
  unfold retryHeld
  split
  · exact retryFirst_quiet _ _ _ _ _ _
  · dsimp only
    split
    · exact askFor_quiet _ _ _
    · have w := runWorkAt_quiet e.order e.lines _ (underDefaults_mquiet x _ (bodyOf_mquiet d h)) s
      exact (w.trans (settleEntry_quiet _ _ _ _)).trans (setInFlight_quiet _ _)

theorem MFirm.underDefaults {α : Type} (x : Defaults) (m : M α) (h : MFirm m) : MFirm (underDefaults x m) := by
  refine MFirm.bind MQuiet.getS fun s => MFirm.bind (MQuiet.modS fun _ => ?_) fun _ => ?_
  · exact ⟨⟨rfl, rfl, rfl, rfl, rfl, rfl, rfl, id, fun _ h => h⟩, rfl, rfl, rfl, rfl, rfl⟩
  · have after : MQuiet (modS (·.withDefaults s.defaults)) := MQuiet.modS fun _ => ⟨⟨rfl, rfl, rfl, rfl, rfl, rfl, rfl, id, fun _ h => h⟩, rfl, rfl, rfl, rfl, rfl⟩
    unfold thenAlways
    exact (h.catches fun e => MFirm.bind after fun _ => (MQuiet.throw _).firm).seq fun _ => MFirm.bind after fun _ => (MQuiet.pure _).firm

theorem retryHeld_firm (e : InFlight) (d : Desc) (x : Defaults) (s : State) : Firm s (retryHeld e d x s) := by
  unfold retryHeld
  split
  · exact (retryFirst_quiet _ _ _ _ _ _).calm.firm
  · dsimp only
    split
    · exact (askFor_quiet _ _ _).calm.firm
    · have w := runWorkAt_firm e.order e.lines _ (MFirm.underDefaults x _ (bodyOf_firm d)) s
      exact w.trans ((settleEntry_quiet _ _ _ _).trans (setInFlight_quiet _ _)).calm.firm

theorem completeDone_calm (e : InFlight) (s : State) : Calm s (completeDone e s) := by
  unfold completeDone
  repeat' (first
    | with_reducible exact Calm.refl _ | dsimp only | with_reducible apply Calm.trans ?_ (finish_calm _ _)
    | with_reducible apply Calm.trans ?_ ((followOn_quiet _ _).calm) | split)

theorem completeOne_firm (e : InFlight) (s : State) {t : State} (h : completeOne e s = some t) : Firm s t := by
  unfold completeOne at h
  repeat' (first | split at h | cases h)
  · exact (runSecond_quiet _ _ _).calm.firm
  · exact (completeDone_calm _ _).firm
  · exact retryHeld_firm _ _ _ _
  · exact (completeVersion_calm _ _ _).firm
  · exact (pumpAll_quiet _).calm.firm
  · exact (finish_calm _ _).firm
  · exact (completeFence_calm _ _ h).firm

/-- Completing what is no UNPROTECT that had to wait keeps every protected range. -/
theorem completeOne_calm (e : InFlight) (s : State) (hh : ∀ d x, e.await = .held d x → isShard 4 d = false) {t : State}
    (h : completeOne e s = some t) : Calm s t := by
  unfold completeOne at h
  repeat' (first | split at h | cases h)
  · exact (runSecond_quiet _ _ _).calm
  · exact completeDone_calm _ _
  · rename_i ha
    exact (retryHeld_quiet _ _ _ _ (hh _ _ ha)).calm
  · exact completeVersion_calm _ _ _
  · exact (pumpAll_quiet _).calm
  · exact finish_calm _ _
  · exact completeFence_calm _ _ h

theorem execDescriptorComplete_firm (qp : Fin 64) (idx : W32) (s : State) {t : State}
    (h : execDescriptorComplete qp idx s = .next t) : Firm s t := by
  unfold execDescriptorComplete at h
  split at h
  · cases h
  · split at h
    · rename_i u e
      cases h
      obtain ⟨x, -, e⟩ := Option.bind_eq_some_iff.mp e
      exact completeOne_firm x s e
    · cases h
      exact (Calm.refl s).firm

theorem execDescriptorComplete_calm (qp : Fin 64) (idx : W32) (s : State)
    (hh : ∀ e d x, findInFlight s qp idx = some e → e.await = .held d x → isShard 4 d = false) {t : State}
    (h : execDescriptorComplete qp idx s = .next t) : Calm s t := by
  unfold execDescriptorComplete at h
  split at h
  · cases h
  · split at h
    · rename_i u e
      cases h
      obtain ⟨x, hx, e⟩ := Option.bind_eq_some_iff.mp e
      exact completeOne_calm x s (fun d y ha => hh x d y hx ha) e
    · cases h
      exact Calm.refl s

theorem execReservedClassCode_calm (qp : Fin 64) (d : Desc) (s : State) {t : State} (h : execReservedClassCode qp d s = .next t)
    : Calm s t := by
  unfold execReservedClassCode at h
  repeat' (first
    | with_reducible refine startDesc_calm ?_ h | split at h | cases h | with_reducible exact MQuiet.fail _
    | with_reducible exact Calm.refl _ | with_reducible apply Calm.trans ?_ (showFront_calm _ _ _))

end Sys2Proof.Machine
end

