-- ==== Sys2Proof/Laws/KeepService.lean ====
section
/-! SUPPORT. What the parts of a command keep (`Quiet`, `Calm`, `Firm`, `Tame` of Laws/Keep.lean): requests, packets, units, power, resets, plans, the scheduler and security.
Each lemma is named after its function; a lemma about an `exec` function is about every next state it answers. -/

namespace Sys2Proof.Machine

/-! ### Dict -/

theorem setSel_quiet (p : Path) (x : PathSel) (s : State) : Quiet s (setSel p x s) := by
  unfold setSel
  repeat' (first
    | with_reducible exact Quiet.refl _ | dsimp only
    | (apply Quiet.upd; (case e1 => dsimp only; with_reducible exact Is.rfl); iterate 10 dsimp only) | split)

/-! ### Serve -/

theorem countDebugRefusal_quiet (r : List Byte) (a : Nat) (s : State) : Quiet s (countDebugRefusal r a s) := by
  unfold countDebugRefusal
  repeat' (first
    | with_reducible exact Quiet.refl _ | dsimp only
    | (apply Quiet.upd; (case e1 => dsimp only; with_reducible exact Is.rfl); iterate 10 dsimp only) | split)

theorem afterRead_calm (r : List Byte) (s : State) : Calm s (afterRead r s) := by
  unfold afterRead
  repeat' (first
    | with_reducible exact Calm.refl _ | dsimp only
    | (apply Calm.upd; (case e1 => dsimp only; with_reducible exact Is.rfl); iterate 8 dsimp only))

theorem holdSession_quiet (p : Path) (s : State) : Quiet s (holdSession p s) := by
  unfold holdSession
  repeat' (first
    | with_reducible exact Quiet.refl _ | dsimp only
    | (apply Quiet.upd; (case e1 => dsimp only; with_reducible exact Is.rfl); iterate 10 dsimp only) | split)

theorem noteRequest_quiet (p : Path) (s : State) : Quiet s (noteRequest p s) := by
  unfold noteRequest
  repeat' (first
    | with_reducible exact Quiet.refl _ | dsimp only | with_reducible apply Quiet.trans ?_ (holdSession_quiet _ _)
    | (apply Quiet.upd; (case e1 => dsimp only; with_reducible exact Is.rfl); iterate 10 dsimp only))

theorem noteAbort_quiet (a : Answer) : Quiet a.s (noteAbort a) := by
  unfold noteAbort
  split
  · exact Quiet.refl _
  · exact ⟨⟨rfl, rfl, rfl, rfl, rfl, rfl, rfl, id, fun _ h => h⟩, rfl, rfl, rfl, rfl, rfl⟩

theorem sendOdResponse_quiet (tag : BitVec 12) (resp : List Byte) (s : State) : Quiet s (sendOdResponse tag resp s) := by
  unfold sendOdResponse
  repeat' (first
    | with_reducible exact Quiet.refl _ | with_reducible apply Quiet.trans ?_ (clRequest_quiet _ _ _ _ _ _)
    | (apply Quiet.upd; (case e1 => dsimp only; with_reducible exact Is.rfl); iterate 10 dsimp only))

theorem sendFieldResponse_quiet (dst : BitVec 48) (resp : List Byte) (s : State) : Quiet s (sendFieldResponse dst resp s) := by
  unfold sendFieldResponse
  repeat' (first
    | with_reducible exact Quiet.refl _ | (apply Quiet.upd; (case e1 => dsimp only; with_reducible exact Is.rfl); iterate 10 dsimp only))

theorem sendAnswer_quiet (a : OwedAnswer) (s : State) : Quiet s (sendAnswer a s) := by
  unfold sendAnswer
  repeat' (first
    | with_reducible exact Quiet.refl _ | dsimp only | with_reducible apply Quiet.trans ?_ (sendOdResponse_quiet _ _ _)
    | with_reducible apply Quiet.trans ?_ (sendFieldResponse_quiet _ _ _)
    | (apply Quiet.upd; (case e1 => dsimp only; with_reducible exact Is.rfl); iterate 10 dsimp only) | split)

theorem respond_quiet (a : OwedAnswer) (s : State) : Quiet s (respond a s) := by
  unfold respond
  repeat' (first
    | with_reducible exact Quiet.refl _ | dsimp only | with_reducible apply Quiet.trans ?_ (sendAnswer_quiet _ _)
    | (apply Quiet.upd; (case e1 => dsimp only; with_reducible exact Is.rfl); iterate 10 dsimp only) | split)

theorem repeatResponse_quiet (src : BitVec 48) (resp : List Byte) (s : State) : Quiet s (repeatResponse src resp s) := by
  unfold repeatResponse
  repeat' (first
    | with_reducible exact Quiet.refl _ | dsimp only | with_reducible apply Quiet.trans ?_ (holdSession_quiet _ _)
    | with_reducible apply Quiet.trans ?_ (sendFieldResponse_quiet _ _ _)
    | (apply Quiet.upd; (case e1 => dsimp only; with_reducible exact Is.rfl); iterate 10 dsimp only))

section
variable {R : State → State → Prop} (hr : ∀ s t, Calm s t → R s t) (ht : ∀ s t u, R s t → R t u → R s u) {own : Own}
  (ho : ∀ p r s, Gives R s (own p r s))
include hr ho

theorem writeChecked_keeps (o : Obj) (p : Path) (r : List Byte) (s : State) : R s (writeChecked own o p r s).s := by
  unfold writeChecked
  split
  · exact hr _ _ (Calm.refl s)
  · split
    · exact hr _ _ (Calm.refl s)
    · split
      · exact hr _ _ (Calm.refl s)
      · split
        · rename_i t e
          exact (ho p r s).of t e
        · exact hr _ _ (countDebugRefusal_quiet _ _ s).calm

include ht

theorem serveObject_keeps (p : Path) (r : List Byte) (s : State) : R s (serveObject own p r s).s := by
  unfold serveObject
  split
  · exact hr _ _ (Calm.refl s)
  · split
    · exact hr _ _ (Calm.refl s)
    · split
      · exact hr _ _ (Calm.refl s)
      · split
        · unfold writeAuthed
          have hc := hr _ _ (checkCritical_quiet (reqCounter r) (reqTag r) (reqCommand r) "GLOFATHAL OD" s).calm
          split
          · dsimp only
            split
            · exact ht _ _ _ hc (writeChecked_keeps hr ho _ p r _)
            · exact hc
          · exact writeChecked_keeps hr ho _ p r s
        · split
          · exact hr _ _ (Calm.refl s)
          · exact hr _ _ (afterRead_calm r s)

theorem serveOpc_keeps (p : Path) (r : List Byte) (s : State) : R s (serveOpc own p r s).s := by
  unfold serveOpc
  split
  · exact hr _ _ (Calm.refl s)
  · split
    · exact serveObject_keeps hr ht ho p r s
    · exact serveObject_keeps hr ht ho p r s
    · exact serveObject_keeps hr ht ho p r s
    · exact hr _ _ (Calm.refl s)
    · unfold serveOpen
      split
      · exact hr _ _ (Calm.refl s)
      · split
        · exact hr _ _ (Calm.refl s)
        · refine hr _ _ (Quiet.trans ?_ (raiseAlert_quiet _ _)).calm
          exact ⟨⟨rfl, rfl, rfl, rfl, rfl, rfl, rfl, id, fun _ h => h⟩, rfl, rfl, rfl, rfl, rfl⟩
    · unfold serveRelease
      split
      · refine hr _ _ (Quiet.calm ?_)
        exact ⟨⟨rfl, rfl, rfl, rfl, rfl, rfl, rfl, id, fun _ h => h⟩, rfl, rfl, rfl, rfl, rfl⟩
      · exact hr _ _ (Calm.refl s)
    · exact hr _ _ (Calm.refl s)

theorem executeReq_keeps (p : Path) (r : List Byte) (s : State) : R s (executeReq own p r s).2 := by
  unfold executeReq
  exact ht _ _ _ (hr _ _ (noteRequest_quiet p s).calm) (ht _ _ _ (serveOpc_keeps hr ht ho p r _) (hr _ _ (noteAbort_quiet _).calm))

theorem serveField_keeps (src : BitVec 48) (r : List Byte) (s : State) : R s (serveField own src r s) := by
  unfold serveField
  split
  · exact hr _ _ (repeatResponse_quiet _ _ _).calm
  · refine ht _ _ _ (hr _ _ (⟨⟨rfl, rfl, rfl, rfl, rfl, rfl, rfl, id, fun _ h => h⟩, rfl, rfl, rfl, rfl, rfl⟩ : Quiet s { s with od := { s.od with lastFieldSource := some src } }).calm)
      (ht _ _ _ (executeReq_keeps hr ht ho .field r _) (hr _ _ (respond_quiet _ _).calm))

theorem serveCarard_keeps (tag : BitVec 12) (r : List Byte) (s : State) : R s (serveCarard own tag r s) :=
  ht _ _ _ (hr _ _ (arrived_quiet _ _ _ _).calm) (ht _ _ _ (executeReq_keeps hr ht ho .carard r _) (hr _ _ (respond_quiet _ _).calm))

/-- A request keeps what its own rule keeps and every descriptor's work does. -/
theorem request_keeps {isRow : Bool} {p : Asker} {r : List Byte} {s t : State} (h : request isRow own p r s = .next t) : R s t := by
  unfold request at h
  split at h
  · cases h
  · split at h
    · cases h
    · split at h
      · cases h
        exact hr _ _ (Calm.refl s)
      · split at h
        · cases h
          exact serveCarard_keeps hr ht ho _ r s
        · split at h
          · split at h
            · cases h
              refine ht _ _ _ (hr _ _ (Quiet.calm ?_)) (serveField_keeps hr ht ho _ r _)
              exact ⟨⟨rfl, rfl, rfl, rfl, rfl, rfl, rfl, id, fun _ h => h⟩, rfl, rfl, rfl, rfl, rfl⟩
            · cases h
              exact hr _ _ (Calm.refl s)
          · cases h
            exact hr _ _ (Calm.refl s)
end

theorem ownNone_gives (p : Path) (r : List Byte) (s : State) : Gives Quiet s (ownNone p r s) := by
  unfold ownNone
  repeat' (first
    | with_reducible apply Gives.ok | with_reducible exact Quiet.refl _)

theorem discardFrame_quiet (s : State) : Quiet s (discardFrame s) := by
  unfold discardFrame
  repeat' (first
    | with_reducible exact Quiet.refl _ | dsimp only
    | (apply Quiet.upd; (case e1 => dsimp only; with_reducible exact Is.rfl); iterate 10 dsimp only))

theorem takeFrame_quiet (f : FieldFrame) (s : State) : Quiet s (takeFrame f s) := by
  unfold takeFrame
  repeat' (first
    | with_reducible exact Quiet.refl _ | dsimp only | with_reducible apply Quiet.trans ?_ (discardFrame_quiet _)
    | with_reducible apply Quiet.trans ?_ (repeatResponse_quiet _ _ _)
    | (apply Quiet.upd; (case e1 => dsimp only; with_reducible exact Is.rfl); iterate 10 dsimp only) | split)

theorem execFieldFrame_calm (f : FieldFrame) (s : State) {t : State} (h : execFieldFrame f s = .next t) : Calm s t := by
  unfold execFieldFrame at h
  repeat' (first
    | split at h | cases h | with_reducible exact Calm.refl _ | with_reducible apply Calm.trans ?_ ((takeFrame_quiet _ _).calm))

theorem execKeepalive_calm (p : Asker) (req : List Byte) (s : State) {t : State} (h : execKeepalive p req s = .next t) : Calm s t := by
  unfold execKeepalive at h
  repeat' (first
    | with_reducible refine request_keeps (fun _ _ h => h) (fun _ _ _ => Calm.trans) (fun _ _ _ => ?_) h
    | with_reducible exact Gives.calm (ownNone_gives _ _ _))

theorem execOpenSession_calm (p : Asker) (req : List Byte) (s : State) {t : State} (h : execOpenSession p req s = .next t) : Calm s t := by
  unfold execOpenSession at h
  repeat' (first
    | with_reducible refine request_keeps (fun _ _ h => h) (fun _ _ _ => Calm.trans) (fun _ _ _ => ?_) h
    | with_reducible exact Gives.calm (ownNone_gives _ _ _))

theorem execRelease_calm (p : Asker) (req : List Byte) (s : State) {t : State} (h : execRelease p req s = .next t) : Calm s t := by
  unfold execRelease at h
  repeat' (first
    | with_reducible refine request_keeps (fun _ _ h => h) (fun _ _ _ => Calm.trans) (fun _ _ _ => ?_) h
    | with_reducible exact Gives.calm (ownNone_gives _ _ _))

theorem execSessionLapse_calm (s : State) {t : State} (h : execSessionLapse s = .next t) : Calm s t := by
  unfold execSessionLapse at h
  repeat' (first
    | split at h | cases h | with_reducible exact Calm.refl _ | dsimp only
    | with_reducible apply Calm.trans ?_ ((raiseAlert_quiet _ _).calm)
    | (apply Calm.upd; (case e1 => dsimp only; with_reducible exact Is.rfl); iterate 8 dsimp only))

theorem endHoldOff_quiet (p : Path) (s : State) : Quiet s (endHoldOff p s) := by
  unfold endHoldOff
  repeat' (first
    | with_reducible exact Quiet.refl _ | dsimp only | with_reducible apply Quiet.trans ?_ (sendAlert_quiet _)
    | (apply Quiet.upd; (case e1 => dsimp only; with_reducible exact Is.rfl); iterate 10 dsimp only) | split)

theorem execAlert_calm (p : Path) (s : State) {t : State} (h : execAlert p s = .next t) : Calm s t := by
  unfold execAlert at h
  repeat' (first
    | split at h | cases h | with_reducible exact Calm.refl _ | with_reducible apply Calm.trans ?_ ((endHoldOff_quiet _ _).calm))

/-! ### DictWrite -/

theorem okIf_gives {R : State → State → Prop} {c : Bool} {s t : State} (h : R s t) : Gives R s (okIf c t) := by
  unfold okIf
  split
  · exact Gives.ok h
  · exact Gives.error _ _

theorem freeAnd_gives {R : State → State → Prop} {b c : Bool} {s t : State} (h : R s t) : Gives R s (freeAnd b c t) := by
  unfold freeAnd
  split
  · exact Gives.error _ _
  · exact okIf_gives h

theorem set2400_gives (sub : Nat) (v : Nat) (s : State) : Gives Quiet s (set2400 sub v s) := by
  unfold set2400
  repeat' (first
    | with_reducible apply okIf_gives | with_reducible exact Quiet.refl _
    | (apply Quiet.upd; (case e1 => dsimp only; with_reducible exact Is.rfl); iterate 10 dsimp only))

theorem set2500_gives (sub : Nat) (v : Nat) (s : State) : Gives Quiet s (set2500 sub v s) := by
  unfold set2500
  repeat' (first
    | with_reducible apply okIf_gives | with_reducible apply Gives.ok | with_reducible exact Quiet.refl _ | dsimp only
    | (apply Quiet.upd; (case e1 => dsimp only; with_reducible exact Is.rfl); iterate 10 dsimp only) | split)

theorem set2600_gives (sub : Nat) (v : Nat) (s : State) : Gives Quiet s (set2600 sub v s) := by
  unfold set2600
  repeat' (first
    | with_reducible apply okIf_gives | with_reducible exact Quiet.refl _ | dsimp only
    | (apply Quiet.upd; (case e1 => dsimp only; with_reducible exact Is.rfl); iterate 10 dsimp only) | split)

theorem set2700_gives (sub : Nat) (v : Nat) (s : State) : Gives Quiet s (set2700 sub v s) := by
  unfold set2700
  repeat' (first
    | with_reducible apply okIf_gives | with_reducible apply freeAnd_gives | with_reducible exact Quiet.refl _ | dsimp only
    | (apply Quiet.upd; (case e1 => dsimp only; with_reducible exact Is.rfl); iterate 10 dsimp only) | split)

theorem set2800a_gives (sub : Nat) (v : Nat) (s : State) : Gives Quiet s (set2800a sub v s) := by
  unfold set2800a
  repeat' (first
    | with_reducible apply okIf_gives | with_reducible apply freeAnd_gives | with_reducible apply Gives.ok
    | with_reducible exact Quiet.refl _ | dsimp only
    | (apply Quiet.upd; (case e1 => dsimp only; with_reducible exact Is.rfl); iterate 10 dsimp only) | split)

theorem set2800b_gives (sub : Nat) (v : Nat) (s : State) : Gives Quiet s (set2800b sub v s) := by
  unfold set2800b
  repeat' (first
    | with_reducible apply okIf_gives | with_reducible apply freeAnd_gives | with_reducible apply Gives.ok
    | with_reducible exact Quiet.refl _ | dsimp only
    | (apply Quiet.upd; (case e1 => dsimp only; with_reducible exact Is.rfl); iterate 10 dsimp only) | split)

theorem setPair_calm (q : Fin 64) (p : QueuePair) (s : State) : Calm s (setPair q p s) := by
  unfold setPair
  repeat' (first
    | with_reducible exact Calm.refl _ | dsimp only
    | (apply Calm.upd; (case e1 => dsimp only; with_reducible exact Is.rfl); iterate 8 dsimp only))

theorem setPairObj_gives (q : Fin 64) (sub : Nat) (v : Nat) (s : State) : Gives Calm s (setPairObj q sub v s) := by
  unfold setPairObj
  repeat' (first
    | with_reducible apply okIf_gives | with_reducible apply freeAnd_gives | with_reducible apply Gives.ok
    | with_reducible exact Calm.refl _ | dsimp only | with_reducible apply Calm.trans ?_ (setPair_calm _ _ _) | split)

theorem set2D01_gives (sub : Nat) (v : Nat) (s : State) : Gives Quiet s (set2D01 sub v s) := by
  unfold set2D01
  repeat' (first
    | with_reducible apply okIf_gives | with_reducible apply freeAnd_gives | with_reducible apply Gives.ok
    | with_reducible exact Quiet.refl _ | dsimp only
    | (apply Quiet.upd; (case e1 => dsimp only; with_reducible exact Is.rfl); iterate 10 dsimp only) | split)

theorem set2D02_gives (sub : Nat) (v : Nat) (s : State) : Gives Quiet s (set2D02 sub v s) := by
  unfold set2D02
  repeat' (first
    | with_reducible apply okIf_gives | with_reducible exact Quiet.refl _ | dsimp only
    | (apply Quiet.upd; (case e1 => dsimp only; with_reducible exact Is.rfl); iterate 10 dsimp only))

theorem setInstance_gives (p : Path) (v : Nat) (s : State) : Gives Quiet s (setInstance p v s) := by
  unfold setInstance
  repeat' (first
    | with_reducible apply okIf_gives | with_reducible exact Quiet.refl _ | with_reducible apply Quiet.trans ?_ (setSel_quiet _ _ _))

theorem set5700_gives (sub : Nat) (v : Nat) (s : State) : Gives Calm s (set5700 sub v s) := by
  unfold set5700
  repeat' (first
    | with_reducible apply Gives.ok | with_reducible exact Gives.error _ _ | with_reducible exact Calm.refl _ | dsimp only
    | (apply Calm.upd; (case e1 => dsimp only; with_reducible exact Is.rfl); iterate 8 dsimp only) | split)

theorem setBlobOffset_gives (p : Path) (v : Nat) (s : State) : Gives Quiet s (setBlobOffset p v s) := by
  unfold setBlobOffset
  repeat' (first
    | with_reducible apply okIf_gives | with_reducible exact Quiet.refl _ | dsimp only
    | with_reducible apply Quiet.trans ?_ (setSel_quiet _ _ _))

theorem set6100_gives (sub : Nat) (v : Nat) (s : State) : Gives Quiet s (set6100 sub v s) := by
  unfold set6100
  repeat' (first
    | with_reducible apply okIf_gives | with_reducible exact Quiet.refl _ | dsimp only
    | (apply Quiet.upd; (case e1 => dsimp only; with_reducible exact Is.rfl); iterate 10 dsimp only) | split)

theorem set6200_gives (sub : Nat) (v : Nat) (s : State) : Gives Quiet s (set6200 sub v s) := by
  unfold set6200
  repeat' (first
    | with_reducible apply okIf_gives | with_reducible apply Gives.ok | with_reducible exact Quiet.refl _ | dsimp only
    | (apply Quiet.upd; (case e1 => dsimp only; with_reducible exact Is.rfl); iterate 10 dsimp only) | split)

theorem setIdle_gives (idx : Nat) (sub : Nat) (v : Nat) (s : State) : Gives Quiet s (setIdle idx sub v s) := by
  unfold setIdle
  repeat' (first
    | with_reducible apply Gives.ok | with_reducible exact Gives.error _ _ | with_reducible exact Quiet.refl _ | split)

theorem setLow_gives (p : Path) (idx : Nat) (sub : Nat) (v : Nat) (s : State) : Gives Quiet s (setLow p idx sub v s) := by
  unfold setLow
  repeat' (first
    | with_reducible exact setInstance_gives _ _ _ | with_reducible exact set2400_gives _ _ _ | with_reducible exact set2500_gives _ _ _
    | with_reducible exact set2600_gives _ _ _ | with_reducible exact set2700_gives _ _ _ | with_reducible exact setIdle_gives _ _ _ _
    | with_reducible apply okIf_gives | with_reducible exact Quiet.refl _ | dsimp only
    | (apply Quiet.upd; (case e1 => dsimp only; with_reducible exact Is.rfl); iterate 10 dsimp only) | split)

theorem setMid_gives (idx : Nat) (sub : Nat) (v : Nat) (s : State) : Gives Quiet s (setMid idx sub v s) := by
  unfold setMid
  repeat' (first
    | with_reducible exact set2800a_gives _ _ _ | with_reducible exact set2800b_gives _ _ _ | with_reducible exact set2D01_gives _ _ _
    | with_reducible exact set2D02_gives _ _ _ | with_reducible apply okIf_gives | with_reducible apply Gives.ok
    | with_reducible exact Quiet.refl _ | dsimp only
    | (apply Quiet.upd; (case e1 => dsimp only; with_reducible exact Is.rfl); iterate 10 dsimp only) | split)

theorem set3001_gives (v : Nat) (s : State) : Gives Calm s (set3001 v s) := by
  unfold set3001
  repeat' (first
    | with_reducible apply okIf_gives | with_reducible exact Calm.refl _ | dsimp only
    | (apply Calm.upd; (case e1 => dsimp only; with_reducible exact Is.rfl); iterate 8 dsimp only))

theorem setHigh_gives (p : Path) (idx : Nat) (sub : Nat) (v : Nat) (s : State) : Gives Calm s (setHigh p idx sub v s) := by
  unfold setHigh
  repeat' (first
    | with_reducible exact set3001_gives _ _ | with_reducible exact Gives.calm (setBlobOffset_gives _ _ _)
    | with_reducible exact set5700_gives _ _ _ | with_reducible exact Gives.calm (set6100_gives _ _ _)
    | with_reducible exact Gives.calm (set6200_gives _ _ _) | with_reducible exact Gives.calm (setIdle_gives _ _ _ _)
    | with_reducible apply okIf_gives | with_reducible apply Gives.ok | with_reducible exact Calm.refl _ | dsimp only
    | (apply Calm.upd; (case e1 => dsimp only; with_reducible exact Is.rfl); iterate 8 dsimp only) | split)

theorem ownSet_gives (p : Path) (r : List Byte) (s : State) : Gives Calm s (ownSet p r s) := by
  unfold ownSet
  repeat' (first
    | with_reducible exact setPairObj_gives _ _ _ _ | with_reducible exact Gives.calm (setLow_gives _ _ _ _ _)
    | with_reducible exact Gives.calm (setMid_gives _ _ _ _) | with_reducible exact setHigh_gives _ _ _ _ _ | dsimp only | split)

theorem execRead_calm (p : Asker) (req : List Byte) (s : State) {t : State} (h : execRead p req s = .next t) : Calm s t := by
  unfold execRead at h
  repeat' (first
    | with_reducible refine request_keeps (fun _ _ h => h) (fun _ _ _ => Calm.trans) (fun _ _ _ => ?_) h
    | with_reducible exact Gives.calm (ownNone_gives _ _ _))

theorem execProbeWindow_calm (p : Asker) (req : List Byte) (s : State) {t : State} (h : execProbeWindow p req s = .next t) : Calm s t := by
  unfold execProbeWindow at h
  repeat' (first
    | with_reducible refine request_keeps (fun _ _ h => h) (fun _ _ _ => Calm.trans) (fun _ _ _ => ?_) h
    | with_reducible exact Gives.calm (ownNone_gives _ _ _))

theorem execWrite_calm (p : Asker) (req : List Byte) (s : State) {t : State} (h : execWrite p req s = .next t) : Calm s t := by
  unfold execWrite at h
  repeat' (first
    | with_reducible refine request_keeps (fun _ _ h => h) (fun _ _ _ => Calm.trans) (fun _ _ _ => ?_) h
    | with_reducible exact ownSet_gives _ _ _)

theorem execWriteAuth_calm (p : Asker) (req : List Byte) (s : State) {t : State} (h : execWriteAuth p req s = .next t) : Calm s t := by
  unfold execWriteAuth at h
  repeat' (first
    | with_reducible refine request_keeps (fun _ _ h => h) (fun _ _ _ => Calm.trans) (fun _ _ _ => ?_) h
    | with_reducible exact ownSet_gives _ _ _)

theorem ownClass_gives (p : Path) (r : List Byte) (s : State) : Gives Quiet s (ownClass p r s) := by
  unfold ownClass
  repeat' (first
    | with_reducible apply okIf_gives | with_reducible exact Quiet.refl _ | dsimp only
    | with_reducible apply Quiet.trans ?_ (setSel_quiet _ _ _))

theorem execClassSelect_calm (p : Asker) (req : List Byte) (s : State) {t : State} (h : execClassSelect p req s = .next t) : Calm s t := by
  unfold execClassSelect at h
  repeat' (first
    | with_reducible refine request_keeps (fun _ _ h => h) (fun _ _ _ => Calm.trans) (fun _ _ _ => ?_) h
    | with_reducible exact Gives.calm (ownClass_gives _ _ _))

theorem ownAlertClear_gives (p : Path) (r : List Byte) (s : State) : Gives Quiet s (ownAlertClear p r s) := by
  unfold ownAlertClear
  repeat' (first
    | with_reducible apply Gives.ok | with_reducible exact Quiet.refl _ | dsimp only
    | (apply Quiet.upd; (case e1 => dsimp only; with_reducible exact Is.rfl); iterate 10 dsimp only))

theorem execAlertClear_calm (p : Asker) (req : List Byte) (s : State) {t : State} (h : execAlertClear p req s = .next t) : Calm s t := by
  unfold execAlertClear at h
  repeat' (first
    | with_reducible refine request_keeps (fun _ _ h => h) (fun _ _ _ => Calm.trans) (fun _ _ _ => ?_) h
    | with_reducible exact Gives.calm (ownAlertClear_gives _ _ _))

theorem ownAlertMask_gives (p : Path) (r : List Byte) (s : State) : Gives Quiet s (ownAlertMask p r s) := by
  unfold ownAlertMask
  repeat' (first
    | with_reducible apply okIf_gives | with_reducible exact Quiet.refl _ | dsimp only
    | with_reducible apply Quiet.trans ?_ (alertGained_quiet _)
    | (apply Quiet.upd; (case e1 => dsimp only; with_reducible exact Is.rfl); iterate 10 dsimp only) | split)

theorem execAlertMask_calm (p : Asker) (req : List Byte) (s : State) {t : State} (h : execAlertMask p req s = .next t) : Calm s t := by
  unfold execAlertMask at h
  repeat' (first
    | with_reducible refine request_keeps (fun _ _ h => h) (fun _ _ _ => Calm.trans) (fun _ _ _ => ?_) h
    | with_reducible exact Gives.calm (ownAlertMask_gives _ _ _))

theorem ownResume_gives (p : Path) (r : List Byte) (s : State) : Gives Quiet s (ownResume p r s) := by
  unfold ownResume
  repeat' (first
    | with_reducible apply Gives.ok | with_reducible exact Quiet.refl _ | dsimp only
    | (apply Quiet.upd; (case e1 => dsimp only; with_reducible exact Is.rfl); iterate 10 dsimp only) | split)

theorem execSchedulerResume_calm (p : Asker) (req : List Byte) (s : State) {t : State} (h : execSchedulerResume p req s = .next t)
    : Calm s t := by
  unfold execSchedulerResume at h
  repeat' (first
    | with_reducible refine request_keeps (fun _ _ h => h) (fun _ _ _ => Calm.trans) (fun _ _ _ => ?_) h
    | with_reducible exact Gives.calm (ownResume_gives _ _ _))

theorem ownFlush_gives (p : Path) (r : List Byte) (s : State) : Gives Quiet s (ownFlush p r s) := by
  unfold ownFlush
  repeat' (first
    | with_reducible apply Gives.ok | with_reducible exact Quiet.refl _ | dsimp only
    | (apply Quiet.upd; (case e1 => dsimp only; with_reducible exact Is.rfl); iterate 10 dsimp only) | split)

theorem execMaskCacheFlush_calm (p : Asker) (req : List Byte) (s : State) {t : State} (h : execMaskCacheFlush p req s = .next t)
    : Calm s t := by
  unfold execMaskCacheFlush at h
  repeat' (first
    | with_reducible refine request_keeps (fun _ _ h => h) (fun _ _ _ => Calm.trans) (fun _ _ _ => ?_) h
    | with_reducible exact Gives.calm (ownFlush_gives _ _ _))

theorem applyFlushes_quiet (s : State) : Quiet s (applyFlushes s) := by
  unfold applyFlushes
  repeat' (first
    | with_reducible exact Quiet.refl _ | dsimp only | with_reducible apply Quiet.trans ?_ (sendAnswer_quiet _ _)
    | with_reducible apply Quiet.fold | (apply Quiet.upd; (case e1 => dsimp only; with_reducible exact Is.rfl); iterate 10 dsimp only)
    | split | intro _)

theorem execMaskCacheFlushApply_calm (s : State) {t : State} (h : execMaskCacheFlushApply s = .next t) : Calm s t := by
  unfold execMaskCacheFlushApply at h
  repeat' (first
    | split at h | cases h | with_reducible exact Calm.refl _ | with_reducible apply Calm.trans ?_ ((applyFlushes_quiet _).calm))

theorem ownShare_gives (p : Path) (r : List Byte) (s : State) : Gives Tame s (ownShare p r s) := by
  unfold ownShare
  dsimp only
  generalize (if reqSub r = 1 then reqValue r else s.stk.k) = k
  generalize (if reqSub r = 2 then reqValue r else s.stk.j) = j
  unfold freeAnd okIf
  split
  · exact Gives.error _ _
  · split
    · rename_i h
      exact Gives.ok ⟨rfl, id, fun _ => by simpa using h⟩
    · exact Gives.error _ _

theorem execShareWrite_tame (p : Asker) (req : List Byte) (s : State) {t : State} (h : execShareWrite p req s = .next t) : Tame s t := by
  unfold execShareWrite at h
  repeat' (first
    | with_reducible refine request_keeps (fun _ _ => Calm.tame) (fun _ _ _ => Tame.trans) (fun _ _ _ => ?_) h
    | with_reducible exact ownShare_gives _ _ _)

theorem ownInject_gives (p : Path) (r : List Byte) (s : State) : Gives Quiet s (ownInject p r s) := by
  unfold ownInject
  repeat' (first
    | with_reducible apply okIf_gives | with_reducible exact Gives.error _ _ | with_reducible exact Quiet.refl _ | dsimp only
    | (apply Quiet.upd; (case e1 => dsimp only; with_reducible exact Is.rfl); iterate 10 dsimp only) | split)

theorem execInject_calm (p : Asker) (req : List Byte) (s : State) {t : State} (h : execInject p req s = .next t) : Calm s t := by
  unfold execInject at h
  repeat' (first
    | with_reducible refine request_keeps (fun _ _ h => h) (fun _ _ _ => Calm.trans) (fun _ _ _ => ?_) h
    | with_reducible exact Gives.calm (ownInject_gives _ _ _))

theorem markDebug_quiet (plaza : Nat) (row : Nat) (s : State) : Quiet s (markDebug plaza row s) := by
  unfold markDebug
  repeat' (first
    | with_reducible exact Quiet.refl _ | dsimp only
    | (apply Quiet.upd; (case e1 => dsimp only; with_reducible exact Is.rfl); iterate 10 dsimp only))

theorem ownAccumulator_gives (p : Path) (r : List Byte) (s : State) : Gives Quiet s (ownAccumulator p r s) := by
  unfold ownAccumulator
  repeat' (first
    | with_reducible apply Gives.ok | with_reducible exact Quiet.refl _ | dsimp only
    | with_reducible apply Quiet.trans ?_ (markDebug_quiet _ _ _) | with_reducible apply Quiet.trans ?_ (terrSet_quiet _ _ _ _ _) | split)

theorem execAccumulatorWrite_calm (p : Asker) (req : List Byte) (s : State) {t : State} (h : execAccumulatorWrite p req s = .next t)
    : Calm s t := by
  unfold execAccumulatorWrite at h
  repeat' (first
    | with_reducible refine request_keeps (fun _ _ h => h) (fun _ _ _ => Calm.trans) (fun _ _ _ => ?_) h
    | with_reducible exact Gives.calm (ownAccumulator_gives _ _ _))

theorem ownQueueEnable_gives (p : Path) (r : List Byte) (s : State) : Gives Calm s (ownQueueEnable p r s) := by
  unfold ownQueueEnable
  repeat' (first
    | with_reducible apply okIf_gives | with_reducible apply Gives.ok | with_reducible exact Calm.refl _ | dsimp only
    | with_reducible apply Calm.trans ?_ (setPair_calm _ _ _) | split)

theorem execQueueEnable_calm (p : Asker) (req : List Byte) (s : State) {t : State} (h : execQueueEnable p req s = .next t) : Calm s t := by
  unfold execQueueEnable at h
  repeat' (first
    | with_reducible refine request_keeps (fun _ _ h => h) (fun _ _ _ => Calm.trans) (fun _ _ _ => ?_) h
    | with_reducible exact ownQueueEnable_gives _ _ _)

/-! ### Packet -/

theorem packetIn_calm {av : Fin 8} {p : Packet} {vl ptype : Nat} {form : Bool} {f : State → State} {s t : State}
    (hf : ∀ s, Calm s (f s)) (h : packetIn av p vl ptype form f s = .next t) : Calm s t := by
  unfold packetIn at h
  repeat' (first | split at h | cases h)
  · exact (arrived_quiet _ _ _ _).calm.trans (hf _)
  · exact Calm.refl s

theorem storePeer_quiet (a : Nat) (bs : List Byte) (s : State) : Quiet s (storePeer a bs s) := by
  unfold storePeer
  repeat' (first
    | with_reducible exact Quiet.refl _ | with_reducible apply Quiet.trans ?_ (refuseOutside_quiet _)
    | with_reducible apply Quiet.trans ?_ (outsideWrite_quiet _ _ _ _) | split)

theorem peerWrite_quiet (put : Bool) (a : Nat) (bs : List Byte) (s : State) : Quiet s (peerWrite put a bs s) := by
  unfold peerWrite
  repeat' (first
    | with_reducible exact Quiet.refl _ | with_reducible apply Quiet.trans ?_ (holdRequest_quiet _ _)
    | with_reducible apply Quiet.trans ?_ (storePeer_quiet _ _ _) | split)

theorem takePut_quiet (p : Packet) (s : State) : Quiet s (takePut p s) := by
  unfold takePut
  repeat' (first
    | with_reducible exact Quiet.refl _ | with_reducible apply Quiet.trans ?_ (discardPacket_quiet _)
    | with_reducible apply Quiet.trans ?_ (peerWrite_quiet _ _ _ _) | split)

theorem execPutPacket_calm (av : Fin 8) (pk : Packet) (s : State) {t : State} (h : execPutPacket av pk s = .next t) : Calm s t := by
  unfold execPutPacket at h
  repeat' (first
    | with_reducible refine packetIn_calm (fun _ => ?_) h | with_reducible exact Calm.refl _
    | with_reducible apply Calm.trans ?_ ((takePut_quiet _ _).calm))

theorem forwardPacket_quiet (p : Packet) (s : State) : Quiet s (forwardPacket p s) := by
  unfold forwardPacket
  repeat' (first
    | with_reducible exact Quiet.refl _ | with_reducible apply Quiet.trans ?_ (discardPacket_quiet _)
    | with_reducible apply Quiet.trans ?_ (sendPacket_quiet _ _ _) | split)

theorem execForward_calm (av : Fin 8) (pk : Packet) (s : State) {t : State} (h : execForward av pk s = .next t) : Calm s t := by
  unfold execForward at h
  repeat' (first
    | split at h | cases h | with_reducible exact Calm.refl _ | with_reducible apply Calm.trans ?_ ((forwardPacket_quiet _ _).calm)
    | with_reducible apply Calm.trans ?_ ((arrived_quiet _ _ _ _).calm))

theorem takePeerState_quiet (av : Fin 8) (p : Packet) (s : State) : Quiet s (takePeerState av p s) := by
  unfold takePeerState
  repeat' (first
    | with_reducible exact Quiet.refl _ | dsimp only | with_reducible apply Quiet.trans ?_ (setLink_quiet _ _ _))

theorem execPeerState_calm (av : Fin 8) (pk : Packet) (s : State) {t : State} (h : execPeerState av pk s = .next t) : Calm s t := by
  unfold execPeerState at h
  repeat' (first
    | with_reducible refine packetIn_calm (fun _ => ?_) h | with_reducible exact Calm.refl _
    | with_reducible apply Calm.trans ?_ ((takePeerState_quiet _ _ _).calm))

theorem takeOffer_quiet (av : Fin 8) (p : Packet) (s : State) : Quiet s (takeOffer av p s) := by
  unfold takeOffer
  repeat' (first
    | with_reducible exact Quiet.refl _ | dsimp only | with_reducible apply Quiet.trans ?_ (sendPacket_quiet _ _ _)
    | (apply Quiet.upd; (case e1 => dsimp only; with_reducible exact Is.rfl); iterate 10 dsimp only) | split)

theorem execOffer_calm (av : Fin 8) (pk : Packet) (s : State) {t : State} (h : execOffer av pk s = .next t) : Calm s t := by
  unfold execOffer at h
  repeat' (first
    | with_reducible refine packetIn_calm (fun _ => ?_) h | with_reducible exact Calm.refl _
    | with_reducible apply Calm.trans ?_ ((takeOffer_quiet _ _ _).calm))

theorem queuePacket_quiet (av : Fin 8) (p : Packet) (s : State) : Quiet s (queuePacket av p s) := by
  unfold queuePacket
  repeat' (first
    | with_reducible exact Quiet.refl _ | with_reducible apply Quiet.trans ?_ (linkQueue_quiet _ _ _))

theorem sendParts_quiet (t : FwTx) (n off : Nat) (s : State) : Quiet s (sendParts t n off s) := by
  induction n generalizing off s with
  | zero => exact Quiet.refl s
  | succ n ih =>
    unfold sendParts
    dsimp only
    have h := readByHall_quiet (s.lk.rxBase.toNat + off) (min 4064 (t.len - off)) s
    generalize readByHall (s.lk.rxBase.toNat + off) (min 4064 (t.len - off)) s = r at h ⊢
    split
    · exact queuePacket_quiet _ _ _
    · split
      · exact h
      · exact (h.trans (queuePacket_quiet _ _ _)).trans (ih _ _)

theorem sendBundle_quiet (t : FwTx) (s : State) : Quiet s (sendBundle t s) := by
  unfold sendBundle
  repeat' (first
    | with_reducible exact Quiet.refl _ | dsimp only | with_reducible apply Quiet.trans ?_ (transmit_quiet _ _)
    | with_reducible apply Quiet.trans ?_ (sendParts_quiet _ _ _ _)
    | (apply Quiet.upd; (case e1 => dsimp only; with_reducible exact Is.rfl); iterate 10 dsimp only))

theorem takeAccept_quiet (av : Fin 8) (p : Packet) (s : State) : Quiet s (takeAccept av p s) := by
  unfold takeAccept
  repeat' (first
    | with_reducible exact Quiet.refl _ | with_reducible apply Quiet.trans ?_ (holdRequest_quiet _ _)
    | with_reducible apply Quiet.trans ?_ (sendBundle_quiet _ _) | split)

theorem execAccept_calm (av : Fin 8) (pk : Packet) (s : State) {t : State} (h : execAccept av pk s = .next t) : Calm s t := by
  unfold execAccept at h
  repeat' (first
    | with_reducible refine packetIn_calm (fun _ => ?_) h | with_reducible exact Calm.refl _
    | with_reducible apply Calm.trans ?_ ((takeAccept_quiet _ _ _).calm))

theorem execDecline_calm (av : Fin 8) (pk : Packet) (s : State) {t : State} (h : execDecline av pk s = .next t) : Calm s t := by
  unfold execDecline at h
  repeat' (first
    | with_reducible refine packetIn_calm (fun _ => ?_) h | with_reducible exact Calm.refl _
    | with_reducible apply Calm.trans ?_ ((endFwTx_quiet _).calm) | split)

theorem takePart_quiet (av : Fin 8) (p : Packet) (s : State) : Quiet s (takePart av p s) := by
  unfold takePart
  repeat' (first
    | with_reducible exact Quiet.refl _ | dsimp only | with_reducible apply Quiet.trans ?_ (peerWrite_quiet _ _ _ _)
    | (apply Quiet.upd; (case e1 => dsimp only; with_reducible exact Is.rfl); iterate 10 dsimp only) | split)

theorem execPart_calm (av : Fin 8) (pk : Packet) (s : State) {t : State} (h : execPart av pk s = .next t) : Calm s t := by
  unfold execPart at h
  repeat' (first
    | with_reducible refine packetIn_calm (fun _ => ?_) h | with_reducible exact Calm.refl _
    | with_reducible apply Calm.trans ?_ ((takePart_quiet _ _ _).calm))

theorem reportRefused_quiet (o : Nat) (s : State) : Quiet s (reportRefused o s) := by
  unfold reportRefused
  repeat' (first
    | with_reducible exact Quiet.refl _ | dsimp only
    | (apply Quiet.upd; (case e1 => dsimp only; with_reducible exact Is.rfl); iterate 10 dsimp only))

theorem endTransfer_quiet (av : Fin 8) (p : Packet) (s : State) : Quiet s (endTransfer av p s) := by
  unfold endTransfer
  repeat' (first
    | with_reducible exact Quiet.refl _ | dsimp only | with_reducible apply Quiet.trans ?_ (readByHall_quiet _ _ _)
    | with_reducible apply Quiet.trans ?_ (endFwRx_quiet _) | with_reducible apply Quiet.trans ?_ (sendPacket_quiet _ _ _)
    | with_reducible apply Quiet.trans ?_ (startStaging_quiet _ _) | with_reducible apply Quiet.trans ?_ (reportRefused_quiet _ _) | split)

theorem takeEnd_quiet (av : Fin 8) (p : Packet) (s : State) : Quiet s (takeEnd av p s) := by
  unfold takeEnd
  repeat' (first
    | with_reducible exact Quiet.refl _ | with_reducible apply Quiet.trans ?_ (holdRequest_quiet _ _)
    | with_reducible apply Quiet.trans ?_ (endTransfer_quiet _ _ _) | split)

theorem beginStaging_quiet (s : State) : Quiet s (beginStaging s) := by
  unfold beginStaging
  repeat' (first
    | with_reducible exact Quiet.refl _ | dsimp only | with_reducible apply Quiet.trans ?_ (holdRequest_quiet _ _)
    | with_reducible apply Quiet.trans ?_ (startStaging_quiet _ _)
    | (apply Quiet.upd; (case e1 => dsimp only; with_reducible exact Is.rfl); iterate 10 dsimp only) | split)

theorem takeHeld_calm (r : HeldRequest) (s : State) : Calm s (takeHeld r s) := by
  unfold takeHeld
  repeat' (first
    | with_reducible exact Calm.refl _ | with_reducible apply Calm.trans ?_ ((takeDrd_quiet _ _ _).calm)
    | with_reducible apply Calm.trans ?_ ((takeDwr_quiet _ _ _ _).calm) | with_reducible apply Calm.trans ?_ (takeDoorbell_calm _ _)
    | with_reducible apply Calm.trans ?_ ((peerWrite_quiet _ _ _ _).calm)
    | with_reducible apply Calm.trans ?_ ((takeEnd_quiet _ _ _).calm) | with_reducible apply Calm.trans ?_ ((takeAccept_quiet _ _ _).calm)
    | with_reducible apply Calm.trans ?_ ((beginStaging_quiet _).calm) | split)

theorem takeMark_quiet (m : LateMark) (s : State) : Quiet s (takeMark m s) := by
  unfold takeMark
  repeat' (first
    | with_reducible exact Quiet.refl _ | with_reducible apply Quiet.trans ?_ (writeLate_quiet _ _ _)
    | with_reducible apply Quiet.trans ?_ (failHeader_quiet _ _ _) | split)

theorem serveHeld_calm (s : State) : Calm s (serveHeld s) := by
  unfold serveHeld
  repeat' (first
    | with_reducible exact Calm.refl _ | dsimp only | with_reducible apply Calm.trans ?_ ((takeMark_quiet _ _).calm)
    | with_reducible apply Calm.trans ?_ (takeHeld_calm _ _) | with_reducible apply Calm.fold
    | (apply Calm.upd; (case e1 => dsimp only; with_reducible exact Is.rfl); iterate 8 dsimp only) | intro _)

theorem execEndBundle_calm (av : Fin 8) (pk : Packet) (s : State) {t : State} (h : execEndBundle av pk s = .next t) : Calm s t := by
  unfold execEndBundle at h
  repeat' (first
    | with_reducible refine packetIn_calm (fun _ => ?_) h | with_reducible exact Calm.refl _
    | with_reducible apply Calm.trans ?_ ((takeEnd_quiet _ _ _).calm))

theorem execBundleResult_calm (av : Fin 8) (pk : Packet) (s : State) {t : State} (h : execBundleResult av pk s = .next t) : Calm s t := by
  unfold execBundleResult at h
  repeat' (first
    | with_reducible refine packetIn_calm (fun _ => ?_) h | with_reducible exact Calm.refl _
    | with_reducible apply Calm.trans ?_ ((endFwTx_quiet _).calm) | split)

theorem giveUpRx_quiet (r : FwRx) (s : State) : Quiet s (giveUpRx r s) := by
  unfold giveUpRx
  repeat' (first
    | with_reducible exact Quiet.refl _ | with_reducible apply Quiet.trans ?_ (endFwRx_quiet _)
    | with_reducible apply Quiet.trans ?_ (sendPacket_quiet _ _ _))

theorem execTransferTimeout_calm (sending : Bool) (s : State) {t : State} (h : execTransferTimeout sending s = .next t) : Calm s t := by
  unfold execTransferTimeout at h
  repeat' (first
    | split at h | cases h | with_reducible exact Calm.refl _ | with_reducible apply Calm.trans ?_ ((endFwTx_quiet _).calm)
    | with_reducible apply Calm.trans ?_ ((giveUpRx_quiet _ _).calm))

/-! ### Unit -/

theorem setUnit_quiet (u : UnitId) (c : UnitCtl) (s : State) : Quiet s (setUnit u c s) := by
  unfold setUnit
  repeat' (first
    | with_reducible exact Quiet.refl _ | (apply Quiet.upd; (case e1 => dsimp only; with_reducible exact Is.rfl); iterate 10 dsimp only))

theorem recache_quiet (before : List Nat) (s : State) : Quiet s (recache before s) := by
  unfold recache
  repeat' (first
    | with_reducible exact Quiet.refl _ | dsimp only
    | (apply Quiet.upd; (case e1 => dsimp only; with_reducible exact Is.rfl); iterate 10 dsimp only) | split)

theorem endStreams_quiet (a : Nat) (b : Nat) (s : State) : Quiet s (endStreams a b s) := by
  unfold endStreams
  repeat' (first
    | with_reducible exact Quiet.refl _ | dsimp only
    | (apply Quiet.upd; (case e1 => dsimp only; with_reducible exact Is.rfl); iterate 10 dsimp only))

theorem clearPlazas_quiet (a : Nat) (b : Nat) (s : State) : Quiet s (clearPlazas a b s) := by
  unfold clearPlazas
  repeat' (first
    | with_reducible exact Quiet.refl _ | dsimp only | with_reducible apply Quiet.trans ?_ (clearArrays_quiet _ _ _)
    | (apply Quiet.upd; (case e1 => dsimp only; with_reducible exact Is.rfl); iterate 10 dsimp only))

theorem clearSquares_quiet (a : Nat) (b : Nat) (s : State) : Quiet s (clearSquares a b s) := by
  unfold clearSquares
  repeat' (first
    | with_reducible exact Quiet.refl _ | dsimp only
    | (apply Quiet.upd; (case e1 => dsimp only; with_reducible exact Is.rfl); iterate 10 dsimp only))

theorem clearPlazaWork_quiet (a : Nat) (b : Nat) (s : State) : Quiet s (clearPlazaWork a b s) := by
  unfold clearPlazaWork
  repeat' (first
    | with_reducible exact Quiet.refl _ | dsimp only | with_reducible apply Quiet.trans ?_ (clearSquares_quiet _ _ _)
    | (apply Quiet.upd; (case e1 => dsimp only; with_reducible exact Is.rfl); iterate 10 dsimp only))

theorem clearWork_quiet (u : UnitId) (s : State) : Quiet s (clearWork u s) := by
  unfold clearWork
  repeat' (first
    | with_reducible exact Quiet.refl _ | dsimp only | with_reducible apply Quiet.trans ?_ (setUnit_quiet _ _ _)
    | with_reducible apply Quiet.trans ?_ (clearPlazaWork_quiet _ _ _) | split)

theorem dropCache_quiet (d : Nat) (s : State) : Quiet s (dropCache d s) := by
  unfold dropCache
  repeat' (first
    | with_reducible exact Quiet.refl _ | dsimp only
    | (apply Quiet.upd; (case e1 => dsimp only; with_reducible exact Is.rfl); iterate 10 dsimp only))

theorem resetAvenue_quiet (n : Fin 8) (s : State) : Quiet s (resetAvenue n s) := by
  unfold resetAvenue
  repeat' (first
    | with_reducible exact Quiet.refl _ | dsimp only | with_reducible apply Quiet.trans ?_ (startTraining_quiet _ _ _)
    | with_reducible apply Quiet.trans ?_ (abandonTransfers_quiet _ _) | with_reducible apply Quiet.trans ?_ (setLink_quiet _ _ _)
    | (apply Quiet.upd; (case e1 => dsimp only; with_reducible exact Is.rfl); iterate 10 dsimp only))

theorem refresh_quiet (on : Bool) (which : Nat → Bool) (s : State) : Quiet s (refresh on which s) := by
  unfold refresh
  repeat' (first
    | with_reducible exact Quiet.refl _ | dsimp only
    | (apply Quiet.upd; (case e1 => dsimp only; with_reducible exact Is.rfl); iterate 10 dsimp only))

theorem releaseUnit_quiet (u : UnitId) (s : State) : Quiet s (releaseUnit u s) := by
  unfold releaseUnit
  repeat' (first
    | with_reducible exact Quiet.refl _ | with_reducible apply Quiet.trans ?_ (refresh_quiet _ _ _) | split)

theorem resetUnit_quiet (u : UnitId) (s : State) : Quiet s (resetUnit u s) := by
  unfold resetUnit
  repeat' (first
    | with_reducible exact Quiet.refl _ | dsimp only | with_reducible apply Quiet.trans ?_ (clearWork_quiet _ _)
    | with_reducible apply Quiet.trans ?_ (endStreams_quiet _ _ _) | with_reducible apply Quiet.trans ?_ (clearPlazas_quiet _ _ _)
    | with_reducible apply Quiet.trans ?_ (refresh_quiet _ _ _) | with_reducible apply Quiet.trans ?_ (dropCache_quiet _ _)
    | with_reducible apply Quiet.trans ?_ (resetAvenue_quiet _ _) | split)

theorem abortOne_quiet (e : InFlight) (s : State) : Quiet s (abortOne e s) := by
  unfold abortOne
  repeat' (first
    | with_reducible exact Quiet.refl _ | dsimp only | with_reducible apply Quiet.trans ?_ (dropPair_quiet _ _)
    | with_reducible apply Quiet.trans ?_ (dropExchange_quiet _ _) | with_reducible apply Quiet.trans ?_ (setInFlight_quiet _ _)
    | with_reducible apply Quiet.trans ?_ (scramble_quiet _ _ _) | with_reducible apply Quiet.fold | split | intro _)

theorem abortUsers_quiet (u : UnitId) (s : State) : Quiet s (abortUsers u s) := by
  unfold abortUsers
  repeat' (first
    | with_reducible exact Quiet.refl _ | with_reducible apply Quiet.trans ?_ (abortOne_quiet _ _) | with_reducible apply Quiet.fold
    | (apply Quiet.upd; (case e1 => dsimp only; with_reducible exact Is.rfl); iterate 10 dsimp only) | intro _)

theorem endHandshake_quiet (u : UnitId) (idle : Bool) (s : State) : Quiet s (endHandshake u idle s) := by
  unfold endHandshake
  repeat' (first
    | with_reducible exact Quiet.refl _ | dsimp only | with_reducible apply Quiet.trans ?_ (abortUsers_quiet _ _)
    | with_reducible apply Quiet.trans ?_ (dropDisabled_quiet _ _) | with_reducible apply Quiet.trans ?_ (releaseUnit_quiet _ _)
    | with_reducible apply Quiet.trans ?_ (resetUnit_quiet _ _) | with_reducible apply Quiet.trans ?_ (setUnit_quiet _ _ _)
    | with_reducible apply Quiet.trans ?_ (setPhase_quiet _ _ _) | with_reducible apply Quiet.trans ?_ (dropCache_quiet _ _)
    | with_reducible apply Quiet.trans ?_ (recache_quiet _ _) | split)

theorem execUnitIdle_calm (u : UnitId) (s : State) {t : State} (h : execUnitIdle u s = .next t) : Calm s t := by
  unfold execUnitIdle at h
  repeat' (first
    | split at h | cases h | with_reducible exact Calm.refl _ | with_reducible apply Calm.trans ?_ ((endHandshake_quiet _ _ _).calm))

theorem execUnitIdleTimeout_calm (u : UnitId) (s : State) {t : State} (h : execUnitIdleTimeout u s = .next t) : Calm s t := by
  unfold execUnitIdleTimeout at h
  repeat' (first
    | split at h | cases h | with_reducible exact Calm.refl _ | with_reducible apply Calm.trans ?_ ((endHandshake_quiet _ _ _).calm))

theorem returnUnit_calm (u : UnitId) (s : State) : Calm s (returnUnit u s) := by
  unfold returnUnit
  repeat' (first
    | with_reducible exact Calm.refl _ | dsimp only | with_reducible apply Calm.trans ?_ (serveHeld_calm _)
    | with_reducible apply Calm.trans ?_ ((recache_quiet _ _).calm) | with_reducible apply Calm.trans ?_ ((releaseUnit_quiet _ _).calm)
    | with_reducible apply Calm.trans ?_ ((setUnit_quiet _ _ _).calm))

theorem execUnitReturn_calm (u : UnitId) (s : State) {t : State} (h : execUnitReturn u s = .next t) : Calm s t := by
  unfold execUnitReturn at h
  repeat' (first
    | split at h | cases h | dsimp only at h | with_reducible exact Calm.refl _ | with_reducible apply Calm.trans ?_ (returnUnit_calm _ _))

theorem setEnable_quiet (u : UnitId) (on : Bool) (s : State) : Quiet s (setEnable u on s) := by
  unfold setEnable
  repeat' (first
    | with_reducible exact Quiet.refl _ | dsimp only | with_reducible apply Quiet.trans ?_ (resetUnit_quiet _ _)
    | with_reducible apply Quiet.trans ?_ (setUnit_quiet _ _ _) | split)

theorem ownEnable_gives (p : Path) (r : List Byte) (s : State) : Gives Quiet s (ownEnable p r s) := by
  unfold ownEnable
  repeat' (first
    | with_reducible apply Gives.ok | with_reducible exact Gives.error _ _ | with_reducible exact Quiet.refl _ | dsimp only
    | with_reducible apply Quiet.trans ?_ (recache_quiet _ _) | with_reducible apply Quiet.trans ?_ (setEnable_quiet _ _ _) | split)

theorem execUnitEnable_calm (p : Asker) (req : List Byte) (s : State) {t : State} (h : execUnitEnable p req s = .next t) : Calm s t := by
  unfold execUnitEnable at h
  repeat' (first
    | with_reducible refine request_keeps (fun _ _ h => h) (fun _ _ _ => Calm.trans) (fun _ _ _ => ?_) h
    | with_reducible exact Gives.calm (ownEnable_gives _ _ _))

theorem ownUnitReset_gives (p : Path) (r : List Byte) (s : State) : Gives Quiet s (ownUnitReset p r s) := by
  unfold ownUnitReset
  repeat' (first
    | with_reducible apply Gives.ok | with_reducible exact Gives.error _ _ | with_reducible exact Quiet.refl _ | dsimp only
    | with_reducible apply Quiet.trans ?_ (recache_quiet _ _) | with_reducible apply Quiet.trans ?_ (setUnit_quiet _ _ _) | split)

theorem execUnitReset_calm (p : Asker) (req : List Byte) (s : State) {t : State} (h : execUnitReset p req s = .next t) : Calm s t := by
  unfold execUnitReset at h
  repeat' (first
    | with_reducible refine request_keeps (fun _ _ h => h) (fun _ _ _ => Calm.trans) (fun _ _ _ => ?_) h
    | with_reducible exact Gives.calm (ownUnitReset_gives _ _ _))

/-! ### Power -/

theorem enterPark_calm (s : State) : Calm s (enterPark s) := by
  unfold enterPark
  repeat' (first
    | with_reducible exact Calm.refl _ | dsimp only | with_reducible apply Calm.trans ?_ ((endStreams_quiet _ _ _).calm)
    | with_reducible apply Calm.trans ?_ ((clearPlazas_quiet _ _ _).calm)
    | (apply Calm.upd; (case e1 => dsimp only; with_reducible exact Is.rfl); iterate 8 dsimp only))

theorem askPower_calm (x : Power) (s : State) : Calm s (askPower x s) := by
  unfold askPower
  repeat' (first
    | with_reducible exact Calm.refl _ | dsimp only
    | (apply Calm.upd; (case e1 => dsimp only; with_reducible exact Is.rfl); iterate 8 dsimp only) | split)

theorem ownPowerOn_gives (p : Path) (r : List Byte) (s : State) : Gives Calm s (ownPowerOn p r s) := by
  unfold ownPowerOn
  repeat' (first
    | with_reducible apply Gives.ok | with_reducible exact Calm.refl _ | with_reducible apply Calm.trans ?_ (askPower_calm _ _))

theorem ownPowerIdle_gives (p : Path) (r : List Byte) (s : State) : Gives Calm s (ownPowerIdle p r s) := by
  unfold ownPowerIdle
  repeat' (first
    | with_reducible apply Gives.ok | with_reducible exact Calm.refl _ | with_reducible apply Calm.trans ?_ (askPower_calm _ _))

theorem ownPowerPark_gives (p : Path) (r : List Byte) (s : State) : Gives Calm s (ownPowerPark p r s) := by
  unfold ownPowerPark
  repeat' (first
    | with_reducible apply Gives.ok | with_reducible exact Gives.error _ _ | with_reducible exact Calm.refl _
    | with_reducible apply Calm.trans ?_ (enterPark_calm _) | split)

theorem execPowerStateOn_calm (p : Asker) (req : List Byte) (s : State) {t : State} (h : execPowerStateOn p req s = .next t)
    : Calm s t := by
  unfold execPowerStateOn at h
  repeat' (first
    | with_reducible refine request_keeps (fun _ _ h => h) (fun _ _ _ => Calm.trans) (fun _ _ _ => ?_) h
    | with_reducible exact ownPowerOn_gives _ _ _)

theorem execPowerStateIdle_calm (p : Asker) (req : List Byte) (s : State) {t : State} (h : execPowerStateIdle p req s = .next t)
    : Calm s t := by
  unfold execPowerStateIdle at h
  repeat' (first
    | with_reducible refine request_keeps (fun _ _ h => h) (fun _ _ _ => Calm.trans) (fun _ _ _ => ?_) h
    | with_reducible exact ownPowerIdle_gives _ _ _)

theorem execPowerStatePark_calm (p : Asker) (req : List Byte) (s : State) {t : State} (h : execPowerStatePark p req s = .next t)
    : Calm s t := by
  unfold execPowerStatePark at h
  repeat' (first
    | with_reducible refine request_keeps (fun _ _ h => h) (fun _ _ _ => Calm.trans) (fun _ _ _ => ?_) h
    | with_reducible exact ownPowerPark_gives _ _ _)

theorem clearDistricts_quiet (s : State) : Quiet s (clearDistricts s) := by
  unfold clearDistricts
  repeat' (first
    | with_reducible exact Quiet.refl _ | dsimp only | with_reducible apply Quiet.trans ?_ (clearPlazaWork_quiet _ _ _)
    | (apply Quiet.upd; (case e1 => dsimp only; with_reducible exact Is.rfl); iterate 10 dsimp only))

theorem wake_calm (x : Power) (s : State) : Calm s (wake x s) := by
  unfold wake
  repeat' (first
    | with_reducible exact Calm.refl _ | dsimp only | with_reducible apply Calm.trans ?_ ((clearDistricts_quiet _).calm)
    | with_reducible apply Calm.trans ?_ ((clearPlazas_quiet _ _ _).calm)
    | with_reducible apply Calm.trans ?_ ((refresh_quiet _ _ _).calm)
    | (apply Calm.upd; (case e1 => dsimp only; with_reducible exact Is.rfl); iterate 8 dsimp only))

theorem execWakeComplete_calm (s : State) {t : State} (h : execWakeComplete s = .next t) : Calm s t := by
  unfold execWakeComplete at h
  repeat' (first
    | split at h | cases h | with_reducible exact Calm.refl _ | with_reducible apply Calm.trans ?_ (wake_calm _ _))

theorem execPowerAlert_calm (s : State) {t : State} (h : execPowerAlert s = .next t) : Calm s t := by
  unfold execPowerAlert at h
  repeat' (first
    | split at h | cases h | with_reducible exact Calm.refl _ | with_reducible apply Calm.trans ?_ ((raiseAlert_quiet _ _).calm))

theorem throttle_calm (hottest : Int) (s : State) : Calm s (throttle hottest s) := by
  unfold throttle
  repeat' (first
    | with_reducible exact Calm.refl _ | dsimp only | with_reducible apply Calm.trans ?_ ((raiseAlert_quiet _ _).calm)
    | (apply Calm.upd; (case e1 => dsimp only; with_reducible exact Is.rfl); iterate 8 dsimp only) | split)

theorem execThrottleCheck_calm (hottest : Int) (s : State) {t : State} (h : execThrottleCheck hottest s = .next t) : Calm s t := by
  unfold execThrottleCheck at h
  repeat' (first
    | split at h | cases h | with_reducible exact Calm.refl _ | with_reducible apply Calm.trans ?_ (throttle_calm _ _))

theorem tripOff_calm (s : State) : Calm s (tripOff s) := by
  unfold tripOff
  repeat' (first
    | with_reducible exact Calm.refl _ | dsimp only
    | (apply Calm.upd; (case e1 => dsimp only; with_reducible exact Is.rfl); iterate 8 dsimp only))

theorem execThermalTrip_calm (s : State) {t : State} (h : execThermalTrip s = .next t) : Calm s t := by
  unfold execThermalTrip at h
  repeat' (first
    | split at h | cases h | with_reducible exact Calm.refl _ | with_reducible apply Calm.trans ?_ (tripOff_calm _))

/-! ### Reset -/

/-- What every reset leaves: fuses and flash as they were, READY, and a state in form. -/
structure Cleared (s t : State) : Prop where
  tame : Tame s t
  persist : t.persist = s.persist
  cur : t.turn.cur = .ready

theorem clearDeep_cleared (debug : Bool) (s : State) : Cleared s (clearDeep debug s) :=
  ⟨⟨rfl, fun h => filter_wf _ h, fun _ => (by decide : Stacks.reset.k + Stacks.reset.j ≤ 96)⟩, rfl, rfl⟩

theorem clearFor_cleared (l : Level) (s : State) : Cleared s (clearFor l s) := by
  cases l
  · exact ⟨⟨rfl, id, id⟩, rfl, rfl⟩
  · exact clearDeep_cleared true s
  · exact clearDeep_cleared false s

theorem assertReset_cleared (l : Level) (cause : Byte) (source : Bool) (s : State) : Cleared s (assertReset l cause source s) := by
  have h := clearFor_cleared l s
  exact ⟨⟨h.tame.pending, h.tame.mem, h.tame.shares⟩, h.persist, h.cur⟩

theorem raiseSource_cleared (l : Level) (cause : Byte) (holds : Bool) (s : State) : Cleared s (raiseSource l cause holds s) := by
  unfold raiseSource
  split
  · exact assertReset_cleared _ _ _ _
  · rename_i r _
    have h := assertReset_cleared (deeper r.level l) (causeOf r l cause s) (holds || s.rst.source) { s with freeCtr := s.freeCtr + 1 }
    exact ⟨⟨h.tame.pending, h.tame.mem, h.tame.shares⟩, h.persist, h.cur⟩

/-- A change of the reset controller alone before a reset. -/
theorem Cleared.of_rst {s t : State} (x : ResetCtl) (h : Cleared { s with rst := x } t) : Cleared s t :=
  ⟨⟨h.tame.pending, h.tame.mem, h.tame.shares⟩, h.persist, h.cur⟩

theorem failClock_cleared (s : State) : Cleared s (failClock s) := by
  refine Cleared.of_rst { s.rst with clockGood := false } ?_
  unfold failClock
  dsimp only
  split
  · exact raiseSource_cleared _ _ _ _
  · exact assertReset_cleared _ _ _ _

/-- A reset source's command leaves a cleared state, or, where its cause cannot be, changes nothing. -/
theorem sourceEvent_cleared {c : Bool} {f : State → State} {s t : State} (hf : ∀ s, Cleared s (f s))
    (h : sourceEvent c f s = .next t) : (c = false ∧ t = s) ∨ Cleared s t := by
  unfold sourceEvent at h
  split at h
  · cases h
  · split at h <;> cases h
    · exact .inr (hf s)
    · exact .inl ⟨by simp_all, rfl⟩

theorem sourceEvent_sure {f : State → State} {s t : State} (hf : ∀ s, Cleared s (f s))
    (h : sourceEvent true f s = .next t) : Cleared s t := (sourceEvent_cleared hf h).resolve_left fun w => nomatch w.1

theorem sourceEvent_keeps {R : State → State → Prop} {c : Bool} {f : State → State} {s t : State} (hr : R s s)
    (hf : ∀ s, R s (f s)) (h : sourceEvent c f s = .next t) : R s t := by
  unfold sourceEvent at h
  repeat' (first | split at h | cases h)
  · exact hf s
  · exact hr

theorem execResetBegin_cleared (s : State) {t : State} (h : execResetBegin s = .next t) :
    (s.rst.pending = none ∧ t = s) ∨ Cleared s t := by
  unfold execResetBegin at h
  split at h
  · exact .inr (sourceEvent_sure
      (fun s => Cleared.of_rst _ (raiseSource_cleared _ _ _ { s with rst := { s.rst with pending := none } })) h)
  · rename_i e
    unfold sourceEvent at h
    split at h <;> cases h
    exact .inl ⟨e, rfl⟩

theorem execPowerOn_cleared (s : State) {t : State} (h : execPowerOn s = .next t) : (s.rst.off = false ∧ t = s) ∨ Cleared s t := by
  unfold execPowerOn at h
  split at h <;> cases h
  · exact .inr (Cleared.of_rst _ (assertReset_cleared _ _ _
      { s with rst := { s.rst with off := false, pwrGood := true, clockGood := false, run := none } }))
  · exact .inl ⟨by simp_all, rfl⟩

theorem execBrownOut_cleared (s : State) {t : State} (h : execBrownOut s = .next t) : Cleared s t :=
  sourceEvent_sure (fun s => Cleared.of_rst _ (raiseSource_cleared _ _ _ { s with rst := { s.rst with pwrGood := false } })) h
theorem execPinReset_cleared (s : State) {t : State} (h : execPinReset s = .next t) :
    ((!s.rst.rstDriven && !waitsForPin s) = false ∧ t = s) ∨ Cleared s t :=
  sourceEvent_cleared (fun s => raiseSource_cleared _ _ _ s) h
theorem execWatchdog_cleared (s : State) {t : State} (h : execWatchdog s = .next t) : Cleared s t :=
  sourceEvent_sure (fun s => raiseSource_cleared _ _ _ s) h
theorem execClockFailure_cleared (s : State) {t : State} (h : execClockFailure s = .next t) : Cleared s t :=
  sourceEvent_sure failClock_cleared h
theorem execLockUp_cleared (s : State) {t : State} (h : execLockUp s = .next t) : (s.rst.run.isNone = false ∧ t = s) ∨ Cleared s t :=
  sourceEvent_cleared (fun s => raiseSource_cleared _ _ _ s) h

theorem execInputRecovered_calm (s : State) {t : State} (h : execInputRecovered s = .next t) : Calm s t := by
  unfold execInputRecovered at h
  repeat' (first
    | with_reducible refine sourceEvent_keeps (Calm.refl _) (fun _ => ?_) h | dsimp only at h | with_reducible exact Calm.refl _
    | dsimp only | (apply Calm.upd; (case e1 => dsimp only; with_reducible exact Is.rfl); iterate 8 dsimp only))

/-- What a start makes of the settings in flash touches no key and no fuse. -/
theorem checkSettings_keeps (b : Option BundleInfo) (p : Persist) : (checkSettings b p).keys = p.keys
    ∧ (checkSettings b p).fuseSv = p.fuseSv ∧ (checkSettings b p).omcenRevoked = p.omcenRevoked := by
  unfold checkSettings
  dsimp only
  split <;> exact ⟨rfl, rfl, rfl⟩

theorem loadBundle_calm (x : FlashSlot) (b : BundleInfo) (fellBack : Bool) (s : State) : Calm s (loadBundle x b fellBack s) := by
  have h := checkSettings_keeps (some b) s.persist
  exact ⟨rfl, h.1, h.2.1, h.2.2, rfl, rfl, rfl, id, fun _ h => h⟩

theorem bootBundle_calm (l : Level) (s : State) : Calm s (bootBundle l s) := by
  have h0 : Calm s (if l = .core then s else { s with persist := { s.persist with bootSlot := firstSlot l s }, sec := { s.sec with
      activationPending := none } }) := by
    split
    · exact Calm.refl s
    · exact ⟨rfl, rfl, rfl, rfl, rfl, rfl, rfl, id, fun _ h => h⟩
  unfold bootBundle
  dsimp only
  generalize (if l = .core then s else _) = s1 at h0 ⊢
  split
  · refine h0.trans (Calm.trans ?_ (loadBundle_calm _ _ _ _))
    split <;> exact ⟨rfl, rfl, rfl, rfl, rfl, rfl, rfl, id, fun _ h => h⟩
  · have h := checkSettings_keeps none s1.persist
    exact h0.trans ⟨rfl, h.1, h.2.1, h.2.2, rfl, rfl, rfl, id, fun _ h => h⟩

theorem drawValues_calm (l : Level) (s : State) : Calm s (drawValues l s) := by
  unfold drawValues
  repeat' (first
    | with_reducible exact Calm.refl _ | dsimp only
    | (apply Calm.upd; (case e1 => dsimp only; with_reducible exact Is.rfl); iterate 8 dsimp only))

theorem startLinks_quiet (l : Level) (s : State) : Quiet s (startLinks l s) := by
  unfold startLinks
  repeat' (first
    | with_reducible exact Quiet.refl _ | (apply Quiet.upd; (case e1 => dsimp only; with_reducible exact Is.rfl); iterate 10 dsimp only)
    | split)

theorem tryStart_calm (s : State) : Calm s (tryStart s) := by
  unfold tryStart
  repeat' (first
    | with_reducible exact Calm.refl _ | dsimp only | with_reducible apply Calm.trans ?_ ((startLinks_quiet _ _).calm)
    | with_reducible apply Calm.trans ?_ (bootBundle_calm _ _) | with_reducible apply Calm.trans ?_ (drawValues_calm _ _)
    | (apply Calm.upd; (case e1 => dsimp only; with_reducible exact Is.rfl); iterate 8 dsimp only) | split)

theorem execResetStretchEnd_calm (s : State) {t : State} (h : execResetStretchEnd s = .next t) : Calm s t := by
  unfold execResetStretchEnd at h
  repeat' (first
    | with_reducible refine sourceEvent_keeps (Calm.refl _) (fun _ => ?_) h | split at h | dsimp only at h
    | with_reducible exact Calm.refl _ | dsimp only | with_reducible apply Calm.trans ?_ (tryStart_calm _)
    | (apply Calm.upd; (case e1 => dsimp only; with_reducible exact Is.rfl); iterate 8 dsimp only) | dsimp only [id])

theorem execClockGood_calm (s : State) {t : State} (h : execClockGood s = .next t) : Calm s t := by
  unfold execClockGood at h
  repeat' (first
    | with_reducible refine sourceEvent_keeps (Calm.refl _) (fun _ => ?_) h | dsimp only at h | with_reducible exact Calm.refl _
    | dsimp only | with_reducible apply Calm.trans ?_ (tryStart_calm _)
    | (apply Calm.upd; (case e1 => dsimp only; with_reducible exact Is.rfl); iterate 8 dsimp only))

theorem releaseReset_calm (s : State) : Calm s (releaseReset s) := by
  unfold releaseReset
  repeat' (first
    | with_reducible exact Calm.refl _ | dsimp only | with_reducible apply Calm.trans ?_ ((raiseAlert_quiet _ _).calm)
    | (apply Calm.upd; (case e1 => dsimp only; with_reducible exact Is.rfl); iterate 8 dsimp only) | split)

theorem execResetRelease_calm (s : State) {t : State} (h : execResetRelease s = .next t) : Calm s t := by
  unfold execResetRelease at h
  repeat' (first
    | with_reducible refine sourceEvent_keeps (Calm.refl _) (fun _ => ?_) h | split at h | with_reducible exact Calm.refl _
    | with_reducible apply Calm.trans ?_ (releaseReset_calm _) | dsimp only [id])

/-! ### Plan -/

theorem readPlan_mquiet (a : Nat) : MQuiet (readPlan a) := by
  unfold readPlan
  repeat' (first
    | with_reducible exact MQuiet.pure _ | with_reducible exact readU64_mquiet _ | with_reducible apply MQuiet.bind | intro _)

theorem readDesc_mquiet (a : Nat) : MQuiet (readDesc a) := by
  unfold readDesc
  repeat' (first
    | with_reducible exact MQuiet.pure _ | with_reducible exact readU64_mquiet _ | with_reducible apply MQuiet.bind | intro _)

theorem readTemplates_mquiet (p : Plan) : MQuiet (readTemplates p) := by
  unfold readTemplates
  repeat' (first
    | with_reducible exact MQuiet.pure _ | with_reducible exact readDesc_mquiet _ | with_reducible exact readU64_mquiet _
    | with_reducible apply MQuiet.bind | with_reducible apply MQuiet.mapM | intro _)

theorem loadPlan_mquiet (a : Nat) : MQuiet (loadPlan a) := by
  unfold loadPlan
  repeat' (first
    | with_reducible exact MQuiet.pure _ | with_reducible exact readPlan_mquiet _ | with_reducible exact readTemplates_mquiet _
    | with_reducible apply MQuiet.bind | intro _)

theorem loadPlans_mquiet : MQuiet loadPlans := by
  unfold loadPlans
  repeat' (first
    | with_reducible exact MQuiet.pure _ | with_reducible exact MQuiet.getS | with_reducible exact loadPlan_mquiet _
    | with_reducible apply MQuiet.bind | intro _ | split)

theorem putContext_mquiet (p : Plan) (al : Alloc) (bs : List Byte) : MQuiet (putContext p al bs) := by
  unfold putContext
  repeat' (first
    | with_reducible exact MQuiet.pure _ | with_reducible exact MQuiet.needDesc _ | with_reducible exact writeBytes_mquiet _ _
    | with_reducible apply MQuiet.bind | intro _)

theorem windowCopy_mquiet (p : Plan) (u : SlotUse) (first : Nat) (a : Nat) (al : Alloc) : MQuiet (windowCopy p u first a al) := by
  unfold windowCopy
  repeat' (first
    | with_reducible exact MQuiet.pure _ | with_reducible exact MQuiet.fail _ | with_reducible exact readU64_mquiet _
    | with_reducible exact getPair_mquiet _ | with_reducible exact getTRec_mquiet _ | with_reducible exact putContext_mquiet _ _ _
    | with_reducible apply MQuiet.bind | dsimp only | intro _ | split)

theorem windowBlock_mquiet (p : Plan) (f : KernelFields) (first n : Nat) (l : List KSlot) (acc : List Byte) (al : Alloc) :
    MQuiet (windowBlock p f first n l acc al) := by
  induction l generalizing n acc al with
  | nil => exact MQuiet.pure _
  | cons x l ih =>
    unfold windowBlock
    repeat' (first
      | with_reducible exact MQuiet.pure _
      | with_reducible exact MQuiet.getS
      | with_reducible exact ih _ _ _
      | with_reducible exact readU64_mquiet _
      | with_reducible exact windowCopy_mquiet _ _ _ _ _
      | with_reducible apply MQuiet.bind
      | with_reducible apply MQuiet.forM
      | dsimp only
      | intro _
      | split)

theorem viewEntry_mquiet (v : Nat) (widx : Nat) : MQuiet (viewEntry v widx) := by
  unfold viewEntry
  repeat' (first
    | with_reducible exact MQuiet.pure _ | with_reducible exact MQuiet.getS | with_reducible exact MQuiet.needDesc _
    | with_reducible exact MQuiet.fail _ | with_reducible exact readU64_mquiet _ | with_reducible apply MQuiet.bind | dsimp only | intro _
    | split)

theorem patchOne_mquiet (r : PlanRun) (t : Template) (g : List SeqRows) (al : Alloc) : MQuiet (patchOne r t g al) := by
  unfold patchOne
  repeat' (first
    | with_reducible exact MQuiet.pure _ | with_reducible exact MQuiet.getS | with_reducible exact viewEntry_mquiet _ _
    | with_reducible exact windowCopy_mquiet _ _ _ _ _ | with_reducible exact windowBlock_mquiet _ _ _ _ _ _ _
    | with_reducible exact putContext_mquiet _ _ _ | with_reducible apply MQuiet.bind | dsimp only | intro _ | split)

theorem adapterEntry_mquiet (g : List SeqRows) (widx : Nat) : MQuiet (adapterEntry g widx) := by
  unfold adapterEntry
  repeat' (first
    | with_reducible exact MQuiet.pure _ | with_reducible exact MQuiet.getS | with_reducible exact MQuiet.needDesc _
    | with_reducible exact readU64_mquiet _ | with_reducible exact getTRec_mquiet _ | with_reducible apply MQuiet.bind | dsimp only
    | intro _ | split)

theorem adaptCompute_mquiet (t : TileFields) (x : TileSlots) (y : OutSlot) (ad : Adapter) : MQuiet (adaptCompute t x y ad) := by
  unfold adaptCompute
  repeat' (first
    | with_reducible exact MQuiet.getS | with_reducible exact openTile_mquiet _ _ | with_reducible exact openRec_mquiet _ _ _
    | with_reducible exact setInfo_mquiet _ | with_reducible exact writeTensor_mquiet _ _ _ _ _ | with_reducible apply MQuiet.bind
    | with_reducible apply MQuiet.modS | with_reducible apply MQuiet.discard | with_reducible exact Quiet.refl _ | dsimp only
    | with_reducible apply Quiet.trans ?_ (TileFields.useArrays_quiet _ _ _ _) | intro _)

theorem adaptTile_mquiet (d : Desc) (ad : Adapter) : MQuiet (adaptTile d ad) := by
  unfold adaptTile
  repeat' (first
    | with_reducible exact MQuiet.pure _ | with_reducible exact MQuiet.needDesc _ | with_reducible exact setInfo_mquiet _
    | with_reducible refine orUnread_mquiet _ _ ?_ | with_reducible refine orClose_mquiet _ _ ?_ | with_reducible exact tileReady_mquiet _
    | with_reducible exact tileWork_mquiet _ _ | with_reducible exact TileFields.start_mquiet _
    | with_reducible refine orScramble_mquiet _ _ ?_ | with_reducible exact adaptCompute_mquiet _ _ _ _ | with_reducible apply MQuiet.bind
    | with_reducible apply MQuiet.modS | with_reducible exact Quiet.refl _ | with_reducible apply Quiet.trans ?_ (scramble_quiet _ _ _)
    | with_reducible apply Quiet.fold | intro _ | split)

theorem schedStepFence_mquiet : MQuiet schedStepFence := by
  unfold schedStepFence
  refine MQuiet.getS.bind fun s => (holdIf_mquiet _).bind fun _ => ?_
  refine MQuiet.getMod (f := fun s => (stepFenceAct s).2) (fun s => stepFenceAct_quiet s) fun s => ?_
  split
  · exact MQuiet.pure _
  · exact MQuiet.throw _

theorem schedFence_mquiet (d : Desc) : MQuiet (schedFence d) := by
  unfold schedFence
  repeat' (first
    | with_reducible exact MQuiet.pure _ | with_reducible exact MQuiet.getS | with_reducible exact MQuiet.needDesc _
    | with_reducible exact MQuiet.fail _ | with_reducible exact hold_mquiet  | with_reducible exact holdIf_mquiet _
    | with_reducible exact schedStepFence_mquiet  | with_reducible apply MQuiet.bind | intro _ | split)

theorem issueBody_mquiet (t : Template) (g : List SeqRows) (d : Desc) : MQuiet (issueBody t g d) := by
  unfold issueBody
  repeat' (first
    | with_reducible exact MQuiet.pure _ | with_reducible exact MQuiet.getS | with_reducible exact MQuiet.need _ _
    | with_reducible exact MQuiet.needDesc _ | with_reducible exact MQuiet.fail _ | with_reducible exact adapterEntry_mquiet _ _
    | with_reducible exact adaptTile_mquiet _ _ | with_reducible exact tileBody_mquiet _ | with_reducible exact kernelBody_mquiet _
    | with_reducible exact attnBody_mquiet _ | with_reducible exact sampleWork_mquiet _ _ | with_reducible exact sampleReady_mquiet _ _
    | with_reducible exact moveBody_mquiet _ | with_reducible exact schedFence_mquiet _ | with_reducible apply MQuiet.bind | dsimp only
    | intro _ | split)

theorem keepExc_mquiet (c : Nat) (acc : List Byte) : MQuiet (keepExc c acc) := by
  unfold keepExc
  repeat' (first
    | with_reducible apply MQuiet.modify | with_reducible exact Quiet.refl _ | dsimp only | intro _)

theorem settleIssue_mquiet : MQuiet settleIssue := by
  unfold settleIssue
  repeat' (first
    | with_reducible apply MQuiet.modify | with_reducible exact Quiet.refl _ | dsimp only
    | with_reducible apply Quiet.trans ?_ (settleWork_quiet _)
    | (apply Quiet.upd; (case e1 => dsimp only; with_reducible exact Is.rfl); iterate 10 dsimp only) | intro _ | split)

theorem readsRacy_mquiet : MQuiet readsRacy := by
  unfold readsRacy
  repeat' (first
    | with_reducible exact MQuiet.pure _ | with_reducible exact MQuiet.get | with_reducible apply MQuiet.bind | intro _)

theorem mayRefuse_mquiet (racy : Bool) : MQuiet (mayRefuse racy) := by
  unfold mayRefuse
  repeat' (first
    | with_reducible exact MQuiet.pure _ | with_reducible exact MQuiet.getS | with_reducible exact MQuiet.need _ _
    | with_reducible apply MQuiet.bind | with_reducible apply MQuiet.modS | with_reducible exact Quiet.refl _ | dsimp only
    | (apply Quiet.upd; (case e1 => dsimp only; with_reducible exact Is.rfl); iterate 10 dsimp only) | intro _ | split)

theorem lateFails_mquiet : MQuiet lateFails := by
  unfold lateFails
  repeat' (first
    | with_reducible exact MQuiet.pure _ | with_reducible exact MQuiet.get | with_reducible exact MQuiet.throw _
    | with_reducible apply MQuiet.bind | with_reducible apply MQuiet.modify | with_reducible exact Quiet.refl _ | dsimp only
    | with_reducible apply Quiet.trans ?_ (scramble_quiet _ _ _) | with_reducible apply Quiet.fold | intro _ | split)

theorem asIssue_mquiet {α : Type} (c : Nat) (m : M α) (hm : MQuiet m) : MQuiet (asIssue c m) := by
  unfold asIssue
  repeat' (first
    | with_reducible assumption | with_reducible exact MQuiet.pure _ | with_reducible exact MQuiet.get
    | with_reducible exact MQuiet.throw _ | with_reducible exact setInfo_mquiet _ | with_reducible exact readsRacy_mquiet 
    | with_reducible exact settleIssue_mquiet  | with_reducible exact keepExc_mquiet _ _ | with_reducible exact lateFails_mquiet 
    | with_reducible exact mayRefuse_mquiet _ | with_reducible apply MQuiet.bind | with_reducible apply MQuiet.catches
    | with_reducible apply MQuiet.discard | dsimp only | intro _)

theorem pairTile_mquiet (t : Template) (g : List SeqRows) (d : Desc) (x : TileSlots) : MQuiet (pairTile t g d x) := by
  unfold pairTile
  repeat' (first
    | with_reducible exact adapterEntry_mquiet _ _ | with_reducible exact adaptTile_mquiet _ _ | with_reducible exact tileHalf_mquiet _ _
    | with_reducible apply MQuiet.bind | intro _ | split)

theorem issueFused_mquiet (t : Template) (u : Template) (g : List SeqRows) (d1 : Desc) (d2 : Desc) : MQuiet (issueFused t u g d1 d2) := by
  unfold issueFused
  repeat' (first
    | with_reducible exact MQuiet.getS | with_reducible exact MQuiet.needDesc _ | with_reducible refine asIssue_mquiet _ _ ?_
    | with_reducible exact setInfo_mquiet _ | with_reducible exact fusedChecks_mquiet _ _ | with_reducible refine orUnread_mquiet _ _ ?_
    | with_reducible exact kernelHalf_mquiet _ _ | with_reducible exact pairTile_mquiet _ _ _ _
    | with_reducible refine holding_mquiet _ _ ?_ | with_reducible apply MQuiet.bind | with_reducible apply MQuiet.discard | dsimp only
    | intro _ | split)

theorem placeDrafts_mquiet (d : Desc) (g : List SeqRows) (ds : List Drafted) : MQuiet (placeDrafts d g ds) := by
  unfold placeDrafts
  repeat' (first
    | with_reducible exact MQuiet.pure _ | with_reducible exact getTRec_mquiet _ | with_reducible exact writeBytes_mquiet _ _
    | with_reducible apply MQuiet.bind | with_reducible apply MQuiet.forM | dsimp only | intro _ | split)

theorem issueOne_mquiet (r : PlanRun) (ds : List Drafted) (t : Template) (g : List SeqRows) : MQuiet (issueOne r ds t g) := by
  unfold issueOne
  repeat' (first
    | with_reducible exact MQuiet.pure _ | with_reducible exact MQuiet.getS | with_reducible exact patchOne_mquiet _ _ _ _
    | with_reducible refine orUnreadBy_mquiet _ _ ?_ ?_ | with_reducible exact sampleReach_spoils _
    | with_reducible exact placeDrafts_mquiet _ _ _ | with_reducible exact issueBody_mquiet _ _ _ | with_reducible exact getTRec_mquiet _
    | with_reducible apply MQuiet.bind | dsimp only | intro _ | split)

theorem issuePair_mquiet (r : PlanRun) (t : Template) (u : Template) (g : List SeqRows) : MQuiet (issuePair r t u g) := by
  unfold issuePair
  repeat' (first
    | with_reducible exact MQuiet.pure _ | with_reducible exact patchOne_mquiet _ _ _ _ | with_reducible exact issueFused_mquiet _ _ _ _ _
    | with_reducible apply MQuiet.bind | intro _ | split)

theorem freshContext_mquiet (p : Plan) : MQuiet (freshContext p) := by
  unfold freshContext
  repeat' (first
    | with_reducible apply MQuiet.modS | with_reducible exact Quiet.refl _ | with_reducible apply Quiet.trans ?_ (scramble_quiet _ _ _)
    | intro _)

theorem issueScope_mquiet (r : PlanRun) (ds : List Drafted) (rows : List SeqRows) (t : Template) : MQuiet (issueScope r ds rows t) := by
  unfold issueScope
  repeat' (first
    | with_reducible exact MQuiet.pure _ | with_reducible exact freshContext_mquiet _ | with_reducible refine asIssue_mquiet _ _ ?_
    | with_reducible exact issueOne_mquiet _ _ _ _ | with_reducible apply MQuiet.bind | with_reducible apply MQuiet.mapM | intro _)

theorem issueAll_mquiet (r : PlanRun) (ds : List Drafted) (rows : List SeqRows) : ∀ l : List Template, MQuiet (issueAll r ds rows l)
  | [] => MQuiet.pure _
  | [t] => issueScope_mquiet _ _ _ _
  | t :: u :: l => by
    have h1 := issueAll_mquiet r ds rows l
    have h2 := issueAll_mquiet r ds rows (u :: l)
    unfold issueAll
    repeat' (first
      | with_reducible exact MQuiet.pure _
      | with_reducible exact MQuiet.getS
      | with_reducible exact h1
      | with_reducible exact h2
      | with_reducible exact freshContext_mquiet _
      | with_reducible exact issuePair_mquiet _ _ _ _
      | with_reducible exact issueScope_mquiet _ _ _ _
      | with_reducible apply MQuiet.bind
      | with_reducible apply MQuiet.forM
      | dsimp only
      | intro _
      | split)

/-! ### Sched -/

theorem schedRead_mquiet (a len : Nat) : MQuiet (schedRead a len) := by
  unfold schedRead
  refine (needLines_mquiet _ _).bind fun _ => MQuiet.get.bind fun w => (holdIf_mquiet _).bind fun _ => ?_
  exact MQuiet.getMod (f := fun s => (readByHall a len s).2) (fun s => readByHall_quiet a len s) fun s => MQuiet.pure _

theorem admEntry_mquiet (i : Nat) : MQuiet (admEntry i) := by
  unfold admEntry
  repeat' (first
    | with_reducible exact MQuiet.pure _ | with_reducible exact MQuiet.getS | with_reducible exact schedRead_mquiet _ _
    | with_reducible exact freeBlock_mquiet _ | with_reducible apply MQuiet.bind | intro _ | split)

theorem admWaiting_mquiet : MQuiet admWaiting := by
  unfold admWaiting
  repeat' (first
    | with_reducible exact MQuiet.pure _ | with_reducible exact MQuiet.getS | with_reducible exact schedRead_mquiet _ _
    | with_reducible apply MQuiet.bind | intro _ | split)

theorem takeGroups_quiet (n : Nat) (held : List Nat) (s : State) : Quiet s (takeGroups n held s).2 := by
  induction n generalizing held s with
  | zero => exact Quiet.refl s
  | succ n ih =>
    unfold takeGroups
    refine Quiet.trans ?_ (ih _ _)
    exact ⟨⟨rfl, rfl, rfl, rfl, rfl, rfl, rfl, id, fun _ h => h⟩, rfl, rfl, rfl, rfl, rfl⟩

theorem admGate_mquiet (a : Adm) : MQuiet (admGate a) := by
  unfold admGate
  repeat' (first
    | with_reducible exact MQuiet.pure _ | with_reducible exact schedRead_mquiet _ _ | with_reducible exact freeBlock_mquiet _
    | with_reducible apply MQuiet.bind | intro _ | split)

theorem placeAdm_quiet (a : Adm) (start : Nat) (gate : Nat) (s : State) : Quiet s (placeAdm a start gate s) := by
  unfold placeAdm
  repeat' (first
    | with_reducible exact Quiet.refl _ | dsimp only | with_reducible apply Quiet.trans ?_ (takeGroups_quiet _ _ _)
    | with_reducible apply Quiet.trans ?_ (keepTable_quiet _ _ _)
    | (apply Quiet.upd; (case e1 => dsimp only; with_reducible exact Is.rfl); iterate 10 dsimp only))

theorem takeHead_quiet (s : State) : Quiet s (takeHead s) := by
  unfold takeHead
  repeat' (first
    | with_reducible exact Quiet.refl _ | dsimp only | with_reducible apply Quiet.trans ?_ (schedWrite_quiet _ _ _)
    | (apply Quiet.upd; (case e1 => dsimp only; with_reducible exact Is.rfl); iterate 10 dsimp only))

theorem takeRing_mquiet (n : Nat) (r : RingOut) : MQuiet (takeRing n r) := by
  induction n generalizing r with
  | zero => exact MQuiet.pure _
  | succ n ih =>
    unfold takeRing
    refine MQuiet.getS.bind fun s => (admEntry_mquiet _).bind fun b => MQuiet.getS.bind fun s => ?_
    split
    · exact (MQuiet.modS fun s => takeHead_quiet s).bind fun _ => ih _
    · split
      · refine MQuiet.bind (MQuiet.modS fun s => ?_) fun _ => ih _
        refine Quiet.trans ?_ (takeHead_quiet _)
        exact ⟨⟨rfl, rfl, rfl, rfl, rfl, rfl, rfl, id, fun _ h => h⟩, rfl, rfl, rfl, rfl, rfl⟩
      · split
        · exact (admGate_mquiet _).bind fun g =>
            MQuiet.bind (MQuiet.modS fun s => (placeAdm_quiet _ _ _ s).trans (takeHead_quiet _)) fun _ => ih _
        · exact MQuiet.pure _

theorem pagesAll_quiet (l : List Live) (held : List Nat) (s : State) : Quiet s (pagesAll l held s).2 := by
  induction l generalizing held s with
  | nil => exact Quiet.refl s
  | cons x l ih =>
    unfold pagesAll
    dsimp only
    split
    · split
      · exact (takeGroups_quiet _ _ _).trans (ih _ _)
      · exact ih _ _
    · exact ih _ _

theorem runDrafts_mquiet (p : Plans) (l : Loaded) (ls : List Live) (n i : Nat) (ds : List Drafted) :
    MQuiet (runDrafts p l ls n i ds) := by
  induction n generalizing i ds with
  | zero => exact MQuiet.pure _
  | succ n ih =>
    refine (attempt_mquiet _ (issueAll_mquiet _ _ _ _)).bind fun x => ?_
    split
    · exact ih _ _
    · exact MQuiet.pure _

theorem writePages_mquiet (p : Plans) (ls : List Live) : MQuiet (writePages p ls) := by
  unfold writePages
  repeat' (first
    | with_reducible exact MQuiet.pure _ | with_reducible exact MQuiet.getS | with_reducible exact writeBytes_mquiet _ _
    | with_reducible apply MQuiet.bind | with_reducible apply MQuiet.forM | dsimp only | intro _ | split)

theorem draftPasses_mquiet (p : Plans) (ls : List Live) : MQuiet (draftPasses p ls) := by
  unfold draftPasses
  repeat' (first
    | with_reducible exact MQuiet.pure _ | with_reducible exact runDrafts_mquiet _ _ _ _ _ _ | dsimp only | split)

theorem mainPlan_mquiet (p : Plans) (ls : List Live) (ds : List Drafted) : MQuiet (mainPlan p ls ds) := by
  unfold mainPlan
  repeat' (first
    | with_reducible exact MQuiet.pure _ | with_reducible refine attempt_mquiet _ ?_ | with_reducible exact issueAll_mquiet _ _ _ _
    | with_reducible apply MQuiet.bind | intro _ | split)

theorem runPlans_mquiet (p : Plans) (ls : List Live) : MQuiet (runPlans p ls) := by
  unfold runPlans
  repeat' (first
    | with_reducible exact MQuiet.pure _ | with_reducible refine attempt_mquiet _ ?_ | with_reducible exact writePages_mquiet _ _
    | with_reducible exact draftPasses_mquiet _ _ | with_reducible exact mainPlan_mquiet _ _ _ | with_reducible apply MQuiet.bind
    | intro _ | split)

theorem closeSched_quiet {s : State} {e : StepEnd} (h : Quiet s e.s) : Quiet s (closeSched e) := by
  have tail : ∀ (c : Prop) [Decidable c] (t : State), Quiet s t → Quiet s (showFree (if c then raiseAlert 32 t else t)) := by
    intro c _ t ht
    refine Quiet.trans ?_ (showFree_quiet _)
    split
    · exact ht.trans (raiseAlert_quiet _ _)
    · exact ht
  unfold closeSched
  refine tail _ _ ?_
  apply Quiet.upd
  case e1 => dsimp only; with_reducible exact Is.rfl
  iterate 10 dsimp only
  exact h.trans (writeBatch_quiet _ _ _)

theorem chooseRows_quiet (maxRows : Nat) (ls : List Live) (s : State) : Quiet s (chooseRows maxRows ls s).2 := by
  unfold chooseRows
  repeat' (first
    | with_reducible exact Quiet.refl _ | dsimp only | with_reducible apply Quiet.trans ?_ (pagesAll_quiet _ _ _))

theorem viewStep_quiet (p : Plans) (cancels : List Nat) (s : State) : Quiet s (viewStep p cancels s).2 := by
  unfold viewStep
  repeat' (first
    | with_reducible exact Quiet.refl _ | with_reducible apply Quiet.trans ?_ (chooseRows_quiet _ _ _))

theorem endPlans_quiet (ls : List Live) (refusals : List BatchEntry) (o : PlanOut) (exc : W16) (s : State) :
    Quiet s (endPlans ls refusals o exc s) := closeSched_quiet (Quiet.refl s)

theorem checkPlans_mquiet : MQuiet checkPlans := by
  unfold checkPlans
  repeat' (first
    | with_reducible exact MQuiet.pure _ | with_reducible exact MQuiet.getS | with_reducible exact MQuiet.needDesc _
    | with_reducible exact loadPlans_mquiet  | with_reducible apply MQuiet.bind | intro _)

theorem readRing_mquiet : MQuiet readRing := by
  unfold readRing
  repeat' (first
    | with_reducible exact MQuiet.pure _ | with_reducible exact MQuiet.getS | with_reducible exact takeRing_mquiet _ _
    | with_reducible exact admWaiting_mquiet  | with_reducible apply MQuiet.bind | intro _ | split)

theorem hasRoom_mquiet (n : Nat) : MQuiet (hasRoom n) := by
  unfold hasRoom
  repeat' (first
    | with_reducible exact MQuiet.pure _ | with_reducible exact MQuiet.getS | with_reducible exact schedRead_mquiet _ _
    | with_reducible apply MQuiet.bind | intro _ | split)

theorem ringsThere_mquiet (n : Nat) : MQuiet (ringsThere n) := by
  unfold ringsThere
  repeat' (first
    | with_reducible exact MQuiet.getS | with_reducible exact holdIf_mquiet _ | with_reducible apply MQuiet.bind | dsimp only | intro _)

theorem stepBadPlans_quiet (ls : List Live) (st : Status) (s : State) : Quiet s (stepBadPlans ls st s) :=
  closeSched_quiet (Quiet.refl s)

theorem withRoom_mquiet (n : Nat) (m : M Unit) (hm : MQuiet m) : MQuiet (withRoom n m) := by
  unfold withRoom
  repeat' (first
    | with_reducible assumption | with_reducible exact MQuiet.pure _ | with_reducible exact hasRoom_mquiet _
    | with_reducible exact ringsThere_mquiet _ | with_reducible apply MQuiet.bind | intro _ | split)

theorem schedStep_mquiet : MQuiet schedStep := by
  unfold schedStep
  refine (attempt_mquiet _ checkPlans_mquiet).bind fun c => settleIssue_mquiet.bind fun _ => (setInfo_mquiet _).bind fun _ => ?_
  split
  · exact MQuiet.getS.bind fun s => withRoom_mquiet _ _ (MQuiet.modS fun s => stepBadPlans_quiet _ _ s)
  · rename_i p
    refine MQuiet.bind (MQuiet.modS fun s => ?_) fun _ => readRing_mquiet.bind fun r => MQuiet.getS.bind fun s => ?_
    · exact ⟨⟨rfl, rfl, rfl, rfl, rfl, rfl, rfl, id, fun _ h => h⟩, rfl, rfl, rfl, rfl, rfl⟩
    · refine withRoom_mquiet _ _ (MQuiet.getMod (f := fun s => (viewStep p r.cancels s).2) (fun s => chooseRows_quiet _ _ s) fun s => ?_)
      exact (runPlans_mquiet p _).bind fun o => MQuiet.get.bind fun w => MQuiet.modS fun s => endPlans_quiet _ _ _ _ s

theorem schedWaits_quiet (w : Work) (s : State) : Quiet s (schedWaits w s) := by
  unfold schedWaits
  repeat' (first
    | with_reducible exact Quiet.refl _ | with_reducible apply Quiet.trans ?_ (askFor_quiet _ _ _))

theorem schedStalls_quiet (s0 : State) : Quiet s0 (schedStalls s0) := by
  unfold schedStalls
  repeat' (first
    | with_reducible exact Quiet.refl _ | dsimp only | with_reducible apply Quiet.trans ?_ (runWorkAt_quiet _ _ _ ?_ _)
    | with_reducible exact schedRead_mquiet _ _
    | (apply Quiet.upd; (case e1 => dsimp only; with_reducible exact Is.rfl); iterate 10 dsimp only))

theorem schedEnds_quiet (s : State) : Quiet s (schedEnds s) := by
  unfold schedEnds
  repeat' (first
    | with_reducible exact Quiet.refl _ | dsimp only
    | (apply Quiet.upd; (case e1 => dsimp only; with_reducible exact Is.rfl); iterate 10 dsimp only))

theorem runSched_quiet (s : State) : Quiet s (runSched s).2.s := runWorkAt_quiet _ _ schedStep schedStep_mquiet s

theorem afterSched_calm (s : State) : Calm s (afterSched s) := by
  unfold afterSched
  dsimp only
  split
  · exact ((runSched_quiet s).trans (schedEnds_quiet _)).calm
  · exact (schedStalls_quiet s).calm
  · exact (schedWaits_quiet _ s).calm

theorem execSchedulerStep_calm (s : State) {t : State} (h : execSchedulerStep s = .next t) : Calm s t := by
  unfold execSchedulerStep at h
  repeat' (first
    | split at h | cases h | with_reducible exact Calm.refl _ | with_reducible apply Calm.trans ?_ (afterSched_calm _))

/-! ### Security -/

theorem setKey_tame (n : Nat) (k : KeySlot) (s : State) : Tame s (setKey n k s) := by
  unfold setKey
  repeat' (first
    | with_reducible exact Tame.refl _ | dsimp only
    | (apply Tame.upd; (case e1 => dsimp only; with_reducible exact Is.rfl); iterate 3 dsimp only) | split)

theorem ownKey_gives (p : Path) (r : List Byte) (s : State) : Gives Tame s (ownKey p r s) := by
  unfold ownKey
  repeat' (first
    | with_reducible apply okIf_gives | with_reducible exact Gives.error _ _ | with_reducible exact Tame.refl _ | dsimp only
    | with_reducible apply Tame.trans ?_ (setKey_tame _ _ _) | split)

theorem execCommandKeyWrite_tame (p : Asker) (req : List Byte) (s : State) {t : State} (h : execCommandKeyWrite p req s = .next t)
    : Tame s t := by
  unfold execCommandKeyWrite at h
  repeat' (first
    | with_reducible refine request_keeps (fun _ _ => Calm.tame) (fun _ _ _ => Tame.trans) (fun _ _ _ => ?_) h
    | with_reducible exact ownKey_gives _ _ _)

theorem ownRevoke_gives (p : Path) (r : List Byte) (s : State) : Gives Tame s (ownRevoke p r s) := by
  unfold ownRevoke
  repeat' (first
    | with_reducible apply okIf_gives | with_reducible exact Gives.error _ _ | with_reducible exact Tame.refl _ | dsimp only
    | with_reducible apply Tame.trans ?_ (setKey_tame _ _ _) | split)

theorem execRevokeKey_tame (p : Asker) (req : List Byte) (s : State) {t : State} (h : execRevokeKey p req s = .next t) : Tame s t := by
  unfold execRevokeKey at h
  repeat' (first
    | with_reducible refine request_keeps (fun _ _ => Calm.tame) (fun _ _ _ => Tame.trans) (fun _ _ _ => ?_) h
    | with_reducible exact ownRevoke_gives _ _ _)

theorem ownReport_gives (p : Path) (r : List Byte) (s : State) : Gives Quiet s (ownReport p r s) := by
  unfold ownReport
  repeat' (first
    | with_reducible apply Gives.ok | with_reducible exact Gives.error _ _ | with_reducible exact Quiet.refl _ | dsimp only
    | (apply Quiet.upd; (case e1 => dsimp only; with_reducible exact Is.rfl); iterate 10 dsimp only) | split)

theorem execBuildReport_calm (p : Asker) (req : List Byte) (s : State) {t : State} (h : execBuildReport p req s = .next t) : Calm s t := by
  unfold execBuildReport at h
  repeat' (first
    | with_reducible refine request_keeps (fun _ _ h => h) (fun _ _ _ => Calm.trans) (fun _ _ _ => ?_) h
    | with_reducible exact Gives.calm (ownReport_gives _ _ _))

theorem execReportReady_calm (s : State) {t : State} (h : execReportReady s = .next t) : Calm s t := by
  unfold execReportReady at h
  repeat' (first
    | split at h | cases h | with_reducible exact Calm.refl _ | dsimp only
    | (apply Calm.upd; (case e1 => dsimp only; with_reducible exact Is.rfl); iterate 8 dsimp only))

theorem ownBlob_gives (p : Path) (r : List Byte) (s : State) : Gives Quiet s (ownBlob p r s) := by
  unfold ownBlob
  repeat' (first
    | with_reducible apply okIf_gives | with_reducible exact Quiet.refl _ | dsimp only
    | with_reducible apply Quiet.trans ?_ (setSel_quiet _ _ _))

theorem execBlobSelect_calm (p : Asker) (req : List Byte) (s : State) {t : State} (h : execBlobSelect p req s = .next t) : Calm s t := by
  unfold execBlobSelect at h
  repeat' (first
    | with_reducible refine request_keeps (fun _ _ h => h) (fun _ _ _ => Calm.trans) (fun _ _ _ => ?_) h
    | with_reducible exact Gives.calm (ownBlob_gives _ _ _))

theorem ownStage_gives (p : Path) (r : List Byte) (s : State) : Gives Quiet s (ownStage p r s) := by
  unfold ownStage
  repeat' (first
    | with_reducible apply Gives.ok | with_reducible exact Gives.error _ _ | with_reducible exact Quiet.refl _
    | with_reducible apply Quiet.trans ?_ (beginStaging_quiet _) | split)

theorem execStage_calm (p : Asker) (req : List Byte) (s : State) {t : State} (h : execStage p req s = .next t) : Calm s t := by
  unfold execStage at h
  repeat' (first
    | with_reducible refine request_keeps (fun _ _ h => h) (fun _ _ _ => Calm.trans) (fun _ _ _ => ?_) h
    | with_reducible exact Gives.calm (ownStage_gives _ _ _))

theorem ownActivate_gives (p : Path) (r : List Byte) (s : State) : Gives Quiet s (ownActivate p r s) := by
  unfold ownActivate
  repeat' (first
    | with_reducible apply okIf_gives | with_reducible exact Quiet.refl _ | dsimp only
    | (apply Quiet.upd; (case e1 => dsimp only; with_reducible exact Is.rfl); iterate 10 dsimp only))

theorem execActivate_calm (p : Asker) (req : List Byte) (s : State) {t : State} (h : execActivate p req s = .next t) : Calm s t := by
  unfold execActivate at h
  repeat' (first
    | with_reducible refine request_keeps (fun _ _ h => h) (fun _ _ _ => Calm.trans) (fun _ _ _ => ?_) h
    | with_reducible exact Gives.calm (ownActivate_gives _ _ _))

theorem askReset_calm (l : Level) (cause : Byte) (s : State) : Calm s (askReset l cause s) := by
  unfold askReset
  repeat' (first
    | with_reducible exact Calm.refl _ | dsimp only
    | (apply Calm.upd; (case e1 => dsimp only; with_reducible exact Is.rfl); iterate 8 dsimp only))

theorem ownActivateReset_gives (p : Path) (r : List Byte) (s : State) : Gives Calm s (ownActivateReset p r s) := by
  unfold ownActivateReset
  repeat' (first
    | with_reducible apply okIf_gives | with_reducible exact Calm.refl _ | dsimp only
    | with_reducible apply Calm.trans ?_ ((endFwRx_quiet _).calm) | with_reducible apply Calm.trans ?_ ((endFwTx_quiet _).calm)
    | with_reducible apply Calm.trans ?_ (askReset_calm _ _ _)
    | (apply Calm.upd; (case e1 => dsimp only; with_reducible exact Is.rfl); iterate 8 dsimp only) | split)

theorem execActivateReset_calm (p : Asker) (req : List Byte) (s : State) {t : State} (h : execActivateReset p req s = .next t)
    : Calm s t := by
  unfold execActivateReset at h
  repeat' (first
    | with_reducible refine request_keeps (fun _ _ h => h) (fun _ _ _ => Calm.trans) (fun _ _ _ => ?_) h
    | with_reducible exact ownActivateReset_gives _ _ _)

theorem ownActivateCancel_gives (p : Path) (r : List Byte) (s : State) : Gives Quiet s (ownActivateCancel p r s) := by
  unfold ownActivateCancel
  repeat' (first
    | with_reducible apply Gives.ok | with_reducible exact Quiet.refl _ | dsimp only
    | (apply Quiet.upd; (case e1 => dsimp only; with_reducible exact Is.rfl); iterate 10 dsimp only))

theorem execActivationCancel_calm (p : Asker) (req : List Byte) (s : State) {t : State} (h : execActivationCancel p req s = .next t)
    : Calm s t := by
  unfold execActivationCancel at h
  repeat' (first
    | with_reducible refine request_keeps (fun _ _ h => h) (fun _ _ _ => Calm.trans) (fun _ _ _ => ?_) h
    | with_reducible exact Gives.calm (ownActivateCancel_gives _ _ _))

theorem ownCommit_gives (p : Path) (r : List Byte) (s : State) : Gives Tame s (ownCommit p r s) := by
  unfold ownCommit
  repeat' (first
    | with_reducible apply okIf_gives | with_reducible exact Gives.error _ _ | with_reducible exact Tame.refl _ | dsimp only
    | (apply Tame.upd; (case e1 => dsimp only; with_reducible exact Is.rfl); iterate 3 dsimp only) | split)

theorem execCommitSecurityVersion_tame (p : Asker) (req : List Byte) (s : State) {t : State} (h
    : execCommitSecurityVersion p req s = .next t) : Tame s t := by
  unfold execCommitSecurityVersion at h
  repeat' (first
    | with_reducible refine request_keeps (fun _ _ => Calm.tame) (fun _ _ _ => Tame.trans) (fun _ _ _ => ?_) h
    | with_reducible exact ownCommit_gives _ _ _)

theorem ownUnlock_gives (p : Path) (r : List Byte) (s : State) : Gives Quiet s (ownUnlock p r s) := by
  unfold ownUnlock
  repeat' (first
    | with_reducible apply okIf_gives | with_reducible exact Quiet.refl _ | dsimp only
    | (apply Quiet.upd; (case e1 => dsimp only; with_reducible exact Is.rfl); iterate 10 dsimp only))

theorem execDebugUnlock_calm (p : Asker) (req : List Byte) (s : State) {t : State} (h : execDebugUnlock p req s = .next t) : Calm s t := by
  unfold execDebugUnlock at h
  repeat' (first
    | with_reducible refine request_keeps (fun _ _ h => h) (fun _ _ _ => Calm.trans) (fun _ _ _ => ?_) h
    | with_reducible exact Gives.calm (ownUnlock_gives _ _ _))

theorem ownLock_gives (p : Path) (r : List Byte) (s : State) : Gives Quiet s (ownLock p r s) := by
  unfold ownLock
  repeat' (first
    | with_reducible apply Gives.ok | with_reducible exact Quiet.refl _ | dsimp only
    | (apply Quiet.upd; (case e1 => dsimp only; with_reducible exact Is.rfl); iterate 10 dsimp only))

theorem execDebugLock_calm (p : Asker) (req : List Byte) (s : State) {t : State} (h : execDebugLock p req s = .next t) : Calm s t := by
  unfold execDebugLock at h
  repeat' (first
    | with_reducible refine request_keeps (fun _ _ h => h) (fun _ _ _ => Calm.trans) (fun _ _ _ => ?_) h
    | with_reducible exact Gives.calm (ownLock_gives _ _ _))

theorem ownDebugReset_gives (p : Path) (r : List Byte) (s : State) : Gives Calm s (ownDebugReset p r s) := by
  unfold ownDebugReset
  repeat' (first
    | with_reducible apply Gives.ok | with_reducible exact Gives.error _ _ | with_reducible exact Calm.refl _
    | with_reducible apply Calm.trans ?_ (askReset_calm _ _ _) | split)

theorem execDebugReset_calm (p : Asker) (req : List Byte) (s : State) {t : State} (h : execDebugReset p req s = .next t) : Calm s t := by
  unfold execDebugReset at h
  repeat' (first
    | with_reducible refine request_keeps (fun _ _ h => h) (fun _ _ _ => Calm.trans) (fun _ _ _ => ?_) h
    | with_reducible exact ownDebugReset_gives _ _ _)

theorem ownSysReset_gives (p : Path) (r : List Byte) (s : State) : Gives Calm s (ownSysReset p r s) := by
  unfold ownSysReset
  repeat' (first
    | with_reducible apply Gives.ok | with_reducible exact Calm.refl _ | with_reducible apply Calm.trans ?_ (askReset_calm _ _ _))

theorem ownCoreReset_gives (p : Path) (r : List Byte) (s : State) : Gives Calm s (ownCoreReset p r s) := by
  unfold ownCoreReset
  repeat' (first
    | with_reducible apply Gives.ok | with_reducible exact Calm.refl _ | with_reducible apply Calm.trans ?_ (askReset_calm _ _ _))

theorem execSoftwareSysReset_calm (p : Asker) (req : List Byte) (s : State) {t : State} (h : execSoftwareSysReset p req s = .next t)
    : Calm s t := by
  unfold execSoftwareSysReset at h
  repeat' (first
    | with_reducible refine request_keeps (fun _ _ h => h) (fun _ _ _ => Calm.trans) (fun _ _ _ => ?_) h
    | with_reducible exact ownSysReset_gives _ _ _)

theorem execSoftwareCoreReset_calm (p : Asker) (req : List Byte) (s : State) {t : State} (h : execSoftwareCoreReset p req s = .next t)
    : Calm s t := by
  unfold execSoftwareCoreReset at h
  repeat' (first
    | with_reducible refine request_keeps (fun _ _ h => h) (fun _ _ _ => Calm.trans) (fun _ _ _ => ?_) h
    | with_reducible exact ownCoreReset_gives _ _ _)

end Sys2Proof.Machine
end

