-- ==== Sys2Proof/Laws/State.lean ====
section
/-! SUPPORT. The fields that the plain updates of State leave alone, one lemma a field, and what the updates set. -/

namespace Sys2Proof.Machine

/-! ### poke -/

@[simp] theorem poke_persist (s : State) (a : Nat) (bs : List Byte) : (poke s a bs).persist = s.persist := rfl
@[simp] theorem poke_sec (s : State) (a : Nat) (bs : List Byte) : (poke s a bs).sec = s.sec := rfl
@[simp] theorem poke_od (s : State) (a : Nat) (bs : List Byte) : (poke s a bs).od = s.od := rfl
@[simp] theorem poke_rst (s : State) (a : Nat) (bs : List Byte) : (poke s a bs).rst = s.rst := rfl
@[simp] theorem poke_power (s : State) (a : Nat) (bs : List Byte) : (poke s a bs).power = s.power := rfl
@[simp] theorem poke_turn (s : State) (a : Nat) (bs : List Byte) : (poke s a bs).turn = s.turn := rfl
@[simp] theorem poke_fmt (s : State) (a : Nat) (bs : List Byte) : (poke s a bs).fmt = s.fmt := rfl
@[simp] theorem poke_rng (s : State) (a : Nat) (bs : List Byte) : (poke s a bs).rng = s.rng := rfl
@[simp] theorem poke_arr (s : State) (a : Nat) (bs : List Byte) : (poke s a bs).arr = s.arr := rfl
@[simp] theorem poke_terr (s : State) (a : Nat) (bs : List Byte) : (poke s a bs).terr = s.terr := rfl
@[simp] theorem poke_sched (s : State) (a : Nat) (bs : List Byte) : (poke s a bs).sched = s.sched := rfl
@[simp] theorem poke_vers (s : State) (a : Nat) (bs : List Byte) : (poke s a bs).vers = s.vers := rfl
@[simp] theorem poke_adapters (s : State) (a : Nat) (bs : List Byte) : (poke s a bs).adapters = s.adapters := rfl
@[simp] theorem poke_pubCount (s : State) (a : Nat) (bs : List Byte) : (poke s a bs).pubCount = s.pubCount := rfl
@[simp] theorem poke_gate (s : State) (a : Nat) (bs : List Byte) : (poke s a bs).gate = s.gate := rfl
@[simp] theorem poke_stash (s : State) (a : Nat) (bs : List Byte) : (poke s a bs).stash = s.stash := rfl
@[simp] theorem poke_care (s : State) (a : Nat) (bs : List Byte) : (poke s a bs).care = s.care := rfl
@[simp] theorem poke_red (s : State) (a : Nat) (bs : List Byte) : (poke s a bs).red = s.red := rfl
@[simp] theorem poke_shard (s : State) (a : Nat) (bs : List Byte) : (poke s a bs).shard = s.shard := rfl
@[simp] theorem poke_prot (s : State) (a : Nat) (bs : List Byte) : (poke s a bs).prot = s.prot := rfl
@[simp] theorem poke_stk (s : State) (a : Nat) (bs : List Byte) : (poke s a bs).stk = s.stk := rfl
@[simp] theorem poke_q (s : State) (a : Nat) (bs : List Byte) : (poke s a bs).q = s.q := rfl
@[simp] theorem poke_lk (s : State) (a : Nat) (bs : List Byte) : (poke s a bs).lk = s.lk := rfl
@[simp] theorem poke_units (s : State) (a : Nat) (bs : List Byte) : (poke s a bs).units = s.units := rfl
@[simp] theorem poke_outbox (s : State) (a : Nat) (bs : List Byte) : (poke s a bs).outbox = s.outbox := rfl
@[simp] theorem poke_freeCtr (s : State) (a : Nat) (bs : List Byte) : (poke s a bs).freeCtr = s.freeCtr := rfl
@[simp] theorem poke_pending (s : State) (a : Nat) (bs : List Byte) : (poke s a bs).pending = s.pending := rfl

/-! ### setLink -/

@[simp] theorem setLink_persist (i : LinkId) (l : Link) (s : State) : (setLink i l s).persist = s.persist := rfl
@[simp] theorem setLink_sec (i : LinkId) (l : Link) (s : State) : (setLink i l s).sec = s.sec := rfl
@[simp] theorem setLink_od (i : LinkId) (l : Link) (s : State) : (setLink i l s).od = s.od := rfl
@[simp] theorem setLink_rst (i : LinkId) (l : Link) (s : State) : (setLink i l s).rst = s.rst := rfl
@[simp] theorem setLink_power (i : LinkId) (l : Link) (s : State) : (setLink i l s).power = s.power := rfl
@[simp] theorem setLink_turn (i : LinkId) (l : Link) (s : State) : (setLink i l s).turn = s.turn := rfl
@[simp] theorem setLink_fmt (i : LinkId) (l : Link) (s : State) : (setLink i l s).fmt = s.fmt := rfl
@[simp] theorem setLink_rng (i : LinkId) (l : Link) (s : State) : (setLink i l s).rng = s.rng := rfl
@[simp] theorem setLink_arr (i : LinkId) (l : Link) (s : State) : (setLink i l s).arr = s.arr := rfl
@[simp] theorem setLink_terr (i : LinkId) (l : Link) (s : State) : (setLink i l s).terr = s.terr := rfl
@[simp] theorem setLink_sched (i : LinkId) (l : Link) (s : State) : (setLink i l s).sched = s.sched := rfl
@[simp] theorem setLink_vers (i : LinkId) (l : Link) (s : State) : (setLink i l s).vers = s.vers := rfl
@[simp] theorem setLink_adapters (i : LinkId) (l : Link) (s : State) : (setLink i l s).adapters = s.adapters := rfl
@[simp] theorem setLink_pubCount (i : LinkId) (l : Link) (s : State) : (setLink i l s).pubCount = s.pubCount := rfl
@[simp] theorem setLink_gate (i : LinkId) (l : Link) (s : State) : (setLink i l s).gate = s.gate := rfl
@[simp] theorem setLink_stash (i : LinkId) (l : Link) (s : State) : (setLink i l s).stash = s.stash := rfl
@[simp] theorem setLink_care (i : LinkId) (l : Link) (s : State) : (setLink i l s).care = s.care := rfl
@[simp] theorem setLink_red (i : LinkId) (l : Link) (s : State) : (setLink i l s).red = s.red := rfl
@[simp] theorem setLink_shard (i : LinkId) (l : Link) (s : State) : (setLink i l s).shard = s.shard := rfl
@[simp] theorem setLink_prot (i : LinkId) (l : Link) (s : State) : (setLink i l s).prot = s.prot := rfl
@[simp] theorem setLink_mem (i : LinkId) (l : Link) (s : State) : (setLink i l s).mem = s.mem := rfl
@[simp] theorem setLink_stk (i : LinkId) (l : Link) (s : State) : (setLink i l s).stk = s.stk := rfl
@[simp] theorem setLink_q (i : LinkId) (l : Link) (s : State) : (setLink i l s).q = s.q := rfl
@[simp] theorem setLink_units (i : LinkId) (l : Link) (s : State) : (setLink i l s).units = s.units := rfl
@[simp] theorem setLink_outbox (i : LinkId) (l : Link) (s : State) : (setLink i l s).outbox = s.outbox := rfl
@[simp] theorem setLink_freeCtr (i : LinkId) (l : Link) (s : State) : (setLink i l s).freeCtr = s.freeCtr := rfl
@[simp] theorem setLink_pending (i : LinkId) (l : Link) (s : State) : (setLink i l s).pending = s.pending := rfl

/-! ### eccClear -/

@[simp] theorem eccClear_persist (s : State) (loc : Nat) : (eccClear s loc).persist = s.persist := rfl
@[simp] theorem eccClear_sec (s : State) (loc : Nat) : (eccClear s loc).sec = s.sec := rfl
@[simp] theorem eccClear_od (s : State) (loc : Nat) : (eccClear s loc).od = s.od := rfl
@[simp] theorem eccClear_rst (s : State) (loc : Nat) : (eccClear s loc).rst = s.rst := rfl
@[simp] theorem eccClear_power (s : State) (loc : Nat) : (eccClear s loc).power = s.power := rfl
@[simp] theorem eccClear_turn (s : State) (loc : Nat) : (eccClear s loc).turn = s.turn := rfl
@[simp] theorem eccClear_fmt (s : State) (loc : Nat) : (eccClear s loc).fmt = s.fmt := rfl
@[simp] theorem eccClear_rng (s : State) (loc : Nat) : (eccClear s loc).rng = s.rng := rfl
@[simp] theorem eccClear_arr (s : State) (loc : Nat) : (eccClear s loc).arr = s.arr := rfl
@[simp] theorem eccClear_terr (s : State) (loc : Nat) : (eccClear s loc).terr = s.terr := rfl
@[simp] theorem eccClear_sched (s : State) (loc : Nat) : (eccClear s loc).sched = s.sched := rfl
@[simp] theorem eccClear_vers (s : State) (loc : Nat) : (eccClear s loc).vers = s.vers := rfl
@[simp] theorem eccClear_adapters (s : State) (loc : Nat) : (eccClear s loc).adapters = s.adapters := rfl
@[simp] theorem eccClear_pubCount (s : State) (loc : Nat) : (eccClear s loc).pubCount = s.pubCount := rfl
@[simp] theorem eccClear_gate (s : State) (loc : Nat) : (eccClear s loc).gate = s.gate := rfl
@[simp] theorem eccClear_stash (s : State) (loc : Nat) : (eccClear s loc).stash = s.stash := rfl
@[simp] theorem eccClear_care (s : State) (loc : Nat) : (eccClear s loc).care = s.care := rfl
@[simp] theorem eccClear_red (s : State) (loc : Nat) : (eccClear s loc).red = s.red := rfl
@[simp] theorem eccClear_shard (s : State) (loc : Nat) : (eccClear s loc).shard = s.shard := rfl
@[simp] theorem eccClear_prot (s : State) (loc : Nat) : (eccClear s loc).prot = s.prot := rfl
@[simp] theorem eccClear_mem (s : State) (loc : Nat) : (eccClear s loc).mem = s.mem := rfl
@[simp] theorem eccClear_q (s : State) (loc : Nat) : (eccClear s loc).q = s.q := rfl
@[simp] theorem eccClear_lk (s : State) (loc : Nat) : (eccClear s loc).lk = s.lk := rfl
@[simp] theorem eccClear_units (s : State) (loc : Nat) : (eccClear s loc).units = s.units := rfl
@[simp] theorem eccClear_outbox (s : State) (loc : Nat) : (eccClear s loc).outbox = s.outbox := rfl
@[simp] theorem eccClear_freeCtr (s : State) (loc : Nat) : (eccClear s loc).freeCtr = s.freeCtr := rfl
@[simp] theorem eccClear_pending (s : State) (loc : Nat) : (eccClear s loc).pending = s.pending := rfl

/-! ### advanceHead -/

@[simp] theorem advanceHead_persist (qp : Fin 64) (n : Nat) (s : State) : (advanceHead qp n s).persist = s.persist := rfl
@[simp] theorem advanceHead_sec (qp : Fin 64) (n : Nat) (s : State) : (advanceHead qp n s).sec = s.sec := rfl
@[simp] theorem advanceHead_od (qp : Fin 64) (n : Nat) (s : State) : (advanceHead qp n s).od = s.od := rfl
@[simp] theorem advanceHead_rst (qp : Fin 64) (n : Nat) (s : State) : (advanceHead qp n s).rst = s.rst := rfl
@[simp] theorem advanceHead_power (qp : Fin 64) (n : Nat) (s : State) : (advanceHead qp n s).power = s.power := rfl
@[simp] theorem advanceHead_turn (qp : Fin 64) (n : Nat) (s : State) : (advanceHead qp n s).turn = s.turn := rfl
@[simp] theorem advanceHead_fmt (qp : Fin 64) (n : Nat) (s : State) : (advanceHead qp n s).fmt = s.fmt := rfl
@[simp] theorem advanceHead_rng (qp : Fin 64) (n : Nat) (s : State) : (advanceHead qp n s).rng = s.rng := rfl
@[simp] theorem advanceHead_arr (qp : Fin 64) (n : Nat) (s : State) : (advanceHead qp n s).arr = s.arr := rfl
@[simp] theorem advanceHead_terr (qp : Fin 64) (n : Nat) (s : State) : (advanceHead qp n s).terr = s.terr := rfl
@[simp] theorem advanceHead_sched (qp : Fin 64) (n : Nat) (s : State) : (advanceHead qp n s).sched = s.sched := rfl
@[simp] theorem advanceHead_vers (qp : Fin 64) (n : Nat) (s : State) : (advanceHead qp n s).vers = s.vers := rfl
@[simp] theorem advanceHead_adapters (qp : Fin 64) (n : Nat) (s : State) : (advanceHead qp n s).adapters = s.adapters := rfl
@[simp] theorem advanceHead_pubCount (qp : Fin 64) (n : Nat) (s : State) : (advanceHead qp n s).pubCount = s.pubCount := rfl
@[simp] theorem advanceHead_gate (qp : Fin 64) (n : Nat) (s : State) : (advanceHead qp n s).gate = s.gate := rfl
@[simp] theorem advanceHead_stash (qp : Fin 64) (n : Nat) (s : State) : (advanceHead qp n s).stash = s.stash := rfl
@[simp] theorem advanceHead_care (qp : Fin 64) (n : Nat) (s : State) : (advanceHead qp n s).care = s.care := rfl
@[simp] theorem advanceHead_red (qp : Fin 64) (n : Nat) (s : State) : (advanceHead qp n s).red = s.red := rfl
@[simp] theorem advanceHead_shard (qp : Fin 64) (n : Nat) (s : State) : (advanceHead qp n s).shard = s.shard := rfl
@[simp] theorem advanceHead_prot (qp : Fin 64) (n : Nat) (s : State) : (advanceHead qp n s).prot = s.prot := rfl
@[simp] theorem advanceHead_mem (qp : Fin 64) (n : Nat) (s : State) : (advanceHead qp n s).mem = s.mem := rfl
@[simp] theorem advanceHead_stk (qp : Fin 64) (n : Nat) (s : State) : (advanceHead qp n s).stk = s.stk := rfl
@[simp] theorem advanceHead_lk (qp : Fin 64) (n : Nat) (s : State) : (advanceHead qp n s).lk = s.lk := rfl
@[simp] theorem advanceHead_units (qp : Fin 64) (n : Nat) (s : State) : (advanceHead qp n s).units = s.units := rfl
@[simp] theorem advanceHead_freeCtr (qp : Fin 64) (n : Nat) (s : State) : (advanceHead qp n s).freeCtr = s.freeCtr := rfl
@[simp] theorem advanceHead_pending (qp : Fin 64) (n : Nat) (s : State) : (advanceHead qp n s).pending = s.pending := rfl

/-! ### pushInFlight -/

@[simp] theorem pushInFlight_persist (e : InFlight) (s : State) : (pushInFlight e s).persist = s.persist := rfl
@[simp] theorem pushInFlight_sec (e : InFlight) (s : State) : (pushInFlight e s).sec = s.sec := rfl
@[simp] theorem pushInFlight_od (e : InFlight) (s : State) : (pushInFlight e s).od = s.od := rfl
@[simp] theorem pushInFlight_rst (e : InFlight) (s : State) : (pushInFlight e s).rst = s.rst := rfl
@[simp] theorem pushInFlight_power (e : InFlight) (s : State) : (pushInFlight e s).power = s.power := rfl
@[simp] theorem pushInFlight_turn (e : InFlight) (s : State) : (pushInFlight e s).turn = s.turn := rfl
@[simp] theorem pushInFlight_fmt (e : InFlight) (s : State) : (pushInFlight e s).fmt = s.fmt := rfl
@[simp] theorem pushInFlight_rng (e : InFlight) (s : State) : (pushInFlight e s).rng = s.rng := rfl
@[simp] theorem pushInFlight_arr (e : InFlight) (s : State) : (pushInFlight e s).arr = s.arr := rfl
@[simp] theorem pushInFlight_terr (e : InFlight) (s : State) : (pushInFlight e s).terr = s.terr := rfl
@[simp] theorem pushInFlight_sched (e : InFlight) (s : State) : (pushInFlight e s).sched = s.sched := rfl
@[simp] theorem pushInFlight_vers (e : InFlight) (s : State) : (pushInFlight e s).vers = s.vers := rfl
@[simp] theorem pushInFlight_adapters (e : InFlight) (s : State) : (pushInFlight e s).adapters = s.adapters := rfl
@[simp] theorem pushInFlight_pubCount (e : InFlight) (s : State) : (pushInFlight e s).pubCount = s.pubCount := rfl
@[simp] theorem pushInFlight_gate (e : InFlight) (s : State) : (pushInFlight e s).gate = s.gate := rfl
@[simp] theorem pushInFlight_stash (e : InFlight) (s : State) : (pushInFlight e s).stash = s.stash := rfl
@[simp] theorem pushInFlight_care (e : InFlight) (s : State) : (pushInFlight e s).care = s.care := rfl
@[simp] theorem pushInFlight_red (e : InFlight) (s : State) : (pushInFlight e s).red = s.red := rfl
@[simp] theorem pushInFlight_shard (e : InFlight) (s : State) : (pushInFlight e s).shard = s.shard := rfl
@[simp] theorem pushInFlight_prot (e : InFlight) (s : State) : (pushInFlight e s).prot = s.prot := rfl
@[simp] theorem pushInFlight_mem (e : InFlight) (s : State) : (pushInFlight e s).mem = s.mem := rfl
@[simp] theorem pushInFlight_lk (e : InFlight) (s : State) : (pushInFlight e s).lk = s.lk := rfl
@[simp] theorem pushInFlight_units (e : InFlight) (s : State) : (pushInFlight e s).units = s.units := rfl
@[simp] theorem pushInFlight_outbox (e : InFlight) (s : State) : (pushInFlight e s).outbox = s.outbox := rfl
@[simp] theorem pushInFlight_freeCtr (e : InFlight) (s : State) : (pushInFlight e s).freeCtr = s.freeCtr := rfl
@[simp] theorem pushInFlight_pending (e : InFlight) (s : State) : (pushInFlight e s).pending = s.pending := rfl

/-! ### setInFlight -/

@[simp] theorem setInFlight_persist (e : InFlight) (s : State) : (setInFlight e s).persist = s.persist := rfl
@[simp] theorem setInFlight_sec (e : InFlight) (s : State) : (setInFlight e s).sec = s.sec := rfl
@[simp] theorem setInFlight_od (e : InFlight) (s : State) : (setInFlight e s).od = s.od := rfl
@[simp] theorem setInFlight_rst (e : InFlight) (s : State) : (setInFlight e s).rst = s.rst := rfl
@[simp] theorem setInFlight_power (e : InFlight) (s : State) : (setInFlight e s).power = s.power := rfl
@[simp] theorem setInFlight_turn (e : InFlight) (s : State) : (setInFlight e s).turn = s.turn := rfl
@[simp] theorem setInFlight_fmt (e : InFlight) (s : State) : (setInFlight e s).fmt = s.fmt := rfl
@[simp] theorem setInFlight_rng (e : InFlight) (s : State) : (setInFlight e s).rng = s.rng := rfl
@[simp] theorem setInFlight_arr (e : InFlight) (s : State) : (setInFlight e s).arr = s.arr := rfl
@[simp] theorem setInFlight_terr (e : InFlight) (s : State) : (setInFlight e s).terr = s.terr := rfl
@[simp] theorem setInFlight_sched (e : InFlight) (s : State) : (setInFlight e s).sched = s.sched := rfl
@[simp] theorem setInFlight_vers (e : InFlight) (s : State) : (setInFlight e s).vers = s.vers := rfl
@[simp] theorem setInFlight_adapters (e : InFlight) (s : State) : (setInFlight e s).adapters = s.adapters := rfl
@[simp] theorem setInFlight_pubCount (e : InFlight) (s : State) : (setInFlight e s).pubCount = s.pubCount := rfl
@[simp] theorem setInFlight_gate (e : InFlight) (s : State) : (setInFlight e s).gate = s.gate := rfl
@[simp] theorem setInFlight_stash (e : InFlight) (s : State) : (setInFlight e s).stash = s.stash := rfl
@[simp] theorem setInFlight_care (e : InFlight) (s : State) : (setInFlight e s).care = s.care := rfl
@[simp] theorem setInFlight_red (e : InFlight) (s : State) : (setInFlight e s).red = s.red := rfl
@[simp] theorem setInFlight_shard (e : InFlight) (s : State) : (setInFlight e s).shard = s.shard := rfl
@[simp] theorem setInFlight_prot (e : InFlight) (s : State) : (setInFlight e s).prot = s.prot := rfl
@[simp] theorem setInFlight_mem (e : InFlight) (s : State) : (setInFlight e s).mem = s.mem := rfl
@[simp] theorem setInFlight_lk (e : InFlight) (s : State) : (setInFlight e s).lk = s.lk := rfl
@[simp] theorem setInFlight_units (e : InFlight) (s : State) : (setInFlight e s).units = s.units := rfl
@[simp] theorem setInFlight_outbox (e : InFlight) (s : State) : (setInFlight e s).outbox = s.outbox := rfl
@[simp] theorem setInFlight_freeCtr (e : InFlight) (s : State) : (setInFlight e s).freeCtr = s.freeCtr := rfl
@[simp] theorem setInFlight_pending (e : InFlight) (s : State) : (setInFlight e s).pending = s.pending := rfl

/-! ### ignoreDoorbell -/

@[simp] theorem ignoreDoorbell_persist (s : State) : (ignoreDoorbell s).persist = s.persist := rfl
@[simp] theorem ignoreDoorbell_sec (s : State) : (ignoreDoorbell s).sec = s.sec := rfl
@[simp] theorem ignoreDoorbell_od (s : State) : (ignoreDoorbell s).od = s.od := rfl
@[simp] theorem ignoreDoorbell_rst (s : State) : (ignoreDoorbell s).rst = s.rst := rfl
@[simp] theorem ignoreDoorbell_power (s : State) : (ignoreDoorbell s).power = s.power := rfl
@[simp] theorem ignoreDoorbell_turn (s : State) : (ignoreDoorbell s).turn = s.turn := rfl
@[simp] theorem ignoreDoorbell_fmt (s : State) : (ignoreDoorbell s).fmt = s.fmt := rfl
@[simp] theorem ignoreDoorbell_rng (s : State) : (ignoreDoorbell s).rng = s.rng := rfl
@[simp] theorem ignoreDoorbell_arr (s : State) : (ignoreDoorbell s).arr = s.arr := rfl
@[simp] theorem ignoreDoorbell_terr (s : State) : (ignoreDoorbell s).terr = s.terr := rfl
@[simp] theorem ignoreDoorbell_sched (s : State) : (ignoreDoorbell s).sched = s.sched := rfl
@[simp] theorem ignoreDoorbell_vers (s : State) : (ignoreDoorbell s).vers = s.vers := rfl
@[simp] theorem ignoreDoorbell_adapters (s : State) : (ignoreDoorbell s).adapters = s.adapters := rfl
@[simp] theorem ignoreDoorbell_pubCount (s : State) : (ignoreDoorbell s).pubCount = s.pubCount := rfl
@[simp] theorem ignoreDoorbell_gate (s : State) : (ignoreDoorbell s).gate = s.gate := rfl
@[simp] theorem ignoreDoorbell_stash (s : State) : (ignoreDoorbell s).stash = s.stash := rfl
@[simp] theorem ignoreDoorbell_care (s : State) : (ignoreDoorbell s).care = s.care := rfl
@[simp] theorem ignoreDoorbell_red (s : State) : (ignoreDoorbell s).red = s.red := rfl
@[simp] theorem ignoreDoorbell_shard (s : State) : (ignoreDoorbell s).shard = s.shard := rfl
@[simp] theorem ignoreDoorbell_prot (s : State) : (ignoreDoorbell s).prot = s.prot := rfl
@[simp] theorem ignoreDoorbell_mem (s : State) : (ignoreDoorbell s).mem = s.mem := rfl
@[simp] theorem ignoreDoorbell_stk (s : State) : (ignoreDoorbell s).stk = s.stk := rfl
@[simp] theorem ignoreDoorbell_lk (s : State) : (ignoreDoorbell s).lk = s.lk := rfl
@[simp] theorem ignoreDoorbell_units (s : State) : (ignoreDoorbell s).units = s.units := rfl
@[simp] theorem ignoreDoorbell_outbox (s : State) : (ignoreDoorbell s).outbox = s.outbox := rfl
@[simp] theorem ignoreDoorbell_freeCtr (s : State) : (ignoreDoorbell s).freeCtr = s.freeCtr := rfl
@[simp] theorem ignoreDoorbell_pending (s : State) : (ignoreDoorbell s).pending = s.pending := rfl

/-! ### setPair -/

@[simp] theorem setPair_persist (n : Fin 64) (p : QueuePair) (s : State) : (setPair n p s).persist = s.persist := rfl
@[simp] theorem setPair_sec (n : Fin 64) (p : QueuePair) (s : State) : (setPair n p s).sec = s.sec := rfl
@[simp] theorem setPair_od (n : Fin 64) (p : QueuePair) (s : State) : (setPair n p s).od = s.od := rfl
@[simp] theorem setPair_rst (n : Fin 64) (p : QueuePair) (s : State) : (setPair n p s).rst = s.rst := rfl
@[simp] theorem setPair_power (n : Fin 64) (p : QueuePair) (s : State) : (setPair n p s).power = s.power := rfl
@[simp] theorem setPair_turn (n : Fin 64) (p : QueuePair) (s : State) : (setPair n p s).turn = s.turn := rfl
@[simp] theorem setPair_fmt (n : Fin 64) (p : QueuePair) (s : State) : (setPair n p s).fmt = s.fmt := rfl
@[simp] theorem setPair_rng (n : Fin 64) (p : QueuePair) (s : State) : (setPair n p s).rng = s.rng := rfl
@[simp] theorem setPair_arr (n : Fin 64) (p : QueuePair) (s : State) : (setPair n p s).arr = s.arr := rfl
@[simp] theorem setPair_terr (n : Fin 64) (p : QueuePair) (s : State) : (setPair n p s).terr = s.terr := rfl
@[simp] theorem setPair_sched (n : Fin 64) (p : QueuePair) (s : State) : (setPair n p s).sched = s.sched := rfl
@[simp] theorem setPair_vers (n : Fin 64) (p : QueuePair) (s : State) : (setPair n p s).vers = s.vers := rfl
@[simp] theorem setPair_adapters (n : Fin 64) (p : QueuePair) (s : State) : (setPair n p s).adapters = s.adapters := rfl
@[simp] theorem setPair_pubCount (n : Fin 64) (p : QueuePair) (s : State) : (setPair n p s).pubCount = s.pubCount := rfl
@[simp] theorem setPair_gate (n : Fin 64) (p : QueuePair) (s : State) : (setPair n p s).gate = s.gate := rfl
@[simp] theorem setPair_stash (n : Fin 64) (p : QueuePair) (s : State) : (setPair n p s).stash = s.stash := rfl
@[simp] theorem setPair_care (n : Fin 64) (p : QueuePair) (s : State) : (setPair n p s).care = s.care := rfl
@[simp] theorem setPair_red (n : Fin 64) (p : QueuePair) (s : State) : (setPair n p s).red = s.red := rfl
@[simp] theorem setPair_shard (n : Fin 64) (p : QueuePair) (s : State) : (setPair n p s).shard = s.shard := rfl
@[simp] theorem setPair_prot (n : Fin 64) (p : QueuePair) (s : State) : (setPair n p s).prot = s.prot := rfl
@[simp] theorem setPair_mem (n : Fin 64) (p : QueuePair) (s : State) : (setPair n p s).mem = s.mem := rfl
@[simp] theorem setPair_stk (n : Fin 64) (p : QueuePair) (s : State) : (setPair n p s).stk = s.stk := rfl
@[simp] theorem setPair_lk (n : Fin 64) (p : QueuePair) (s : State) : (setPair n p s).lk = s.lk := rfl
@[simp] theorem setPair_units (n : Fin 64) (p : QueuePair) (s : State) : (setPair n p s).units = s.units := rfl
@[simp] theorem setPair_outbox (n : Fin 64) (p : QueuePair) (s : State) : (setPair n p s).outbox = s.outbox := rfl
@[simp] theorem setPair_freeCtr (n : Fin 64) (p : QueuePair) (s : State) : (setPair n p s).freeCtr = s.freeCtr := rfl
@[simp] theorem setPair_pending (n : Fin 64) (p : QueuePair) (s : State) : (setPair n p s).pending = s.pending := rfl

/-! ### setUnit -/

@[simp] theorem setUnit_persist (u : UnitId) (c : UnitCtl) (s : State) : (setUnit u c s).persist = s.persist := rfl
@[simp] theorem setUnit_sec (u : UnitId) (c : UnitCtl) (s : State) : (setUnit u c s).sec = s.sec := rfl
@[simp] theorem setUnit_od (u : UnitId) (c : UnitCtl) (s : State) : (setUnit u c s).od = s.od := rfl
@[simp] theorem setUnit_rst (u : UnitId) (c : UnitCtl) (s : State) : (setUnit u c s).rst = s.rst := rfl
@[simp] theorem setUnit_power (u : UnitId) (c : UnitCtl) (s : State) : (setUnit u c s).power = s.power := rfl
@[simp] theorem setUnit_turn (u : UnitId) (c : UnitCtl) (s : State) : (setUnit u c s).turn = s.turn := rfl
@[simp] theorem setUnit_fmt (u : UnitId) (c : UnitCtl) (s : State) : (setUnit u c s).fmt = s.fmt := rfl
@[simp] theorem setUnit_rng (u : UnitId) (c : UnitCtl) (s : State) : (setUnit u c s).rng = s.rng := rfl
@[simp] theorem setUnit_arr (u : UnitId) (c : UnitCtl) (s : State) : (setUnit u c s).arr = s.arr := rfl
@[simp] theorem setUnit_terr (u : UnitId) (c : UnitCtl) (s : State) : (setUnit u c s).terr = s.terr := rfl
@[simp] theorem setUnit_sched (u : UnitId) (c : UnitCtl) (s : State) : (setUnit u c s).sched = s.sched := rfl
@[simp] theorem setUnit_vers (u : UnitId) (c : UnitCtl) (s : State) : (setUnit u c s).vers = s.vers := rfl
@[simp] theorem setUnit_adapters (u : UnitId) (c : UnitCtl) (s : State) : (setUnit u c s).adapters = s.adapters := rfl
@[simp] theorem setUnit_pubCount (u : UnitId) (c : UnitCtl) (s : State) : (setUnit u c s).pubCount = s.pubCount := rfl
@[simp] theorem setUnit_gate (u : UnitId) (c : UnitCtl) (s : State) : (setUnit u c s).gate = s.gate := rfl
@[simp] theorem setUnit_stash (u : UnitId) (c : UnitCtl) (s : State) : (setUnit u c s).stash = s.stash := rfl
@[simp] theorem setUnit_care (u : UnitId) (c : UnitCtl) (s : State) : (setUnit u c s).care = s.care := rfl
@[simp] theorem setUnit_red (u : UnitId) (c : UnitCtl) (s : State) : (setUnit u c s).red = s.red := rfl
@[simp] theorem setUnit_shard (u : UnitId) (c : UnitCtl) (s : State) : (setUnit u c s).shard = s.shard := rfl
@[simp] theorem setUnit_prot (u : UnitId) (c : UnitCtl) (s : State) : (setUnit u c s).prot = s.prot := rfl
@[simp] theorem setUnit_mem (u : UnitId) (c : UnitCtl) (s : State) : (setUnit u c s).mem = s.mem := rfl
@[simp] theorem setUnit_stk (u : UnitId) (c : UnitCtl) (s : State) : (setUnit u c s).stk = s.stk := rfl
@[simp] theorem setUnit_q (u : UnitId) (c : UnitCtl) (s : State) : (setUnit u c s).q = s.q := rfl
@[simp] theorem setUnit_lk (u : UnitId) (c : UnitCtl) (s : State) : (setUnit u c s).lk = s.lk := rfl
@[simp] theorem setUnit_outbox (u : UnitId) (c : UnitCtl) (s : State) : (setUnit u c s).outbox = s.outbox := rfl
@[simp] theorem setUnit_freeCtr (u : UnitId) (c : UnitCtl) (s : State) : (setUnit u c s).freeCtr = s.freeCtr := rfl
@[simp] theorem setUnit_pending (u : UnitId) (c : UnitCtl) (s : State) : (setUnit u c s).pending = s.pending := rfl

/-! ### setExchange -/

@[simp] theorem setExchange_persist (x : Exchange) (s : State) : (setExchange x s).persist = s.persist := rfl
@[simp] theorem setExchange_sec (x : Exchange) (s : State) : (setExchange x s).sec = s.sec := rfl
@[simp] theorem setExchange_od (x : Exchange) (s : State) : (setExchange x s).od = s.od := rfl
@[simp] theorem setExchange_rst (x : Exchange) (s : State) : (setExchange x s).rst = s.rst := rfl
@[simp] theorem setExchange_power (x : Exchange) (s : State) : (setExchange x s).power = s.power := rfl
@[simp] theorem setExchange_turn (x : Exchange) (s : State) : (setExchange x s).turn = s.turn := rfl
@[simp] theorem setExchange_fmt (x : Exchange) (s : State) : (setExchange x s).fmt = s.fmt := rfl
@[simp] theorem setExchange_rng (x : Exchange) (s : State) : (setExchange x s).rng = s.rng := rfl
@[simp] theorem setExchange_arr (x : Exchange) (s : State) : (setExchange x s).arr = s.arr := rfl
@[simp] theorem setExchange_terr (x : Exchange) (s : State) : (setExchange x s).terr = s.terr := rfl
@[simp] theorem setExchange_sched (x : Exchange) (s : State) : (setExchange x s).sched = s.sched := rfl
@[simp] theorem setExchange_vers (x : Exchange) (s : State) : (setExchange x s).vers = s.vers := rfl
@[simp] theorem setExchange_adapters (x : Exchange) (s : State) : (setExchange x s).adapters = s.adapters := rfl
@[simp] theorem setExchange_pubCount (x : Exchange) (s : State) : (setExchange x s).pubCount = s.pubCount := rfl
@[simp] theorem setExchange_gate (x : Exchange) (s : State) : (setExchange x s).gate = s.gate := rfl
@[simp] theorem setExchange_stash (x : Exchange) (s : State) : (setExchange x s).stash = s.stash := rfl
@[simp] theorem setExchange_care (x : Exchange) (s : State) : (setExchange x s).care = s.care := rfl
@[simp] theorem setExchange_shard (x : Exchange) (s : State) : (setExchange x s).shard = s.shard := rfl
@[simp] theorem setExchange_prot (x : Exchange) (s : State) : (setExchange x s).prot = s.prot := rfl
@[simp] theorem setExchange_mem (x : Exchange) (s : State) : (setExchange x s).mem = s.mem := rfl
@[simp] theorem setExchange_stk (x : Exchange) (s : State) : (setExchange x s).stk = s.stk := rfl
@[simp] theorem setExchange_q (x : Exchange) (s : State) : (setExchange x s).q = s.q := rfl
@[simp] theorem setExchange_lk (x : Exchange) (s : State) : (setExchange x s).lk = s.lk := rfl
@[simp] theorem setExchange_units (x : Exchange) (s : State) : (setExchange x s).units = s.units := rfl
@[simp] theorem setExchange_outbox (x : Exchange) (s : State) : (setExchange x s).outbox = s.outbox := rfl
@[simp] theorem setExchange_freeCtr (x : Exchange) (s : State) : (setExchange x s).freeCtr = s.freeCtr := rfl
@[simp] theorem setExchange_pending (x : Exchange) (s : State) : (setExchange x s).pending = s.pending := rfl

/-! ### dropExchange -/

@[simp] theorem dropExchange_persist (x : Exchange) (s : State) : (dropExchange x s).persist = s.persist := rfl
@[simp] theorem dropExchange_sec (x : Exchange) (s : State) : (dropExchange x s).sec = s.sec := rfl
@[simp] theorem dropExchange_od (x : Exchange) (s : State) : (dropExchange x s).od = s.od := rfl
@[simp] theorem dropExchange_rst (x : Exchange) (s : State) : (dropExchange x s).rst = s.rst := rfl
@[simp] theorem dropExchange_power (x : Exchange) (s : State) : (dropExchange x s).power = s.power := rfl
@[simp] theorem dropExchange_turn (x : Exchange) (s : State) : (dropExchange x s).turn = s.turn := rfl
@[simp] theorem dropExchange_fmt (x : Exchange) (s : State) : (dropExchange x s).fmt = s.fmt := rfl
@[simp] theorem dropExchange_rng (x : Exchange) (s : State) : (dropExchange x s).rng = s.rng := rfl
@[simp] theorem dropExchange_arr (x : Exchange) (s : State) : (dropExchange x s).arr = s.arr := rfl
@[simp] theorem dropExchange_terr (x : Exchange) (s : State) : (dropExchange x s).terr = s.terr := rfl
@[simp] theorem dropExchange_sched (x : Exchange) (s : State) : (dropExchange x s).sched = s.sched := rfl
@[simp] theorem dropExchange_vers (x : Exchange) (s : State) : (dropExchange x s).vers = s.vers := rfl
@[simp] theorem dropExchange_adapters (x : Exchange) (s : State) : (dropExchange x s).adapters = s.adapters := rfl
@[simp] theorem dropExchange_pubCount (x : Exchange) (s : State) : (dropExchange x s).pubCount = s.pubCount := rfl
@[simp] theorem dropExchange_gate (x : Exchange) (s : State) : (dropExchange x s).gate = s.gate := rfl
@[simp] theorem dropExchange_stash (x : Exchange) (s : State) : (dropExchange x s).stash = s.stash := rfl
@[simp] theorem dropExchange_care (x : Exchange) (s : State) : (dropExchange x s).care = s.care := rfl
@[simp] theorem dropExchange_shard (x : Exchange) (s : State) : (dropExchange x s).shard = s.shard := rfl
@[simp] theorem dropExchange_prot (x : Exchange) (s : State) : (dropExchange x s).prot = s.prot := rfl
@[simp] theorem dropExchange_mem (x : Exchange) (s : State) : (dropExchange x s).mem = s.mem := rfl
@[simp] theorem dropExchange_stk (x : Exchange) (s : State) : (dropExchange x s).stk = s.stk := rfl
@[simp] theorem dropExchange_q (x : Exchange) (s : State) : (dropExchange x s).q = s.q := rfl
@[simp] theorem dropExchange_lk (x : Exchange) (s : State) : (dropExchange x s).lk = s.lk := rfl
@[simp] theorem dropExchange_units (x : Exchange) (s : State) : (dropExchange x s).units = s.units := rfl
@[simp] theorem dropExchange_outbox (x : Exchange) (s : State) : (dropExchange x s).outbox = s.outbox := rfl
@[simp] theorem dropExchange_freeCtr (x : Exchange) (s : State) : (dropExchange x s).freeCtr = s.freeCtr := rfl
@[simp] theorem dropExchange_pending (x : Exchange) (s : State) : (dropExchange x s).pending = s.pending := rfl

/-! ### freeSlot -/

@[simp] theorem freeSlot_persist (n : Nat) (s : State) : (freeSlot n s).persist = s.persist := rfl
@[simp] theorem freeSlot_sec (n : Nat) (s : State) : (freeSlot n s).sec = s.sec := rfl
@[simp] theorem freeSlot_od (n : Nat) (s : State) : (freeSlot n s).od = s.od := rfl
@[simp] theorem freeSlot_rst (n : Nat) (s : State) : (freeSlot n s).rst = s.rst := rfl
@[simp] theorem freeSlot_power (n : Nat) (s : State) : (freeSlot n s).power = s.power := rfl
@[simp] theorem freeSlot_turn (n : Nat) (s : State) : (freeSlot n s).turn = s.turn := rfl
@[simp] theorem freeSlot_fmt (n : Nat) (s : State) : (freeSlot n s).fmt = s.fmt := rfl
@[simp] theorem freeSlot_rng (n : Nat) (s : State) : (freeSlot n s).rng = s.rng := rfl
@[simp] theorem freeSlot_arr (n : Nat) (s : State) : (freeSlot n s).arr = s.arr := rfl
@[simp] theorem freeSlot_terr (n : Nat) (s : State) : (freeSlot n s).terr = s.terr := rfl
@[simp] theorem freeSlot_vers (n : Nat) (s : State) : (freeSlot n s).vers = s.vers := rfl
@[simp] theorem freeSlot_adapters (n : Nat) (s : State) : (freeSlot n s).adapters = s.adapters := rfl
@[simp] theorem freeSlot_pubCount (n : Nat) (s : State) : (freeSlot n s).pubCount = s.pubCount := rfl
@[simp] theorem freeSlot_gate (n : Nat) (s : State) : (freeSlot n s).gate = s.gate := rfl
@[simp] theorem freeSlot_stash (n : Nat) (s : State) : (freeSlot n s).stash = s.stash := rfl
@[simp] theorem freeSlot_care (n : Nat) (s : State) : (freeSlot n s).care = s.care := rfl
@[simp] theorem freeSlot_red (n : Nat) (s : State) : (freeSlot n s).red = s.red := rfl
@[simp] theorem freeSlot_shard (n : Nat) (s : State) : (freeSlot n s).shard = s.shard := rfl
@[simp] theorem freeSlot_prot (n : Nat) (s : State) : (freeSlot n s).prot = s.prot := rfl
@[simp] theorem freeSlot_mem (n : Nat) (s : State) : (freeSlot n s).mem = s.mem := rfl
@[simp] theorem freeSlot_stk (n : Nat) (s : State) : (freeSlot n s).stk = s.stk := rfl
@[simp] theorem freeSlot_q (n : Nat) (s : State) : (freeSlot n s).q = s.q := rfl
@[simp] theorem freeSlot_lk (n : Nat) (s : State) : (freeSlot n s).lk = s.lk := rfl
@[simp] theorem freeSlot_units (n : Nat) (s : State) : (freeSlot n s).units = s.units := rfl
@[simp] theorem freeSlot_outbox (n : Nat) (s : State) : (freeSlot n s).outbox = s.outbox := rfl
@[simp] theorem freeSlot_freeCtr (n : Nat) (s : State) : (freeSlot n s).freeCtr = s.freeCtr := rfl
@[simp] theorem freeSlot_pending (n : Nat) (s : State) : (freeSlot n s).pending = s.pending := rfl

/-! ### suspendSlot -/

@[simp] theorem suspendSlot_persist (n : Nat) (s : State) : (suspendSlot n s).persist = s.persist := rfl
@[simp] theorem suspendSlot_sec (n : Nat) (s : State) : (suspendSlot n s).sec = s.sec := rfl
@[simp] theorem suspendSlot_od (n : Nat) (s : State) : (suspendSlot n s).od = s.od := rfl
@[simp] theorem suspendSlot_rst (n : Nat) (s : State) : (suspendSlot n s).rst = s.rst := rfl
@[simp] theorem suspendSlot_power (n : Nat) (s : State) : (suspendSlot n s).power = s.power := rfl
@[simp] theorem suspendSlot_turn (n : Nat) (s : State) : (suspendSlot n s).turn = s.turn := rfl
@[simp] theorem suspendSlot_fmt (n : Nat) (s : State) : (suspendSlot n s).fmt = s.fmt := rfl
@[simp] theorem suspendSlot_rng (n : Nat) (s : State) : (suspendSlot n s).rng = s.rng := rfl
@[simp] theorem suspendSlot_arr (n : Nat) (s : State) : (suspendSlot n s).arr = s.arr := rfl
@[simp] theorem suspendSlot_terr (n : Nat) (s : State) : (suspendSlot n s).terr = s.terr := rfl
@[simp] theorem suspendSlot_vers (n : Nat) (s : State) : (suspendSlot n s).vers = s.vers := rfl
@[simp] theorem suspendSlot_adapters (n : Nat) (s : State) : (suspendSlot n s).adapters = s.adapters := rfl
@[simp] theorem suspendSlot_pubCount (n : Nat) (s : State) : (suspendSlot n s).pubCount = s.pubCount := rfl
@[simp] theorem suspendSlot_gate (n : Nat) (s : State) : (suspendSlot n s).gate = s.gate := rfl
@[simp] theorem suspendSlot_stash (n : Nat) (s : State) : (suspendSlot n s).stash = s.stash := rfl
@[simp] theorem suspendSlot_care (n : Nat) (s : State) : (suspendSlot n s).care = s.care := rfl
@[simp] theorem suspendSlot_red (n : Nat) (s : State) : (suspendSlot n s).red = s.red := rfl
@[simp] theorem suspendSlot_shard (n : Nat) (s : State) : (suspendSlot n s).shard = s.shard := rfl
@[simp] theorem suspendSlot_prot (n : Nat) (s : State) : (suspendSlot n s).prot = s.prot := rfl
@[simp] theorem suspendSlot_mem (n : Nat) (s : State) : (suspendSlot n s).mem = s.mem := rfl
@[simp] theorem suspendSlot_stk (n : Nat) (s : State) : (suspendSlot n s).stk = s.stk := rfl
@[simp] theorem suspendSlot_q (n : Nat) (s : State) : (suspendSlot n s).q = s.q := rfl
@[simp] theorem suspendSlot_lk (n : Nat) (s : State) : (suspendSlot n s).lk = s.lk := rfl
@[simp] theorem suspendSlot_units (n : Nat) (s : State) : (suspendSlot n s).units = s.units := rfl
@[simp] theorem suspendSlot_outbox (n : Nat) (s : State) : (suspendSlot n s).outbox = s.outbox := rfl
@[simp] theorem suspendSlot_freeCtr (n : Nat) (s : State) : (suspendSlot n s).freeCtr = s.freeCtr := rfl
@[simp] theorem suspendSlot_pending (n : Nat) (s : State) : (suspendSlot n s).pending = s.pending := rfl

/-! ### terrSet -/

@[simp] theorem terrSet_persist (p : Fin 64) (row col : Nat) (v : A34) (s : State) : (terrSet p row col v s).persist = s.persist := rfl
@[simp] theorem terrSet_sec (p : Fin 64) (row col : Nat) (v : A34) (s : State) : (terrSet p row col v s).sec = s.sec := rfl
@[simp] theorem terrSet_od (p : Fin 64) (row col : Nat) (v : A34) (s : State) : (terrSet p row col v s).od = s.od := rfl
@[simp] theorem terrSet_rst (p : Fin 64) (row col : Nat) (v : A34) (s : State) : (terrSet p row col v s).rst = s.rst := rfl
@[simp] theorem terrSet_power (p : Fin 64) (row col : Nat) (v : A34) (s : State) : (terrSet p row col v s).power = s.power := rfl
@[simp] theorem terrSet_turn (p : Fin 64) (row col : Nat) (v : A34) (s : State) : (terrSet p row col v s).turn = s.turn := rfl
@[simp] theorem terrSet_fmt (p : Fin 64) (row col : Nat) (v : A34) (s : State) : (terrSet p row col v s).fmt = s.fmt := rfl
@[simp] theorem terrSet_rng (p : Fin 64) (row col : Nat) (v : A34) (s : State) : (terrSet p row col v s).rng = s.rng := rfl
@[simp] theorem terrSet_arr (p : Fin 64) (row col : Nat) (v : A34) (s : State) : (terrSet p row col v s).arr = s.arr := rfl
@[simp] theorem terrSet_sched (p : Fin 64) (row col : Nat) (v : A34) (s : State) : (terrSet p row col v s).sched = s.sched := rfl
@[simp] theorem terrSet_vers (p : Fin 64) (row col : Nat) (v : A34) (s : State) : (terrSet p row col v s).vers = s.vers := rfl
@[simp] theorem terrSet_adapters (p : Fin 64) (row col : Nat) (v : A34) (s : State) : (terrSet p row col v s).adapters = s.adapters := rfl
@[simp] theorem terrSet_pubCount (p : Fin 64) (row col : Nat) (v : A34) (s : State) : (terrSet p row col v s).pubCount = s.pubCount := rfl
@[simp] theorem terrSet_gate (p : Fin 64) (row col : Nat) (v : A34) (s : State) : (terrSet p row col v s).gate = s.gate := rfl
@[simp] theorem terrSet_stash (p : Fin 64) (row col : Nat) (v : A34) (s : State) : (terrSet p row col v s).stash = s.stash := rfl
@[simp] theorem terrSet_care (p : Fin 64) (row col : Nat) (v : A34) (s : State) : (terrSet p row col v s).care = s.care := rfl
@[simp] theorem terrSet_red (p : Fin 64) (row col : Nat) (v : A34) (s : State) : (terrSet p row col v s).red = s.red := rfl
@[simp] theorem terrSet_shard (p : Fin 64) (row col : Nat) (v : A34) (s : State) : (terrSet p row col v s).shard = s.shard := rfl
@[simp] theorem terrSet_prot (p : Fin 64) (row col : Nat) (v : A34) (s : State) : (terrSet p row col v s).prot = s.prot := rfl
@[simp] theorem terrSet_mem (p : Fin 64) (row col : Nat) (v : A34) (s : State) : (terrSet p row col v s).mem = s.mem := rfl
@[simp] theorem terrSet_stk (p : Fin 64) (row col : Nat) (v : A34) (s : State) : (terrSet p row col v s).stk = s.stk := rfl
@[simp] theorem terrSet_q (p : Fin 64) (row col : Nat) (v : A34) (s : State) : (terrSet p row col v s).q = s.q := rfl
@[simp] theorem terrSet_lk (p : Fin 64) (row col : Nat) (v : A34) (s : State) : (terrSet p row col v s).lk = s.lk := rfl
@[simp] theorem terrSet_units (p : Fin 64) (row col : Nat) (v : A34) (s : State) : (terrSet p row col v s).units = s.units := rfl
@[simp] theorem terrSet_outbox (p : Fin 64) (row col : Nat) (v : A34) (s : State) : (terrSet p row col v s).outbox = s.outbox := rfl
@[simp] theorem terrSet_freeCtr (p : Fin 64) (row col : Nat) (v : A34) (s : State) : (terrSet p row col v s).freeCtr = s.freeCtr := rfl
@[simp] theorem terrSet_pending (p : Fin 64) (row col : Nat) (v : A34) (s : State) : (terrSet p row col v s).pending = s.pending := rfl

/-! ### setTile -/

@[simp] theorem setTile_persist (x : OpenTile) (s : State) : (setTile x s).persist = s.persist := rfl
@[simp] theorem setTile_sec (x : OpenTile) (s : State) : (setTile x s).sec = s.sec := rfl
@[simp] theorem setTile_od (x : OpenTile) (s : State) : (setTile x s).od = s.od := rfl
@[simp] theorem setTile_rst (x : OpenTile) (s : State) : (setTile x s).rst = s.rst := rfl
@[simp] theorem setTile_power (x : OpenTile) (s : State) : (setTile x s).power = s.power := rfl
@[simp] theorem setTile_turn (x : OpenTile) (s : State) : (setTile x s).turn = s.turn := rfl
@[simp] theorem setTile_fmt (x : OpenTile) (s : State) : (setTile x s).fmt = s.fmt := rfl
@[simp] theorem setTile_rng (x : OpenTile) (s : State) : (setTile x s).rng = s.rng := rfl
@[simp] theorem setTile_arr (x : OpenTile) (s : State) : (setTile x s).arr = s.arr := rfl
@[simp] theorem setTile_sched (x : OpenTile) (s : State) : (setTile x s).sched = s.sched := rfl
@[simp] theorem setTile_vers (x : OpenTile) (s : State) : (setTile x s).vers = s.vers := rfl
@[simp] theorem setTile_adapters (x : OpenTile) (s : State) : (setTile x s).adapters = s.adapters := rfl
@[simp] theorem setTile_pubCount (x : OpenTile) (s : State) : (setTile x s).pubCount = s.pubCount := rfl
@[simp] theorem setTile_gate (x : OpenTile) (s : State) : (setTile x s).gate = s.gate := rfl
@[simp] theorem setTile_stash (x : OpenTile) (s : State) : (setTile x s).stash = s.stash := rfl
@[simp] theorem setTile_care (x : OpenTile) (s : State) : (setTile x s).care = s.care := rfl
@[simp] theorem setTile_red (x : OpenTile) (s : State) : (setTile x s).red = s.red := rfl
@[simp] theorem setTile_shard (x : OpenTile) (s : State) : (setTile x s).shard = s.shard := rfl
@[simp] theorem setTile_prot (x : OpenTile) (s : State) : (setTile x s).prot = s.prot := rfl
@[simp] theorem setTile_mem (x : OpenTile) (s : State) : (setTile x s).mem = s.mem := rfl
@[simp] theorem setTile_stk (x : OpenTile) (s : State) : (setTile x s).stk = s.stk := rfl
@[simp] theorem setTile_q (x : OpenTile) (s : State) : (setTile x s).q = s.q := rfl
@[simp] theorem setTile_lk (x : OpenTile) (s : State) : (setTile x s).lk = s.lk := rfl
@[simp] theorem setTile_units (x : OpenTile) (s : State) : (setTile x s).units = s.units := rfl
@[simp] theorem setTile_outbox (x : OpenTile) (s : State) : (setTile x s).outbox = s.outbox := rfl
@[simp] theorem setTile_freeCtr (x : OpenTile) (s : State) : (setTile x s).freeCtr = s.freeCtr := rfl
@[simp] theorem setTile_pending (x : OpenTile) (s : State) : (setTile x s).pending = s.pending := rfl

/-! ### discardPacket -/

@[simp] theorem discardPacket_persist (s : State) : (discardPacket s).persist = s.persist := rfl
@[simp] theorem discardPacket_sec (s : State) : (discardPacket s).sec = s.sec := rfl
@[simp] theorem discardPacket_od (s : State) : (discardPacket s).od = s.od := rfl
@[simp] theorem discardPacket_rst (s : State) : (discardPacket s).rst = s.rst := rfl
@[simp] theorem discardPacket_power (s : State) : (discardPacket s).power = s.power := rfl
@[simp] theorem discardPacket_turn (s : State) : (discardPacket s).turn = s.turn := rfl
@[simp] theorem discardPacket_fmt (s : State) : (discardPacket s).fmt = s.fmt := rfl
@[simp] theorem discardPacket_rng (s : State) : (discardPacket s).rng = s.rng := rfl
@[simp] theorem discardPacket_arr (s : State) : (discardPacket s).arr = s.arr := rfl
@[simp] theorem discardPacket_terr (s : State) : (discardPacket s).terr = s.terr := rfl
@[simp] theorem discardPacket_sched (s : State) : (discardPacket s).sched = s.sched := rfl
@[simp] theorem discardPacket_vers (s : State) : (discardPacket s).vers = s.vers := rfl
@[simp] theorem discardPacket_adapters (s : State) : (discardPacket s).adapters = s.adapters := rfl
@[simp] theorem discardPacket_pubCount (s : State) : (discardPacket s).pubCount = s.pubCount := rfl
@[simp] theorem discardPacket_gate (s : State) : (discardPacket s).gate = s.gate := rfl
@[simp] theorem discardPacket_stash (s : State) : (discardPacket s).stash = s.stash := rfl
@[simp] theorem discardPacket_care (s : State) : (discardPacket s).care = s.care := rfl
@[simp] theorem discardPacket_red (s : State) : (discardPacket s).red = s.red := rfl
@[simp] theorem discardPacket_shard (s : State) : (discardPacket s).shard = s.shard := rfl
@[simp] theorem discardPacket_prot (s : State) : (discardPacket s).prot = s.prot := rfl
@[simp] theorem discardPacket_mem (s : State) : (discardPacket s).mem = s.mem := rfl
@[simp] theorem discardPacket_stk (s : State) : (discardPacket s).stk = s.stk := rfl
@[simp] theorem discardPacket_q (s : State) : (discardPacket s).q = s.q := rfl
@[simp] theorem discardPacket_units (s : State) : (discardPacket s).units = s.units := rfl
@[simp] theorem discardPacket_outbox (s : State) : (discardPacket s).outbox = s.outbox := rfl
@[simp] theorem discardPacket_freeCtr (s : State) : (discardPacket s).freeCtr = s.freeCtr := rfl
@[simp] theorem discardPacket_pending (s : State) : (discardPacket s).pending = s.pending := rfl

/-! ### discardFrame -/

@[simp] theorem discardFrame_persist (s : State) : (discardFrame s).persist = s.persist := rfl
@[simp] theorem discardFrame_sec (s : State) : (discardFrame s).sec = s.sec := rfl
@[simp] theorem discardFrame_rst (s : State) : (discardFrame s).rst = s.rst := rfl
@[simp] theorem discardFrame_power (s : State) : (discardFrame s).power = s.power := rfl
@[simp] theorem discardFrame_turn (s : State) : (discardFrame s).turn = s.turn := rfl
@[simp] theorem discardFrame_fmt (s : State) : (discardFrame s).fmt = s.fmt := rfl
@[simp] theorem discardFrame_rng (s : State) : (discardFrame s).rng = s.rng := rfl
@[simp] theorem discardFrame_arr (s : State) : (discardFrame s).arr = s.arr := rfl
@[simp] theorem discardFrame_terr (s : State) : (discardFrame s).terr = s.terr := rfl
@[simp] theorem discardFrame_sched (s : State) : (discardFrame s).sched = s.sched := rfl
@[simp] theorem discardFrame_vers (s : State) : (discardFrame s).vers = s.vers := rfl
@[simp] theorem discardFrame_adapters (s : State) : (discardFrame s).adapters = s.adapters := rfl
@[simp] theorem discardFrame_pubCount (s : State) : (discardFrame s).pubCount = s.pubCount := rfl
@[simp] theorem discardFrame_gate (s : State) : (discardFrame s).gate = s.gate := rfl
@[simp] theorem discardFrame_stash (s : State) : (discardFrame s).stash = s.stash := rfl
@[simp] theorem discardFrame_care (s : State) : (discardFrame s).care = s.care := rfl
@[simp] theorem discardFrame_red (s : State) : (discardFrame s).red = s.red := rfl
@[simp] theorem discardFrame_shard (s : State) : (discardFrame s).shard = s.shard := rfl
@[simp] theorem discardFrame_prot (s : State) : (discardFrame s).prot = s.prot := rfl
@[simp] theorem discardFrame_mem (s : State) : (discardFrame s).mem = s.mem := rfl
@[simp] theorem discardFrame_stk (s : State) : (discardFrame s).stk = s.stk := rfl
@[simp] theorem discardFrame_q (s : State) : (discardFrame s).q = s.q := rfl
@[simp] theorem discardFrame_lk (s : State) : (discardFrame s).lk = s.lk := rfl
@[simp] theorem discardFrame_units (s : State) : (discardFrame s).units = s.units := rfl
@[simp] theorem discardFrame_outbox (s : State) : (discardFrame s).outbox = s.outbox := rfl
@[simp] theorem discardFrame_freeCtr (s : State) : (discardFrame s).freeCtr = s.freeCtr := rfl
@[simp] theorem discardFrame_pending (s : State) : (discardFrame s).pending = s.pending := rfl

/-! ### setSquare -/

@[simp] theorem setSquare_persist (x : SquareRegs) (s : State) : (setSquare x s).persist = s.persist := rfl
@[simp] theorem setSquare_sec (x : SquareRegs) (s : State) : (setSquare x s).sec = s.sec := rfl
@[simp] theorem setSquare_od (x : SquareRegs) (s : State) : (setSquare x s).od = s.od := rfl
@[simp] theorem setSquare_rst (x : SquareRegs) (s : State) : (setSquare x s).rst = s.rst := rfl
@[simp] theorem setSquare_power (x : SquareRegs) (s : State) : (setSquare x s).power = s.power := rfl
@[simp] theorem setSquare_turn (x : SquareRegs) (s : State) : (setSquare x s).turn = s.turn := rfl
@[simp] theorem setSquare_fmt (x : SquareRegs) (s : State) : (setSquare x s).fmt = s.fmt := rfl
@[simp] theorem setSquare_rng (x : SquareRegs) (s : State) : (setSquare x s).rng = s.rng := rfl
@[simp] theorem setSquare_terr (x : SquareRegs) (s : State) : (setSquare x s).terr = s.terr := rfl
@[simp] theorem setSquare_sched (x : SquareRegs) (s : State) : (setSquare x s).sched = s.sched := rfl
@[simp] theorem setSquare_vers (x : SquareRegs) (s : State) : (setSquare x s).vers = s.vers := rfl
@[simp] theorem setSquare_adapters (x : SquareRegs) (s : State) : (setSquare x s).adapters = s.adapters := rfl
@[simp] theorem setSquare_pubCount (x : SquareRegs) (s : State) : (setSquare x s).pubCount = s.pubCount := rfl
@[simp] theorem setSquare_gate (x : SquareRegs) (s : State) : (setSquare x s).gate = s.gate := rfl
@[simp] theorem setSquare_stash (x : SquareRegs) (s : State) : (setSquare x s).stash = s.stash := rfl
@[simp] theorem setSquare_care (x : SquareRegs) (s : State) : (setSquare x s).care = s.care := rfl
@[simp] theorem setSquare_red (x : SquareRegs) (s : State) : (setSquare x s).red = s.red := rfl
@[simp] theorem setSquare_shard (x : SquareRegs) (s : State) : (setSquare x s).shard = s.shard := rfl
@[simp] theorem setSquare_prot (x : SquareRegs) (s : State) : (setSquare x s).prot = s.prot := rfl
@[simp] theorem setSquare_mem (x : SquareRegs) (s : State) : (setSquare x s).mem = s.mem := rfl
@[simp] theorem setSquare_stk (x : SquareRegs) (s : State) : (setSquare x s).stk = s.stk := rfl
@[simp] theorem setSquare_q (x : SquareRegs) (s : State) : (setSquare x s).q = s.q := rfl
@[simp] theorem setSquare_lk (x : SquareRegs) (s : State) : (setSquare x s).lk = s.lk := rfl
@[simp] theorem setSquare_units (x : SquareRegs) (s : State) : (setSquare x s).units = s.units := rfl
@[simp] theorem setSquare_outbox (x : SquareRegs) (s : State) : (setSquare x s).outbox = s.outbox := rfl
@[simp] theorem setSquare_freeCtr (x : SquareRegs) (s : State) : (setSquare x s).freeCtr = s.freeCtr := rfl
@[simp] theorem setSquare_pending (x : SquareRegs) (s : State) : (setSquare x s).pending = s.pending := rfl

/-! ### setSplit -/

@[simp] theorem setSplit_persist (p : Fin 64) (split : Nat) (s : State) : (setSplit p split s).persist = s.persist := rfl
@[simp] theorem setSplit_sec (p : Fin 64) (split : Nat) (s : State) : (setSplit p split s).sec = s.sec := rfl
@[simp] theorem setSplit_od (p : Fin 64) (split : Nat) (s : State) : (setSplit p split s).od = s.od := rfl
@[simp] theorem setSplit_rst (p : Fin 64) (split : Nat) (s : State) : (setSplit p split s).rst = s.rst := rfl
@[simp] theorem setSplit_power (p : Fin 64) (split : Nat) (s : State) : (setSplit p split s).power = s.power := rfl
@[simp] theorem setSplit_turn (p : Fin 64) (split : Nat) (s : State) : (setSplit p split s).turn = s.turn := rfl
@[simp] theorem setSplit_fmt (p : Fin 64) (split : Nat) (s : State) : (setSplit p split s).fmt = s.fmt := rfl
@[simp] theorem setSplit_rng (p : Fin 64) (split : Nat) (s : State) : (setSplit p split s).rng = s.rng := rfl
@[simp] theorem setSplit_terr (p : Fin 64) (split : Nat) (s : State) : (setSplit p split s).terr = s.terr := rfl
@[simp] theorem setSplit_sched (p : Fin 64) (split : Nat) (s : State) : (setSplit p split s).sched = s.sched := rfl
@[simp] theorem setSplit_vers (p : Fin 64) (split : Nat) (s : State) : (setSplit p split s).vers = s.vers := rfl
@[simp] theorem setSplit_adapters (p : Fin 64) (split : Nat) (s : State) : (setSplit p split s).adapters = s.adapters := rfl
@[simp] theorem setSplit_pubCount (p : Fin 64) (split : Nat) (s : State) : (setSplit p split s).pubCount = s.pubCount := rfl
@[simp] theorem setSplit_gate (p : Fin 64) (split : Nat) (s : State) : (setSplit p split s).gate = s.gate := rfl
@[simp] theorem setSplit_stash (p : Fin 64) (split : Nat) (s : State) : (setSplit p split s).stash = s.stash := rfl
@[simp] theorem setSplit_care (p : Fin 64) (split : Nat) (s : State) : (setSplit p split s).care = s.care := rfl
@[simp] theorem setSplit_red (p : Fin 64) (split : Nat) (s : State) : (setSplit p split s).red = s.red := rfl
@[simp] theorem setSplit_shard (p : Fin 64) (split : Nat) (s : State) : (setSplit p split s).shard = s.shard := rfl
@[simp] theorem setSplit_prot (p : Fin 64) (split : Nat) (s : State) : (setSplit p split s).prot = s.prot := rfl
@[simp] theorem setSplit_mem (p : Fin 64) (split : Nat) (s : State) : (setSplit p split s).mem = s.mem := rfl
@[simp] theorem setSplit_stk (p : Fin 64) (split : Nat) (s : State) : (setSplit p split s).stk = s.stk := rfl
@[simp] theorem setSplit_q (p : Fin 64) (split : Nat) (s : State) : (setSplit p split s).q = s.q := rfl
@[simp] theorem setSplit_lk (p : Fin 64) (split : Nat) (s : State) : (setSplit p split s).lk = s.lk := rfl
@[simp] theorem setSplit_units (p : Fin 64) (split : Nat) (s : State) : (setSplit p split s).units = s.units := rfl
@[simp] theorem setSplit_outbox (p : Fin 64) (split : Nat) (s : State) : (setSplit p split s).outbox = s.outbox := rfl
@[simp] theorem setSplit_freeCtr (p : Fin 64) (split : Nat) (s : State) : (setSplit p split s).freeCtr = s.freeCtr := rfl
@[simp] theorem setSplit_pending (p : Fin 64) (split : Nat) (s : State) : (setSplit p split s).pending = s.pending := rfl

/-! ### setRecirc -/

@[simp] theorem setRecirc_persist (p : Fin 64) (n : Nat) (l : List (List A34)) (s : State) : (setRecirc p n l s).persist = s.persist := rfl
@[simp] theorem setRecirc_sec (p : Fin 64) (n : Nat) (l : List (List A34)) (s : State) : (setRecirc p n l s).sec = s.sec := rfl
@[simp] theorem setRecirc_od (p : Fin 64) (n : Nat) (l : List (List A34)) (s : State) : (setRecirc p n l s).od = s.od := rfl
@[simp] theorem setRecirc_rst (p : Fin 64) (n : Nat) (l : List (List A34)) (s : State) : (setRecirc p n l s).rst = s.rst := rfl
@[simp] theorem setRecirc_power (p : Fin 64) (n : Nat) (l : List (List A34)) (s : State) : (setRecirc p n l s).power = s.power := rfl
@[simp] theorem setRecirc_turn (p : Fin 64) (n : Nat) (l : List (List A34)) (s : State) : (setRecirc p n l s).turn = s.turn := rfl
@[simp] theorem setRecirc_fmt (p : Fin 64) (n : Nat) (l : List (List A34)) (s : State) : (setRecirc p n l s).fmt = s.fmt := rfl
@[simp] theorem setRecirc_rng (p : Fin 64) (n : Nat) (l : List (List A34)) (s : State) : (setRecirc p n l s).rng = s.rng := rfl
@[simp] theorem setRecirc_terr (p : Fin 64) (n : Nat) (l : List (List A34)) (s : State) : (setRecirc p n l s).terr = s.terr := rfl
@[simp] theorem setRecirc_sched (p : Fin 64) (n : Nat) (l : List (List A34)) (s : State) : (setRecirc p n l s).sched = s.sched := rfl
@[simp] theorem setRecirc_vers (p : Fin 64) (n : Nat) (l : List (List A34)) (s : State) : (setRecirc p n l s).vers = s.vers := rfl
@[simp] theorem setRecirc_adapters (p : Fin 64) (n : Nat) (l : List (List A34)) (s : State) : (setRecirc p n l s).adapters = s.adapters := rfl
@[simp] theorem setRecirc_pubCount (p : Fin 64) (n : Nat) (l : List (List A34)) (s : State) : (setRecirc p n l s).pubCount = s.pubCount := rfl
@[simp] theorem setRecirc_gate (p : Fin 64) (n : Nat) (l : List (List A34)) (s : State) : (setRecirc p n l s).gate = s.gate := rfl
@[simp] theorem setRecirc_stash (p : Fin 64) (n : Nat) (l : List (List A34)) (s : State) : (setRecirc p n l s).stash = s.stash := rfl
@[simp] theorem setRecirc_care (p : Fin 64) (n : Nat) (l : List (List A34)) (s : State) : (setRecirc p n l s).care = s.care := rfl
@[simp] theorem setRecirc_red (p : Fin 64) (n : Nat) (l : List (List A34)) (s : State) : (setRecirc p n l s).red = s.red := rfl
@[simp] theorem setRecirc_shard (p : Fin 64) (n : Nat) (l : List (List A34)) (s : State) : (setRecirc p n l s).shard = s.shard := rfl
@[simp] theorem setRecirc_prot (p : Fin 64) (n : Nat) (l : List (List A34)) (s : State) : (setRecirc p n l s).prot = s.prot := rfl
@[simp] theorem setRecirc_mem (p : Fin 64) (n : Nat) (l : List (List A34)) (s : State) : (setRecirc p n l s).mem = s.mem := rfl
@[simp] theorem setRecirc_stk (p : Fin 64) (n : Nat) (l : List (List A34)) (s : State) : (setRecirc p n l s).stk = s.stk := rfl
@[simp] theorem setRecirc_q (p : Fin 64) (n : Nat) (l : List (List A34)) (s : State) : (setRecirc p n l s).q = s.q := rfl
@[simp] theorem setRecirc_lk (p : Fin 64) (n : Nat) (l : List (List A34)) (s : State) : (setRecirc p n l s).lk = s.lk := rfl
@[simp] theorem setRecirc_units (p : Fin 64) (n : Nat) (l : List (List A34)) (s : State) : (setRecirc p n l s).units = s.units := rfl
@[simp] theorem setRecirc_outbox (p : Fin 64) (n : Nat) (l : List (List A34)) (s : State) : (setRecirc p n l s).outbox = s.outbox := rfl
@[simp] theorem setRecirc_freeCtr (p : Fin 64) (n : Nat) (l : List (List A34)) (s : State) : (setRecirc p n l s).freeCtr = s.freeCtr := rfl
@[simp] theorem setRecirc_pending (p : Fin 64) (n : Nat) (l : List (List A34)) (s : State) : (setRecirc p n l s).pending = s.pending := rfl

/-! ### addRange -/

@[simp] theorem addRange_persist (base len : Nat) (s : State) : (addRange base len s).persist = s.persist := rfl
@[simp] theorem addRange_sec (base len : Nat) (s : State) : (addRange base len s).sec = s.sec := rfl
@[simp] theorem addRange_od (base len : Nat) (s : State) : (addRange base len s).od = s.od := rfl
@[simp] theorem addRange_rst (base len : Nat) (s : State) : (addRange base len s).rst = s.rst := rfl
@[simp] theorem addRange_power (base len : Nat) (s : State) : (addRange base len s).power = s.power := rfl
@[simp] theorem addRange_turn (base len : Nat) (s : State) : (addRange base len s).turn = s.turn := rfl
@[simp] theorem addRange_fmt (base len : Nat) (s : State) : (addRange base len s).fmt = s.fmt := rfl
@[simp] theorem addRange_rng (base len : Nat) (s : State) : (addRange base len s).rng = s.rng := rfl
@[simp] theorem addRange_arr (base len : Nat) (s : State) : (addRange base len s).arr = s.arr := rfl
@[simp] theorem addRange_terr (base len : Nat) (s : State) : (addRange base len s).terr = s.terr := rfl
@[simp] theorem addRange_sched (base len : Nat) (s : State) : (addRange base len s).sched = s.sched := rfl
@[simp] theorem addRange_vers (base len : Nat) (s : State) : (addRange base len s).vers = s.vers := rfl
@[simp] theorem addRange_adapters (base len : Nat) (s : State) : (addRange base len s).adapters = s.adapters := rfl
@[simp] theorem addRange_pubCount (base len : Nat) (s : State) : (addRange base len s).pubCount = s.pubCount := rfl
@[simp] theorem addRange_gate (base len : Nat) (s : State) : (addRange base len s).gate = s.gate := rfl
@[simp] theorem addRange_stash (base len : Nat) (s : State) : (addRange base len s).stash = s.stash := rfl
@[simp] theorem addRange_care (base len : Nat) (s : State) : (addRange base len s).care = s.care := rfl
@[simp] theorem addRange_red (base len : Nat) (s : State) : (addRange base len s).red = s.red := rfl
@[simp] theorem addRange_shard (base len : Nat) (s : State) : (addRange base len s).shard = s.shard := rfl
@[simp] theorem addRange_mem (base len : Nat) (s : State) : (addRange base len s).mem = s.mem := rfl
@[simp] theorem addRange_stk (base len : Nat) (s : State) : (addRange base len s).stk = s.stk := rfl
@[simp] theorem addRange_q (base len : Nat) (s : State) : (addRange base len s).q = s.q := rfl
@[simp] theorem addRange_lk (base len : Nat) (s : State) : (addRange base len s).lk = s.lk := rfl
@[simp] theorem addRange_units (base len : Nat) (s : State) : (addRange base len s).units = s.units := rfl
@[simp] theorem addRange_outbox (base len : Nat) (s : State) : (addRange base len s).outbox = s.outbox := rfl
@[simp] theorem addRange_freeCtr (base len : Nat) (s : State) : (addRange base len s).freeCtr = s.freeCtr := rfl
@[simp] theorem addRange_pending (base len : Nat) (s : State) : (addRange base len s).pending = s.pending := rfl

/-! ### popped -/

@[simp] theorem popped_persist (s : State) (rest : List Instr) : (popped s rest).persist = s.persist := rfl
@[simp] theorem popped_sec (s : State) (rest : List Instr) : (popped s rest).sec = s.sec := rfl
@[simp] theorem popped_od (s : State) (rest : List Instr) : (popped s rest).od = s.od := rfl
@[simp] theorem popped_rst (s : State) (rest : List Instr) : (popped s rest).rst = s.rst := rfl
@[simp] theorem popped_power (s : State) (rest : List Instr) : (popped s rest).power = s.power := rfl
@[simp] theorem popped_turn (s : State) (rest : List Instr) : (popped s rest).turn = s.turn := rfl
@[simp] theorem popped_fmt (s : State) (rest : List Instr) : (popped s rest).fmt = s.fmt := rfl
@[simp] theorem popped_rng (s : State) (rest : List Instr) : (popped s rest).rng = s.rng := rfl
@[simp] theorem popped_arr (s : State) (rest : List Instr) : (popped s rest).arr = s.arr := rfl
@[simp] theorem popped_terr (s : State) (rest : List Instr) : (popped s rest).terr = s.terr := rfl
@[simp] theorem popped_sched (s : State) (rest : List Instr) : (popped s rest).sched = s.sched := rfl
@[simp] theorem popped_vers (s : State) (rest : List Instr) : (popped s rest).vers = s.vers := rfl
@[simp] theorem popped_adapters (s : State) (rest : List Instr) : (popped s rest).adapters = s.adapters := rfl
@[simp] theorem popped_pubCount (s : State) (rest : List Instr) : (popped s rest).pubCount = s.pubCount := rfl
@[simp] theorem popped_gate (s : State) (rest : List Instr) : (popped s rest).gate = s.gate := rfl
@[simp] theorem popped_stash (s : State) (rest : List Instr) : (popped s rest).stash = s.stash := rfl
@[simp] theorem popped_care (s : State) (rest : List Instr) : (popped s rest).care = s.care := rfl
@[simp] theorem popped_red (s : State) (rest : List Instr) : (popped s rest).red = s.red := rfl
@[simp] theorem popped_shard (s : State) (rest : List Instr) : (popped s rest).shard = s.shard := rfl
@[simp] theorem popped_prot (s : State) (rest : List Instr) : (popped s rest).prot = s.prot := rfl
@[simp] theorem popped_mem (s : State) (rest : List Instr) : (popped s rest).mem = s.mem := rfl
@[simp] theorem popped_stk (s : State) (rest : List Instr) : (popped s rest).stk = s.stk := rfl
@[simp] theorem popped_q (s : State) (rest : List Instr) : (popped s rest).q = s.q := rfl
@[simp] theorem popped_lk (s : State) (rest : List Instr) : (popped s rest).lk = s.lk := rfl
@[simp] theorem popped_units (s : State) (rest : List Instr) : (popped s rest).units = s.units := rfl
@[simp] theorem popped_outbox (s : State) (rest : List Instr) : (popped s rest).outbox = s.outbox := rfl
@[simp] theorem popped_freeCtr (s : State) (rest : List Instr) : (popped s rest).freeCtr = s.freeCtr := rfl

/-! ### countWork -/

@[simp] theorem countWork_persist (u : UnitId) (n : Nat) (s : State) : (countWork u n s).persist = s.persist := rfl
@[simp] theorem countWork_sec (u : UnitId) (n : Nat) (s : State) : (countWork u n s).sec = s.sec := rfl
@[simp] theorem countWork_od (u : UnitId) (n : Nat) (s : State) : (countWork u n s).od = s.od := rfl
@[simp] theorem countWork_rst (u : UnitId) (n : Nat) (s : State) : (countWork u n s).rst = s.rst := rfl
@[simp] theorem countWork_power (u : UnitId) (n : Nat) (s : State) : (countWork u n s).power = s.power := rfl
@[simp] theorem countWork_turn (u : UnitId) (n : Nat) (s : State) : (countWork u n s).turn = s.turn := rfl
@[simp] theorem countWork_fmt (u : UnitId) (n : Nat) (s : State) : (countWork u n s).fmt = s.fmt := rfl
@[simp] theorem countWork_rng (u : UnitId) (n : Nat) (s : State) : (countWork u n s).rng = s.rng := rfl
@[simp] theorem countWork_arr (u : UnitId) (n : Nat) (s : State) : (countWork u n s).arr = s.arr := rfl
@[simp] theorem countWork_terr (u : UnitId) (n : Nat) (s : State) : (countWork u n s).terr = s.terr := rfl
@[simp] theorem countWork_sched (u : UnitId) (n : Nat) (s : State) : (countWork u n s).sched = s.sched := rfl
@[simp] theorem countWork_vers (u : UnitId) (n : Nat) (s : State) : (countWork u n s).vers = s.vers := rfl
@[simp] theorem countWork_adapters (u : UnitId) (n : Nat) (s : State) : (countWork u n s).adapters = s.adapters := rfl
@[simp] theorem countWork_pubCount (u : UnitId) (n : Nat) (s : State) : (countWork u n s).pubCount = s.pubCount := rfl
@[simp] theorem countWork_gate (u : UnitId) (n : Nat) (s : State) : (countWork u n s).gate = s.gate := rfl
@[simp] theorem countWork_stash (u : UnitId) (n : Nat) (s : State) : (countWork u n s).stash = s.stash := rfl
@[simp] theorem countWork_care (u : UnitId) (n : Nat) (s : State) : (countWork u n s).care = s.care := rfl
@[simp] theorem countWork_red (u : UnitId) (n : Nat) (s : State) : (countWork u n s).red = s.red := rfl
@[simp] theorem countWork_shard (u : UnitId) (n : Nat) (s : State) : (countWork u n s).shard = s.shard := rfl
@[simp] theorem countWork_prot (u : UnitId) (n : Nat) (s : State) : (countWork u n s).prot = s.prot := rfl
@[simp] theorem countWork_mem (u : UnitId) (n : Nat) (s : State) : (countWork u n s).mem = s.mem := rfl
@[simp] theorem countWork_stk (u : UnitId) (n : Nat) (s : State) : (countWork u n s).stk = s.stk := rfl
@[simp] theorem countWork_q (u : UnitId) (n : Nat) (s : State) : (countWork u n s).q = s.q := rfl
@[simp] theorem countWork_lk (u : UnitId) (n : Nat) (s : State) : (countWork u n s).lk = s.lk := rfl
@[simp] theorem countWork_outbox (u : UnitId) (n : Nat) (s : State) : (countWork u n s).outbox = s.outbox := rfl
@[simp] theorem countWork_freeCtr (u : UnitId) (n : Nat) (s : State) : (countWork u n s).freeCtr = s.freeCtr := rfl
@[simp] theorem countWork_pending (u : UnitId) (n : Nat) (s : State) : (countWork u n s).pending = s.pending := rfl

/-! ### linkQueue -/

@[simp] theorem linkQueue_persist (i : LinkId) (m : OutMsg) (s : State) : (linkQueue i m s).persist = s.persist := rfl
@[simp] theorem linkQueue_sec (i : LinkId) (m : OutMsg) (s : State) : (linkQueue i m s).sec = s.sec := rfl
@[simp] theorem linkQueue_od (i : LinkId) (m : OutMsg) (s : State) : (linkQueue i m s).od = s.od := rfl
@[simp] theorem linkQueue_rst (i : LinkId) (m : OutMsg) (s : State) : (linkQueue i m s).rst = s.rst := rfl
@[simp] theorem linkQueue_power (i : LinkId) (m : OutMsg) (s : State) : (linkQueue i m s).power = s.power := rfl
@[simp] theorem linkQueue_turn (i : LinkId) (m : OutMsg) (s : State) : (linkQueue i m s).turn = s.turn := rfl
@[simp] theorem linkQueue_fmt (i : LinkId) (m : OutMsg) (s : State) : (linkQueue i m s).fmt = s.fmt := rfl
@[simp] theorem linkQueue_rng (i : LinkId) (m : OutMsg) (s : State) : (linkQueue i m s).rng = s.rng := rfl
@[simp] theorem linkQueue_arr (i : LinkId) (m : OutMsg) (s : State) : (linkQueue i m s).arr = s.arr := rfl
@[simp] theorem linkQueue_terr (i : LinkId) (m : OutMsg) (s : State) : (linkQueue i m s).terr = s.terr := rfl
@[simp] theorem linkQueue_sched (i : LinkId) (m : OutMsg) (s : State) : (linkQueue i m s).sched = s.sched := rfl
@[simp] theorem linkQueue_vers (i : LinkId) (m : OutMsg) (s : State) : (linkQueue i m s).vers = s.vers := rfl
@[simp] theorem linkQueue_adapters (i : LinkId) (m : OutMsg) (s : State) : (linkQueue i m s).adapters = s.adapters := rfl
@[simp] theorem linkQueue_pubCount (i : LinkId) (m : OutMsg) (s : State) : (linkQueue i m s).pubCount = s.pubCount := rfl
@[simp] theorem linkQueue_gate (i : LinkId) (m : OutMsg) (s : State) : (linkQueue i m s).gate = s.gate := rfl
@[simp] theorem linkQueue_stash (i : LinkId) (m : OutMsg) (s : State) : (linkQueue i m s).stash = s.stash := rfl
@[simp] theorem linkQueue_care (i : LinkId) (m : OutMsg) (s : State) : (linkQueue i m s).care = s.care := rfl
@[simp] theorem linkQueue_red (i : LinkId) (m : OutMsg) (s : State) : (linkQueue i m s).red = s.red := rfl
@[simp] theorem linkQueue_shard (i : LinkId) (m : OutMsg) (s : State) : (linkQueue i m s).shard = s.shard := rfl
@[simp] theorem linkQueue_prot (i : LinkId) (m : OutMsg) (s : State) : (linkQueue i m s).prot = s.prot := rfl
@[simp] theorem linkQueue_mem (i : LinkId) (m : OutMsg) (s : State) : (linkQueue i m s).mem = s.mem := rfl
@[simp] theorem linkQueue_stk (i : LinkId) (m : OutMsg) (s : State) : (linkQueue i m s).stk = s.stk := rfl
@[simp] theorem linkQueue_q (i : LinkId) (m : OutMsg) (s : State) : (linkQueue i m s).q = s.q := rfl
@[simp] theorem linkQueue_units (i : LinkId) (m : OutMsg) (s : State) : (linkQueue i m s).units = s.units := rfl
@[simp] theorem linkQueue_outbox (i : LinkId) (m : OutMsg) (s : State) : (linkQueue i m s).outbox = s.outbox := rfl
@[simp] theorem linkQueue_freeCtr (i : LinkId) (m : OutMsg) (s : State) : (linkQueue i m s).freeCtr = s.freeCtr := rfl
@[simp] theorem linkQueue_pending (i : LinkId) (m : OutMsg) (s : State) : (linkQueue i m s).pending = s.pending := rfl

/-! ### notePeak -/

@[simp] theorem notePeak_persist (s : State) : (notePeak s).persist = s.persist := rfl
@[simp] theorem notePeak_sec (s : State) : (notePeak s).sec = s.sec := rfl
@[simp] theorem notePeak_od (s : State) : (notePeak s).od = s.od := rfl
@[simp] theorem notePeak_rst (s : State) : (notePeak s).rst = s.rst := rfl
@[simp] theorem notePeak_power (s : State) : (notePeak s).power = s.power := rfl
@[simp] theorem notePeak_turn (s : State) : (notePeak s).turn = s.turn := rfl
@[simp] theorem notePeak_fmt (s : State) : (notePeak s).fmt = s.fmt := rfl
@[simp] theorem notePeak_rng (s : State) : (notePeak s).rng = s.rng := rfl
@[simp] theorem notePeak_arr (s : State) : (notePeak s).arr = s.arr := rfl
@[simp] theorem notePeak_terr (s : State) : (notePeak s).terr = s.terr := rfl
@[simp] theorem notePeak_sched (s : State) : (notePeak s).sched = s.sched := rfl
@[simp] theorem notePeak_vers (s : State) : (notePeak s).vers = s.vers := rfl
@[simp] theorem notePeak_adapters (s : State) : (notePeak s).adapters = s.adapters := rfl
@[simp] theorem notePeak_pubCount (s : State) : (notePeak s).pubCount = s.pubCount := rfl
@[simp] theorem notePeak_gate (s : State) : (notePeak s).gate = s.gate := rfl
@[simp] theorem notePeak_stash (s : State) : (notePeak s).stash = s.stash := rfl
@[simp] theorem notePeak_care (s : State) : (notePeak s).care = s.care := rfl
@[simp] theorem notePeak_red (s : State) : (notePeak s).red = s.red := rfl
@[simp] theorem notePeak_shard (s : State) : (notePeak s).shard = s.shard := rfl
@[simp] theorem notePeak_prot (s : State) : (notePeak s).prot = s.prot := rfl
@[simp] theorem notePeak_mem (s : State) : (notePeak s).mem = s.mem := rfl
@[simp] theorem notePeak_q (s : State) : (notePeak s).q = s.q := rfl
@[simp] theorem notePeak_lk (s : State) : (notePeak s).lk = s.lk := rfl
@[simp] theorem notePeak_units (s : State) : (notePeak s).units = s.units := rfl
@[simp] theorem notePeak_outbox (s : State) : (notePeak s).outbox = s.outbox := rfl
@[simp] theorem notePeak_freeCtr (s : State) : (notePeak s).freeCtr = s.freeCtr := rfl
@[simp] theorem notePeak_pending (s : State) : (notePeak s).pending = s.pending := rfl

/-! ### holdRequest -/

@[simp] theorem holdRequest_persist (r : HeldRequest) (s : State) : (holdRequest r s).persist = s.persist := rfl
@[simp] theorem holdRequest_sec (r : HeldRequest) (s : State) : (holdRequest r s).sec = s.sec := rfl
@[simp] theorem holdRequest_od (r : HeldRequest) (s : State) : (holdRequest r s).od = s.od := rfl
@[simp] theorem holdRequest_rst (r : HeldRequest) (s : State) : (holdRequest r s).rst = s.rst := rfl
@[simp] theorem holdRequest_power (r : HeldRequest) (s : State) : (holdRequest r s).power = s.power := rfl
@[simp] theorem holdRequest_turn (r : HeldRequest) (s : State) : (holdRequest r s).turn = s.turn := rfl
@[simp] theorem holdRequest_fmt (r : HeldRequest) (s : State) : (holdRequest r s).fmt = s.fmt := rfl
@[simp] theorem holdRequest_rng (r : HeldRequest) (s : State) : (holdRequest r s).rng = s.rng := rfl
@[simp] theorem holdRequest_arr (r : HeldRequest) (s : State) : (holdRequest r s).arr = s.arr := rfl
@[simp] theorem holdRequest_terr (r : HeldRequest) (s : State) : (holdRequest r s).terr = s.terr := rfl
@[simp] theorem holdRequest_sched (r : HeldRequest) (s : State) : (holdRequest r s).sched = s.sched := rfl
@[simp] theorem holdRequest_vers (r : HeldRequest) (s : State) : (holdRequest r s).vers = s.vers := rfl
@[simp] theorem holdRequest_adapters (r : HeldRequest) (s : State) : (holdRequest r s).adapters = s.adapters := rfl
@[simp] theorem holdRequest_pubCount (r : HeldRequest) (s : State) : (holdRequest r s).pubCount = s.pubCount := rfl
@[simp] theorem holdRequest_gate (r : HeldRequest) (s : State) : (holdRequest r s).gate = s.gate := rfl
@[simp] theorem holdRequest_stash (r : HeldRequest) (s : State) : (holdRequest r s).stash = s.stash := rfl
@[simp] theorem holdRequest_care (r : HeldRequest) (s : State) : (holdRequest r s).care = s.care := rfl
@[simp] theorem holdRequest_red (r : HeldRequest) (s : State) : (holdRequest r s).red = s.red := rfl
@[simp] theorem holdRequest_shard (r : HeldRequest) (s : State) : (holdRequest r s).shard = s.shard := rfl
@[simp] theorem holdRequest_prot (r : HeldRequest) (s : State) : (holdRequest r s).prot = s.prot := rfl
@[simp] theorem holdRequest_mem (r : HeldRequest) (s : State) : (holdRequest r s).mem = s.mem := rfl
@[simp] theorem holdRequest_q (r : HeldRequest) (s : State) : (holdRequest r s).q = s.q := rfl
@[simp] theorem holdRequest_lk (r : HeldRequest) (s : State) : (holdRequest r s).lk = s.lk := rfl
@[simp] theorem holdRequest_units (r : HeldRequest) (s : State) : (holdRequest r s).units = s.units := rfl
@[simp] theorem holdRequest_outbox (r : HeldRequest) (s : State) : (holdRequest r s).outbox = s.outbox := rfl
@[simp] theorem holdRequest_freeCtr (r : HeldRequest) (s : State) : (holdRequest r s).freeCtr = s.freeCtr := rfl
@[simp] theorem holdRequest_pending (r : HeldRequest) (s : State) : (holdRequest r s).pending = s.pending := rfl

/-! ### showFront -/

@[simp] theorem showFront_persist (qp : Fin 64) (d : Desc) (s : State) : (showFront qp d s).persist = s.persist := by
  unfold showFront
  dsimp only
  split <;> rfl
@[simp] theorem showFront_sec (qp : Fin 64) (d : Desc) (s : State) : (showFront qp d s).sec = s.sec := by
  unfold showFront
  dsimp only
  split <;> rfl
@[simp] theorem showFront_od (qp : Fin 64) (d : Desc) (s : State) : (showFront qp d s).od = s.od := by
  unfold showFront
  dsimp only
  split <;> rfl
@[simp] theorem showFront_rst (qp : Fin 64) (d : Desc) (s : State) : (showFront qp d s).rst = s.rst := by
  unfold showFront
  dsimp only
  split <;> rfl
@[simp] theorem showFront_power (qp : Fin 64) (d : Desc) (s : State) : (showFront qp d s).power = s.power := by
  unfold showFront
  dsimp only
  split <;> rfl
@[simp] theorem showFront_turn (qp : Fin 64) (d : Desc) (s : State) : (showFront qp d s).turn = s.turn := by
  unfold showFront
  dsimp only
  split <;> rfl
@[simp] theorem showFront_fmt (qp : Fin 64) (d : Desc) (s : State) : (showFront qp d s).fmt = s.fmt := by
  unfold showFront
  dsimp only
  split <;> rfl
@[simp] theorem showFront_rng (qp : Fin 64) (d : Desc) (s : State) : (showFront qp d s).rng = s.rng := by
  unfold showFront
  dsimp only
  split <;> rfl
@[simp] theorem showFront_arr (qp : Fin 64) (d : Desc) (s : State) : (showFront qp d s).arr = s.arr := by
  unfold showFront
  dsimp only
  split <;> rfl
@[simp] theorem showFront_terr (qp : Fin 64) (d : Desc) (s : State) : (showFront qp d s).terr = s.terr := by
  unfold showFront
  dsimp only
  split <;> rfl
@[simp] theorem showFront_sched (qp : Fin 64) (d : Desc) (s : State) : (showFront qp d s).sched = s.sched := by
  unfold showFront
  dsimp only
  split <;> rfl
@[simp] theorem showFront_vers (qp : Fin 64) (d : Desc) (s : State) : (showFront qp d s).vers = s.vers := by
  unfold showFront
  dsimp only
  split <;> rfl
@[simp] theorem showFront_adapters (qp : Fin 64) (d : Desc) (s : State) : (showFront qp d s).adapters = s.adapters := by
  unfold showFront
  dsimp only
  split <;> rfl
@[simp] theorem showFront_pubCount (qp : Fin 64) (d : Desc) (s : State) : (showFront qp d s).pubCount = s.pubCount := by
  unfold showFront
  dsimp only
  split <;> rfl
@[simp] theorem showFront_gate (qp : Fin 64) (d : Desc) (s : State) : (showFront qp d s).gate = s.gate := by
  unfold showFront
  dsimp only
  split <;> rfl
@[simp] theorem showFront_stash (qp : Fin 64) (d : Desc) (s : State) : (showFront qp d s).stash = s.stash := by
  unfold showFront
  dsimp only
  split <;> rfl
@[simp] theorem showFront_care (qp : Fin 64) (d : Desc) (s : State) : (showFront qp d s).care = s.care := by
  unfold showFront
  dsimp only
  split <;> rfl
@[simp] theorem showFront_red (qp : Fin 64) (d : Desc) (s : State) : (showFront qp d s).red = s.red := by
  unfold showFront
  dsimp only
  split <;> rfl
@[simp] theorem showFront_shard (qp : Fin 64) (d : Desc) (s : State) : (showFront qp d s).shard = s.shard := by
  unfold showFront
  dsimp only
  split <;> rfl
@[simp] theorem showFront_prot (qp : Fin 64) (d : Desc) (s : State) : (showFront qp d s).prot = s.prot := by
  unfold showFront
  dsimp only
  split <;> rfl
@[simp] theorem showFront_mem (qp : Fin 64) (d : Desc) (s : State) : (showFront qp d s).mem = s.mem := by
  unfold showFront
  dsimp only
  split <;> rfl
@[simp] theorem showFront_stk (qp : Fin 64) (d : Desc) (s : State) : (showFront qp d s).stk = s.stk := by
  unfold showFront
  dsimp only
  split <;> rfl
@[simp] theorem showFront_lk (qp : Fin 64) (d : Desc) (s : State) : (showFront qp d s).lk = s.lk := by
  unfold showFront
  dsimp only
  split <;> rfl
@[simp] theorem showFront_units (qp : Fin 64) (d : Desc) (s : State) : (showFront qp d s).units = s.units := by
  unfold showFront
  dsimp only
  split <;> rfl
@[simp] theorem showFront_outbox (qp : Fin 64) (d : Desc) (s : State) : (showFront qp d s).outbox = s.outbox := by
  unfold showFront
  dsimp only
  split <;> rfl
@[simp] theorem showFront_freeCtr (qp : Fin 64) (d : Desc) (s : State) : (showFront qp d s).freeCtr = s.freeCtr := by
  unfold showFront
  dsimp only
  split <;> rfl
@[simp] theorem showFront_pending (qp : Fin 64) (d : Desc) (s : State) : (showFront qp d s).pending = s.pending := by
  unfold showFront
  dsimp only
  split <;> rfl

/-! ### State.withDefaults -/

@[simp] theorem State.withDefaults_persist (s : State) (x : Defaults) : (s.withDefaults x).persist = s.persist := rfl
@[simp] theorem State.withDefaults_sec (s : State) (x : Defaults) : (s.withDefaults x).sec = s.sec := rfl
@[simp] theorem State.withDefaults_od (s : State) (x : Defaults) : (s.withDefaults x).od = s.od := rfl
@[simp] theorem State.withDefaults_rst (s : State) (x : Defaults) : (s.withDefaults x).rst = s.rst := rfl
@[simp] theorem State.withDefaults_power (s : State) (x : Defaults) : (s.withDefaults x).power = s.power := rfl
@[simp] theorem State.withDefaults_turn (s : State) (x : Defaults) : (s.withDefaults x).turn = s.turn := rfl
@[simp] theorem State.withDefaults_arr (s : State) (x : Defaults) : (s.withDefaults x).arr = s.arr := rfl
@[simp] theorem State.withDefaults_terr (s : State) (x : Defaults) : (s.withDefaults x).terr = s.terr := rfl
@[simp] theorem State.withDefaults_sched (s : State) (x : Defaults) : (s.withDefaults x).sched = s.sched := rfl
@[simp] theorem State.withDefaults_vers (s : State) (x : Defaults) : (s.withDefaults x).vers = s.vers := rfl
@[simp] theorem State.withDefaults_adapters (s : State) (x : Defaults) : (s.withDefaults x).adapters = s.adapters := rfl
@[simp] theorem State.withDefaults_pubCount (s : State) (x : Defaults) : (s.withDefaults x).pubCount = s.pubCount := rfl
@[simp] theorem State.withDefaults_gate (s : State) (x : Defaults) : (s.withDefaults x).gate = s.gate := rfl
@[simp] theorem State.withDefaults_stash (s : State) (x : Defaults) : (s.withDefaults x).stash = s.stash := rfl
@[simp] theorem State.withDefaults_care (s : State) (x : Defaults) : (s.withDefaults x).care = s.care := rfl
@[simp] theorem State.withDefaults_red (s : State) (x : Defaults) : (s.withDefaults x).red = s.red := rfl
@[simp] theorem State.withDefaults_shard (s : State) (x : Defaults) : (s.withDefaults x).shard = s.shard := rfl
@[simp] theorem State.withDefaults_prot (s : State) (x : Defaults) : (s.withDefaults x).prot = s.prot := rfl
@[simp] theorem State.withDefaults_mem (s : State) (x : Defaults) : (s.withDefaults x).mem = s.mem := rfl
@[simp] theorem State.withDefaults_stk (s : State) (x : Defaults) : (s.withDefaults x).stk = s.stk := rfl
@[simp] theorem State.withDefaults_q (s : State) (x : Defaults) : (s.withDefaults x).q = s.q := rfl
@[simp] theorem State.withDefaults_lk (s : State) (x : Defaults) : (s.withDefaults x).lk = s.lk := rfl
@[simp] theorem State.withDefaults_units (s : State) (x : Defaults) : (s.withDefaults x).units = s.units := rfl
@[simp] theorem State.withDefaults_outbox (s : State) (x : Defaults) : (s.withDefaults x).outbox = s.outbox := rfl
@[simp] theorem State.withDefaults_freeCtr (s : State) (x : Defaults) : (s.withDefaults x).freeCtr = s.freeCtr := rfl
@[simp] theorem State.withDefaults_pending (s : State) (x : Defaults) : (s.withDefaults x).pending = s.pending := rfl

/-! ### setSel -/

@[simp] theorem setSel_persist (p : Path) (x : PathSel) (s : State) : (setSel p x s).persist = s.persist := by cases p <;> rfl
@[simp] theorem setSel_sec (p : Path) (x : PathSel) (s : State) : (setSel p x s).sec = s.sec := by cases p <;> rfl
@[simp] theorem setSel_rst (p : Path) (x : PathSel) (s : State) : (setSel p x s).rst = s.rst := by cases p <;> rfl
@[simp] theorem setSel_power (p : Path) (x : PathSel) (s : State) : (setSel p x s).power = s.power := by cases p <;> rfl
@[simp] theorem setSel_turn (p : Path) (x : PathSel) (s : State) : (setSel p x s).turn = s.turn := by cases p <;> rfl
@[simp] theorem setSel_fmt (p : Path) (x : PathSel) (s : State) : (setSel p x s).fmt = s.fmt := by cases p <;> rfl
@[simp] theorem setSel_rng (p : Path) (x : PathSel) (s : State) : (setSel p x s).rng = s.rng := by cases p <;> rfl
@[simp] theorem setSel_arr (p : Path) (x : PathSel) (s : State) : (setSel p x s).arr = s.arr := by cases p <;> rfl
@[simp] theorem setSel_terr (p : Path) (x : PathSel) (s : State) : (setSel p x s).terr = s.terr := by cases p <;> rfl
@[simp] theorem setSel_sched (p : Path) (x : PathSel) (s : State) : (setSel p x s).sched = s.sched := by cases p <;> rfl
@[simp] theorem setSel_vers (p : Path) (x : PathSel) (s : State) : (setSel p x s).vers = s.vers := by cases p <;> rfl
@[simp] theorem setSel_adapters (p : Path) (x : PathSel) (s : State) : (setSel p x s).adapters = s.adapters := by cases p <;> rfl
@[simp] theorem setSel_pubCount (p : Path) (x : PathSel) (s : State) : (setSel p x s).pubCount = s.pubCount := by cases p <;> rfl
@[simp] theorem setSel_gate (p : Path) (x : PathSel) (s : State) : (setSel p x s).gate = s.gate := by cases p <;> rfl
@[simp] theorem setSel_stash (p : Path) (x : PathSel) (s : State) : (setSel p x s).stash = s.stash := by cases p <;> rfl
@[simp] theorem setSel_care (p : Path) (x : PathSel) (s : State) : (setSel p x s).care = s.care := by cases p <;> rfl
@[simp] theorem setSel_red (p : Path) (x : PathSel) (s : State) : (setSel p x s).red = s.red := by cases p <;> rfl
@[simp] theorem setSel_shard (p : Path) (x : PathSel) (s : State) : (setSel p x s).shard = s.shard := by cases p <;> rfl
@[simp] theorem setSel_prot (p : Path) (x : PathSel) (s : State) : (setSel p x s).prot = s.prot := by cases p <;> rfl
@[simp] theorem setSel_mem (p : Path) (x : PathSel) (s : State) : (setSel p x s).mem = s.mem := by cases p <;> rfl
@[simp] theorem setSel_stk (p : Path) (x : PathSel) (s : State) : (setSel p x s).stk = s.stk := by cases p <;> rfl
@[simp] theorem setSel_q (p : Path) (x : PathSel) (s : State) : (setSel p x s).q = s.q := by cases p <;> rfl
@[simp] theorem setSel_lk (p : Path) (x : PathSel) (s : State) : (setSel p x s).lk = s.lk := by cases p <;> rfl
@[simp] theorem setSel_units (p : Path) (x : PathSel) (s : State) : (setSel p x s).units = s.units := by cases p <;> rfl
@[simp] theorem setSel_outbox (p : Path) (x : PathSel) (s : State) : (setSel p x s).outbox = s.outbox := by cases p <;> rfl
@[simp] theorem setSel_freeCtr (p : Path) (x : PathSel) (s : State) : (setSel p x s).freeCtr = s.freeCtr := by cases p <;> rfl
@[simp] theorem setSel_pending (p : Path) (x : PathSel) (s : State) : (setSel p x s).pending = s.pending := by cases p <;> rfl

/-! ### setSlot -/

@[simp] theorem setSlot_persist (x : SlotId) (w : WSlot) (s : State) : (setSlot x w s).persist = s.persist := by cases x <;> rfl
@[simp] theorem setSlot_sec (x : SlotId) (w : WSlot) (s : State) : (setSlot x w s).sec = s.sec := by cases x <;> rfl
@[simp] theorem setSlot_od (x : SlotId) (w : WSlot) (s : State) : (setSlot x w s).od = s.od := by cases x <;> rfl
@[simp] theorem setSlot_rst (x : SlotId) (w : WSlot) (s : State) : (setSlot x w s).rst = s.rst := by cases x <;> rfl
@[simp] theorem setSlot_power (x : SlotId) (w : WSlot) (s : State) : (setSlot x w s).power = s.power := by cases x <;> rfl
@[simp] theorem setSlot_turn (x : SlotId) (w : WSlot) (s : State) : (setSlot x w s).turn = s.turn := by cases x <;> rfl
@[simp] theorem setSlot_fmt (x : SlotId) (w : WSlot) (s : State) : (setSlot x w s).fmt = s.fmt := by cases x <;> rfl
@[simp] theorem setSlot_rng (x : SlotId) (w : WSlot) (s : State) : (setSlot x w s).rng = s.rng := by cases x <;> rfl
@[simp] theorem setSlot_arr (x : SlotId) (w : WSlot) (s : State) : (setSlot x w s).arr = s.arr := by cases x <;> rfl
@[simp] theorem setSlot_terr (x : SlotId) (w : WSlot) (s : State) : (setSlot x w s).terr = s.terr := by cases x <;> rfl
@[simp] theorem setSlot_sched (x : SlotId) (w : WSlot) (s : State) : (setSlot x w s).sched = s.sched := by cases x <;> rfl
@[simp] theorem setSlot_pubCount (x : SlotId) (w : WSlot) (s : State) : (setSlot x w s).pubCount = s.pubCount := by cases x <;> rfl
@[simp] theorem setSlot_gate (x : SlotId) (w : WSlot) (s : State) : (setSlot x w s).gate = s.gate := by cases x <;> rfl
@[simp] theorem setSlot_stash (x : SlotId) (w : WSlot) (s : State) : (setSlot x w s).stash = s.stash := by cases x <;> rfl
@[simp] theorem setSlot_care (x : SlotId) (w : WSlot) (s : State) : (setSlot x w s).care = s.care := by cases x <;> rfl
@[simp] theorem setSlot_red (x : SlotId) (w : WSlot) (s : State) : (setSlot x w s).red = s.red := by cases x <;> rfl
@[simp] theorem setSlot_shard (x : SlotId) (w : WSlot) (s : State) : (setSlot x w s).shard = s.shard := by cases x <;> rfl
@[simp] theorem setSlot_prot (x : SlotId) (w : WSlot) (s : State) : (setSlot x w s).prot = s.prot := by cases x <;> rfl
@[simp] theorem setSlot_mem (x : SlotId) (w : WSlot) (s : State) : (setSlot x w s).mem = s.mem := by cases x <;> rfl
@[simp] theorem setSlot_stk (x : SlotId) (w : WSlot) (s : State) : (setSlot x w s).stk = s.stk := by cases x <;> rfl
@[simp] theorem setSlot_q (x : SlotId) (w : WSlot) (s : State) : (setSlot x w s).q = s.q := by cases x <;> rfl
@[simp] theorem setSlot_lk (x : SlotId) (w : WSlot) (s : State) : (setSlot x w s).lk = s.lk := by cases x <;> rfl
@[simp] theorem setSlot_units (x : SlotId) (w : WSlot) (s : State) : (setSlot x w s).units = s.units := by cases x <;> rfl
@[simp] theorem setSlot_outbox (x : SlotId) (w : WSlot) (s : State) : (setSlot x w s).outbox = s.outbox := by cases x <;> rfl
@[simp] theorem setSlot_freeCtr (x : SlotId) (w : WSlot) (s : State) : (setSlot x w s).freeCtr = s.freeCtr := by cases x <;> rfl
@[simp] theorem setSlot_pending (x : SlotId) (w : WSlot) (s : State) : (setSlot x w s).pending = s.pending := by cases x <;> rfl

/-! ### What they set -/

@[simp] theorem popped_pending_eq (s : State) (rest : List Instr) : (popped s rest).pending = rest := rfl
@[simp] theorem addRange_prot_eq (base len : Nat) (s : State) : (addRange base len s).prot = s.prot ++ [⟨base, len⟩] := rfl

theorem Links.get_set_same (k : Links) (i : LinkId) (l : Link) : (k.set i l).get i = l := by
  cases i
  · rfl
  · simp [Links.get, Links.set]
theorem Links.get_set_other (k : Links) {i j : LinkId} (l : Link) (h : j ≠ i) : (k.set i l).get j = k.get j := by
  cases i <;> cases j <;> simp_all [Links.get, Links.set]
  rename_i n m
  exact Vector.getElem_set_ne _ _ fun e => h (Fin.ext e.symm)
theorem setLink_get_same (i : LinkId) (l : Link) (s : State) : (setLink i l s).lk.get i = l := Links.get_set_same _ _ _
theorem setLink_get_other {i j : LinkId} (l : Link) (s : State) (h : j ≠ i) : (setLink i l s).lk.get j = s.lk.get j :=
  Links.get_set_other _ _ h

theorem Units.get_set_same (x : Units) (u : UnitId) (c : UnitCtl) : (x.set u c).get u = c := by
  cases u <;> simp [Units.get, Units.set]
theorem setUnit_get_same (u : UnitId) (c : UnitCtl) (s : State) : (setUnit u c s).units.get u = c := Units.get_set_same _ _ _

theorem setPair_same (n : Fin 64) (p : QueuePair) (s : State) : (setPair n p s).q.qps[n] = p := by simp [setPair]
theorem setPair_other {n m : Fin 64} (p : QueuePair) (s : State) (h : m ≠ n) : (setPair n p s).q.qps[m] = s.q.qps[m] :=
  Vector.getElem_set_ne n.isLt m.isLt fun e => h (Fin.ext e.symm)
theorem advanceHead_head (qp : Fin 64) (n : Nat) (s : State) :
    ((advanceHead qp n s).q.qps[qp]).head = (s.q.qps[qp]).head + BitVec.ofNat 32 n := by simp [advanceHead]
theorem showFront_head (qp q : Fin 64) (d : Desc) (s : State) : ((showFront qp d s).q.qps[q]).head = (s.q.qps[q]).head := by
  unfold showFront
  dsimp only
  split
  · by_cases h : q = qp
    · subst h
      simp
    · exact congrArg QueuePair.head (Vector.getElem_set_ne qp.isLt q.isLt fun e => h (Fin.ext e.symm))
  · rfl
theorem showFront_inflight (qp : Fin 64) (d : Desc) (s : State) : (showFront qp d s).q.inflight = s.q.inflight := by
  unfold showFront
  dsimp only
  split <;> rfl
theorem holdRequest_held (r : HeldRequest) (s : State) : (holdRequest r s).stk.heldRequests = s.stk.heldRequests ++ [r] := rfl
theorem countWork_same (u : UnitId) (n : Nat) (s : State) :
    ((countWork u n s).units.get u).work = satAdd (s.units.get u).work n := by
  unfold countWork
  rw [Units.get_set_same]
theorem linkQueue_waiting (i : LinkId) (m : OutMsg) (s : State) :
    ((linkQueue i m s).lk.get i).waiting = (s.lk.get i).waiting ++ [m] := by
  unfold linkQueue
  rw [setLink_get_same]
theorem setSquare_get (x : SquareRegs) (s : State) : getSquare (setSquare x s) x.plaza x.square = x := by
  have h : (s.arr.squares.filter fun y => !(y.plaza == x.plaza && y.square == x.square)).find?
      (fun y => y.plaza == x.plaza && y.square == x.square) = none := by
    rw [List.find?_eq_none]
    intro y hy
    exact fun w => by rw [List.mem_filter, w] at hy; exact absurd hy.2 (by decide)
  simp only [getSquare, setSquare, List.find?_append, h]
  simp
theorem setSplit_same (p : Fin 64) (split : Nat) (s : State) : (setSplit p split s).arr.split[p] = split := by simp [setSplit]
theorem pushInFlight_inflight (e : InFlight) (s : State) :
    (pushInFlight e s).q.inflight = s.q.inflight ++ [{ e with order := s.q.nextOrder }] := rfl

/-! ### Reset -/

/-- Memory right after reset lists nothing, so it has its form. -/
theorem reset_mem_wf : Memory.wf State.reset.mem = true := by decide

end Sys2Proof.Machine
end

