-- ==== Sys2Proof/Laws/Commands.lean ====
section
/-! SUPPORT. The shapes that commands share, each with all that a next state of it says, and when it completes. -/

namespace Sys2Proof.Machine

/-! ### Descriptors (R535, R544) -/

/-- A descriptor-start command answers a next state in two ways: it starts, or it waits, and its pair alone knows
more of it. -/
theorem startDesc_cases {isRow : Bool} {qp : Fin 64} {d : Desc} {body : M Unit} {s t : State}
    (h : startDesc isRow qp d body s = .next t) :
    isRow = true ∧ running s = true
      ∧ ((canStart s qp d 1 = true ∧ t = startOne qp d body s) ∨ (canStart s qp d 1 = false ∧ t = showFront qp d s)) := by
  unfold startDesc at h
  cases isRow <;> cases hr : running s <;> cases hc : canStart s qp d 1 <;> simp_all

theorem startDesc_starts {qp : Fin 64} {d : Desc} {s : State} (body : M Unit) (hr : running s = true) (hc : canStart s qp d 1 = true) :
    startDesc true qp d body s = .next (startOne qp d body s) := by
  simp [startDesc, hr, hc]

theorem startDesc_waits {qp : Fin 64} {d : Desc} {s : State} (body : M Unit) (hr : running s = true) (hc : canStart s qp d 1 = false) :
    startDesc true qp d body s = .next (showFront qp d s) := by
  simp [startDesc, hr, hc]

theorem startExchange_cases {isRow : Bool} {k : XKind} {qp : Fin 64} {d : Desc} {s t : State}
    (h : startExchange isRow k qp d s = .next t) :
    isRow = true ∧ running s = true
      ∧ ((canStart s qp d 1 = true ∧ t = pumpAll (startOne qp d (exchangeBody k qp (s.q.qps[qp]).head d) s))
        ∨ (canStart s qp d 1 = false ∧ t = showFront qp d s)) := by
  unfold startExchange at h
  cases isRow <;> cases hr : running s <;> cases hc : canStart s qp d 1 <;> simp_all

theorem startExchange_starts {k : XKind} {qp : Fin 64} {d : Desc} {s : State} (hr : running s = true) (hc : canStart s qp d 1 = true) :
    startExchange true k qp d s = .next (pumpAll (startOne qp d (exchangeBody k qp (s.q.qps[qp]).head d) s)) := by
  simp [startExchange, hr, hc]

/-- A KERNEL that does not open a pair is any other descriptor; one of FUSE 1 waits for its second half (R728). -/
theorem startKernel_alone {num : Nat} {qp : Fin 64} {d : Desc} {s : State} (h : ((kernelFields d).fuse == 1) = false) :
    startKernel num qp d s = startDesc (isKernel num d) qp d (kernelBody d) s := by
  simp [startKernel, h]

theorem startKernel_first {num : Nat} {qp : Fin 64} {d : Desc} {s : State} (hk : isKernel num d = true) (hr : running s = true)
    (h : ((kernelFields d).fuse == 1) = true) : startKernel num qp d s = .next (showFront qp d s) := by
  simp [startKernel, hk, hr, h]

/-- The part of a start that every descriptor shares: HEAD moves, the checks of R544 run, and only an OK runs the class's own. -/
theorem startOne_ok {qp : Fin 64} {d : Desc} {body : M Unit} {s : State}
    (h : (headChecks (advanceHead qp 1 s) (s.q.qps[qp]).head d).1 = .ok) :
    startOne qp d body s
      = runBody qp (s.q.qps[qp]).head d body (headChecks (advanceHead qp 1 s) (s.q.qps[qp]).head d).2 := by
  unfold startOne
  exact if_pos h

theorem startOne_refused {qp : Fin 64} {d : Desc} {body : M Unit} {s : State} {st : Status}
    (h : (headChecks (advanceHead qp 1 s) (s.q.qps[qp]).head d).1 = st) (hs : st ≠ .ok) :
    startOne qp d body s
      = pushInFlight (refusedEntry qp (s.q.qps[qp]).head d st) (headChecks (advanceHead qp 1 s) (s.q.qps[qp]).head d).2 := by
  subst h
  unfold startOne
  exact if_neg hs

/-- What a start of OK makes of its work: what settles it, or a descriptor that holds and has asked for what it lacks (R515, R551). -/
theorem runBody_settles {qp : Fin 64} {idx : W32} {d : Desc} {body : M Unit} {s : State}
    (h : waitsIn (runWork body (openStep d s)).1 = false) :
    runBody qp idx d body s
      = let x := settleEntry s d (heldEntry qp idx d (openStep d s)) (runWork body (openStep d s))
        pushInFlight x.1 x.2 := by
  simp [runBody, h]

theorem runBody_waits {qp : Fin 64} {idx : W32} {d : Desc} {body : M Unit} {s : State}
    (h : waitsIn (runWork body (openStep d s)).1 = true) :
    runBody qp idx d body s
      = pushInFlight (heldEntry qp idx d (openStep d s)) (askFor (.desc qp idx) (runWork body (openStep d s)).2 (openStep d s)) := by
  simp [runBody, h]

/-- A TILE starts alone unless TAIL covers a KERNEL of FUSE 2 after it (R728). -/
theorem startTile_alone {isRow : Bool} {qp : Fin 64} {d : Desc} {s : State} (hn : nextUnknown s qp = false) (h : postOf s qp = none) :
    startTile isRow qp d s = startDesc isRow qp d (tileBody d) s := by
  cases isRow <;> simp [startTile, startDesc, hn, h]

theorem startTile_pair {qp : Fin 64} {d d2 : Desc} {s : State} (hn : nextUnknown s qp = false) (h : postOf s qp = some d2) :
    startTile true qp d s = execFusedPair qp d d2 s := by
  simp [startTile, hn, h]

/-- A TILE whose successor has not been read asks for it first (R728). -/
theorem startTile_asks {qp : Fin 64} {d : Desc} {s : State} (hr : running s = true) (hn : nextUnknown s qp = true)
    (hc : canStart s qp d 1 = true) : startTile true qp d s = .next (askNext qp d s) := by
  simp [startTile, hr, hn, hc]

/-! ### The scheduler -/

/-- A scheduler step ends in one of three ways (R259, R288, R257): it has taken its step, it has no room for its record, or it waits. -/
theorem execSchedulerStep_cases {s t : State} (h : execSchedulerStep s = .next t) :
    running s = true ∧ (schedMay s = false ∧ t = s
      ∨ schedMay s = true ∧ (((runSched s).1 = .ok true ∧ t = schedEnds (runSched s).2.s)
        ∨ ((runSched s).1 = .ok false ∧ t = schedStalls s)
        ∨ (∃ e, (runSched s).1 = .error e) ∧ t = schedWaits (runSched s).2 s)) := by
  unfold execSchedulerStep at h
  split at h
  · cases h
  · rename_i hr
    refine ⟨by simpa using hr, ?_⟩
    split at h <;> rename_i hm <;> cases h
    · exact .inl ⟨by simpa using hm, rfl⟩
    · refine .inr ⟨by simpa using hm, ?_⟩
      unfold afterSched
      dsimp only
      split <;> rename_i e
      · exact .inl ⟨e, rfl⟩
      · exact .inr (.inl ⟨e, rfl⟩)
      · exact .inr (.inr ⟨⟨_, e⟩, rfl⟩)

/-! ### Doorbells, links, packets, messages, sources -/

theorem doorbell_cases {w : W64} {s t : State} (h : doorbell w s = .next t) :
    running s = true ∧ t = takeDoorbell w (arrived .cl 2 (unitsOf 24) s) := by
  unfold doorbell at h
  cases hr : running s <;> simp_all

theorem doorbell_next {w : W64} {s : State} (hr : running s = true) :
    doorbell w s = .next (takeDoorbell w (arrived .cl 2 (unitsOf 24) s)) := by
  simp [doorbell, hr]

theorem linkDo_cases {i : LinkId} {c : Bool} {f : State → State} {s t : State} (h : linkDo i c f s = .next t) :
    running s = true ∧ ((linkThere s i && c) = true ∧ t = f s ∨ (linkThere s i && c) = false ∧ t = s) := by
  unfold linkDo at h
  cases hr : running s <;> cases hl : linkThere s i <;> cases c <;> simp_all

theorem linkDo_next {i : LinkId} {s : State} (f : State → State) (hr : running s = true) (hl : linkThere s i = true) :
    linkDo i true f s = .next (f s) := by
  simp [linkDo, hr, hl]

/-- The room that a member's packet took, by its lane (R577, R594). -/
theorem memberPacket_cases {av : Fin 8} {k : XKind} {x : PeerMsg} {take : State → State} {s t : State}
    (h : memberPacket av k x take s = .next t) :
    running s = true ∧ x.bytes ≤ 4064 ∧ (avenueBrings s av k.lane.toNat = true
        ∧ t = pumpAll (take (arrived (.av av) (2 * k.lane.toNat + if x.hop then 1 else 0) (unitsOf (32 + x.bytes)) s))
      ∨ avenueBrings s av k.lane.toNat = false ∧ t = s) := by
  unfold memberPacket at h
  split at h
  · cases h
  · rename_i hb
    cases hr : running s <;> cases ha : avenueBrings s av k.lane.toNat <;> simp_all <;> omega

theorem memberPacket_next {av : Fin 8} {k : XKind} {x : PeerMsg} {s : State} (take : State → State) (hr : running s = true)
    (hb : x.bytes ≤ 4064) (ha : avenueBrings s av k.lane.toNat = true) :
    memberPacket av k x take s
      = .next (pumpAll (take (arrived (.av av) (2 * k.lane.toNat + if x.hop then 1 else 0) (unitsOf (32 + x.bytes)) s))) := by
  have h : ¬4064 < x.bytes := by omega
  simp [memberPacket, hr, ha, h]

theorem clMessage_cases {w : Bool} {ch : Nat} {f : State → State} {s t : State} (h : clMessage w ch f s = .next t) :
    w = true ∧ running s = true ∧ (clCarries s ch = true ∧ t = f s ∨ clCarries s ch = false ∧ t = s) := by
  unfold clMessage at h
  cases w <;> cases hr : running s <;> cases hc : clCarries s ch <;> simp_all

theorem clMessage_next {ch : Nat} {s : State} (f : State → State) (hr : running s = true) (hc : clCarries s ch = true) :
    clMessage true ch f s = .next (f s) := by
  simp [clMessage, hr, hc]

theorem packetIn_cases {av : Fin 8} {p : Packet} {vl ptype : Nat} {form : Bool} {f : State → State} {s t : State}
    (h : packetIn av p vl ptype form f s = .next t) :
    packetForm p vl ptype form = true ∧ toSelf s p = true ∧ running s = true
      ∧ ((linkThere s (.av av) && chCarried s (.av av) vl) = true ∧ t = f (arrived (.av av) (packetPool p) (packetUnits p) s)
        ∨ (linkThere s (.av av) && chCarried s (.av av) vl) = false ∧ t = s) := by
  unfold packetIn at h
  cases hp : packetForm p vl ptype form <;> cases hr : running s <;> cases h1 : toSelf s p <;> cases h2 : linkThere s (.av av)
    <;> cases h3 : chCarried s (.av av) vl <;> simp_all

theorem packetIn_next {av : Fin 8} {p : Packet} {vl ptype : Nat} {form : Bool} {s : State} (f : State → State)
    (hp : packetForm p vl ptype form = true) (ht : toSelf s p = true) (hr : running s = true)
    (hl : (linkThere s (.av av) && chCarried s (.av av) vl) = true) :
    packetIn av p vl ptype form f s = .next (f (arrived (.av av) (packetPool p) (packetUnits p) s)) := by
  simp [packetIn, hp, ht, hr, hl]

theorem sourceEvent_cases {c : Bool} {f : State → State} {s t : State} (h : sourceEvent c f s = .next t) :
    s.rst.off = false ∧ (c = true ∧ t = f s ∨ c = false ∧ t = s) := by
  unfold sourceEvent at h
  cases ho : s.rst.off <;> cases c <;> simp_all

theorem sourceEvent_next {s : State} (f : State → State) (h : s.rst.off = false) : sourceEvent true f s = .next (f s) := by
  simp [sourceEvent, h]

/-! ### Requests (R613, R617) -/

/-- A request of its own row runs on the Carard path at once; on the field path it runs when it has waited longest, and any other changes
nothing. None runs while a flush of the mask cache waits to take effect (R615). -/
theorem request_cases {isRow : Bool} {own : Own} {p : Asker} {r : List Byte} {s t : State} (h : request isRow own p r s = .next t) :
    isRow = true ∧ running s = true
      ∧ (s.gate.flushPending = [] ∧ ((∃ tag, p = .carard tag ∧ t = serveCarard own tag r s)
          ∨ (p = .field ∧ ∃ src rest, s.od.fieldQueue = (src, r) :: rest
            ∧ t = serveField own src r { s with od := { s.od with fieldQueue := rest } })
          ∨ (p = .field ∧ t = s))
        ∨ (s.gate.flushPending ≠ [] ∧ t = s)) := by
  unfold request at h
  split at h
  · cases h
  · split at h
    · cases h
    · rename_i h1 h2
      refine ⟨by simpa using h1, by simpa using h2, ?_⟩
      split at h
      · rename_i hf
        cases h
        exact .inr ⟨by simpa using hf, rfl⟩
      · rename_i hf
        refine .inl ⟨by simpa using hf, ?_⟩
        split at h
        · cases h
          exact .inl ⟨_, rfl, rfl⟩
        · split at h
          · rename_i src q rest e
            split at h
            · rename_i hq
              cases h
              exact .inr (.inl ⟨rfl, src, rest, by rw [e, hq], rfl⟩)
            · cases h
              exact .inr (.inr ⟨rfl, rfl⟩)
          · cases h
            exact .inr (.inr ⟨rfl, rfl⟩)

theorem request_waits {own : Own} {p : Asker} {r : List Byte} {s : State} (hr : running s = true) (hf : s.gate.flushPending ≠ []) :
    request true own p r s = .next s := by
  simp [request, hr, hf]

theorem request_carard {own : Own} {tag : BitVec 12} {r : List Byte} {s : State} (hr : running s = true)
    (hf : s.gate.flushPending = []) : request true own (.carard tag) r s = .next (serveCarard own tag r s) := by
  simp [request, hr, hf]

theorem request_field {own : Own} {src : BitVec 48} {r : List Byte} {rest : List (BitVec 48 × List Byte)} {s : State}
    (hr : running s = true) (hf : s.gate.flushPending = []) (hq : s.od.fieldQueue = (src, r) :: rest) :
    request true own .field r s = .next (serveField own src r { s with od := { s.od with fieldQueue := rest } }) := by
  unfold request
  simp only [hr, hf, hq]
  rw [if_neg (by decide), if_neg (by decide), if_neg (by decide)]
  rw [if_pos trivial]

end Sys2Proof.Machine
end

