-- ==== Sys2Proof/Tests/Slice0.lean ====
section
/-! SUPPORT. The model's own tests: ill-formed words, states and operands that meet the hypotheses of each statement, and small checks of
single commands against the spec's tables and worked examples. -/

namespace Sys2Proof.Tests

set_option Elab.async false

open Sys2Proof.Machine

/-! ### Small states -/

/-- A pair with room for 16 entries and rings at the start of companion memory, of which it has the line of its first four entries. -/
def pairOn : QueuePair :=
  { QueuePair.reset with state := .active, enable := true, tail := 8, entries := 16, sqBase := 0x800000000000, cqBase := 0x800000001000,
                         ring := [⟨0x800000000000, 0⟩] }

/-- 1 GiB of companion memory behind a Carard link that is UP and has credits, and pair 0 ACTIVE. -/
def ready : State :=
  { State.reset with
    lk := { State.reset.lk with cl := { State.reset.lk.cl with phase := .up, cbytes := 2 ^ 30, credits := List.replicate 16 4096 } },
    q := { State.reset.q with qps := State.reset.q.qps.set 0 pairOn } }

/-- The same in a turn. -/
def inTurn (t : Turn) : State := { ready with turn := { ready.turn with cur := t } }

/-- A descriptor of a class for entry 0, by its words 2 to 7. -/
def desc (cls : Nat) (w2 w3 w4 w5 w6 w7 : Nat) : Desc := ⟨w64 cls, 0, w64 w2, w64 w3, w64 w4, w64 w5, w64 w6, w64 w7⟩

/-- The same with its entry's index. -/
def descAt (idx : Nat) (d : Desc) : Desc := { d with w0 := d.w0 ||| w64 (idx * 2 ^ 32) }

/-- Stores words of 8 bytes. -/
def putWords (a : Nat) (ws : List Nat) (s : State) : State := poke s a (ws.flatMap (leBytes 8))

/-- A tensor record (R541): format code, rows, columns, elements and scales at their addresses, coarse scale 1. -/
def putTensor (a fmt rows cols elem scale : Nat) (s : State) : State :=
  putWords a [0x71 * 2 ^ 56 + fmt * 2 ^ 52 + elem, scale * 2 ^ 16, rows * 2 ^ 32 + cols, 0x3F800000 * 2 ^ 32] s

/-! ### KERNEL and TILE -/

/-- Operand n of a kernel: its record, and its elements. -/
def kRec (n : Nat) : Nat := 0x2000 + 0x100 * n
def kElem (n : Nat) : Nat := 0x4000 + 0x1000 * n

/-- Rows of the small kernels: ORTHONORM takes 4 or more. -/
def kRows (num : Nat) : Nat := if num = 0x0701 then 4 else 1

/-- A parameter block at 0x1000 that names an F32 operand of 2 columns for each slot. -/
def kState (num : Nat) : State :=
  let slots := ((kernelSpec num).map KSpec.slots).getD []
  let s := putWords 0x1000 ((List.range slots.length).map fun n => kRec n * 2 ^ 16) ready
  slots.zipIdx.foldl (fun s x => putTensor (kRec x.2) 0 (slotShape x.1.use (kRows num) 2).1 (slotShape x.1.use (kRows num) 2).2
    (kElem x.2) 0 s) s

def kDesc (num : Nat) : Desc := desc 2 (0x1000 * 2 ^ 16) (num * 2 ^ 48 + kRows num) (2 * 2 ^ 32) 0 (2 ^ 48) 0

/-- What `KernelRowsComplete` asks of a row holds of it. -/
def kernelWitness (x : Nat × (Fin 64 → Desc → Instr)) : Bool :=
  isKernel x.1 (kDesc x.1) && (kernelFields (kDesc x.1)).fuse != 1 && runsOk 0 (kDesc x.1) (kernelBody (kDesc x.1)) (kState x.1)

/-- A = 2 and B = 3 as B16 tensors of one element, and an F32 tensor Y of one element. -/
def tState : State :=
  poke (poke (putTensor 0x2200 0 1 1 0x6000 0 (putTensor 0x2100 1 1 1 0x5000 0 (putTensor 0x2000 1 1 1 0x4000 0 ready)))
    0x4000 [0x00, 0x40]) 0x5000 [0x40, 0x40]

/-- A TILE of M = N = K = 1 over them on PZ00; `flags` are bits of bytes 24 to 31, `panel` its PANEL_BASE with a DEPTH of 1. -/
def tDesc (flags panel : Nat) : Desc :=
  desc 1 (0x2000 * 2 ^ 16 + 0x1100) (0x2100 * 2 ^ 16 + flags) (0x2200 * 2 ^ 16 + 1) (2 ^ 32 + 1) (2 ^ 8)
    (2 ^ 48 + (if flags = 0 then 0 else 2 ^ 32) + panel)

/-- The state with the tile open that TERRACE_OPEN leaves. -/
def tOpened : State :=
  { tState with terr := { tState.terr with
      tiles := [⟨0, 0, 1, 1, 1, f32One, f32One, 1, [true, false], 0, none⟩], cells := [⟨0, 0, 0, 0x100C00000⟩] } }

/-- A POST pair: the TILE above, then a CONVERT of FUSE 2 with KEEP that reads Y into a record at 0x2300. -/
def fState : State := putWords 0x1000 [0x2200 * 2 ^ 16, 0x2300 * 2 ^ 16] (putTensor 0x2300 0 1 1 0x7000 0 tState)
def fDesc : Desc := descAt 1 (desc 2 (0x1000 * 2 ^ 16) (0x0101 * 2 ^ 48 + 2 * 2 ^ 46 + 2 ^ 45 + 1) (2 ^ 32) 0 (2 ^ 48) 0)
/-- A TILE alone at HEAD, one whose next entry is in a line that the pair does not have, and one of no plaza. -/
def unreadRing (s : State) : State := { s with q := { s.q with qps := s.q.qps.set 0 { pairOn with ring := [] } } }
def tileBad : Desc := { tDesc 0 0 with w7 := 0 }
theorem wit_tile_alone : nextUnknown tState 0 = false ∧ postOf tState 0 = none ∧ nextUnknown tOpened 0 = false ∧ postOf tOpened 0 = none
    ∧ nextUnknown (unreadRing tState) 0 = true ∧ canStart (unreadRing tState) 0 (tDesc 0 0) 1 = true := by decide +kernel
theorem wit_tile_refused : startsAlone (.tile 0 tileBad) 0 tileBad tState ∧ passesHead 0 tileBad tState = true ∧ tileRefused tileBad
    ∧ (Instr.tile 0 tileBad).wellFormed = true := by
  unfold startsAlone tileRefused; decide +kernel
theorem wit_tile_fails : readsAlone (classWork 0 tileBad (tileBody tileBad) tState).2 = true
    ∧ (classWork 0 tileBad (tileBody tileBad) tState).1.isOk = false
    ∧ waitsIn (classWork 0 tileBad (tileBody tileBad) tState).1 = false := by decide +kernel
theorem wit_tile : (isTile (tDesc 0 0) && runsOk 0 (tDesc 0 0) (tileBody (tDesc 0 0)) tState) = true := by decide +kernel
theorem wit_open : (isTerraceOpen (tDesc 0x4000 0) && runsOk 0 (tDesc 0x4000 0) (tileBody (tDesc 0x4000 0)) tState) = true := by
  decide +kernel
theorem wit_contribute : (isTerraceContribute (tDesc 0x4000 1)
    && runsOk 0 (tDesc 0x4000 1) (tileBody (tDesc 0x4000 1)) tOpened) = true := by
  decide +kernel
theorem wit_close : (isTerraceClose (tDesc 0x6000 1) && runsOk 0 (tDesc 0x6000 1) (tileBody (tDesc 0x6000 1)) tOpened) = true := by
  decide +kernel
theorem wit_kernels1 : (kernelRows.take 10).all kernelWitness = true := by decide +kernel
theorem wit_kernels2 : (kernelRows.drop 10).all kernelWitness = true := by decide +kernel
theorem wit_kernel_waits : (kernelFields (desc 2 0 (0x0101 * 2 ^ 48 + 2 ^ 46) 0 0 0 0)).fuse = 1
    ∧ isKernel 0x0101 (desc 2 0 (0x0101 * 2 ^ 48 + 2 ^ 46) 0 0 0 0) = true := by decide +kernel
theorem wit_fused : fusedRunsOk 0 (tDesc 0 0) fDesc fState = true := by decide +kernel

/-! ### ATTN and SAMPLE -/

/-- One query token on one page at 0x100000: Q and dO in F8A, O, dQ, K and V in F32, LSE, and a page-table entry each for keys and
gradients. The pass decides which slots the block at 0x1000 names. -/
def aState (pass : Nat) : State :=
  let slot := fun n fmt => (0x2000 + 0x100 * n) * 2 ^ 16 + fmt * 2 ^ 12
  let used := match pass with
    | 0 => [slot 0 2, slot 1 0, slot 2 0]
    | 1 => [slot 0 2, slot 1 0, slot 2 0, 0, 0, slot 5 2, slot 6 0]
    | _ => [0, 0, 0, slot 3 0, slot 4 0]
  let wide := fun n s => putTensor (0x2000 + 0x100 * n) 0 1 (if n = 2 then 1 else 64) (0x4000 + 0x1000 * n) 0 s
  let narrow := fun n s => putTensor (0x2000 + 0x100 * n) 2 1 64 (0x4000 + 0x1000 * n) (0x4800 + 0x1000 * n) s
  let s := putWords 0x1000 used ready
  let s := wide 1 (wide 2 (wide 3 (wide 4 (wide 6 (narrow 0 (narrow 5 s))))))
  let s := putWords 0x1100 [0x1200 * 2 ^ 16, if pass = 1 then 0x1300 * 2 ^ 16 else 0, 0, 2 ^ 43 + 2 ^ 22] s
  putWords 0x1300 [0x200000 * 2 ^ 16] (putWords 0x1200 [0x100000 * 2 ^ 16 + 2] s)

def aDesc (pass : Nat) : Desc :=
  desc 3 (0x1000 * 2 ^ 16) (0x1100 * 2 ^ 16 + 1) (pass * 2 ^ 62 + 2 * 2 ^ 56 + 2 ^ 48 + 2 ^ 40) (0x3F800000 * 2 ^ 32)
    (0x3F800000 * 2 ^ 32 + 0x3F800000) (2 ^ 48)

/-- Two logits in F32 for one sequence, and a sampling record of temperature 1 and top-p 1; in VERIFY the draft's logits too. -/
def sState : State :=
  let s := putTensor 0x2100 0 1 2 0x5000 0 (putTensor 0x2000 0 1 2 0x4000 0 ready)
  let s := putWords 0x1100 [0x3F800000 * 2 ^ 32 + 0x3F800000, 0, 0, 0] s
  putWords 0x1000 [0, 0, 0x1100 * 2 ^ 16 + 0xFFFF, 0] s

def sDesc (mode : Nat) : Desc :=
  desc 4 (0x2000 * 2 ^ 16) (0x1000 * 2 ^ 16 + 1) ((if mode = 1 then 0x2100 * 2 ^ 16 else 0) + mode * 2 ^ 10) 2 (0x8000 * 2 ^ 16) (2 ^ 48)
theorem wit_attn : (List.range 3).all (fun p => isAttn p (aDesc p) && runsOk 0 (aDesc p) (attnBody (aDesc p)) (aState p)) = true := by
  decide +kernel
theorem wit_sample : (List.range 2).all (fun p => isSample p (sDesc p) && runsOk 0 (sDesc p) (sampleBody (sDesc p)) sState) = true := by
  decide +kernel

/-- What the clause of failing starts asks of a row, of a descriptor of no plaza or of a CARE with RND 3. -/
def failWitness (d : Desc) (body : M Unit) (s : State) : Bool :=
  passesHead 0 d s && readsAlone (classWork 0 d body s).2 && !(classWork 0 d body s).1.isOk && !waitsIn (classWork 0 d body s).1
def attnBad (p : Nat) : Desc := { aDesc p with w7 := 0 }
def sampleBad (m : Nat) : Desc := { sDesc m with w7 := 0 }
theorem wit_attn_fails : ((List.range 3).all fun p => isAttn p (attnBad p) && failWitness (attnBad p) (attnBody (attnBad p)) (aState p)) = true
    ∧ attnRefused (attnBad 0) := by unfold attnRefused; decide +kernel
theorem wit_sample_fails :
    ((List.range 2).all fun m => isSample m (sampleBad m) && failWitness (sampleBad m) (sampleBody (sampleBad m)) sState) = true
    ∧ sampleRefused (sampleBad 0) := by unfold sampleRefused; decide +kernel

/-! ### CARE -/

/-- One bucket of one care record of SGD with momentum over 2 elements, all in stack 0's LOCAL window: gradients 1, learning rate 0.5. -/
def cState (t : Turn) : State :=
  let l := 2 ^ 40
  let one := 0x3F800000
  let s := { inTurn t with stash := { ready.stash with tag := 5 } }
  let s := putWords l [0xCA * 2 ^ 56 + 2 ^ 54, (l + 0x100) * 2 ^ 16, 0x2000 * 2 ^ 16, 0, 0x2100 * 2 ^ 16, (l + 0x400) * 2 ^ 16 + 2 * 2 ^ 12,
    2 * 2 ^ 24 + 1, one * 2 ^ 32] s
  let s := putTensor 0x2000 0 1 2 (l + 0x200) 0 (putTensor 0x2100 0 1 2 (l + 0x300) 0 s)
  let s := putTensor 0x2200 2 1 2 (l + 0x500) (l + 0x600) (putTensor 0x2300 2 1 2 (l + 0x700) (l + 0x800) s)
  let s := putWords (l + 0x400) [0xB2 * 2 ^ 56 + 0x2200, 0x2300, 0, 0] s
  let s := putWords (l + 0x100) [one * 2 ^ 32 + one] (putWords (l + 0x300) [one * 2 ^ 32 + one] s)
  let s := putWords 0x1000 [0x3F000000, 0, 0, one * 2 ^ 32, 0, 0, 0, 0] s
  putWords 0x1080 [l] (putWords 0x1040 [0xBC * 2 ^ 56, 0, 0, 5 * 2 ^ 32 + 2 * 2 ^ 28, 0, 0, 0, 0] s)

def cDesc (phase : Nat) : Desc :=
  let up := phase = 0 ∨ phase = 2
  desc 6 (0x1080 * 2 ^ 16 + 1) ((if up then 0x1000 * 2 ^ 16 else 0) + phase * 2 ^ 12) (if up then 0x1040 * 2 ^ 16 else 0) 0 0 0
theorem wit_care : (List.range 4).all (fun p => isCare p (cDesc p) && runsOk 0 (cDesc p) (careBody (cDesc p)) (cState .learn)) = true := by
  decide +kernel

def careBad (p : Nat) : Desc := { cDesc p with w3 := (cDesc p).w3 ||| 12 }
theorem wit_care_fails :
    ((List.range 4).all fun p => isCare p (careBad p) && failWitness (careBad p) (careBody (careBad p)) (cState .learn)) = true
    ∧ careRefused (careBad 0) := by unfold careRefused; decide +kernel

/-! ### VERSION -/

/-- A command key, and the epoch that a critical command's tag names. -/
def keyed (s : State) : State :=
  { s with persist := { s.persist with keys := s.persist.keys.set 0 (.programmed 7) }, sec := { s.sec with epoch := 9 } }

/-- A critical descriptor under counter 1, and the tag of its words under key 7 and epoch 9 (R540, R653). -/
def critical (cls w2 w3 w4 tag0 tag1 : Nat) : Desc := desc cls w2 w3 w4 1 tag0 tag1

/-- In GENERATE: version slot 1 and adapter slot 2 LIVE, the latter of key 3, and a view table at 0x3000 that names a tensor record. -/
def vState : State :=
  let s := putWords 0x3000 [0x2000] (putTensor 0x2000 0 1 1 0x4000 0 (keyed (inTurn .generate)))
  { s with vers := s.vers.set 1 ⟨.live, 8, 0, 0x3000, 1, 0, false⟩, adapters := s.adapters.set 2 ⟨.live, 1, 3, 0x3000, 1, 0, false⟩ }

/-- PUBLISH into slot 0, RETIRE of slot 1, LOAD_ADAPTER of key 4 into slot 0, RETIRE_ADAPTER of key 3. -/
def vDesc (op : Nat) : Desc :=
  match op with
  | 0 => critical 11 (0x3000 * 2 ^ 16) (9 * 2 ^ 32) (2 ^ 32) 0x773C2DCF4F9231B1 0x1CD133206EDC6B8D
  | 1 => critical 11 (1 * 2 ^ 12 + 1) 0 0 0x5B85FBE1CA4CCCD2 0x91A9C8253848AFC5
  | 2 => critical 11 (0x3000 * 2 ^ 16 + 2 * 2 ^ 12) (4 * 2 ^ 16) (2 ^ 32) 0x146CEEA5367930B4 0x28E41B0F3893F947
  | _ => critical 11 (3 * 2 ^ 12) (3 * 2 ^ 16) 0 0x892FF476BECF5AE8 0xD9A804FAC9F7B3E2

def versionWitness (op : Nat) : Bool := isVersion op (vDesc op) && runsOk 0 (vDesc op) (versionBody (vDesc op)) vState

theorem wit_publish : versionWitness 0 = true := by decide +kernel
theorem wit_retire : versionWitness 1 = true := by decide +kernel
theorem wit_load_adapter : versionWitness 2 = true := by decide +kernel
theorem wit_retire_adapter : versionWitness 3 = true := by decide +kernel

/-- A slot that retires, held by no sequence. -/
def retiringState : State := { ready with vers := ready.vers.set 1 ⟨.retiring, 8, 0, 0x3000, 1, 0, false⟩ }
theorem wit_slot_freed : running retiringState = true ∧ (getSlot retiringState (.version 1)).state = .retiring
    ∧ slotRefs retiringState (.version 1) = 0 := by decide +kernel

/-! ### SHARD, MOVE and REDUCE -/

/-- A record of a group of this module alone at 0x1000, and a shard map at 0x1100 of one protected entry: 256 bytes to the start of the
LOCAL windows; a district caches the map's line and the entry's. -/
def shState : State :=
  let s := putWords 0x800000010000 [0x3A * 2 ^ 56 + 1, 0, 0, 0, 0xFFFF * 2 ^ 48 + 0x800000020000, 2 ^ 48 + 2 ^ 40, 256, 0] ready
  let s := putWords 0x1000 [5 * 2 ^ 32 + 2 ^ 16 + 2 ^ 8, 0xFF * 2 ^ 32, 0xFFFFFFFFFFFFFF00, 0xFFFFFFFFFFFFFFFF] s
  { s with stk := { s.stk with dcache := [0x800000010000, 0x800000020000] } }

/-- An operation of SHARD: LOAD of that map, PROTECT and ZERO of 256 bytes at the LOCAL windows' start, UNPROTECT, GATHER, REBUILD. -/
def shDesc (op : Nat) : Desc :=
  match op with
  | 0 => desc 7 (0x800000010000 * 2 ^ 16) 0 (0x1000 * 2 ^ 16) 0 0 0
  | 4 => desc 7 (4 * 2 ^ 12) 0 0 0 0 0
  | op => desc 7 (2 ^ 56 + op * 2 ^ 12) 0 0 0 256 0

/-- MOVE: COPY of 32 bytes, COPY_TENSOR between a record and a pair of the same shape, ARM of one line, DISARM. -/
def mState : State :=
  putWords 0x2300 [0xB2 * 2 ^ 56 + 0x2100, 0x2200, 0, 0]
    (putTensor 0x2200 0 1 2 0x6000 0 (putTensor 0x2100 0 1 2 0x5000 0 (putTensor 0x2000 0 1 2 0x4000 0 ready)))

def mDesc (op : Nat) : Desc :=
  match op with
  | 0 => desc 8 (0x4000 * 2 ^ 16) (0x5000 * 2 ^ 16) 32 0 0 0
  | 1 => desc 8 (0x2000 * 2 ^ 16 + 2 ^ 12) (0x2300 * 2 ^ 16) 0 0 0 0
  | 2 => desc 8 (0x4000 * 2 ^ 16 + 2 * 2 ^ 12) 0 0 (256 * 2 ^ 32 + 1) (2 ^ 8) 0
  | _ => desc 8 (3 * 2 ^ 12) 0 0 0 0 0

def shardWitness (op : Nat) (body : Desc → M Unit) : Bool := isShard op (shDesc op) && runsOk 0 (shDesc op) (body (shDesc op)) shState

theorem wit_load : shardWitness 0 loadBody = true := by decide +kernel
theorem wit_protect : shardWitness 3 protectBody = true := by decide +kernel
theorem wit_unprotect : isShard 4 (shDesc 4) = true ∧ passesHead 0 (shDesc 4) shState = true
    ∧ shardFieldsOk (shDesc 4) (shardFields (shDesc 4)) = true ∧ shardTurn 4 shState.turn.cur = true := by decide +kernel
theorem wit_zero : shardWitness 5 zeroBody = true ∧ SharesLegal shState ∧ untouched shState (2 ^ 40) 256 ∧ MemoryCanonical shState
    ∧ noRunAt shState (2 ^ 40) 256 ∧ outsideRuns shState 0 := by
  unfold SharesLegal untouched MemoryCanonical noRunAt outsideRuns; decide +kernel
/-- A ZERO of companion memory, and a COPY from 0x4001. -/
theorem wit_zero_outside : isShard 5 (desc 7 (2 ^ 63 + 5 * 2 ^ 12) 0 0 0 256 0) = true
    ∧ passesHead 0 (desc 7 (2 ^ 63 + 5 * 2 ^ 12) 0 0 0 256 0) shState = true
    ∧ inStackRegion (shardFields (desc 7 (2 ^ 63 + 5 * 2 ^ 12) 0 0 0 256 0)).a 256 = false := by decide +kernel
theorem wit_copy_misaligned : isMove 0 (desc 8 (0x4001 * 2 ^ 16) (0x5000 * 2 ^ 16) 32 0 0 0) = true
    ∧ passesHead 0 (desc 8 (0x4001 * 2 ^ 16) (0x5000 * 2 ^ 16) 32 0 0 0) mState = true
    ∧ (moveFields (desc 8 (0x4001 * 2 ^ 16) (0x5000 * 2 ^ 16) 32 0 0 0)).src % 16 = 1 := by decide +kernel
theorem wit_moves : (List.range 4).all (fun op => isMove op (mDesc op) && runsOk 0 (mDesc op) (moveBody (mDesc op)) mState) = true := by
  decide +kernel
theorem wit_copy : SharesLegal mState ∧ untouched mState 0x4000 32 ∧ untouched mState 0x5000 32 ∧ MemoryCanonical mState
    ∧ noRunAt mState 0x5000 32 := by
  unfold SharesLegal untouched MemoryCanonical noRunAt; decide +kernel
theorem wit_exchanges : ((List.range 3).all fun op => isReduce op (desc 5 (op * 2 ^ 12) 0 0 0 0 0)
      && passesHead 0 (desc 5 (op * 2 ^ 12) 0 0 0 0 0) (inTurn .learn)) = true
    ∧ ([1, 2].all fun op => isShard op (shDesc op) && passesHead 0 (shDesc op) shState) = true := by decide +kernel
theorem wit_reserved : isReserved (desc 12 0 0 0 0 0 0) = true ∧ holdsPair (desc 12 0 0 0 0 0 0) = false
    ∧ headStatus 0 (desc 12 0 0 0 0 0 0) ready = .badDescriptor ∧ canStart ready 0 (desc 12 0 0 0 0 0 0) 1 = true
    ∧ isReserved (desc 8 (5 * 2 ^ 12) 0 0 0 0 0) = true ∧ headStatus 0 (desc 8 (5 * 2 ^ 12) 0 0 0 0 0) ready = .ok := by decide +kernel

/-! ### Turns, fences and completion -/

/-- TURN to SWITCH_LEARN with sequence 1, and the same with a reserved bit set; their tags are those of their words (R49, R51). -/
def turnDesc : Desc := critical 10 (2 ^ 32 + 2) 0 0 0x813B73E77743B967 0x76DC91354D2F7ED6
def turnBad : Desc := critical 10 (2 ^ 32 + 2 + 8) 0 0 0xC0BE7F0F481F59AB 0xEEBE394417D37E68

/-- A TURN of pair 0 to a target with sequence 1, and its transition. -/
def reqTo (target version : Nat) : TurnReq := ⟨0, 0, 1, target, version, false, 0, true⟩
def transTo (target version : Nat) : TurnTrans := ⟨reqTo target version, false, 5, 0, 0⟩
def withTrans (t : TurnTrans) (s : State) : State := { s with turn := { s.turn with trans := some t } }
def withWaiting (r : TurnReq) (s : State) : State := { s with turn := { s.turn with waiting := [r] } }

/-- An uncompleted descriptor of a pair. -/
def flying (qp : Fin 64) (idx : W32) (cls : Nat) (a : Await) : InFlight :=
  { (default : InFlight) with qp := qp, idx := idx, cls := cls, await := a, status := .ok, info := List.replicate 16 0, notify := false }

/-- A state with descriptors in flight that were started in their order, before the next. -/
def withFlight (l : List InFlight) (s : State) : State :=
  { s with q := { s.q with nextOrder := 5, inflight := l, qps := s.q.qps.set 0 { pairOn with head := 1 } } }

def headOk (d : Desc) (s : State) : Bool := running s && canStart s 0 d 1 && headStatus 0 d s == .ok

theorem wit_turn_accepted : (isTurn turnDesc && headOk turnDesc (keyed ready) && turnFieldsOk turnDesc
    && (keyed ready).turn.trans.isNone && (keyed ready).turn.waiting.isEmpty) = true
      ∧ turnPasses (turnReq 0 (headIdx ready 0) turnDesc) (keyed ready) := by
  unfold turnPasses; decide +kernel
theorem wit_turn_refused : (isTurn turnDesc && headOk turnDesc (keyed (inTurn .learn))) = true
    ∧ ¬turnPasses (turnReq 0 (headIdx ready 0) turnDesc) (keyed (inTurn .learn)) := by
  unfold turnPasses; decide +kernel
theorem wit_turn_waits : (isTurn turnDesc && headOk turnDesc (withTrans (transTo 4 0) (keyed ready))
    && headOk turnDesc (withWaiting (reqTo 2 0) (keyed ready))) = true := by decide +kernel
theorem wit_turn_bad : (isTurn turnBad && headOk turnBad (keyed ready) && !turnFieldsOk turnBad) = true := by decide +kernel

theorem wit_turn_resumed : running (withWaiting (reqTo 2 0) ready) = true ∧ ready.turn.trans = none ∧ turnPasses (reqTo 2 0) ready
    ∧ ¬turnPasses (reqTo 1 0) ready ∧ { reqTo 2 0 with fieldsOk := false }.fieldsOk = false := by unfold turnPasses; decide +kernel
/-- In GENERATE with one sequence that a TURN to SWITCH_LEARN has yet to set aside, and a ring for its record. -/
def unsettledState : State :=
  let s := withTrans (transTo 2 0) (inTurn .generate)
  { s with sched := { s.sched with slots := [default], recBase := 0x800000100000, recBytes := w64 0x400000 } }

theorem wit_turn_records : ringOutside (withWaiting (reqTo 1 0) ready) 0 ∧ recordReady ready 0 = true
    ∧ recordReady (withFlight [flying 0 0 10 .turn] ready) 0 = true := by
  unfold ringOutside; decide +kernel
theorem wit_turn_timeout : stillDraining (transTo 2 0) unsettledState = true ∧ running unsettledState = true
    ∧ stillDraining (transTo 2 0) (withTrans (transTo 2 0) (withFlight [flying 0 0 2 .nothing] (inTurn .learn))) = true := by decide +kernel

/-- A TURN from LEARN to READY that awaits the step fence in flight. -/
def awaitingFence : State :=
  withTrans { transTo 0 0 with needFence := true } (withFlight [flying 0 0 9 .stepFence] (inTurn .learn))
theorem wit_turn_entry : drained (transTo 2 0) (withTrans (transTo 2 0) ready) = true ∧ Turn.ofCode 2 = some .switchLearn
    ∧ (afterAwaited (transTo 2 0) (withTrans (transTo 2 0) ready)).isSome = true
    ∧ settleRoom (transTo 2 0) unsettledState = true ∧ unsettled (reqTo 2 0) unsettledState ≠ []
    ∧ (afterAwaited { transTo 0 0 with needFence := true } awaitingFence).isSome = true
    ∧ drained { transTo 0 0 with needFence := true } awaitingFence = true
    ∧ canEnter (transTo 1 0xFF) (withTrans (transTo 1 0xFF) (inTurn .switchGenerate)) = true ∧ Turn.ofCode 1 = some .generate
    ∧ namedStart (reqTo 1 0xFF) (inTurn .switchGenerate) = none ∧ namedStart (reqTo 1 1) vState ≠ none := by decide +kernel
theorem wit_turn_moves : ∃ t, exec (.turnEntry 3) (withTrans (transTo 2 0) ready) = .next t ∧ t.turn.cur = .switchLearn :=
  ⟨_, by rfl, by decide +kernel⟩

/-- A FENCE of a kind; a WAIT names pair 1. -/
def fenceDesc (kind : Nat) : Desc := desc 9 (kind + if kind = 1 then 2 ^ 8 else 0) 0 0 0 0 0

theorem wit_fences : (List.range 4).all (fun k => isFenceKind k (fenceDesc k) && headOk (fenceDesc k) ready
    && fenceFieldsOk 0 (fenceDesc k)) = true := by decide +kernel
theorem wit_fence_bad : (List.range 4).all (fun k => let d := { fenceDesc k with w7 := 1 }
    isFenceKind k d && headOk d ready && !fenceFieldsOk 0 d) = true := by decide +kernel

/-- What `StepFenceActs` asks of every state, for the fence at entry 1. -/
def stepFenceAsks (s : State) : Bool :=
  let d := descAt 1 (fenceDesc 2)
  isFenceKind 2 d && headOk d s && fenceFieldsOk 0 d && (findInFlight s 0 (headIdx s 0)).isNone

/-- A state with no descriptor before the fence, its stash state and its open tiles. -/
def stepAt (st : StashState) (s : State) : State :=
  let s := withFlight [] s
  { s with stash := { s.stash with state := st } }

theorem wit_step_fence : (stepFenceAsks (withFlight [flying 1 0 2 .nothing] ready)
    && !allQuiet (withFlight [flying 1 0 2 .nothing] ready) 5
    && [stepAt .exhausted ready, stepAt .opened tOpened, stepAt .downgrading ready].all fun s =>
      stepFenceAsks s && allQuiet s s.q.nextOrder && copiesThere s) = true
    ∧ (stepAt .opened tOpened).terr.tiles ≠ [] ∧ (stepAt .downgrading ready).terr.tiles = [] := by decide +kernel

/-- A pair that waits for enable with one descriptor in flight. -/
def pendingPair : State :=
  let s := withFlight [flying 0 0 2 .nothing, flying 1 0 2 .turn] ready
  { s with q := { s.q with qps := s.q.qps.set 0 { pairOn with state := .enablePending, head := 1 } } }

theorem wit_completion : running pendingPair = true ∧ findInFlight pendingPair 0 0 = some (flying 0 0 2 .nothing)
    ∧ (completion (flying 0 0 2 .nothing) pendingPair).map Prod.fst = some (flying 0 0 2 .nothing)
    ∧ secondOf (flying 0 0 2 .nothing) pendingPair = none
    ∧ companionBase ≤ (pendingPair.q.qps[(0 : Fin 64)]).cqBase.toNat
    ∧ (findInFlight pendingPair 1 0).bind (fun e => completion e pendingPair) = none := by decide +kernel
theorem wit_completion_enables :
    ∃ t, exec (.descriptorComplete 0 0) pendingPair = .next t ∧ (t.q.qps[(0 : Fin 64)]).state = .active
      ∧ (t.q.qps[(0 : Fin 64)]).produced = 1 := ⟨_, by rfl, by decide +kernel, by decide +kernel⟩

/-- The two entries of a fused pair, whose second waits for the first. -/
def pairFlying : State :=
  withFlight [flying 0 0 1 .nothing, { flying 0 1 2 .nothing with follows := some ⟨fDesc, [], fState.defaults, false⟩ }] fState
theorem wit_second : findInFlight pairFlying 0 0 = some (flying 0 0 1 .nothing)
    ∧ (completion (flying 0 0 1 .nothing) pairFlying).isSome = true ∧ (secondOf (flying 0 0 1 .nothing) pairFlying).isSome = true
    ∧ (secondOf { flying 0 0 1 .nothing with status := .unitReset } pairFlying).isSome = true
    ∧ recordReady pairFlying 0 = true := by decide +kernel

/-- A VERSION that waits to complete. -/
theorem wit_version_completes : ∃ e, findInFlight (withFlight [flying 0 0 11 (.version (vDesc 0))] vState) 0 0 = some e
    ∧ e.await = .version (vDesc 0) ∧ e.status = .ok ∧ e.follows = none ∧ writesDone vState e = true
    ∧ recordReady (versionCompletion (flying 0 0 11 (.version (vDesc 0))) (vDesc 0) vState).2 0 = true
    ∧ (versionFields (vDesc 0)).slot < 4 := ⟨flying 0 0 11 (.version (vDesc 0)), by decide +kernel⟩

/-- Both entries of a POST pair at HEAD: TAIL covers the KERNEL of FUSE 2 after the TILE. -/
def postState : State := putWords 0x800000000040 ([fDesc.w0, fDesc.w1, fDesc.w2, fDesc.w3, fDesc.w4, fDesc.w5, fDesc.w6,
    fDesc.w7].map BitVec.toNat) fState
theorem wit_post_pair : postOf postState 0 = some fDesc ∧ postOf ready 0 = none
    ∧ pairMayStart 0 (tDesc 0 0) { fDesc with w1 := 1 } fState = true ∧ isFused (tDesc 0 0) { fDesc with w1 := 1 } = true
    ∧ pairHeadStatus 0 (tDesc 0 0) { fDesc with w1 := 1 } fState = .badDescriptor
    ∧ pairHeadStatus 0 { tDesc 0 0 with w0 := 2 ^ 32 + 1 } fDesc fState = .badSequence
    ∧ holdsPair (desc 2 0 (0x0101 * 2 ^ 48 + 2 ^ 46) 0 0 0 0) = true := by decide +kernel

/-- Stack 0 in reset, and a pair whose link has no credits left for its record's WR. -/
def stackReset : State := setUnit (.stack 0) { (ready.units.get (.stack 0)) with state := .resetting } ready
def noCredits : State := setLink .cl { pendingPair.lk.cl with credits := List.replicate 16 0 } pendingPair
theorem wit_record_waits : recordReady noCredits 0 = false ∧ recordReady pendingPair 0 = true ∧ ringOutside noCredits 0
    ∧ (completion (flying 0 0 2 .nothing) noCredits).map Prod.fst = some (flying 0 0 2 .nothing)
    ∧ findInFlight noCredits 0 0 = some (flying 0 0 2 .nothing) ∧ MemoryCanonical pendingPair ∧ waitsStill (flying 0 0 10 .turn) ready = true
    ∧ waitsStill { flying 0 1 2 .nothing with follows := some ⟨fDesc, [], fState.defaults, false⟩ } ready = true := by
  unfold ringOutside MemoryCanonical; decide +kernel
theorem wit_refused_fences : ringOutside (withFlight [flying 0 0 9 .stepRefused] ready) 0
    ∧ writesDone ready (flying 0 0 9 (.waitRefused 1)) = true
    ∧ (flying 0 0 9 .stepRefused).follows = none
      ∧ findInFlight (withFlight [flying 0 0 9 .stepRefused] ready) 0 0 = some (flying 0 0 9 .stepRefused) := by
  unfold ringOutside; decide +kernel

/-- A WAIT fence of pair 0 on index 4 of pair 1. -/
def waiting : State := withFlight [flying 0 0 9 (.waitFence 1 4)] ready
theorem wit_wait_timeout : findInFlight waiting 0 0 = some (flying 0 0 9 (.waitFence 1 4)) ∧ hasRetired waiting 1 4 = false
    ∧ recordReady waiting 0 = true := by
  decide +kernel

theorem wit_held_back : heldBack (withFlight [flying 1 0 9 .drainFence] ready) 0 (tDesc 0 0) ∧ heldBack State.reset 0 (tDesc 0 0)
    ∧ isFused (tDesc 0 0) fDesc = true := by
  unfold heldBack; decide +kernel

/-- One entry for each check of `HeadChecksDecideInOrder`, and one that passes them. -/
theorem wit_head_checks : (headStatus 0 (descAt 1 (tDesc 0 0)) ready = .badSequence)
    ∧ headStatus 0 (tDesc 0 0) { ready with sec := { ready.sec with limited := 1 } } = .limitedMode
    ∧ headStatus 0 { tDesc 0 0 with w1 := 1 } ready = .badDescriptor ∧ headStatus 0 turnDesc ready = .authFail
    ∧ headStatus 0 (desc 3 0 0 0 0 0 0) (inTurn .switchLearn) = .wrongTurn ∧ headStatus 0 (tDesc 0 0) ready = .ok
    ∧ canStart ready 0 (tDesc 0 0) 1 = true ∧ holdsPair (tDesc 0 0) = false := by decide +kernel

/-! ### Requests -/

/-- A request (R613) of an OPC to an object, with its data. -/
def reqOf (opc idx sub : Nat) (data : List Byte) : List Byte :=
  [BitVec.ofNat 8 opc, 0, 0, 0] ++ leBytes 2 idx ++ [BitVec.ofNat 8 sub, 0] ++ leBytes 2 data.length ++ [0, 0] ++ data

/-- A WRITE of a value of n bytes. -/
def wr (idx sub n v : Nat) : List Byte := reqOf 2 idx sub (leBytes n v)

/-- A WRITE_AUTH under counter 1 with its tag (R649, R652). -/
def wrAuth (idx sub n v tag : Nat) : List Byte := reqOf 3 idx sub (leBytes n v) ++ leBytes 8 1 ++ leBytes 16 tag

def dbg (s : State) : State := { s with sec := { s.sec with debugMode := true } }
def unitSel (c i : Nat) (s : State) : State := setSel .carard { selOf s .carard with cls := c, inst := i } s
/-- A state in which every object of `writeCases` takes its write: a second key, a staged bundle, a running one of security version 1. -/
def wState : State :=
  { (keyed ready) with
    persist := { (keyed ready).persist with debugPermitted := true, keys := ⟨#[.programmed 6, .programmed 7, .blank, .blank], rfl⟩ },
    sec := { (keyed ready).sec with stagingState := 2, running := some { (default : BundleInfo) with sv := 1 } } }

/-- The same with a unit selected, and in debug mode. -/
def wUnit (cls : Nat) : State := setSel .carard { selOf wState .carard with cls := cls, inst := 0 } wState
def wDebug : State := { (wUnit 2) with sec := { wState.sec with debugMode := true } }

/-- A state and a write in it, for each row of `objectRows`; the tags are those of the requests' bytes under key 7 and epoch 9. -/
def writeCases : List (State × List Byte) :=
  [(wState, wr 0x2800 2 1 1),
   (wState, wr 0x2802 4 1 1),
   (wState, wr 0x2B00 1 1 8),
   (wDebug, wr 0x6200 3 1 1),
   (wDebug, wr 0x6100 3 8 5),
   (wState, wr 0x2C01 4 1 1),
   (wState, wr 0x2600 3 4 0x400000),
   (wState, wrAuth 0x2600 3 4 0x400000 0x921DC1833D319E8496B5103A2FA6EAE6),
   (wState, wr 0x2000 1 1 1),
   (wState, wr 0x1040 3 4 1),
   (wState, wr 0x1040 2 4 1)]
  ++ [(wUnit 1, wr 0x2100 5 1 1),
   (wUnit 1, wrAuth 0x2100 6 1 1 0x77FE76866712DC5179FEBC10DF26D335),
   (wState, wrAuth 0x5000 3 32 8 0x6C72A28BAD9174AEF7585BE5F9E79ACD),
   (wState, wrAuth 0x5000 5 1 0 0x76647332EADA83ABE35FB5958A34C771),
   (wState, wr 0x5200 2 1 1),
   (wState, wr 0x5100 1 1 1),
   (wState, wr 0x5800 1 1 1),
   (wState, wrAuth 0x5800 6 1 1 0xDB991758E70491E55E1F8C39E7E6D5FF),
   (wState, wrAuth 0x5800 6 1 2 0x9EFC518730C1B8E4A0A39837D7A366F9),
   (wState, wrAuth 0x5800 6 1 0 0xACE5EAC0A8B5EF05DED3E09DB68290E0)]
  ++ [(wState, wrAuth 0x5800 8 4 1 0x430E31E897EA8F2BACA3D5BC0637B1C8),
   (wState, wrAuth 0x6000 1 1 1 0x5900222976AB801E2AA8DF20DD547AF2),
   (wState, wrAuth 0x6000 1 1 0 0xB8F495147F9FC33A9873AFCB1D930845),
   (wDebug, wrAuth 0x6000 3 1 1 0xFBE365A36F2F47308A9034EE7541B71C),
   (wState, wrAuth 0x3100 1 1 1 0xE4F12288789556FB9DBB56598654D2D1),
   (wState, wrAuth 0x3100 2 1 1 0xB2F86F44033DCB7A8A7B7A2745DC1C45),
   (wState, wr 0x3000 1 1 0),
   (wState, wr 0x3000 1 1 1),
   (wState, wr 0x3000 1 1 2)]

/-- What `WritesFollowTheirObjectsRule` asks of a row holds, and its rule takes the write. -/
def writeWitness (x : ObjectRow × (State × List Byte)) : Bool :=
  (x.1.1 (.carard 0) x.2.2).wellFormed && match reqState (.carard 0) x.2.2 x.2.1 with
    | none => false
    | some u => writeReaches .carard x.2.2 u && match x.1.2 .carard x.2.2 (authState x.2.2 u) with
      | .ok _ => true
      | .error _ => false

theorem wit_writes1 : ((objectRows.zip writeCases).take 11).all writeWitness = true := by decide +kernel
theorem wit_writes2 : (((objectRows.zip writeCases).drop 11).take 10).all writeWitness = true := by decide +kernel
theorem wit_writes3 : ((objectRows.zip writeCases).drop 21).all writeWitness = true ∧ writeCases.length = objectRows.length := by
  decide +kernel

/-- A write that its object's rule refuses: a stall time of 0 (R446). -/
theorem wit_write_refused : writeReaches .carard (wr 0x2600 4 4 0) (servedState (wr 0x2600 4 4 0) ready) = true
    ∧ (match ownSet .carard (wr 0x2600 4 4 0) (servedState (wr 0x2600 4 4 0) ready) with
      | .ok _ => 0
      | .error a => a) = 0x03000002 := by decide +kernel

/-- The field path's oldest request is served in its turn. -/
def fieldQueued (r : List Byte) : State := { ready with od := { ready.od with fieldQueue := [(5, r)] } }
theorem wit_field_request : (reqState .field (reqOf 1 0x1000 1 []) (fieldQueued (reqOf 1 0x1000 1 []))).isSome = true := by
  decide +kernel

/-- One request for each of the checks of `FirstFailingCheckAborts` but the holder's and the last, and its abort. -/
def abortCases : List (List Byte × Nat) :=
  [(reqOf 1 0x1000 1 [1], 0x07000001), (reqOf 9 0 0 [], 0x07000002), (reqOf 1 0x7777 1 [], 0x01000001),
   (reqOf 1 0x1000 77 [], 0x01000002), (reqOf 1 0x6100 1 [], 0x04000002), (wr 0x1000 1 4 0, 0x02000001),
   (reqOf 1 0x5200 2 [], 0x02000002), (wr 0x3100 1 1 1, 0x02000003), (wrAuth 0x3100 1 1 1 0, 0x06000001), (wr 0x2600 3 2 1, 0x03000001),
   (wr 0x2C01 4 1 2, 0x03000002)]

theorem wit_aborts : abortCases.all (fun x => firstAbort .carard x.1 (servedState x.1 ready) == x.2
    && ((requestRows (.carard 0) x.1).filter Instr.wellFormed).length == 1) = true := by decide +kernel
/-- A TILE runs on the plaza whose accumulators a request names. -/
theorem wit_debug_busy : firstAbort .carard (wr 0x6100 3 8 5)
      (servedState (wr 0x6100 3 8 5) (withFlight [{ flying 0 0 1 .nothing with units := [.plaza 0] }] wDebug)) = 0x04000001 := by
  decide +kernel
theorem wit_not_holder : firstAbort .field (wr 0x2600 4 4 9) (fieldState 5 [] (fieldQueued (wr 0x2600 4 4 9))) = 0x05000001 := by
  decide +kernel

theorem wit_reads : (readReaches .carard (reqOf 1 0x2200 1 []) (servedState (reqOf 1 0x2200 1 []) ready)).isSome = true
    ∧ (Instr.read (.carard 0) (reqOf 1 0x2200 1 [])).wellFormed = true
    ∧ (readReaches .carard (reqOf 1 0x2500 4 []) (servedState (reqOf 1 0x2500 4 []) ready)).isSome = true
    ∧ (Instr.probeWindow (.carard 0) (reqOf 1 0x2500 4 [])).wellFormed = true := by decide +kernel

/-- The session held by the Carard path, or by nobody. -/
def sessionAt (x : SessionState) (s : State) : State := { s with od := { s.od with session := x } }

theorem wit_sessions : ([4, 5, 6].all fun o => !malformed (reqOf o 0 0 []) && reqOpc (reqOf o 0 0 []) == o) = true
    ∧ ready.od.holder = .carard
    ∧ (fieldState 5 [] (sessionAt .held (fieldQueued (reqOf 5 0 0 [])))).od.session = .held
    ∧ (fieldState 5 [] (sessionAt .released (fieldQueued (reqOf 5 0 0 [])))).od.session ≠ .held
    ∧ (sessionAt .held ready).od.session = .held := by decide +kernel

/-- A frame with a request for this module. -/
def frameOf (dst : BitVec 48) (bytes : List Byte) : FieldFrame := { dst := dst, src := 5, etherType := 0x88B5, bytes := bytes }
def keepAlive : List Byte := reqOf 4 0 0 []
def keptState : State := { ready with od := { ready.od with kept := some (5, keepAlive, [1]) } }
def fullQueue : State := { ready with od := { ready.od with fieldQueue := List.replicate 8 (6, keepAlive) } }

theorem wit_frames : (frameOf (ownMac ready) []).dst = ownMac ready ∧ (frameOf 1 []).dst ≠ ownMac ready
    ∧ subHeaderOk (frameOf 0 [9]).bytes = false ∧ subHeaderOk ([1, 1, 0, 0] ++ keepAlive) = true
    ∧ keptResponse keptState 5 ((([1, 1, 0, 0] ++ keepAlive : List Byte).drop 4).take (reqSize keepAlive)) = some [1]
    ∧ keptResponse ready 5 keepAlive = none ∧ 8 ≤ fullQueue.od.fieldQueue.length := by decide +kernel

theorem wit_alerts : ({ ready with od := { ready.od with holdCarard := true, owedCarard := true } } : State).od.holdCarard = true
    ∧ running ready = true ∧ linkCarriesMailbox ready.lk.cl = true := by decide +kernel

/-- A request of a descriptor that waits for a stack in reset goes before everything behind it. -/
def heldState : State := { stackReset with stk := { stackReset.stk with heldRequests := [.dwr 1 0 [0]] } }
theorem wit_held_requests : heldState.stk.heldRequests.any HeldRequest.isDevice = true ∧ deviceWaits 0 stackReset = true
    ∧ deviceWaits 0 ready = false ∧ peerWaits 0 2 stackReset = true ∧ peerWaits 0 2 ready = false
    ∧ (Instr.submissionTail (2 ^ 32 * 9)).wellFormed = true ∧ (Instr.completionHead (2 ^ 32 * 9 + 0x80)).wellFormed = true := by
  decide +kernel

/-- Pair 0 in each state, with and without a descriptor in flight. -/
def pairAt (x : QState) (l : List InFlight) : State :=
  { ready with q := { ready.q with inflight := l, qps := ready.q.qps.set 0 { pairOn with state := x } } }
def allPairs : List State :=
  [QState.disabled, .active, .draining, .enablePending, .halted].flatMap fun x => [pairAt x [], pairAt x [flying 0 0 2 .nothing]]

theorem wit_queue_enable : (allPairs.all fun s => [0, 1].all fun v =>
    let r := wr 0x2C01 4 1 v
    (Instr.queueEnable (.carard 0) r).wellFormed && writeReaches .carard r (servedState r s)
      && pairIndex (reqIndex r) == some 0 && ringsBacked (servedState r s) ((servedState r s).q.qps[(0 : Fin 64)])) = true := by
  decide +kernel

/-- CK0 as its owner claims it, from BLANK to PROGRAMMED. -/
theorem wit_key_claimed : ∃ t, exec (.commandKeyWrite (.carard 0) (wr 0x5000 1 32 7)) ready = .next t
    ∧ t.persist.keys[(0 : Fin 4)] = .programmed 7 ∧ ready.persist.keys[(0 : Fin 4)] = .blank :=
  ⟨_, by rfl, by decide +kernel, by decide +kernel⟩

theorem wit_range_stays : ∃ t, exec .powerAlert { ready with prot := [⟨0x100, 256⟩] } = .next t ∧ ⟨0x100, 256⟩ ∈ t.prot :=
  ⟨_, by rfl, by decide +kernel⟩

theorem wit_security : (∃ b, ({ ready with sec := { ready.sec with pendingReport := some [1] } } : State).sec.pendingReport = some b)
    ∧ (∃ w : StagingWork, w.outcome = 0 ∧ w.info.isSome) ∧ (∃ w : StagingWork, w.outcome ≠ 0) :=
  ⟨⟨[1], rfl⟩, ⟨{ (default : StagingWork) with outcome := 0, info := some default }, rfl, rfl⟩,
    ⟨{ (default : StagingWork) with outcome := 3 }, by decide⟩⟩

/-! ### Links and the companion -/

/-- The Carard link, or avenue 0, with a change. -/
def linkAt (l : LinkId) (f : Link → Link) : State := setLink l (f (ready.lk.get l)) ready

/-- Two flits that wait for an acknowledgement. -/
def twoFlits : List Flit := [⟨1, .credit []⟩, ⟨2, .credit []⟩]

theorem wit_retry : passes (linkAt .cl fun k => { k with unacked := twoFlits }) .cl = true
    ∧ twoFlits = [] ++ ⟨1, .credit []⟩ :: [⟨2, .credit []⟩] ∧ (∀ f ∈ twoFlits, f.seq ≠ 7)
    ∧ passes (linkAt .cl fun k => { k with unacked := twoFlits, resends := 7 }) .cl = true := by decide +kernel
theorem wit_credit : passes (linkAt .cl fun k => { k with rxNext := some 5, nakSent := false }) .cl = true
    ∧ passes (linkAt .cl fun k => { k with rxNext := none, nakSent := true }) .cl = true
    ∧ (∃ n ∈ [3, 0], n ≠ 0) ∧ passes (linkAt .cl fun k => { k with freed := [3, 0] }) .cl = true := by decide +kernel
theorem wit_training : ([LinkPhase.down, .phy, .init].all fun p => linkThere (linkAt .cl fun k => { k with phase := p }) .cl
      && running (linkAt .cl fun k => { k with phase := p })) = true
    ∧ linkThere ready (.av 0) = true ∧ (List.replicate 16 (0 : W32)).length = 16 := by decide +kernel
theorem wit_link_up : ∃ t, exec (.initSend .cl) (linkAt .cl fun k => { k with phase := .init, gotSeen := true, seen := true }) = .next t
    ∧ (t.lk.get .cl).phase = .up := ⟨_, by rfl, by decide +kernel⟩

theorem readable_clean (s : State) (h : s.stk.ecc = []) (a n : Nat) : readableRange s a n := by
  intro i _ l _
  simp [eccAt, h]

theorem not_left_clean (s : State) (h : s.stk.ecc = []) (a n x : Nat) : ¬leftAsStored s a n x := by
  rintro ⟨_, l, _, hl⟩
  simp [eccAt, h] at hl

/-- The first codeword of stack 0 is uncorrectable: a DRD of its line, and a write of 16 bytes at 8, which covers it in part, meet it. -/
def badState : State := { ready with stk := { ready.stk with ecc := [⟨0, true, true⟩] } }
theorem wit_bad_codeword : (∃ i < 16, badCodeword badState (0 + 16 * i)) ∧ (∃ i < 16, leftAsStored badState 8 16 (8 + i))
    ∧ ¬leftAsStored badState 8 16 16 ∧ dwrForm 8 16 = true ∧ MemoryCanonical badState :=
  ⟨⟨0, by decide, 0, by decide +kernel, by decide +kernel⟩, ⟨0, by decide, Or.inl (by decide), 8, by decide +kernel, by decide +kernel⟩,
    by rintro ⟨_, l, hl, he⟩; revert l; decide +kernel, by decide +kernel, by unfold MemoryCanonical; decide +kernel⟩

theorem wit_drd : (0 : BitVec 48).toNat % 256 = 0 ∧ running ready = true ∧ clCarries ready 1 = true ∧ resolve ready 0 = .stack 0 0
    ∧ readableRange ready 0 256 ∧ resolve ready (2 ^ 46) = .unmapped
    ∧ resolve { ready with units := ready.units.set (.stack 0) { ready.units.get (.stack 0) with state := .disabled } } 0 = .unbacked :=
  ⟨by decide +kernel, by decide +kernel, by decide +kernel, by decide +kernel, readable_clean _ (by rfl) _ _, by decide +kernel,
    by decide +kernel⟩
theorem wit_dwr : dwrForm 0x100 16 = true ∧ clCarries ready 1 = true ∧ SharesLegal ready ∧ firstProtected ready.prot 0x100 16 = none
    ∧ firstProtected [⟨0x100, 256⟩] 0x100 16 ≠ none ∧ (∀ i < 16, ¬leftAsStored ready 0x100 16 (0x100 + i))
    ∧ dwrForm (0x100 + 240) 32 = false ∧ MemoryCanonical ready := by
  refine ⟨by decide +kernel, by decide +kernel, by unfold SharesLegal; decide +kernel, by decide +kernel, by decide +kernel,
    fun _ _ => not_left_clean _ (by rfl) _ _ _, by decide +kernel, by unfold MemoryCanonical; decide +kernel⟩

/-- A line asked of the companion, and a write to it by a descriptor in flight. -/
def coherentState (install : Bool) : State :=
  let s := withFlight [flying 0 0 8 .nothing] ready
  { s with stk := { s.stk with rdShared := [⟨3, 0x800000000100, install, .desc 0 0, []⟩,
      ⟨5, 0x800000000200, true, .queue 0, [(0x800000000210, 16)]⟩], wr := [⟨4, 0x800000000200, 64, some (0, 0)⟩] } }

theorem wit_coherent : clCarries (coherentState true) 0 = true ∧ running (coherentState true) = true
    ∧ (List.replicate 256 (0 : Byte)).length = (if (0 : Byte) = 0 then 256 else 0) ∧ companionStatus 0 = true ∧ companionStatus 1 = true
    ∧ (coherentState false).stk.rdShared.find? (fun x => x.tag == 3) = some ⟨3, 0x800000000100, false, .desc 0 0, []⟩
    ∧ (coherentState true).stk.rdShared.find? (fun x => x.tag == 5) = some ⟨5, 0x800000000200, true, .queue 0, [(0x800000000210, 16)]⟩
    ∧ MemoryCanonical (coherentState true) ∧ 0x800000000200 + 256 ≤ companionBase + (coherentState true).lk.cl.cbytes.toNat
    ∧ (coherentState true).stk.wr.find? (fun x => x.tag == 4) = some ⟨4, 0x800000000200, 64, some (0, 0)⟩
    ∧ (findInFlight (coherentState true) 0 0).map InFlight.status = some .ok := by unfold MemoryCanonical; decide +kernel

theorem wit_runs : noRunAt ready 0x100 16 ∧ outsideRuns ready 0x100
    ∧ noRunAt { ready with gate := { ready.gate with runs := [⟨0, [], [], (0x200, 16)⟩] } } 0x100 16 := by
  unfold noRunAt outsideRuns; decide +kernel
theorem wit_credit_owed : 2048 ≤ (List.replicate 2048 (⟨0, .credit []⟩ : Flit)).length ∧ twoFlits.length < 2048 := by decide +kernel

/-! ### Members, packets and the firmware chain -/

/-- Avenue 0 UP. -/
def avUp : State := linkAt (.av 0) fun k => { k with phase := .up }

/-- An exchange of pair 0 with one other member, and a packet of that member. -/
def xOf (k : XKind) : Exchange :=
  { newExchange k 0 0 (desc 5 0 0 0 0 0 0) { (default : Group) with id := 5, nb := 1, nm := 2 } none ready with prepared := true, begun := true }
def memberMsg : PeerMsg := { (default : PeerMsg) with groupId := 5, rank := 1 }
def exchanging (k : XKind) : State :=
  let s := withFlight [flying 0 0 5 .exchange] avUp
  { s with red := { s.red with exchanges := [xOf k] } }

theorem wit_members : avenueBrings (exchanging .reduce) 0 0 = true ∧ avenueBrings (exchanging .gather) 0 2 = true
    ∧ running (exchanging .reduce) = true
    ∧ wantsFields memberMsg (.gather 0 0 0 none) (xOf .gather) = true ∧ memberMsg.bytes ≤ 4064 ∧ exchangesDistinct (exchanging .gather)
    ∧ fieldsClear memberMsg (.gather 0 0 0 none) (exchanging .gather)
    ∧ wantsPiece .reduce memberMsg (pieceOf .contrib memberMsg [] [] []) (xOf .reduce) = true
    ∧ wantsPiece .gather memberMsg (pieceOf .slice memberMsg [] [] []) (xOf .gather) = true := by
  unfold exchangesDistinct fieldsClear; decide +kernel
theorem wit_stalls : (findStalled (exchanging .reduce) .reduce 0 0).isSome = true
    ∧ (findStalled (exchanging .gather) .gather 0 0).isSome = true
    ∧ (findInFlight (exchanging .gather) 0 0).isSome = true
    ∧ foreignFields (exchanging .gather) (xOf .gather) ⟨6, (xOf .gather).epoch, 1, .gather 0 0 0 none, false⟩ = true := by decide +kernel

/-- A packet of a lane and type for this module. -/
def packetTo (vl : BitVec 3) (ptype : Byte) (payload : List Byte) : Packet :=
  { (default : Packet) with dstBoard := avUp.lk.board, dstPos := BitVec.ofNat 5 avUp.rst.position.toNat, vl := vl, ptype := ptype,
                            payload := payload }

/-- An all-to-all region of 256 bytes at address 0. -/
def a2aState : State := { avUp with lk := { avUp.lk with a2aBytes := 256 } }

theorem wit_put : packetForm (packetTo 1 0x20 [1, 2]) 1 0x20 true = true ∧ arrives a2aState 0 1 = true
    ∧ toSelf a2aState (packetTo 1 0x20 [1, 2]) = true ∧ SharesLegal a2aState ∧ firstProtected a2aState.prot 0 2 = none
    ∧ (MemoryCanonical a2aState ∧ noRunAt a2aState 0 2) ∧ (∀ i, i < 2 → ∃ m off, resolve a2aState (0 + i) = .stack m off) ∧ avUp.lk.a2aBytes = 0
    ∧ firstProtected [⟨0, 256⟩] 0 2 ≠ none := by
  refine ⟨by decide +kernel, by decide +kernel, by decide +kernel, by unfold SharesLegal; decide +kernel, by decide +kernel,
    by unfold MemoryCanonical noRunAt; decide +kernel, ?_, by decide +kernel, by decide +kernel⟩
  intro i h
  have h2 : i = 0 ∨ i = 1 := by omega
  rcases h2 with rfl | rfl
  · exact ⟨0, 0, by decide +kernel⟩
  · exact ⟨0, 1, by decide +kernel⟩

/-- A packet for position 3, whose route leads over avenue 1, or nowhere. -/
def passing : Packet := { packetTo 1 0x20 [] with dstPos := 3 }
def routedState (v : Byte) : State := { avUp with lk := { avUp.lk with routes := avUp.lk.routes.set 3 v } }
theorem wit_forward : packetOk passing = true ∧ arrives (routedState 1) 0 1 = true ∧ toSelf (routedState 1) passing = false
    ∧ avenueOf (BitVec.ofNat 8 (packetRoute (routedState 1) passing)) = some 1 ∧ routable (routedState 1) 1 1 = true
    ∧ avenueOf (BitVec.ofNat 8 (packetRoute (routedState 0xFF) passing)) = none
    ∧ packetForm (packetTo 4 0x50 (List.replicate 16 0)) 4 0x50 true = true ∧ arrives avUp 0 4 = true := by decide +kernel

/-- The chain's previous module is on avenue 0, and 1 MiB of the receive region waits. -/
def chainState : State := { avUp with lk := { avUp.lk with chainPrev := 0, rxBytes := 0x100000 } }
def sendingState : State := { chainState with lk := { chainState.lk with fwTx := some ⟨0, 0, 64, [], false⟩ } }
def takingState : State := { chainState with lk := { chainState.lk with fwRx := some ⟨0, 0, 64, [], 0, 0, []⟩ } }

theorem wit_chain : ([(0x40, 72), (0x41, 0), (0x42, 1), (0x43, 8), (0x44, 0), (0x45, 1)].all fun x =>
      packetOk (packetTo 3 x.1 (List.replicate x.2 0)) && toSelf chainState (packetTo 3 x.1 (List.replicate x.2 0))) = true
    ∧ arrives chainState 0 3 = true ∧ declineReason 0 0 (List.replicate 64 0) chainState = 0
    ∧ declineReason 0 0 (List.replicate 64 0) avUp = 4
    ∧ (txOf 0 (packetTo 3 0x41 []) false sendingState).isSome = true ∧ (rxOf 0 (packetTo 3 0x43 []) takingState).isSome = true
    ∧ (txOf 0 (packetTo 3 0x45 [0]) true { sendingState with lk := { sendingState.lk with fwTx := some ⟨0, 0, 64, [],
      true⟩ } }).isSome = true
    ∧ sendingState.lk.fwTx ≠ none ∧ takingState.lk.fwRx ≠ none := by decide +kernel

/-- A PART of 8 bytes at the start of the region of 64, and the same where a stack in reset is to take it. -/
theorem wit_part : (((packetTo 3 0x43 (List.replicate 8 1)).payload.take (64 - 0)).length = 8
      ∧ peerWaits takingState.lk.rxBase.toNat 8 takingState = false ∧ peerWaits sendingState.lk.rxBase.toNat 64 sendingState = false)
    ∧ firstProtected takingState.prot 0 8 = none ∧ ((List.range 8).all fun i => match resolve takingState (0 + i) with
      | .stack _ _ => true
      | _ => false) = true
    ∧ SharesLegal takingState ∧ MemoryCanonical takingState ∧ noRunAt takingState 0 8
    ∧ peerWaits 0 8 { takingState with units := stackReset.units } = true := by
  unfold SharesLegal MemoryCanonical noRunAt; decide +kernel

/-! ### Units, resets, power, services -/

/-- A plaza with its control in a state. -/
def unitAt (f : UnitCtl → UnitCtl) : State := setUnit (.plaza 1) (f (ready.units.get (.plaza 1))) ready

theorem wit_units : ([UnitState.enabled, .disabling, .enablePending, .resetting].all fun x =>
      let s := unitAt fun c => { c with state := x, asking := true }
      running s && unitPresent s.persist.variant (.plaza 1) && (s.units.get (.plaza 1)).asking && !unitBusy s (.plaza 1)) = true
    ∧ ((unitAt fun c => { c with state := .resetting }).units.get (.plaza 1)).asking = false
    ∧ (let e := { flying 0 0 1 .nothing with units := [.plaza 1] }
       e.uses ready (.plaza 1) = true ∧ e.status = .ok ∧ e.order < ((unitAt fun c => { c with asking := true, askedAt := 5 }).units.get
         (.plaza 1)).askedAt) := by decide +kernel

/-- A reset of a level in progress. -/
def inReset (l : Level) (stretch started source good : Bool) : State :=
  { ready with rst := { ready.rst with run := some ⟨l, stretch, started⟩, source := source, clockGood := good } }

theorem wit_sources : ready.rst.off = false ∧ ready.rst.rstDriven = false ∧ ready.rst.run = none ∧ ready.rst.source = false
    ∧ ({ ready with rst := { ready.rst with pending := some (.core, 9) } } : State).rst.pending = some (.core, 9)
    ∧ (inReset .po false false true true).rst.source = true
    ∧ (inReset .sys true false false true).rst.run ≠ none ∧ sourceLevel .core (inReset .sys true false false true) = .sys
    ∧ sourceCauses .core 8 (inReset .sys true false false true) = [(inReset .sys true false false true).rst.cause]
    ∧ sourceLevel .po (inReset .sys true false false true) = .po ∧ sourceCauses .po 2 (inReset .sys true false false true) = [2]
    ∧ sourceCauses .sys 4 (inReset .sys false false false true) = [1, 4] ∧ waitsForPin ready = false := by decide +kernel
theorem wit_off : ∃ t, exec .thermalTrip ready = .next t ∧ t.rst.off = true ∧ running t = false := ⟨_, by rfl, by rfl, by rfl⟩
theorem wit_reset_ends : (inReset .sys false false false true).rst.off = false
    ∧ (inReset .sys true true false true).rst.run = some ⟨.sys, true, true⟩
    ∧ (inReset .sys true false false false).rst.clockGood = false ∧ running (inReset .sys true false false false) = false := by
  decide +kernel
theorem wit_released : ∃ t, exec .resetRelease (inReset .sys true true false true) = .next t ∧ t.od.alertPending = 1 ∧ t.rst.run = none :=
  ⟨_, by rfl, by rfl, by rfl⟩

/-- PARK, in which a wake is under way. -/
def wakingState : State := { ready with power := { ready.power with current := .park, waking := some .on } }
theorem wit_power : running wakingState = true ∧ wakingState.power.waking = some .on
    ∧ unitPresent wakingState.persist.variant (.stack 0) = true ∧ wakingState.stk.selfRefresh[(0 : Fin 32)] = false := by decide +kernel

/-- A stream of two lines; a scrub period; a codeword with one wrong symbol where the scrub stands. -/
def serviceState : State :=
  { ready with stk := { ready.stk with streams := [⟨0, 0, 512, 1, 512, 1, 0, 0⟩], scrubPeriod := 1, ecc := [⟨0, true, false⟩] } }
theorem wit_services : scrubs serviceState 0 = true ∧ eccAt serviceState 0 = some false
    ∧ (serviceState.stk.streams.find? fun y => y.num == 0) = some ⟨0, 0, 512, 1, 512, 1, 0, 0⟩
    ∧ (⟨0, 0, 512, 1, 512, 1, 0, 0⟩ : Stream).nextCount = 2 ∧ tagsSuit serviceState ⟨0, 0, 512, 1, 512, 1, 0, 0⟩ [] = true
    ∧ fetchWaits serviceState ⟨0, 0, 512, 1, 512, 1, 0, 0⟩ = false := by
  decide +kernel

/-- In GENERATE with a record ring of some size, whose counts a district caches. -/
def genState (ring : Nat) : State :=
  let s := inTurn .generate
  { s with sched := { s.sched with state := .running, recBase := 0x800000100000, recBytes := w64 ring },
           stk := { s.stk with dcache := [0x800000100000] } }
def stepEnds (s : State) : Option Bool := (runSched s).1.toOption
theorem wit_scheduler : schedMay (genState 0x400000) = true ∧ stepEnds (genState 0x400000) = some true
    ∧ schedMay (genState 0) = true ∧ stepEnds (genState 0) = some false ∧ schedMay ready = false
    ∧ sampleRuns { ready with gate := { ready.gate with flushPending := [⟨3, [.carard 1 [0]]⟩] } } 3 = false
    ∧ sampleRuns (withFlight [flying 0 0 4 .nothing] ready) 3 = true := by decide +kernel

/-- A step whose counts no district caches asks the companion for its lines and waits with them. -/
theorem wit_step_waits : schedMay { genState 0x400000 with stk := State.reset.stk } = true
    ∧ waitsIn (runSched { genState 0x400000 with stk := State.reset.stk }).1 = true := by decide +kernel

theorem wit_rounding : f32IsNan 0x3F800001 = false ∧ f32IsNan 0x7FC00001 = true
    ∧ (1 ≤ (0x100C00000 : A34).toNat / 2 ^ 23 % 1024 ∧ (0x100C00000 : A34).toNat / 2 ^ 23 % 1024 ≤ 1022)
    ∧ (2 ^ 33 : A34).toNat % 2 ^ 33 = 0 := by decide +kernel

theorem wit_invariant : SharesLegal { ready with pending := [.powerAlert] } ∧ MemoryCanonical { ready with pending := [.powerAlert] }
    ∧ ∃ t, step { ready with pending := [.powerAlert] } = .next t ∧ t.pending = [] := by
  refine ⟨by unfold SharesLegal; decide +kernel, by unfold MemoryCanonical; decide +kernel, _, by rfl, by rfl⟩

/-! ### Ill-formed words -/

theorem smoke_descriptors : (descRows 0 (desc 0 0 0 0 0 0 0)).filter Instr.wellFormed = [.reservedClassCode 0 (desc 0 0 0 0 0 0 0)]
    ∧ (Instr.reservedClassCode 0 (tDesc 0 0)).wellFormed = false ∧ (Instr.fusedPair 0 (tDesc 0 0) (tDesc 0 0)).wellFormed = false
    ∧ (descRows 0 (aDesc 1)).filter Instr.wellFormed = [.attnBackward 0 (aDesc 1)] := by decide +kernel
theorem smoke_requests : (requestRows (.carard 0) (reqOf 9 0 0 [])).filter Instr.wellFormed = [.read (.carard 0) (reqOf 9 0 0 [])]
    ∧ (Instr.read (.carard 0) (wr 0x2600 3 4 1)).wellFormed = false ∧ (Instr.powerStateOn (.carard 0) (wr 0x3000 1 1 1)).wellFormed = false
    ∧ (Instr.shareWrite (.carard 0) (wr 0x2B00 3 1 1)).wellFormed = false := by decide +kernel
theorem smoke_doorbells : (Instr.submissionTail 0x80).wellFormed = false ∧ (Instr.completionHead 0).wellFormed = false := by decide
theorem smoke_link : (Instr.initFlit .cl { (default : InitMsg) with grants := [1] }).wellFormed = false
    ∧ (Instr.credit .cl 0 0 (List.replicate 31 1)).wellFormed = false ∧ (Instr.drd 0 16).wellFormed = false
    ∧ (Instr.dwr 0 0x1F0 (List.replicate 32 0)).wellFormed = false ∧ (Instr.dwr 0 0 (List.replicate 24 0)).wellFormed = false
    ∧ (Instr.snpInv 0 1).wellFormed = false ∧ (Instr.dataResponse 0 1 [0]).wellFormed = false
    ∧ (Instr.dataResponse 0 0 [0]).wellFormed = false := by decide +kernel
theorem smoke_packets : (Instr.putPacket 0 (packetTo 3 0x20 [])).wellFormed = false
    ∧ (Instr.putPacket 0 (packetTo 1 0x21 [])).wellFormed = false ∧ (Instr.forward 0 (packetTo 5 0x20 [])).wellFormed = false
    ∧ (Instr.forward 0 (packetTo 1 0 [])).wellFormed = false ∧ (Instr.peerState 0 (packetTo 4 0x50 [0])).wellFormed = false
    ∧ (Instr.offer 0 (packetTo 3 0x40 [])).wellFormed = false ∧ (Instr.accept 0 (packetTo 3 0x41 [1])).wellFormed = false
    ∧ (Instr.decline 0 (packetTo 3 0x42 [])).wellFormed = false ∧ (Instr.part 0 (packetTo 3 0x44 [])).wellFormed = false
    ∧ (Instr.endBundle 0 (packetTo 3 0x44 [1])).wellFormed = false ∧ (Instr.bundleResult 0 (packetTo 3 0x45 [])).wellFormed = false := by
  decide +kernel
theorem smoke_refused : exec (.tile 0 (desc 0 0 0 0 0 0 0)) ready = .refused .illFormed := by rfl

/-! ### The spec's worked examples -/

/-- The three addresses of R489. -/
theorem test_addresses : resolve ready 0x12345678 = .stack 5 0x91A678 ∧ resolve ready 0x00B000005000 = .stack 13 0x400001000
    ∧ resolve ready 0x019000000100 = .stack 9 0x800000100 := by decide +kernel

/-- The worked example of the random numbers chapter (R225 to R228). -/
theorem test_window : rawAt 0x0123456789ABCDEFFEDCBA9876543210 0 2 = 0x0CAE9DBF ∧ rngFilter 0x0CAE9DBF = 0x5A89939C
    ∧ window 0x0123456789ABCDEFFEDCBA9876543210 0 0 1 0 = 0x5A89939C := by decide +kernel

/-- The first worked example of the number formats chapter: one block of F32 values into F8A and F4 (R76 to R79). -/
def exampleBlock : List (Machine.Num × Rnd) :=
  (([0x40600000, 0xBF800000, 0x3E99999A, 0x3D800000, 0xBC23D70A, 0x40300000, 0x38800000, 0x3CA3D70A] : List F32)
    ++ List.replicate 24 0).map fun w => (f32Dec w, .rne)
theorem test_blocks : ((convBlock .f8a false exampleBlock).codes.take 8 = [0x7E, 0xF0, 0x62, 0x50, 0xBA, 0x7B, 0x04, 0x42])
    ∧ (convBlock .f8a false exampleBlock).s8 = 0x78 ∧ (convBlock .f4 false exampleBlock).s8 = 0x7F
    ∧ packF4 ((convBlock .f4 false exampleBlock).codes.take 8) = [0xA6, 0x01, 0x58, 0x00] := by decide +kernel

/-- An overflow under SAT and under PROP in F8A (R75; the second worked example of the number formats chapter). -/
theorem test_saturates : overflowCode .f8a false false = some ⟨0x7E, true⟩ ∧ overflowCode .f8a true false = some ⟨0x7F, false⟩ := by
  decide +kernel

/-- Block 5 of the worked example of R276: three changed places give the sparse record 03 02 07 14 63 41 01. -/
theorem test_delta :
    let base := [0x7E, 0xF0, 0x62, 0x50, 0xBA, 0x7B, 0x04, 0x42] ++ List.replicate 24 0
    deltaRecord .f8a (base, 0x78) ((base.set 2 0x63 |>.set 7 0x41).set 20 0x01, 0x78)
      = some ([0x03, 0x02, 0x07, 0x14, 0x63, 0x41, 0x01], false) := by decide +kernel

/-- TILE of 2 × 3 over one element (R66, R74), its terrace form added to an open sum of 6, and an UPDATE of R388: 1 − 0.5 · 1. -/
theorem test_tile : (match exec (.tile 0 (tDesc 0 0)) tState with
    | .next t => leNat (peekList t 0x6000 4)
    | _ => 0) = 0x40C00000 := by decide +kernel
theorem test_terrace : (match exec (.terraceClose 0 (tDesc 0x6000 1)) tOpened with
    | .next t => (leNat (peekList t 0x6000 4), t.terr.tiles.length)
    | _ => (0, 9)) = (0x41400000, 0) := by decide +kernel
theorem test_update : (match exec (.update 0 (cDesc 0)) (cState .learn) with
    | .next t => leNat (peekList t (2 ^ 40 + 0x100) 4)
    | _ => 0) = 0x3F000000 := by decide +kernel
theorem test_copy : (match exec (.copy 0 (mDesc 0)) (poke mState 0x4000 [1, 2, 3]) with
    | .next t => peekList t 0x5000 4
    | _ => []) = [1, 2, 3, 0] := by decide +kernel

/-- SHA3-512 of "abc" (FIPS 202). -/
theorem test_sha3 : (sha3_512 (asciiBytes "abc")).take 4 = [0xB7, 0x51, 0x85, 0x0B] := by decide +kernel

/-- The table of R22, cell by cell: only the entries of `allowedTransitions` pass. -/
theorem test_transitions : ([Turn.ready, .generate, .switchLearn, .learn, .switchGenerate].flatMap fun c =>
    ((List.range 8).filter fun n => transitionOk c n).map fun n => (c, n)) = allowedTransitions := by decide +kernel

end Sys2Proof.Tests
end

section
/-! SUPPORT. Which commands can change the turn (R40, R43). -/

namespace Sys2Proof.Machine

/-- The commands of which `Calm` does not hold in every state: each changes the turn, a protected range, a share, a key or a fuse by rule. -/
inductive Stirs : Instr → Prop where
  | turnEntry (slowCycles : W64) : Stirs (.turnEntry slowCycles)
  | unprotect (qp : Fin 64) (d : Desc) : Stirs (.unprotect qp d)
  | shareWrite (p : Asker) (req : List Byte) : Stirs (.shareWrite p req)
  | descriptorComplete (qp : Fin 64) (idx : W32) : Stirs (.descriptorComplete qp idx)
  | commandKeyWrite (p : Asker) (req : List Byte) : Stirs (.commandKeyWrite p req)
  | revokeKey (p : Asker) (req : List Byte) : Stirs (.revokeKey p req)
  | commitSecurityVersion (p : Asker) (req : List Byte) : Stirs (.commitSecurityVersion p req)
  | resetBegin : Stirs .resetBegin
  | powerOn : Stirs .powerOn
  | brownOut : Stirs .brownOut
  | pinReset : Stirs .pinReset
  | watchdog : Stirs .watchdog
  | clockFailure : Stirs .clockFailure
  | lockUp : Stirs .lockUp

/-- Every other command is calm. -/
theorem exec_calm_or_stirs {c : Instr} {s t : State} (h : exec c s = .next t) : Calm s t ∨ Stirs c := by
  cases c with
  | turn qp d => exact .inl (execTurn_calm qp d s h)
  | turnWaitResume => exact .inl (execTurnWaitResume_calm s h)
  | turnEntry slowCycles => exact .inr (.turnEntry slowCycles)
  | turnDrainTimeout => exact .inl (execTurnDrainTimeout_calm s h)
  | tile qp d => exact .inl (execTile_calm qp d s h)
  | terraceOpen qp d => exact .inl (execTerraceOpen_calm qp d s h)
  | terraceContribute qp d => exact .inl (execTerraceContribute_calm qp d s h)
  | terraceClose qp d => exact .inl (execTerraceClose_calm qp d s h)
  | fusedPair qp d1 d2 => exact .inl (execFusedPair_calm qp d1 d2 s h)
  | convert qp d => exact .inl (execConvert_calm qp d s h)
  | amax qp d => exact .inl (execAmax_calm qp d s h)
  | residualAdd qp d => exact .inl (execResidualAdd_calm qp d s h)
  | rmsnormFwd qp d => exact .inl (execRmsnormFwd_calm qp d s h)
  | rmsnormBwd qp d => exact .inl (execRmsnormBwd_calm qp d s h)
  | layernormFwd qp d => exact .inl (execLayernormFwd_calm qp d s h)
  | layernormBwd qp d => exact .inl (execLayernormBwd_calm qp d s h)
  | softmaxFwd qp d => exact .inl (execSoftmaxFwd_calm qp d s h)
  | softmaxBwd qp d => exact .inl (execSoftmaxBwd_calm qp d s h)
  | tokenLogprob qp d => exact .inl (execTokenLogprob_calm qp d s h)
  | tokenLogprobBwd qp d => exact .inl (execTokenLogprobBwd_calm qp d s h)
  | swigluFwd qp d => exact .inl (execSwigluFwd_calm qp d s h)
  | swigluBwd qp d => exact .inl (execSwigluBwd_calm qp d s h)
  | geluFwd qp d => exact .inl (execGeluFwd_calm qp d s h)
  | geluBwd qp d => exact .inl (execGeluBwd_calm qp d s h)
  | rope qp d => exact .inl (execRope_calm qp d s h)
  | dropout qp d => exact .inl (execDropout_calm qp d s h)
  | fillUniform qp d => exact .inl (execFillUniform_calm qp d s h)
  | fillNormal qp d => exact .inl (execFillNormal_calm qp d s h)
  | orthonorm qp d => exact .inl (execOrthonorm_calm qp d s h)
  | attnForward qp d => exact .inl (execAttnForward_calm qp d s h)
  | attnBackward qp d => exact .inl (execAttnBackward_calm qp d s h)
  | appendOnly qp d => exact .inl (execAppendOnly_calm qp d s h)
  | probeWindow p req => exact .inl (execProbeWindow_calm p req s h)
  | schedulerStep => exact .inl (execSchedulerStep_calm s h)
  | schedulerResume p req => exact .inl (execSchedulerResume_calm p req s h)
  | publish qp d => exact .inl (execPublish_calm qp d s h)
  | retire qp d => exact .inl (execRetire_calm qp d s h)
  | loadAdapter qp d => exact .inl (execLoadAdapter_calm qp d s h)
  | retireAdapter qp d => exact .inl (execRetireAdapter_calm qp d s h)
  | slotFreed w => exact .inl (execSlotFreed_calm w s h)
  | draw qp d => exact .inl (execDraw_calm qp d s h)
  | verify qp d => exact .inl (execVerify_calm qp d s h)
  | maskCacheFlush p req => exact .inl (execMaskCacheFlush_calm p req s h)
  | maskCacheFlushApply => exact .inl (execMaskCacheFlushApply_calm s h)
  | update qp d => exact .inl (execUpdate_calm qp d s h)
  | emit qp d => exact .inl (execEmit_calm qp d s h)
  | updateEmit qp d => exact .inl (execUpdateEmit_calm qp d s h)
  | scan qp d => exact .inl (execScan_calm qp d s h)
  | sum qp d => exact .inl (execSum_calm qp d s h)
  | sumsq qp d => exact .inl (execSumsq_calm qp d s h)
  | meanvar qp d => exact .inl (execMeanvar_calm qp d s h)
  | reduceStallTimeout qp idx => exact .inl (execReduceStallTimeout_calm qp idx s h)
  | load qp d => exact .inl (execLoad_calm qp d s h)
  | gather qp d => exact .inl (execGather_calm qp d s h)
  | gatherTimeout qp idx => exact .inl (execGatherTimeout_calm qp idx s h)
  | rebuild qp d => exact .inl (execRebuild_calm qp d s h)
  | protect qp d => exact .inl (execProtect_calm qp d s h)
  | unprotect qp d => exact .inr (.unprotect qp d)
  | zero qp d => exact .inl (execZero_calm qp d s h)
  | copy qp d => exact .inl (execCopy_calm qp d s h)
  | copyTensor qp d => exact .inl (execCopyTensor_calm qp d s h)
  | arm qp d => exact .inl (execArm_calm qp d s h)
  | disarm qp d => exact .inl (execDisarm_calm qp d s h)
  | prefetchFetch prefetcher tags => exact .inl (execPrefetchFetch_calm prefetcher tags s h)
  | scrubRead stack => exact .inl (execScrubRead_calm stack s h)
  | shareWrite p req => exact .inr (.shareWrite p req)
  | inject p req => exact .inl (execInject_calm p req s h)
  | accumulatorWrite p req => exact .inl (execAccumulatorWrite_calm p req s h)
  | selfRefreshReturn stack => exact .inl (execSelfRefreshReturn_calm stack s h)
  | submissionTail word => exact .inl (execSubmissionTail_calm word s h)
  | completionHead word => exact .inl (execCompletionHead_calm word s h)
  | queueEnable p req => exact .inl (execQueueEnable_calm p req s h)
  | descriptorComplete qp idx => exact .inr (.descriptorComplete qp idx)
  | queueFence qp d => exact .inl (execQueueFence_calm qp d s h)
  | waitFence qp d => exact .inl (execWaitFence_calm qp d s h)
  | waitTimeout qp idx => exact .inl (execWaitTimeout_calm qp idx s h)
  | stepFence qp d => exact .inl (execStepFence_calm qp d s h)
  | drainFence qp d => exact .inl (execDrainFence_calm qp d s h)
  | initFlit l m => exact .inl (execInitFlit_calm l m s h)
  | crcFailure l bad => exact .inl (execCrcFailure_calm l bad s h)
  | nak l ack => exact .inl (execNak_calm l ack s h)
  | retryTimeout l => exact .inl (execRetryTimeout_calm l s h)
  | credit l ack seq returns => exact .inl (execCredit_calm l ack seq returns s h)
  | creditReturnTimeout l => exact .inl (execCreditReturnTimeout_calm l s h)
  | trainingTimeout l => exact .inl (execTrainingTimeout_calm l s h)
  | linkPllLockLoss l => exact .inl (execLinkPllLockLoss_calm l s h)
  | drd tag addr => exact .inl (execDrd_calm tag addr s h)
  | dwr tag addr data => exact .inl (execDwr_calm tag addr data s h)
  | snpInv tag addr => exact .inl (execSnpInv_calm tag addr s h)
  | dataResponse tag status data => exact .inl (execDataResponse_calm tag status data s h)
  | wrDone tag status => exact .inl (execWrDone_calm tag status s h)
  | putPacket av pk => exact .inl (execPutPacket_calm av pk s h)
  | forward av pk => exact .inl (execForward_calm av pk s h)
  | fields av x f => exact .inl (execFields_calm av x f s h)
  | contrib av x vals => exact .inl (execContrib_calm av x vals s h)
  | boardSum av x vals => exact .inl (execBoardSum_calm av x vals s h)
  | reductionResult av x elems scales => exact .inl (execReductionResult_calm av x elems scales s h)
  | count av x count => exact .inl (execCount_calm av x count s h)
  | slice av x elems scales => exact .inl (execSlice_calm av x elems scales s h)
  | peerState av pk => exact .inl (execPeerState_calm av pk s h)
  | offer av pk => exact .inl (execOffer_calm av pk s h)
  | accept av pk => exact .inl (execAccept_calm av pk s h)
  | decline av pk => exact .inl (execDecline_calm av pk s h)
  | part av pk => exact .inl (execPart_calm av pk s h)
  | endBundle av pk => exact .inl (execEndBundle_calm av pk s h)
  | bundleResult av pk => exact .inl (execBundleResult_calm av pk s h)
  | transferTimeout sending => exact .inl (execTransferTimeout_calm sending s h)
  | fieldFrame f => exact .inl (execFieldFrame_calm f s h)
  | read p req => exact .inl (execRead_calm p req s h)
  | write p req => exact .inl (execWrite_calm p req s h)
  | writeAuth p req => exact .inl (execWriteAuth_calm p req s h)
  | keepalive p req => exact .inl (execKeepalive_calm p req s h)
  | openSession p req => exact .inl (execOpenSession_calm p req s h)
  | release p req => exact .inl (execRelease_calm p req s h)
  | sessionLapse => exact .inl (execSessionLapse_calm s h)
  | classSelect p req => exact .inl (execClassSelect_calm p req s h)
  | alertClear p req => exact .inl (execAlertClear_calm p req s h)
  | alertMask p req => exact .inl (execAlertMask_calm p req s h)
  | alert p => exact .inl (execAlert_calm p s h)
  | unitEnable p req => exact .inl (execUnitEnable_calm p req s h)
  | unitReset p req => exact .inl (execUnitReset_calm p req s h)
  | unitIdle u => exact .inl (execUnitIdle_calm u s h)
  | unitIdleTimeout u => exact .inl (execUnitIdleTimeout_calm u s h)
  | unitReturn u => exact .inl (execUnitReturn_calm u s h)
  | commandKeyWrite p req => exact .inr (.commandKeyWrite p req)
  | revokeKey p req => exact .inr (.revokeKey p req)
  | buildReport p req => exact .inl (execBuildReport_calm p req s h)
  | reportReady => exact .inl (execReportReady_calm s h)
  | blobSelect p req => exact .inl (execBlobSelect_calm p req s h)
  | stage p req => exact .inl (execStage_calm p req s h)
  | stagingComplete => exact .inl (execStagingComplete_calm s h)
  | activate p req => exact .inl (execActivate_calm p req s h)
  | activateReset p req => exact .inl (execActivateReset_calm p req s h)
  | activationCancel p req => exact .inl (execActivationCancel_calm p req s h)
  | commitSecurityVersion p req => exact .inr (.commitSecurityVersion p req)
  | debugUnlock p req => exact .inl (execDebugUnlock_calm p req s h)
  | debugLock p req => exact .inl (execDebugLock_calm p req s h)
  | debugReset p req => exact .inl (execDebugReset_calm p req s h)
  | softwareSysReset p req => exact .inl (execSoftwareSysReset_calm p req s h)
  | softwareCoreReset p req => exact .inl (execSoftwareCoreReset_calm p req s h)
  | resetBegin => exact .inr .resetBegin
  | powerOn => exact .inr .powerOn
  | brownOut => exact .inr .brownOut
  | inputRecovered => exact .inl (execInputRecovered_calm s h)
  | pinReset => exact .inr .pinReset
  | watchdog => exact .inr .watchdog
  | clockFailure => exact .inr .clockFailure
  | lockUp => exact .inr .lockUp
  | resetStretchEnd => exact .inl (execResetStretchEnd_calm s h)
  | resetRelease => exact .inl (execResetRelease_calm s h)
  | powerAlert => exact .inl (execPowerAlert_calm s h)
  | throttleCheck hottest => exact .inl (execThrottleCheck_calm hottest s h)
  | thermalTrip => exact .inl (execThermalTrip_calm s h)
  | powerStateOn p req => exact .inl (execPowerStateOn_calm p req s h)
  | powerStateIdle p req => exact .inl (execPowerStateIdle_calm p req s h)
  | powerStatePark p req => exact .inl (execPowerStatePark_calm p req s h)
  | wakeComplete => exact .inl (execWakeComplete_calm s h)
  | reservedClassCode qp d => exact .inl (execReservedClassCode_calm qp d s h)
  | clockGood => exact .inl (execClockGood_calm s h)
  | ack l ack => exact .inl (execAck_calm l ack s h)
  | flitBoundaryLocated l => exact .inl (execFlitBoundaryLocated_calm l s h)
  | initSend l => exact .inl (execInitSend_calm l s h)

/-- An object's own rule that leaves the turn as it is makes a request that does. -/
theorem request_keeps_cur {isRow : Bool} {own : Own} {p : Asker} {r : List Byte} {s t : State}
    (ho : ∀ p r s, Gives (fun s t => t.turn.cur = s.turn.cur) s (own p r s)) (h : request isRow own p r s = .next t) :
    t.turn.cur = s.turn.cur :=
  request_keeps (R := fun s t => t.turn.cur = s.turn.cur) (fun _ _ => Calm.cur) (fun _ _ _ a b => b.trans a) ho h

theorem ownShare_keeps_cur (p : Path) (r : List Byte) (s : State) :
    Gives (fun s t => t.turn.cur = s.turn.cur) s (ownShare p r s) := by
  unfold ownShare freeAnd
  dsimp only
  split
  · exact Gives.error _ _
  · exact okIf_gives (by rfl)

theorem setKey_turn (n : Nat) (k : KeySlot) (s : State) : (setKey n k s).turn = s.turn := by
  unfold setKey
  split <;> rfl

theorem ownKey_keeps_cur (p : Path) (r : List Byte) (s : State) :
    Gives (fun s t => t.turn.cur = s.turn.cur) s (ownKey p r s) := by
  have hk := congrArg TurnCtl.cur (setKey_turn (reqSub r - 1) (.programmed (BitVec.ofNat 256 (reqValue r))) s)
  unfold ownKey
  dsimp only
  split
  · split
    · exact okIf_gives hk
    · exact Gives.error _ _
  · exact okIf_gives hk

theorem ownRevoke_keeps_cur (p : Path) (r : List Byte) (s : State) :
    Gives (fun s t => t.turn.cur = s.turn.cur) s (ownRevoke p r s) := by
  unfold ownRevoke
  dsimp only
  split
  · exact Gives.error _ _
  · split
    · exact okIf_gives (congrArg TurnCtl.cur (setKey_turn _ _ s))
    · exact Gives.error _ _

theorem ownCommit_keeps_cur (p : Path) (r : List Byte) (s : State) :
    Gives (fun s t => t.turn.cur = s.turn.cur) s (ownCommit p r s) := by
  unfold ownCommit
  dsimp only
  split
  · exact Gives.error _ _
  · exact okIf_gives (by rfl)

/-- A reset's command that moves the turn has cleared the state, so that it leaves READY. -/
theorem ready_of_cleared {c : Prop} {s t : State} (h : (c ∧ t = s) ∨ Cleared s t) (hne : t.turn.cur ≠ s.turn.cur) :
    t.turn.cur = .ready := by
  rcases h with ⟨-, rfl⟩ | h
  · exact absurd rfl hne
  · exact h.cur

/-- Settles O15: a calm command keeps the turn, and of the others only TURN_ENTRY and the resets move it. -/
theorem turnChangesOnlyAtEntryOrReset : Obligations.TurnChangesOnlyAtEntryOrReset := by
  intro c s t h hne
  rcases exec_calm_or_stirs h with hcalm | hst
  · exact absurd hcalm.cur hne
  cases hst with
  | turnEntry n => exact .inl ⟨n, rfl⟩
  | unprotect qp d => exact absurd (execUnprotect_firm qp d s h).cur hne
  | descriptorComplete qp idx => exact absurd (execDescriptorComplete_firm qp idx s h).cur hne
  | shareWrite p req => exact absurd (request_keeps_cur ownShare_keeps_cur h) hne
  | commandKeyWrite p req => exact absurd (request_keeps_cur ownKey_keeps_cur h) hne
  | revokeKey p req => exact absurd (request_keeps_cur ownRevoke_keeps_cur h) hne
  | commitSecurityVersion p req => exact absurd (request_keeps_cur ownCommit_keeps_cur h) hne
  | resetBegin => exact .inr ⟨by simp, ready_of_cleared (execResetBegin_cleared s h) hne⟩
  | powerOn => exact .inr ⟨by simp, ready_of_cleared (execPowerOn_cleared s h) hne⟩
  | brownOut => exact .inr ⟨by simp, (execBrownOut_cleared s h).cur⟩
  | pinReset => exact .inr ⟨by simp, ready_of_cleared (execPinReset_cleared s h) hne⟩
  | watchdog => exact .inr ⟨by simp, (execWatchdog_cleared s h).cur⟩
  | clockFailure => exact .inr ⟨by simp, (execClockFailure_cleared s h).cur⟩
  | lockUp => exact .inr ⟨by simp, ready_of_cleared (execLockUp_cleared s h) hne⟩

end Sys2Proof.Machine
end

section
/-! SUPPORT. How a descriptor's row starts it, and the checks 1 to 5 of R544 (R163, R540, R544, R728). -/

namespace Sys2Proof.Machine

/-! ### The rows of descriptors -/

theorem class_of_row {d : Desc} {n : Nat} {b : Bool} (h : (descClass d == n && b) = true) : descClass d = n := by
  simp_all
theorem isTerraceOpen_class {d : Desc} (h : isTerraceOpen d = true) : descClass d = clsTile := by
  simp_all [isTerraceOpen]
theorem isTerraceContribute_class {d : Desc} (h : isTerraceContribute d = true) : descClass d = clsTile := by
  simp_all [isTerraceContribute]
theorem isTerraceClose_class {d : Desc} (h : isTerraceClose d = true) : descClass d = clsTile := by
  simp_all [isTerraceClose]

/-- The rows of the descriptors that exchange (R415, R461, R466). -/
def exchangeRows (qp : Fin 64) (d : Desc) : List Instr := [.sum qp d, .sumsq qp d, .meanvar qp d, .gather qp d, .rebuild qp d]

/-- The seven ways in which a row starts its descriptor. -/
inductive RowShape (qp : Fin 64) (d : Desc) : Instr → Prop where
  | turn (h : isTurn d = true) : RowShape qp d (.turn qp d)
  | stepFence (h : isFenceKind 2 d = true) : RowShape qp d (.stepFence qp d)
  | reserved (h : isReserved d = true) : RowShape qp d (.reservedClassCode qp d)
  | tile {c : Instr} {isRow : Bool} (ht : c ≠ .turn qp d) (hx : c ∉ exchangeRows qp d) (hc : c ∈ tileRows qp d)
      (hd : descClass d = clsTile) (hr : isRow = true) (h : ∀ s, exec c s = startTile isRow qp d s) : RowShape qp d c
  | kernel {c : Instr} {num : Nat} (ht : c ≠ .turn qp d) (hx : c ∉ exchangeRows qp d)
      (hl : c ∉ tileRows qp d) (hk : isKernel num d = true) (h : ∀ s, exec c s = startKernel num qp d s) : RowShape qp d c
  | exchange {c : Instr} {isRow : Bool} {k : XKind} {n : Nat} (hc : c ∈ exchangeRows qp d) (hl : c ∉ tileRows qp d)
      (hd : descClass d = n) (hn : n ≠ clsKernel) (hr : isRow = true) (h : ∀ s, exec c s = startExchange isRow k qp d s) : RowShape qp d c
  | plain {c : Instr} {isRow : Bool} {body : M Unit} {n : Nat} (ht : c ≠ .turn qp d) (hx : c ∉ exchangeRows qp d)
      (hl : c ∉ tileRows qp d) (hd : descClass d = n) (hn : n ≠ clsKernel) (hr : isRow = true)
      (h : ∀ s, exec c s = startDesc isRow qp d body s) : RowShape qp d c

theorem rowShape_of_descRows1 {qp : Fin 64} {d : Desc} {c : Instr} (hc : c ∈ descRows1 qp d) (hw : c.wellFormed = true) :
    RowShape qp d c := by
  simp only [descRows1, List.mem_cons, List.not_mem_nil, or_false] at hc
  rcases hc with rfl | rfl | rfl | rfl | rfl | rfl | rfl | rfl | rfl | rfl | rfl | rfl | rfl | rfl | rfl | rfl | rfl | rfl | rfl | rfl | rfl | rfl | rfl | rfl | rfl
  · exact .turn hw
  · exact .tile (by simp) (by simp [exchangeRows]) (by simp [tileRows]) (class_of_row hw) hw fun _ => rfl
  · exact .tile (by simp) (by simp [exchangeRows]) (by simp [tileRows]) (isTerraceOpen_class hw) hw fun _ => rfl
  · exact .tile (by simp) (by simp [exchangeRows]) (by simp [tileRows]) (isTerraceContribute_class hw) hw fun _ => rfl
  · exact .tile (by simp) (by simp [exchangeRows]) (by simp [tileRows]) (isTerraceClose_class hw) hw fun _ => rfl
  · exact .kernel (by simp) (by simp [exchangeRows]) (by simp [tileRows]) hw fun _ => rfl
  · exact .kernel (by simp) (by simp [exchangeRows]) (by simp [tileRows]) hw fun _ => rfl
  · exact .kernel (by simp) (by simp [exchangeRows]) (by simp [tileRows]) hw fun _ => rfl
  · exact .kernel (by simp) (by simp [exchangeRows]) (by simp [tileRows]) hw fun _ => rfl
  · exact .kernel (by simp) (by simp [exchangeRows]) (by simp [tileRows]) hw fun _ => rfl
  · exact .kernel (by simp) (by simp [exchangeRows]) (by simp [tileRows]) hw fun _ => rfl
  · exact .kernel (by simp) (by simp [exchangeRows]) (by simp [tileRows]) hw fun _ => rfl
  · exact .kernel (by simp) (by simp [exchangeRows]) (by simp [tileRows]) hw fun _ => rfl
  · exact .kernel (by simp) (by simp [exchangeRows]) (by simp [tileRows]) hw fun _ => rfl
  · exact .kernel (by simp) (by simp [exchangeRows]) (by simp [tileRows]) hw fun _ => rfl
  · exact .kernel (by simp) (by simp [exchangeRows]) (by simp [tileRows]) hw fun _ => rfl
  · exact .kernel (by simp) (by simp [exchangeRows]) (by simp [tileRows]) hw fun _ => rfl
  · exact .kernel (by simp) (by simp [exchangeRows]) (by simp [tileRows]) hw fun _ => rfl
  · exact .kernel (by simp) (by simp [exchangeRows]) (by simp [tileRows]) hw fun _ => rfl
  · exact .kernel (by simp) (by simp [exchangeRows]) (by simp [tileRows]) hw fun _ => rfl
  · exact .kernel (by simp) (by simp [exchangeRows]) (by simp [tileRows]) hw fun _ => rfl
  · exact .kernel (by simp) (by simp [exchangeRows]) (by simp [tileRows]) hw fun _ => rfl
  · exact .kernel (by simp) (by simp [exchangeRows]) (by simp [tileRows]) hw fun _ => rfl
  · exact .kernel (by simp) (by simp [exchangeRows]) (by simp [tileRows]) hw fun _ => rfl
  · exact .kernel (by simp) (by simp [exchangeRows]) (by simp [tileRows]) hw fun _ => rfl

theorem rowShape_of_descRows2 {qp : Fin 64} {d : Desc} {c : Instr} (hc : c ∈ descRows2 qp d) (hw : c.wellFormed = true) :
    RowShape qp d c := by
  simp only [descRows2, List.mem_cons, List.not_mem_nil, or_false] at hc
  rcases hc with rfl | rfl | rfl | rfl | rfl | rfl | rfl | rfl | rfl | rfl | rfl | rfl | rfl | rfl | rfl | rfl | rfl | rfl | rfl | rfl | rfl | rfl | rfl | rfl | rfl | rfl | rfl | rfl | rfl | rfl | rfl
  · exact .plain (by simp) (by simp [exchangeRows]) (by simp [tileRows]) (class_of_row hw) (by decide) hw fun _ => rfl
  · exact .plain (by simp) (by simp [exchangeRows]) (by simp [tileRows]) (class_of_row hw) (by decide) hw fun _ => rfl
  · exact .plain (by simp) (by simp [exchangeRows]) (by simp [tileRows]) (class_of_row hw) (by decide) hw fun _ => rfl
  · exact .plain (by simp) (by simp [exchangeRows]) (by simp [tileRows]) (class_of_row hw) (by decide) hw fun _ => rfl
  · exact .plain (by simp) (by simp [exchangeRows]) (by simp [tileRows]) (class_of_row hw) (by decide) hw fun _ => rfl
  · exact .plain (by simp) (by simp [exchangeRows]) (by simp [tileRows]) (class_of_row hw) (by decide) hw fun _ => rfl
  · exact .plain (by simp) (by simp [exchangeRows]) (by simp [tileRows]) (class_of_row hw) (by decide) hw fun _ => rfl
  · exact .plain (by simp) (by simp [exchangeRows]) (by simp [tileRows]) (class_of_row hw) (by decide) hw fun _ => rfl
  · exact .plain (by simp) (by simp [exchangeRows]) (by simp [tileRows]) (class_of_row hw) (by decide) hw fun _ => rfl
  · exact .plain (by simp) (by simp [exchangeRows]) (by simp [tileRows]) (class_of_row hw) (by decide) hw fun _ => rfl
  · exact .plain (by simp) (by simp [exchangeRows]) (by simp [tileRows]) (class_of_row hw) (by decide) hw fun _ => rfl
  · exact .plain (by simp) (by simp [exchangeRows]) (by simp [tileRows]) (class_of_row hw) (by decide) hw fun _ => rfl
  · exact .plain (by simp) (by simp [exchangeRows]) (by simp [tileRows]) (class_of_row hw) (by decide) hw fun _ => rfl
  · exact .exchange (by simp [exchangeRows]) (by simp [tileRows]) (class_of_row hw) (by decide) hw fun _ => rfl
  · exact .exchange (by simp [exchangeRows]) (by simp [tileRows]) (class_of_row hw) (by decide) hw fun _ => rfl
  · exact .exchange (by simp [exchangeRows]) (by simp [tileRows]) (class_of_row hw) (by decide) hw fun _ => rfl
  · exact .plain (by simp) (by simp [exchangeRows]) (by simp [tileRows]) (class_of_row hw) (by decide) hw fun _ => rfl
  · exact .exchange (by simp [exchangeRows]) (by simp [tileRows]) (class_of_row hw) (by decide) hw fun _ => rfl
  · exact .exchange (by simp [exchangeRows]) (by simp [tileRows]) (class_of_row hw) (by decide) hw fun _ => rfl
  · exact .plain (by simp) (by simp [exchangeRows]) (by simp [tileRows]) (class_of_row hw) (by decide) hw fun _ => rfl
  · exact .plain (by simp) (by simp [exchangeRows]) (by simp [tileRows]) (class_of_row hw) (by decide) hw fun _ => rfl
  · exact .plain (by simp) (by simp [exchangeRows]) (by simp [tileRows]) (class_of_row hw) (by decide) hw fun _ => rfl
  · exact .plain (by simp) (by simp [exchangeRows]) (by simp [tileRows]) (class_of_row hw) (by decide) hw fun _ => rfl
  · exact .plain (by simp) (by simp [exchangeRows]) (by simp [tileRows]) (class_of_row hw) (by decide) hw fun _ => rfl
  · exact .plain (by simp) (by simp [exchangeRows]) (by simp [tileRows]) (class_of_row hw) (by decide) hw fun _ => rfl
  · exact .plain (by simp) (by simp [exchangeRows]) (by simp [tileRows]) (class_of_row hw) (by decide) hw fun _ => rfl
  · exact .plain (by simp) (by simp [exchangeRows]) (by simp [tileRows]) (class_of_row hw) (by decide) hw fun _ => rfl
  · exact .plain (by simp) (by simp [exchangeRows]) (by simp [tileRows]) (class_of_row hw) (by decide) hw fun _ => rfl
  · exact .stepFence hw
  · exact .plain (by simp) (by simp [exchangeRows]) (by simp [tileRows]) (class_of_row hw) (by decide) hw fun _ => rfl
  · exact .reserved hw

theorem rowShape_of_descRows {qp : Fin 64} {d : Desc} {c : Instr} (hc : c ∈ descRows qp d) (hw : c.wellFormed = true) :
    RowShape qp d c :=
  (List.mem_append.mp hc).elim (rowShape_of_descRows1 · hw) (rowShape_of_descRows2 · hw)


/-! ### Checks 1 to 5 of R544 -/

theorem seqOk_iff {idx : W32} {d : Desc} : seqOk idx d = true ↔ fld d.w0 63 32 = idx.toNat := by
  simp [seqOk]

theorem headerBad_iff {d : Desc} : headerBad d = true
    ↔ fld d.w0 31 10 ≠ 0 ∨ fld d.w0 7 4 ≠ 0 ∨ d.w1 ≠ 0 ∨ descClass d = 0 ∨ 11 < descClass d := by
  have hk : classKnown (descClass d) = false ↔ descClass d = 0 ∨ 11 < descClass d := by
    simp only [classKnown, decide_eq_false_iff_not]
    omega
  simp [headerBad, hk, or_assoc]

theorem criticalClass_iff {c : Nat} : criticalClass c = true ↔ c = 10 ∨ c = 11 := by
  simp [criticalClass, clsTurn, clsVersion]

/-- The table of R23, read as the pairs that it does not mark yes. -/
theorem classAllowed_iff {c : Nat} {t : Turn} (h : ¬(c = 0 ∨ 11 < c)) : classAllowed c t = true ↔ (c, t) ∉ forbiddenTurns := by
  have h1 : 1 ≤ c := by omega
  have h2 : c ≤ 11 := by omega
  interval_cases c <;> cases t <;> decide

/-- The state after those checks, by their status. -/
theorem headBaseAt_early {idx : W32} {d : Desc} {u : State}
    (h : headStatusAt idx d u = .badSequence ∨ headStatusAt idx d u = .limitedMode ∨ headStatusAt idx d u = .badDescriptor) :
    headBaseAt idx d u = u := if_pos h
theorem headBaseAt_late {idx : W32} {d : Desc} {u : State}
    (h : headStatusAt idx d u = .authFail ∨ headStatusAt idx d u = .wrongTurn ∨ headStatusAt idx d u = .ok) :
    headBaseAt idx d u = if descClass d = 10 ∨ descClass d = 11 then (checkDescTag d u).2 else u := by
  unfold headBaseAt
  rcases h with h | h | h <;> rw [h] <;> exact if_neg (by simp)

/-- The model's checks 1 to 5 are those read from the tables, with their status and the state that they leave. -/
theorem headChecks_eq (idx : W32) (d : Desc) (u : State) : headChecks u idx d = (headStatusAt idx d u, headBaseAt idx d u) := by
  by_cases hseq : fld d.w0 63 32 ≠ idx.toNat
  · have hst : headStatusAt idx d u = .badSequence := if_pos hseq
    have hs : seqOk idx d = false := Bool.eq_false_iff.mpr (seqOk_iff.not.mpr hseq)
    rw [headBaseAt_early (.inl hst), hst, headChecks, hs]
    rfl
  have hs : seqOk idx d = true := seqOk_iff.mpr (not_not.mp hseq)
  by_cases hlim : u.sec.limited ≠ 0
  · have hst : headStatusAt idx d u = .limitedMode := (if_neg hseq).trans (if_pos hlim)
    rw [headBaseAt_early (.inr (.inl hst)), hst, headChecks, hs]
    exact if_pos hlim
  by_cases hbad : headerBad d = true
  · have hst : headStatusAt idx d u = .badDescriptor := (if_neg hseq).trans ((if_neg hlim).trans (if_pos (headerBad_iff.mp hbad)))
    rw [headBaseAt_early (.inr (.inr hst)), hst, headChecks, hs]
    exact (if_neg hlim).trans (if_pos hbad)
  have hhead := headerBad_iff.not.mp hbad
  have hturn := classAllowed_iff (t := checkTurn u) fun h => hhead (.inr (.inr (.inr h)))
  have hst : headStatusAt idx d u = if (descClass d = 10 ∨ descClass d = 11) ∧ (checkDescTag d u).1 = false then .authFail
      else if (descClass d, checkTurn u) ∈ forbiddenTurns then .wrongTurn else .ok :=
    (if_neg hseq).trans ((if_neg hlim).trans (if_neg hhead))
  have hbase : headBaseAt idx d u = if descClass d = 10 ∨ descClass d = 11 then (checkDescTag d u).2 else u :=
    headBaseAt_late (by rw [hst]; split_ifs <;> simp)
  rw [hst, hbase, headChecks, hs, Bool.eq_false_iff.mpr hbad]
  refine (if_neg hlim).trans ?_
  by_cases hcrit : descClass d = 10 ∨ descClass d = 11
  · rw [criticalClass_iff.mpr hcrit, if_pos hcrit]
    cases htag : (checkDescTag d u).1 <;> by_cases hallow : (descClass d, checkTurn u) ∈ forbiddenTurns <;>
      simp_all
  · rw [Bool.eq_false_iff.mpr (criticalClass_iff.not.mpr hcrit), if_neg hcrit]
    by_cases hallow : (descClass d, checkTurn u) ∈ forbiddenTurns <;> simp_all

/-- The check of a critical command changes the security registers alone (R649, R654). -/
theorem checkCritical_sec (counter : W64) (tag command : List Byte) (custom : String) (s : State) :
    ∃ x, (checkCritical counter tag command custom s).2 = { s with sec := x } := by
  unfold checkCritical
  split
  · exact ⟨_, rfl⟩
  · split
    · exact ⟨_, rfl⟩
    · split <;> exact ⟨_, rfl⟩

theorem headBaseAt_sec (idx : W32) (d : Desc) (u : State) : ∃ x, headBaseAt idx d u = { u with sec := x } := by
  unfold headBaseAt
  split
  · exact ⟨u.sec, rfl⟩
  · split
    · exact checkCritical_sec _ _ _ _ u
    · exact ⟨u.sec, rfl⟩

theorem headChecks_first (qp : Fin 64) (d : Desc) (s : State) :
    headChecks (advanceHead qp 1 s) (s.q.qps[qp]).head d = (headStatus qp d s, headBase qp d s) := headChecks_eq _ _ _

/-! ### A start that fails one of them -/

/-- The entry of a descriptor that fails one of the checks 1 to 5, added after HEAD has moved past it. -/
def pushRefused (qp : Fin 64) (d : Desc) (s : State) : State :=
  pushInFlight (refusedEntry qp (headIdx s qp) d (headStatus qp d s)) (headBase qp d s)

theorem noteVisit_inflight (qp : Fin 64) (n : Nat) (q : Queues) : (noteVisit qp n q).inflight = q.inflight := by
  unfold noteVisit
  split <;> rfl

theorem advanceHead_inflight (qp : Fin 64) (n : Nat) (s : State) : (advanceHead qp n s).q.inflight = s.q.inflight :=
  noteVisit_inflight qp n s.q

section
variable {qp : Fin 64} {d : Desc} {s : State}

theorem startOne_of_headStatus (body : M Unit) (h : headStatus qp d s ≠ .ok) : startOne qp d body s = pushRefused qp d s := by
  have hc := headChecks_first qp d s
  rw [startOne_refused (congrArg Prod.fst hc) h, hc]
  rfl

theorem headRefused_turn : headRefused (.turn qp d) qp d s = noteRefusal (headStatus qp d s) (pushRefused qp d s) := by
  simp [headRefused, pushRefused]

theorem headRefused_exchange {c : Instr} (hc : c ∈ exchangeRows qp d) : headRefused c qp d s = pumpAll (pushRefused qp d s) := by
  have ht : c ≠ .turn qp d := by
    rintro rfl
    simp [exchangeRows] at hc
  unfold headRefused
  rw [if_neg ht]
  exact if_pos hc

theorem headRefused_other {c : Instr} (ht : c ≠ .turn qp d) (hx : c ∉ exchangeRows qp d) :
    headRefused c qp d s = pushRefused qp d s := by
  unfold headRefused
  rw [if_neg ht]
  exact if_neg hx

/-- What may start starts beside no STEP or DRAIN fence (R554). -/
theorem no_stepFence_of_canStart {n : Nat} (hc : canStart s qp d n = true) {e : InFlight} (he : e ∈ s.q.inflight) :
    e.await ≠ .stepFence := by
  intro ha
  have hr : ready s qp d n = true := (Bool.and_eq_true_iff.mp hc).1
  have hstop : s.q.inflight.any InFlight.stopsAll = false := by
    simp only [ready, Bool.and_eq_true, Bool.not_eq_true'] at hr
    tauto
  have := List.any_eq_false.mp hstop e he
  simp [InFlight.stopsAll, ha] at this

theorem headBase_inflight : (headBase qp d s).q.inflight = s.q.inflight := by
  obtain ⟨x, hx⟩ := headBaseAt_sec (headIdx s qp) d (advanceHead qp 1 s)
  rw [headBase, hx]
  exact advanceHead_inflight qp 1 s

/-- A STEP fence that fails one of the checks 1 to 5 does not act. -/
theorem startStep_of_headStatus (hc : canStart s qp d 1 = true) (h : headStatus qp d s ≠ .ok) :
    startStep qp d s = pushRefused qp d s := by
  unfold startStep
  dsimp only
  rw [startOne_of_headStatus _ h]
  split
  · rename_i e he
    refine if_neg fun w => ?_
    have hm : e ∈ (pushRefused qp d s).q.inflight := List.mem_of_find?_eq_some he
    rw [pushRefused, pushInFlight_inflight, headBase_inflight, List.mem_append, List.mem_singleton] at hm
    rcases hm with hm | rfl
    · exact no_stepFence_of_canStart hc hm w.1
    · exact nomatch w.1
  · rfl

theorem noteHeadRefusal_of_headStatus (h : headStatus qp d s ≠ .ok) :
    noteHeadRefusal qp d s = noteRefusal (headStatus qp d s) (pushRefused qp d s) := by
  unfold noteHeadRefusal
  dsimp only
  rw [headChecks_first, startOne_of_headStatus _ h]
  exact if_neg h

theorem holdsPair_of_class {n : Nat} (hd : descClass d = n) (hn : n ≠ clsKernel) : holdsPair d = false := by
  simp [holdsPair, hd, hn]

theorem fuse_of_holdsPair {num : Nat} (hk : isKernel num d = true) : ((kernelFields d).fuse == 1) = holdsPair d := by
  simp [holdsPair, class_of_row hk]

/-- The next entry is known where it shows the second of a POST pair (R728). -/
theorem nextUnknown_of_postOf {d2 : Desc} (h : postOf s qp = some d2) : nextUnknown s qp = false := by
  obtain ⟨he, -⟩ := Option.filter_eq_some_iff.mp h
  unfold entryOf at he
  dsimp only at he
  split at he
  · rename_i hk
    have hu : entryUnknown s qp ((s.q.qps[qp]).head + 1) = false := by
      simp only [Bool.and_eq_true, Bool.not_eq_true'] at hk
      exact hk.1.2
    exact Bool.and_eq_false_iff.mpr (.inr hu)
  · cases he

/-- A row whose descriptor starts alone and fails one of the checks 1 to 5. -/
theorem exec_of_headStatus {c : Instr} (hshape : RowShape qp d c) (hr : running s = true) (halone : startsAlone c qp d s)
    (hc : canStart s qp d 1 = true) (h : headStatus qp d s ≠ .ok) : exec c s = .next (headRefused c qp d s) := by
  obtain ⟨hpair, hnext⟩ := halone
  cases hshape with
  | turn hd =>
    rw [headRefused_turn, ← noteHeadRefusal_of_headStatus h]
    simp [exec, execTurn, hd, hr, hc]
  | stepFence hd =>
    rw [headRefused_other (by simp) (by simp [exchangeRows]), ← startStep_of_headStatus hc h]
    simp [exec, execStepFence, hd, hr, hc]
  | reserved hd =>
    rw [headRefused_other (by simp) (by simp [exchangeRows]), ← startOne_of_headStatus (fail .badDescriptor) h]
    simp [exec, execReservedClassCode, startDesc, hd, hr, hc, hpair]
  | tile ht hexch hrow hd hisRow hx =>
    obtain ⟨hn, hpost⟩ := hnext hrow
    rw [headRefused_other ht hexch, hx, hisRow, startTile_alone hn hpost, startDesc_starts _ hr hc, startOne_of_headStatus _ h]
  | kernel ht hexch _ hk hx =>
    rw [headRefused_other ht hexch, hx, startKernel_alone ((fuse_of_holdsPair hk).trans hpair), hk, startDesc_starts _ hr hc,
      startOne_of_headStatus _ h]
  | exchange hrow _ hd hn hisRow hx =>
    rw [headRefused_exchange hrow, hx, hisRow, startExchange_starts hr hc, startOne_of_headStatus _ h]
  | plain ht hexch hl hd hn hisRow hx =>
    rw [headRefused_other ht hexch, hx, hisRow, startDesc_starts _ hr hc, startOne_of_headStatus _ h]

/-- A row of a KERNEL of FUSE 1 shows it at HEAD, whatever its number is (R728). -/
theorem exec_of_holdsPair {c : Instr} (hshape : RowShape qp d c) (hr : running s = true) (h : holdsPair d = true) :
    exec c s = .next (showFront qp d s) := by
  have absurdly {n : Nat} (hd : descClass d = n) (hn : n ≠ clsKernel) : False :=
    absurd h (Bool.eq_false_iff.mp (holdsPair_of_class hd hn))
  cases hshape with
  | turn hd => exact (absurdly (by simpa [isTurn] using hd) (by decide)).elim
  | stepFence hd => exact (absurdly (class_of_row hd) (by decide)).elim
  | reserved hd => simp [exec, execReservedClassCode, hd, hr, h]
  | tile _ _ _ hd => exact (absurdly hd (by decide)).elim
  | kernel _ _ _ hk hx => rw [hx, startKernel_first hk hr ((fuse_of_holdsPair hk).trans h)]
  | exchange _ _ hd hn => exact (absurdly hd hn).elim
  | plain _ _ _ hd hn => exact (absurdly hd hn).elim

/-- A TILE row whose next entry is the KERNEL of a POST pair starts the pair (R728). -/
theorem exec_of_postOf {c : Instr} {d2 : Desc} (hshape : RowShape qp d c) (hc : c ∈ tileRows qp d) (h : postOf s qp = some d2) :
    exec c s = exec (.fusedPair qp d d2) s := by
  cases hshape with
  | tile _ _ _ _ hisRow hx =>
    rw [hx, hisRow, startTile_pair (nextUnknown_of_postOf h) h]
    rfl
  | kernel _ _ hl | exchange _ hl | plain _ _ hl => exact absurd hc hl
  | turn | stepFence | reserved => simp [tileRows] at hc

/-! ### A pair whose header checks fail -/

theorem startFused_of_pairHeadStatus {d1 d2 : Desc} (h : pairHeadStatus qp d1 d2 s ≠ .ok) :
    ∃ x, startFused qp d1 d2 s = pushBoth qp (headIdx s qp) d1 d2 (pairHeadStatus qp d1 d2 s) { advanceHead qp 2 s with sec := x } := by
  obtain ⟨x, hx⟩ := headBaseAt_sec (headIdx s qp) d1 (advanceHead qp 2 s)
  unfold startFused
  dsimp only
  simp only [headChecks_eq]
  by_cases h1 : headStatusAt (headIdx s qp) d1 (advanceHead qp 2 s) = .ok
  · obtain ⟨y, hy⟩ := headBaseAt_sec (headIdx s qp + 1) d2 (headBaseAt (headIdx s qp) d1 (advanceHead qp 2 s))
    have hst : pairHeadStatus qp d1 d2 s
        = headStatusAt (headIdx s qp + 1) d2 (headBaseAt (headIdx s qp) d1 (advanceHead qp 2 s)) := if_neg (not_not.mpr h1)
    rw [hst] at h ⊢
    refine ⟨y, (if_neg (not_not.mpr h1)).trans ((if_pos h).trans (congrArg (pushBoth qp (headIdx s qp) d1 d2 _) (hy.trans ?_)))⟩
    rw [hx]
  · have hst : pairHeadStatus qp d1 d2 s = headStatusAt (headIdx s qp) d1 (advanceHead qp 2 s) := if_pos h1
    rw [hst]
    exact ⟨x, (if_pos h1).trans (congrArg (pushBoth qp (headIdx s qp) d1 d2 _) hx)⟩

theorem pairMayStart_iff {d1 d2 : Desc} : pairMayStart qp d1 d2 s = true
    ↔ running s = true ∧ (canStart s qp (orderedBy (bit d2.w0 8) d1) 2 && transAllows s (descClass d2)) = true := by
  simp only [pairMayStart, orderedBy, Bool.and_eq_true, and_assoc]

theorem exec_fusedPair_starts {d1 d2 : Desc} (hf : isFused d1 d2 = true) (h : pairMayStart qp d1 d2 s = true) :
    exec (.fusedPair qp d1 d2) s = .next (startFused qp d1 d2 s) := by
  obtain ⟨hr, hc⟩ := pairMayStart_iff.mp h
  simp only [exec, execFusedPair, hf, hr, hc, Bool.not_true, Bool.false_eq_true, if_false, if_true]

theorem pushBoth_inflight (idx : W32) (d1 d2 : Desc) (st : Status) : ∃ e1 e2,
    (pushBoth qp idx d1 d2 st s).q.inflight = s.q.inflight ++ [e1, e2]
      ∧ [e1, e2].map (fun e : InFlight => (e.qp, e.idx, e.status, e.await, e.follows.isSome))
        = [(qp, idx, st, Await.nothing, false), (qp, idx + 1, Status.ok, Await.nothing, true)] :=
  ⟨_, _, List.append_assoc .., rfl⟩

end

/-- Settles O9: the first failing check of the tables decides, for a descriptor alone, a KERNEL that opens a pair, a TILE that a POST
pair follows, and a pair. -/
theorem headChecksDecideInOrder : Obligations.HeadChecksDecideInOrder := by
  refine ⟨fun qp d s c hrow hw hr => ?_, fun qp d1 d2 s hf hm h => ?_⟩
  · have hshape := rowShape_of_descRows hrow hw
    exact ⟨exec_of_headStatus hshape hr, exec_of_holdsPair hshape hr, fun d2 => exec_of_postOf hshape⟩
  · obtain ⟨x, hx⟩ := startFused_of_pairHeadStatus h
    obtain ⟨e1, e2, hlist, hboth⟩ := pushBoth_inflight (qp := qp) (s := { advanceHead qp 2 s with sec := x }) (headIdx s qp) d1 d2
      (pairHeadStatus qp d1 d2 s)
    have hold : ({ advanceHead qp 2 s with sec := x } : State).q.inflight = s.q.inflight := advanceHead_inflight qp 2 s
    rw [hold] at hlist
    refine ⟨_, (exec_fusedPair_starts hf hm).trans (congrArg _ hx), rfl, rfl, ?_, ?_⟩
    · rw [hlist, List.take_left]
    · rw [hlist, List.drop_left, hboth]

end Sys2Proof.Machine
end

section
/-! SUPPORT. A start whose work reads and writes no memory, and the start of a TURN (R38, R39, R51). -/

namespace Sys2Proof.Machine

/-! ### Work that reads and writes no memory -/

theorem racyReads_nil_left (l : List MemAccess) : racyReads [] l = false := rfl
theorem racyReads_nil_right (l : List MemAccess) : racyReads l [] = false := by simp [racyReads]

theorem overlap_of_no_access (e : InFlight) (s : State) : overlap e [] [] s = s := by
  simp [overlap, racyReads_nil_right, racyReads_nil_left, racyParts, scrambleAll]

theorem raceAll_of_no_writes (beside : InFlight → Bool) (l : List InFlight) (s : State) : raceAll beside [] l s = (l, s) := by
  induction l generalizing s with
  | nil => rfl
  | cons e l ih => simp [raceAll, racyReads_nil_right, ih]

theorem racyParts_nil_right (l : List MemAccess) : racyParts l [] = [] := by simp [racyParts, List.flatMap_eq_nil_iff]

theorem spoilOne_of_no_writes (e : InFlight) : spoilOne [] e = e := by
  unfold spoilOne
  split
  · simp [racyReads_nil_right, racyParts_nil_right]
  · rfl

theorem spoilRuns_nil (own : Option Nat) (s : State) : spoilRuns own [] s = s := rfl

theorem noteRequests_nil (s : State) : noteRequests [] s = s := rfl

theorem demandReads_nil (s : State) : demandReads [] s = s := by
  have h : (fun x : Stream => { x with demanded := ([] : List MemAccess).foldl (fun m r => max m (streamReach x r.lo r.len)) x.demanded })
      = id := rfl
  unfold demandReads
  rw [h, List.map_id]

/-- Work that has read and written nothing leaves nothing to settle with those that run beside it (R547). -/
theorem settleWork_of_no_access {w : Work} (hr : w.reads = []) (hw : w.writes = []) (hs : w.serial = []) : settleWork w = w.s := by
  have hover (l : List InFlight) (s : State) : l.foldl (fun s e => overlap e [] [] s) s = s := by
    induction l generalizing s with
    | nil => rfl
    | cons e l ih => rw [List.foldl_cons, overlap_of_no_access, ih]
  have hreads (s : State) : settleReads w s = s := by
    unfold settleReads
    simp only [hr, hs, List.append_nil, List.flatMap_nil, noteRequests_nil, List.foldl_nil, cacheReads, List.reverse_nil, List.filter_nil,
      ite_self, demandReads_nil]
  unfold settleWork settleAmong
  simp only [hr, hw, hover, List.map_nil, spoilRuns_nil, raceAll_of_no_writes, hreads, if_true, spoilOne_of_no_writes, List.map_id']

theorem drawRequests_nil (s : State) : drawRequests [] s = [] := rfl

/-- The entry and the state that such work leaves. -/
theorem settleEntry_of_no_access {old : State} {d : Desc} {e : InFlight} {r : Except Fail Unit × Work} (hd : descClass d ≠ clsSample)
    (hn : nextOf d = none) (hr : r.2.reads = []) (hw : r.2.writes = []) (hs : r.2.serial = []) :
    settleEntry old d e r = ({ workEntry e.qp e.idx d r with order := r.2.order }, ownWrites old e.qp e.idx r.2.s) := by
  have hown (x : InFlight) (hx : x.cls = descClass d) : raceOwn r.2 e.spoiled x r.2.s = (x, r.2.s) := by
    unfold raceOwn
    simp [hx, hd, hr, racyReads_nil_left]
  unfold settleEntry
  rw [settleWork_of_no_access hr hw hs, hown _ (by rfl), hr]
  simp only [holdRequests, drawRequests_nil, List.append_nil, List.length_nil, Nat.add_zero, dropSuppressed, hn]

/-- The status of an outcome of work. -/
def outcomeStatus {α : Type} : Except Fail α → Status
  | .ok _ => .ok
  | .error e => e.status

/-- A descriptor whose work reads and writes no memory and waits for nothing leaves the state of that work, with its entry. -/
theorem startOne_of_no_access {qp : Fin 64} {d : Desc} {body : M Unit} {s v : State} {x : Except Fail Unit} {a : Await}
    (hh : headStatus qp d s = .ok) (ho : openStep d (headBase qp d s) = headBase qp d s) (hd : descClass d ≠ clsSample)
    (hn : nextOf d = none) (hx : waitsIn x = false)
    (hrun : runWork body (headBase qp d s)
      = (x, { Work.start (headBase qp d s).q.nextOrder [] (headBase qp d s) with s := v, await := a })) :
    ∃ e, startOne qp d body s = pushInFlight e (ownWrites (headBase qp d s) qp (headIdx s qp) v)
      ∧ e.qp = qp ∧ e.idx = headIdx s qp ∧ e.cls = descClass d ∧ e.await = a ∧ e.status = outcomeStatus x := by
  have hc := headChecks_first qp d s
  rw [startOne_ok ((congrArg Prod.fst hc).trans hh), hc]
  dsimp only
  rw [runBody_settles (by rw [ho, hrun]; exact hx), ho, hrun]
  dsimp only
  rw [settleEntry_of_no_access hd hn rfl rfl rfl]
  refine ⟨_, rfl, rfl, rfl, rfl, rfl, ?_⟩
  cases x <;> rfl

theorem newest_pushInFlight (e : InFlight) (s : State) : newest (pushInFlight e s) = some { e with order := s.q.nextOrder } := by
  rw [newest, pushInFlight_inflight, List.getLast?_append]
  rfl

/-- The entry of a start is the newest. -/
theorem startedAs_of_push {qp : Fin 64} {d : Desc} {s u : State} {e : InFlight} (hq : e.qp = qp) (hi : e.idx = headIdx s qp)
    (hc : e.cls = descClass d) : startedAs s qp d e.await e.status (pushInFlight e u) := by
  rw [startedAs, newest_pushInFlight]
  simp [hq, hi, hc]

theorem advanceHead_nextOrder (qp : Fin 64) (n : Nat) (s : State) : (advanceHead qp n s).q.nextOrder = s.q.nextOrder := by
  simp only [advanceHead, noteVisit]
  split <;> rfl

/-! ### A TURN -/

theorem transitionOk_iff (c : Turn) (n : Nat) : transitionOk c n = true ↔ (c, n) ∈ allowedTransitions := by
  rcases n with _ | _ | _ | _ | _ | n
  iterate 5 cases c <;> decide
  cases c <;> simp [transitionOk, allowedTransitions]

/-- How the checks of R51 and R39 decide a TURN. -/
theorem turnVerdict_bad {r : TurnReq} (s : State) (h : r.fieldsOk = false) : turnVerdict r s = .badDescriptor := by
  simp [turnVerdict, h]
theorem turnVerdict_ok {r : TurnReq} {s : State} (h : r.fieldsOk = true) (hp : turnPasses r s) : turnVerdict r s = .ok := by
  simp [turnVerdict, h, hp.1, (transitionOk_iff _ _).mpr hp.2]
theorem turnVerdict_refused {r : TurnReq} {s : State} (h : r.fieldsOk = true) (hp : ¬turnPasses r s) :
    turnVerdict r s = .badTransition := by
  have hv : ¬(r.seq = s.turn.seq + 1 ∧ transitionOk s.turn.cur r.target = true) := fun w => hp ⟨w.1, (transitionOk_iff _ _).mp w.2⟩
  unfold turnVerdict
  rw [h]
  exact if_neg hv

/-- A TURN that is decided at once or waits asks for no line and sends nothing. -/
theorem runWork_of_same_link {body : M Unit} {s v : State} {x : Except Fail Unit} {a : Await}
    (h : body.run (Work.start s.q.nextOrder [] s) = (x, { Work.start s.q.nextOrder [] s with s := v, await := a }))
    (hl : v.lk = s.lk) : runWork body s = (x, { Work.start s.q.nextOrder [] s with s := v, await := a }) := by
  have hlate : settleLate (body.run (Work.start s.q.nextOrder [] s)) = body.run (Work.start s.q.nextOrder [] s) := by
    rw [h]
    cases x <;> rfl
  unfold runWork runWorkAt
  rw [hlate, h]
  simp only [sendQueued, hl, if_true]

section
variable {qp : Fin 64} {idx : W32} {d : Desc} {w : Work}

/-- Its class's checks, by what they decide. -/
theorem turnBody_waits (h : ¬(w.s.turn.trans = none ∧ w.s.turn.waiting = [])) : (turnBody qp idx d).run w
    = (.ok (), { w with
        s := { w.s with turn := { w.s.turn with waiting := w.s.turn.waiting ++ [turnReq qp idx d] } }, await := .turn }) := by
  have hb : (w.s.turn.trans.isSome || !w.s.turn.waiting.isEmpty) = true := by
    cases ht : w.s.turn.trans <;> cases hw : w.s.turn.waiting <;> simp_all
  unfold turnBody
  rw [M.run_bind, show getS.run w = (.ok w.s, w) from rfl]
  dsimp only
  rw [if_pos hb]
  rfl

theorem turnBody_decides (h : w.s.turn.trans = none ∧ w.s.turn.waiting = []) : (turnBody qp idx d).run w
    = match turnVerdict (turnReq qp idx d) w.s with
      | .ok => (.ok (), { w with s := acceptTurn (turnReq qp idx d) w.s, await := .turn })
      | st => (.error ⟨st, none, false⟩, { w with s := noteRefusal st w.s, await := .turnRefused }) := by
  have hb : ¬(w.s.turn.trans.isSome || !w.s.turn.waiting.isEmpty) = true := by simp [h.1, h.2]
  unfold turnBody
  rw [M.run_bind, show getS.run w = (.ok w.s, w) from rfl]
  dsimp only
  rw [if_neg hb]
  cases turnVerdict (turnReq qp idx d) w.s <;> rfl
end

/-- What the start of a TURN leaves where it passes checks 1 to 5: the turn as its class's checks leave it, and an entry that waits as they
say, beside the memory, pairs and units of a start (R38, R39, R51). -/
theorem exec_turn_of_run {qp : Fin 64} {d : Desc} {s : State} {x : Except Fail Unit} {a : Await} {y : TurnCtl}
    (hd : isTurn d = true) (hr : running s = true) (hc : canStart s qp d 1 = true) (hh : headStatus qp d s = .ok)
    (hx : waitsIn x = false)
    (hrun : ∀ u : State, u.turn = s.turn → u.stash = s.stash → u.q.nextOrder = s.q.nextOrder →
      (turnBody qp (headIdx s qp) d).run (Work.start u.q.nextOrder [] u)
        = (x, { Work.start u.q.nextOrder [] u with s := { u with turn := y }, await := a })) :
    ∃ t, exec (.turn qp d) s = .next t
      ∧ (t.mem = s.mem ∧ t.q.qps = (advanceHead qp 1 s).q.qps ∧ t.sched = s.sched ∧ t.vers = s.vers ∧ t.stash = s.stash ∧ t.terr = s.terr)
      ∧ t.turn = y ∧ startedAs s qp d a (outcomeStatus x) t := by
  have hcls : descClass d = clsTurn := by simpa [isTurn] using hd
  obtain ⟨sec, hbase⟩ := headBaseAt_sec (headIdx s qp) d (advanceHead qp 1 s)
  have hopen : openStep d (headBase qp d s) = headBase qp d s := if_neg fun h => h.2.1 hcls
  have hwork := hrun (headBase qp d s) (by rw [headBase, hbase]; rfl) (by rw [headBase, hbase]; rfl)
    (by rw [headBase, hbase]; exact advanceHead_nextOrder qp 1 s)
  obtain ⟨e, hstart, hq, hi, hk, rfl, hst⟩ := startOne_of_no_access hh hopen (by rw [hcls]; decide)
    (by simp [nextOf, hcls, clsTurn, clsMove, clsShard]) hx (runWork_of_same_link hwork rfl)
  have hexec : exec (.turn qp d) s = .next (startOne qp d (turnBody qp (headIdx s qp) d) s) := by
    have hnote : noteHeadRefusal qp d s = startOne qp d (turnBody qp (headIdx s qp) d) s := by
      unfold noteHeadRefusal
      exact if_pos ((congrArg Prod.fst (headChecks_first qp d s)).trans hh)
    simp [exec, execTurn, hd, hr, hc, hnote]
  rw [hstart] at hexec
  refine ⟨_, hexec, ?_, rfl, hst ▸ startedAs_of_push hq hi hk⟩
  rw [headBase, hbase]
  exact ⟨rfl, rfl, rfl, rfl, rfl, rfl⟩

/-- Settles O12: a TURN that starts while another is in transition or waits waits; otherwise its verdict accepts or refuses it. -/
theorem turnIsAcceptedOrRefused : Obligations.TurnIsAcceptedOrRefused := by
  intro qp d s hd hr hc hh
  have verdict {u : State} (ht : u.turn = s.turn) (r : TurnReq) : turnVerdict r u = turnVerdict r s := by
    unfold turnVerdict
    rw [ht]
  refine ⟨fun halone hf hp => ?_, fun halone hf hp => ?_, fun halone hf => ?_, fun halone => ?_⟩
  · refine exec_turn_of_run (x := .ok ()) hd hr hc hh rfl fun u ht hs hn => ?_
    have hbegun : begun (turnReq qp (headIdx s qp) d) u = begun (turnReq qp (headIdx s qp) d) s := by
      unfold begun
      rw [ht, hs, hn]
    rw [turnBody_decides (ht.symm ▸ halone), Work.start, verdict ht, turnVerdict_ok hf hp, ← hbegun, ← ht]
    rfl
  · refine exec_turn_of_run (x := .error ⟨.badTransition, none, false⟩) hd hr hc hh rfl fun u ht hs hn => ?_
    rw [turnBody_decides (ht.symm ▸ halone), Work.start, verdict ht, turnVerdict_refused hf hp, ← ht]
    rfl
  · refine exec_turn_of_run (x := .error ⟨.badDescriptor, none, false⟩) hd hr hc hh rfl fun u ht hs hn => ?_
    rw [turnBody_decides (ht.symm ▸ halone), Work.start, verdict ht, turnVerdict_bad s hf, ← ht]
    rfl
  · refine exec_turn_of_run (x := .ok ()) hd hr hc hh rfl fun u ht hs hn => ?_
    rw [turnBody_waits (ht.symm ▸ halone), ← ht]
    rfl

end Sys2Proof.Machine
end

section
/-! SUPPORT. What sending on the Carard link and writing a record leave unchanged (R549, R550, R584), and the TURNs that wait or time out
(R36, R38, R52). -/

namespace Sys2Proof.Machine

/-! ### Sending on the Carard link -/

/-- A later state differs in nothing but what sending on the Carard link changes; no address names another byte. -/
structure Sends (s t : State) : Prop where
  eq : t = { s with od := t.od, stk := t.stk, lk := t.lk, outbox := t.outbox, freeCtr := t.freeCtr }
  k : t.stk.k = s.stk.k
  j : t.stk.j = s.stk.j
  cbytes : t.lk.cl.cbytes = s.lk.cl.cbytes

theorem Sends.refl (s : State) : Sends s s := ⟨rfl, rfl, rfl, rfl⟩

theorem Sends.trans {s t u : State} (a : Sends s t) (b : Sends t u) : Sends s u := by
  refine ⟨b.eq.trans ?_, b.k.trans a.k, b.j.trans a.j, b.cbytes.trans a.cbytes⟩
  rw [a.eq]

theorem Sends.foldl {α : Type} {f : State → α → State} (h : ∀ s x, Sends s (f s x)) : ∀ (l : List α) (s : State), Sends s (l.foldl f s)
  | [], s => Sends.refl s
  | x :: l, s => (h s x).trans (Sends.foldl h l (f s x))

section
variable {s t : State} (h : Sends s t)
include h

theorem Sends.turn : t.turn = s.turn := by rw [h.eq]
theorem Sends.q : t.q = s.q := by rw [h.eq]
theorem Sends.mem : t.mem = s.mem := by rw [h.eq]
theorem Sends.sched : t.sched = s.sched := by rw [h.eq]
theorem Sends.vers : t.vers = s.vers := by rw [h.eq]
theorem Sends.gate : t.gate = s.gate := by rw [h.eq]

theorem Sends.locOf (a : Nat) : locOf t a = locOf s a :=
  locOf_congr h.k h.j (by rw [h.eq]) h.cbytes (by rw [h.eq]) a

theorem Sends.peek (a : Nat) : peek t a = peek s a := by
  unfold Machine.peek
  rw [h.locOf, h.mem]
end

theorem setLink_sends {l : Link} {s : State} (h : l.cbytes = s.lk.cl.cbytes) : Sends s (setLink .cl l s) := ⟨rfl, rfl, rfl, h⟩

theorem ackOf_sends (s : State) : Sends s (ackOf .cl s).2 := by
  unfold ackOf
  split
  · exact Sends.refl s
  · exact ⟨rfl, rfl, rfl, rfl⟩

theorem emitFlit_sends (type ch : Nat) (seq : BitVec 12) (bs : List Byte) (s : State) : Sends s (emitFlit .cl type ch seq bs s) :=
  (ackOf_sends s).trans ⟨rfl, rfl, rfl, rfl⟩

theorem putFlit_sends (type ch : Nat) (seq : BitVec 12) (bs : List Byte) (s : State) : Sends s (putFlit .cl type ch seq bs s) := by
  unfold putFlit
  dsimp only
  split
  · exact ((setLink_sends (by rfl)).trans (emitFlit_sends _ _ _ _ _)).trans (emitFlit_sends _ _ _ _ _)
  · exact (setLink_sends (by rfl)).trans (emitFlit_sends _ _ _ _ _)

theorem sendFlit_sends (b : FlitBody) (s : State) : Sends s (sendFlit .cl b s) := by
  have hseq (f : Flit) (s : State) : Sends s (putSequenced .cl f s) := by
    unfold putSequenced
    split <;> exact putFlit_sends _ _ _ _ _
  unfold sendFlit
  dsimp only
  exact (setLink_sends (by rfl)).trans (hseq _ _)

theorem takeMsgs_sends (n : Nat) (taken : List OutMsg) (s : State) : Sends s (takeMsgs .cl n taken s).2 := by
  induction n generalizing taken s with
  | zero => exact Sends.refl s
  | succ n ih =>
    unfold takeMsgs
    split
    · exact (setLink_sends (by rfl)).trans (ih _ _)
    · exact Sends.refl s

theorem sendStreams_sends (l : List OutMsg) (s : State) : Sends s (sendStreams .cl l s) :=
  Sends.foldl (fun _ _ => Sends.foldl (fun _ _ => sendFlit_sends _ _) _ _) _ s

theorem countMsgs_sends (l : List OutMsg) (s : State) : Sends s (countMsgs .cl l s) := ⟨rfl, rfl, rfl, rfl⟩

theorem transmit_sends (s : State) : Sends s (transmit .cl s) := by
  unfold transmit
  dsimp only
  split
  · exact Sends.refl s
  · exact ((takeMsgs_sends _ _ s).trans (countMsgs_sends _ _)).trans (sendStreams_sends _ _)

theorem linkQueue_sends (m : OutMsg) (s : State) : Sends s (linkQueue .cl m s) := setLink_sends (by rfl)

theorem clRequest_sends (ch op addr tag : Nat) (data : List Byte) (s : State) : Sends s (clRequest ch op addr tag data s) :=
  (linkQueue_sends _ s).trans (transmit_sends _)

theorem mailRequest_sends (op : Nat) (data : List Byte) (s : State) : Sends s (mailRequest op data s) := by
  refine Sends.trans ?_ (clRequest_sends 2 op 0 _ data _)
  exact ⟨rfl, rfl, rfl, rfl⟩

theorem sendAlert_sends (s : State) : Sends s (sendAlert s) := by
  unfold sendAlert
  dsimp only
  split
  · split
    · refine Sends.trans ?_ (mailRequest_sends _ _ _)
      exact ⟨rfl, rfl, rfl, rfl⟩
    · exact Sends.refl s
  · split
    · exact Sends.refl s
    · exact ⟨rfl, rfl, rfl, rfl⟩

theorem alertGained_sends (s : State) : Sends s (alertGained s) := by
  unfold alertGained
  split <;> split
  · exact ⟨rfl, rfl, rfl, rfl⟩
  · exact sendAlert_sends s
  · exact ⟨rfl, rfl, rfl, rfl⟩
  · exact sendAlert_sends s

theorem raiseAlert_sends (bits : W32) (s : State) : Sends s (raiseAlert bits s) := by
  have hod : Sends s { s with od := { s.od with alertPending := s.od.alertPending ||| bits } } := ⟨rfl, rfl, rfl, rfl⟩
  unfold raiseAlert
  dsimp only
  split
  · exact hod
  · exact hod.trans (alertGained_sends _)

theorem postWr_sends (owner : Option (Fin 64 × W32)) (a : Nat) (data : List Byte) (s : State) : Sends s (postWr owner a data s) := by
  unfold postWr
  refine Sends.trans ?_ (linkQueue_sends _ _)
  exact ⟨rfl, rfl, rfl, rfl⟩

theorem sendWrLine_sends (owner : Option (Fin 64 × W32)) (lo hi : Nat) (s : State) : Sends s (sendWrLine owner lo hi s) := by
  have hold : Sends s (outdate lo (hi - lo) s) := ⟨rfl, rfl, rfl, rfl⟩
  unfold sendWrLine
  dsimp only
  generalize outdate lo (hi - lo) s = u at hold ⊢
  split
  · exact hold.trans (postWr_sends _ _ _ _)
  · exact hold.trans ⟨rfl, rfl, rfl, rfl⟩

theorem queueWr_sends (owner : Option (Fin 64 × W32)) (a : Nat) (bs : List Byte) (s : State) : Sends s (queueWr owner a bs s) := by
  unfold queueWr
  split
  · exact Sends.refl s
  · exact Sends.foldl (fun _ _ => sendWrLine_sends _ _ _ _) _ s

theorem sendWr_sends (owner : Option (Fin 64 × W32)) (a : Nat) (bs : List Byte) (s : State) : Sends s (sendWr owner a bs s) :=
  (queueWr_sends owner a bs s).trans (transmit_sends _)

theorem sendQueued_sends (old s : State) : Sends s (sendQueued old s) := by
  unfold sendQueued
  split
  · exact Sends.refl s
  · exact transmit_sends s

/-! ### Writing a record -/

/-- The entries that stay when one completes (R528). -/
def restOf (e : InFlight) (s : State) : List InFlight := s.q.inflight.filter fun x => !(x.qp == e.qp && x.idx == e.idx)

/-- The pair of an entry as its completion leaves it (R528, R534, R536). -/
def pairOf (e : InFlight) (s : State) : QueuePair :=
  let p := s.q.qps[e.qp]
  let mine := (restOf e s).filter fun x => x.qp == e.qp
  pairAfter { p with produced := p.produced + 1, retired := retiredOf p.head mine p.retired } e.status mine.isEmpty

/-- The bytes of an entry's record (R558). -/
def recordOf (e : InFlight) (s : State) : List Byte := recordBytes e (s.q.qps[e.qp]).produced (s.q.qps[e.qp]).entries.toNat

/-- An entry leaves, and its pair follows, in a state to which its record has been written. -/
def closeEntry (e : InFlight) (s u : State) : State :=
  let halted := (pairOf e s).state = .halted ∧ (s.q.qps[e.qp]).state ≠ .halted
  { u with
    gate := { u.gate with runs := u.gate.runs.filter fun r => r.order != e.order }
    q := { u.q with
      qps := u.q.qps.set e.qp (pairOf e s), inflight := restOf e s, written := satInc u.q.written,
      lastHalt := if halted then BitVec.ofNat 32 (e.status.code * 2 ^ 16 + e.qp.val) else u.q.lastHalt } }

/-- The state that writing a record leaves, what it sends apart. -/
def recorded (e : InFlight) (s : State) : State := closeEntry e s (poke (countOk e s) (s.q.qps[e.qp]).recordAt (recordOf e s))

theorem Sends.closeEntry {u v : State} (h : Sends u v) (e : InFlight) (s : State) : Sends (closeEntry e s u) (closeEntry e s v) := by
  refine ⟨?_, h.k, h.j, h.cbytes⟩
  unfold Machine.closeEntry
  rw [h.eq]

theorem countOk_eq (e : InFlight) (s : State) : ∃ c r h, countOk e s = { s with care := c, red := r, shard := h } := by
  unfold countOk
  split
  · exact ⟨s.care, s.red, s.shard, rfl⟩
  · split <;> exact ⟨_, _, _, rfl⟩

theorem writeRecord_sends (e : InFlight) (s : State) : Sends (recorded e s) (writeRecord e s) := by
  have hclose := (sendWr_sends none (s.q.qps[e.qp]).recordAt (recordOf e s) (poke (countOk e s) (s.q.qps[e.qp]).recordAt
    (recordOf e s))).closeEntry e s
  have hevent {u : State} {op : Nat} {bs : List Byte} {o : List OutEvent} (h : Sends (recorded e s) u) :
      Sends (recorded e s) (if e.notify then mailRequest op bs { u with outbox := o } else u) := by
    split
    · refine Sends.trans (h.trans ?_) (mailRequest_sends _ _ _)
      exact ⟨rfl, rfl, rfl, rfl⟩
    · exact h
  have halert {u : State} {c : Prop} [Decidable c] (h : Sends (recorded e s) u) :
      Sends (recorded e s) (if c then raiseAlert 2 u else u) := by
    split
    · exact h.trans (raiseAlert_sends 2 u)
    · exact h
  exact halert (hevent hclose)

theorem countOk_q (e : InFlight) (s : State) : (countOk e s).q = s.q := by
  obtain ⟨c, r, h, hc⟩ := countOk_eq e s
  rw [hc]

section
variable (e : InFlight) (s : State)

theorem writeRecord_q : (writeRecord e s).q = (closeEntry e s s).q := by
  rw [(writeRecord_sends e s).q]
  unfold recorded closeEntry
  dsimp only
  rw [poke_q, countOk_q]

/-- A completed descriptor's entry is gone, its pair counts the record, and no other entry or pair changes (R528, R549). -/
theorem findInFlight_writeRecord : findInFlight (writeRecord e s) e.qp e.idx = none := by
  unfold findInFlight
  rw [writeRecord_q, List.find?_eq_none]
  intro x hx
  have h := (List.mem_filter.mp hx).2
  intro w
  rw [w] at h
  cases h

theorem pairAfter_counts (p : QueuePair) (st : Status) (last : Bool) : (pairAfter p st last).produced = p.produced
    ∧ (pairAfter p st last).head = p.head ∧ (pairAfter p st last).tail = p.tail := by
  unfold pairAfter
  split_ifs <;> exact ⟨rfl, rfl, rfl⟩

theorem pairCompleted_writeRecord : pairCompleted e s (writeRecord e s) := by
  have hqps : (writeRecord e s).q.qps = s.q.qps.set e.qp (pairOf e s) := congrArg Queues.qps (writeRecord_q e s)
  have hpair : (writeRecord e s).q.qps[e.qp] = pairOf e s := by simp [hqps]
  obtain ⟨hp, hh, ht⟩ := pairAfter_counts { s.q.qps[e.qp] with
    produced := (s.q.qps[e.qp]).produced + 1
    retired := retiredOf (s.q.qps[e.qp]).head ((restOf e s).filter fun x => x.qp == e.qp) (s.q.qps[e.qp]).retired }
    e.status ((restOf e s).filter fun x => x.qp == e.qp).isEmpty
  refine ⟨findInFlight_writeRecord e s, ?_, ?_, ?_, fun q hq => ?_, fun x hx => ?_⟩
  · rw [hpair]; exact hp
  · rw [hpair]; exact hh
  · rw [hpair]; exact ht
  · simp only [hqps]
    exact Vector.getElem_set_ne e.qp.isLt q.isLt fun h => hq (Fin.ext h.symm)
  · rw [writeRecord_q] at hx
    exact (List.mem_filter.mp hx).1
end

/-! ### The bytes of a record in companion memory -/

theorem stackPlace_offset_lt {k j S a n off : Nat} (ha : a < stackEnd) (h : stackPlace k j S a = some (n, off)) :
    off < 2 * stackEnd := by
  have hE : stackEnd = 3072 * gib := by decide
  have hG : 0 < gib := by decide
  rcases stackPlace_cases h with ⟨-, -, -, rfl⟩ | ⟨hk, -, -, rfl⟩ | ⟨hkj, -, rfl⟩
  · have hg : a / 4096 / S ≤ a / 4096 := Nat.div_le_self _ _
    omega
  · have hk' : k * gib ≤ stackEnd := by nlinarith
    have hm := Nat.mod_le (a - 32 * k * gib) (4 * j * gib)
    omega
  · have hk' : (k + j) * gib ≤ stackEnd := by nlinarith
    have hm := Nat.mod_le (a - 32 * (k + j) * gib) ((96 - k - j) * gib)
    omega

/-- A stack byte is kept below every companion byte, whatever the shares are. -/
theorem locOf_stack_lt {s : State} {a l : Nat} (ha : a < stackEnd) (h : locOf s a = some l) : l < companionBase := by
  delta locOf resolve at h
  rw [if_pos ha] at h
  split at h
  · cases h
  · rename_i n off hp
    split at h
    · rename_i hr
      have hn : n < 32 := by
        unfold stackReachable at hr
        split at hr
        · assumption
        · cases hr
      have hoff := stackPlace_offset_lt ha hp
      have hl : n * stackBytes + off = l := Option.some.inj h
      have hB : stackBytes = 96 * gib := by decide
      have hE : stackEnd = 3072 * gib := by decide
      have hC : companionBase = 131072 * gib := by decide
      have hmul : n * stackBytes ≤ 31 * stackBytes := Nat.mul_le_mul_right _ (by omega)
      omega
    · cases h

theorem locOf_above {s : State} {a l : Nat} (ha : ¬a < stackEnd) (h : locOf s a = some l) : companionBase ≤ a ∧ l = a := by
  delta locOf resolve at h
  rw [if_neg ha] at h
  split at h
  · cases h
  · split at h
    · exact ⟨by omega, (Option.some.inj h).symm⟩
    · cases h

theorem locOf_companion {s : State} {a : Nat} (h1 : companionBase ≤ a) (h2 : a < companionBase + s.lk.cl.cbytes.toNat) :
    locOf s a = some a := by
  have hE : stackEnd ≤ companionBase := by decide
  delta locOf resolve
  rw [if_neg (by omega), if_neg (by omega), if_pos h2]
  rfl

/-- A companion byte shares its place with no other address. -/
theorem locOf_companion_inj {s : State} {a x l : Nat} (ha : companionBase ≤ a) (h1 : locOf s a = some l) (h2 : locOf s x = some l) :
    x = a := by
  have hE : stackEnd ≤ companionBase := by decide
  obtain ⟨-, rfl⟩ := locOf_above (by omega) h1
  by_cases hx : x < stackEnd
  · exact absurd (locOf_stack_lt hx h2) (by omega)
  · exact (locOf_above hx h2).2.symm

/-- A store to companion memory changes no byte beside its range. -/
theorem peek_poke_companion_other {s : State} {a x : Nat} {bs : List Byte} (ha : companionBase ≤ a) (hx : x < a ∨ a + bs.length ≤ x) :
    peek (poke s a bs) x = peek s x := by
  refine peek_poke_other s a bs x fun i hi => ?_
  cases hl : locOf s x with
  | none => exact .inr rfl
  | some l =>
    refine .inl fun h => ?_
    have := locOf_companion_inj (by omega) h hl
    omega

/-- It reads back, in a memory of the canonical form, where the companion offers its range. -/
theorem peekList_poke_companion {s : State} {a : Nat} {bs : List Byte} (hm : MemoryCanonical s) (h1 : companionBase ≤ a)
    (h2 : a + bs.length ≤ companionBase + s.lk.cl.cbytes.toNat) : peekList (poke s a bs) a bs.length = bs := by
  have hloc (i : Nat) (hi : i < bs.length) : locOf s (a + i) = some (a + i) := locOf_companion (by omega) (by omega)
  refine List.ext_getElem (by simp [peekList]) fun i _ hi => ?_
  have hread := memGet_pokeList_same s a bs s.mem hm (fun i j l hi hj e1 e2 => by
    rw [hloc i hi] at e1
    rw [hloc j hj] at e2
    have := e1.trans e2.symm
    simpa using this) i (a + i) hi (hloc i hi)
  simp only [peekList, List.getElem_map, List.getElem_range, peek, locOf_poke, hloc i hi]
  exact hread

theorem leBytes_length (n v : Nat) : (leBytes n v).length = n := by
  induction n generalizing v with
  | zero => rfl
  | succ n ih => simp [leBytes, ih]

theorem recordOf_length (e : InFlight) (s : State) : (recordOf e s).length = 32 := by
  simp [recordOf, recordBytes, leBytes_length, zeros16]

/-- What a byte is kept at decides what stores and loads see, and nothing else does. -/
theorem pokeList_congr {s t : State} (h : ∀ a, locOf t a = locOf s a) :
    ∀ (a : Nat) (bs : List Byte) (m : List Host.Cell), pokeList t a bs m = pokeList s a bs m
  | _, [], _ => rfl
  | a, b :: bs, m => by
    unfold pokeList
    rw [h a, pokeList_congr h (a + 1) bs]

theorem peek_congr {s t : State} (h : ∀ a, locOf t a = locOf s a) (hm : t.mem = s.mem) (a : Nat) : peek t a = peek s a := by
  unfold peek
  rw [h a, hm]

theorem locOf_withTurn (s : State) (y : TurnCtl) (a : Nat) : locOf { s with turn := y } a = locOf s a :=
  locOf_congr (by rfl) (by rfl) (by rfl) (by rfl) (by rfl) a

theorem poke_mem_congr {s t : State} (h : ∀ a, locOf t a = locOf s a) (hm : t.mem = s.mem) (a : Nat) (bs : List Byte) :
    (poke t a bs).mem = (poke s a bs).mem := by
  unfold poke
  dsimp only
  rw [hm, pokeList_congr h]

theorem locOf_countOk (e : InFlight) (s : State) (a : Nat) : locOf (countOk e s) a = locOf s a := by
  obtain ⟨c, r, h, hc⟩ := countOk_eq e s
  rw [hc]
  exact locOf_congr (by rfl) (by rfl) (by rfl) (by rfl) (by rfl) a

theorem countOk_mem (e : InFlight) (s : State) : (countOk e s).mem = s.mem := by
  obtain ⟨c, r, h, hc⟩ := countOk_eq e s
  rw [hc]

theorem locOf_recorded (e : InFlight) (s : State) (a : Nat) : locOf (recorded e s) a = locOf s a :=
  (locOf_congr (s := countOk e s) (by rfl) (by rfl) (by rfl) (by rfl) (by rfl) a).trans (locOf_countOk e s a)

theorem recorded_mem (e : InFlight) (s : State) : (recorded e s).mem = (poke s (s.q.qps[e.qp]).recordAt (recordOf e s)).mem :=
  poke_mem_congr (locOf_countOk e s) (countOk_mem e s) _ _

theorem peek_writeRecord (e : InFlight) (s : State) (x : Nat) :
    peek (writeRecord e s) x = peek (poke s (s.q.qps[e.qp]).recordAt (recordOf e s)) x := by
  rw [(writeRecord_sends e s).peek]
  exact peek_congr (fun a => (locOf_recorded e s a).trans (locOf_poke s _ _ a).symm) (recorded_mem e s) x

/-- A record reads back at its place in a ring that lies in companion memory, and nothing else changes (R527, R558). -/
theorem recordWritten_writeRecord {e : InFlight} {s : State} (h : ringOutside s e.qp) : recordWritten e s (writeRecord e s) := by
  have ha : companionBase ≤ (s.q.qps[e.qp]).recordAt := Nat.le_trans h (Nat.le_add_right _ _)
  refine ⟨fun hm h1 h2 => ?_, fun x hx => ?_⟩
  · have hread := peekList_poke_companion (bs := recordOf e s) hm h1 (by rw [recordOf_length]; exact h2)
    rw [recordOf_length] at hread
    exact (List.map_congr_left fun i _ => peek_writeRecord e s _).trans hread
  · rw [peek_writeRecord]
    exact peek_poke_companion_other ha (by rw [recordOf_length]; exact hx)

/-! ### Completing a TURN -/

theorem finish_of_ready {e : InFlight} {s : State} (h : recordReady s e.qp = true) : finish e s = writeRecord e s := if_pos h
theorem finish_of_wait {e : InFlight} {s : State} (h : ¬recordReady s e.qp = true) :
    finish e s = setInFlight { e with await := .nothing } s := if_neg h

/-- What completing an entry leaves: the turn, the version slots, the scheduler and the mask cache. -/
structure KeepsBeside (s t : State) : Prop where
  turn : t.turn = s.turn
  vers : t.vers = s.vers
  sched : t.sched = s.sched
  cache : t.gate.cache = s.gate.cache

theorem countOk_keepsBeside (e : InFlight) (s : State) : KeepsBeside s (countOk e s) := by
  obtain ⟨c, r, h, hc⟩ := countOk_eq e s
  rw [hc]
  exact ⟨rfl, rfl, rfl, rfl⟩

theorem finish_keepsBeside (e : InFlight) (s : State) : KeepsBeside s (finish e s) := by
  by_cases h : recordReady s e.qp = true
  · have hs := writeRecord_sends e s
    have hc := countOk_keepsBeside e s
    rw [finish_of_ready h]
    exact ⟨hs.turn.trans hc.turn, hs.vers.trans hc.vers, hs.sched.trans hc.sched, (congrArg Gate.cache hs.gate).trans hc.cache⟩
  · rw [finish_of_wait h]
    exact ⟨rfl, rfl, rfl, rfl⟩

theorem endTurn_keepsBeside (qp : Fin 64) (idx : W32) (st : Status) (a b : W32) (s : State) :
    KeepsBeside s (endTurn qp idx st a b s) := by
  unfold endTurn
  split
  · exact ⟨rfl, rfl, rfl, rfl⟩
  · exact finish_keepsBeside _ s

theorem findInFlight_names {s : State} {qp : Fin 64} {idx : W32} {e : InFlight} (h : findInFlight s qp idx = some e) :
    e.qp = qp ∧ e.idx = idx := by
  simpa using List.find?_some h

/-- A TURN whose record can be written at once completes: what is left of its entry, its pair and its record (R52, R549). -/
theorem endTurn_completes {qp : Fin 64} {idx : W32} {st : Status} {a b : W32} {s : State} (hring : ringOutside s qp)
    (hready : recordReady s qp = true) : findInFlight (endTurn qp idx st a b s) qp idx = none
      ∧ ∀ e, findInFlight s qp idx = some e → pairCompleted e s (endTurn qp idx st a b s)
        ∧ recordWritten { e with status := st, info := turnInfo s.turn.cur a b } s (endTurn qp idx st a b s) := by
  unfold endTurn
  cases he : findInFlight s qp idx with
  | none => exact ⟨he, fun e h => by cases h⟩
  | some e =>
    obtain ⟨rfl, rfl⟩ := findInFlight_names he
    dsimp only
    rw [finish_of_ready (by exact hready)]
    refine ⟨findInFlight_writeRecord { e with await := .nothing, status := st, info := turnInfo s.turn.cur a b } s, fun x hx => ?_⟩
    cases hx
    exact ⟨pairCompleted_writeRecord { e with await := .nothing, status := st, info := turnInfo s.turn.cur a b } s,
      recordWritten_writeRecord (e := { e with await := .nothing, status := st, info := turnInfo s.turn.cur a b }) hring⟩

theorem peek_withTurn (s : State) (y : TurnCtl) (a : Nat) : peek { s with turn := y } a = peek s a :=
  peek_congr (locOf_withTurn s y) (by rfl) a

/-- Neither a record nor a pair's counts depend on the turn. -/
theorem recordWritten_withTurn {e : InFlight} {s t : State} {y z : TurnCtl} (h : recordWritten e { s with turn := y } t) :
    recordWritten e s { t with turn := z } :=
  ⟨fun hm h1 h2 => (List.map_congr_left fun _ _ => peek_withTurn t z _).trans (h.1 hm h1 h2),
    fun x hx => (peek_withTurn t z x).trans ((h.2 x hx).trans (peek_withTurn s y x))⟩

theorem pairCompleted_withTurn {e : InFlight} {s t : State} {y z : TurnCtl} (h : pairCompleted e { s with turn := y } t) :
    pairCompleted e s { t with turn := z } := h

/-- Completing a TURN and showing its status, in a state that differs from another in the turn alone. -/
theorem endTurn_shown {qp : Fin 64} {idx : W32} {st : Status} {a b : W32} {s : State} (y : TurnCtl)
    (hcur : y.cur = s.turn.cur) : ∃ t, noteRefusal st (endTurn qp idx st a b { s with turn := y }) = t
      ∧ t.turn = { y with lastRefusal := BitVec.ofNat 32 st.code }
      ∧ (ringOutside s qp → recordReady { s with turn := y } qp = true → findInFlight t qp idx = none
        ∧ ∀ e, findInFlight s qp idx = some e → pairCompleted e s t
          ∧ recordWritten { e with status := st, info := turnInfo s.turn.cur a b } s t) := by
  refine ⟨_, rfl, ?_, fun hring hready => ?_⟩
  · rw [noteRefusal, (endTurn_keepsBeside qp idx st a b _).turn]
  · have h := endTurn_completes (idx := idx) (st := st) (a := a) (b := b) (s := { s with turn := y }) hring hready
    refine ⟨h.1, fun e he => ?_⟩
    obtain ⟨hpair, hrec⟩ := h.2 e he
    rw [← hcur]
    exact ⟨pairCompleted_withTurn hpair, recordWritten_withTurn hrec⟩

theorem decideTurn_refused {r : TurnReq} {s : State} {st : Status} (hv : turnVerdict r s = st) (hst : st ≠ .ok) :
    decideTurn r s = noteRefusal st (endTurn r.qp r.idx st 0 0 s) := by
  unfold decideTurn
  rw [hv]
  cases st <;> first | rfl | exact absurd rfl hst

theorem decideTurn_accepted {r : TurnReq} {s : State} (hv : turnVerdict r s = .ok) : decideTurn r s = acceptTurn r s := by
  unfold decideTurn
  rw [hv]

theorem exec_turnWaitResume {s : State} {r : TurnReq} {rest : List TurnReq} (hr : running s = true) (ht : s.turn.trans = none)
    (hw : s.turn.waiting = r :: rest) :
    exec .turnWaitResume s = .next (decideTurn r { s with turn := { s.turn with waiting := rest } }) := by
  simp [exec, execTurnWaitResume, hr, ht, hw]

theorem exec_turnDrainTimeout {s : State} {tr : TurnTrans} (hr : running s = true) (ht : s.turn.trans = some tr)
    (hd : stillDraining tr s = true) : exec .turnDrainTimeout s = .next (noteRefusal .timeout (endTransition tr .timeout s)) := by
  simp [exec, execTurnDrainTimeout, hr, ht, hd]

/-- Settles O13: the verdict on the TURN taken, and the completion that a refusal and a timeout share. -/
theorem turnWaitsAndTimeouts : Obligations.TurnWaitsAndTimeouts := by
  refine ⟨fun s r rest hr ht hw => ?_, fun s tr hr ht hd => ?_⟩
  · have hexec := exec_turnWaitResume hr ht hw
    have refused {st : Status} (hv : turnVerdict r { s with turn := { s.turn with waiting := rest } } = st) (hst : st ≠ .ok) :
        ∃ t, exec .turnWaitResume s = .next t
          ∧ t.turn = { s.turn with waiting := rest, lastRefusal := BitVec.ofNat 32 st.code }
          ∧ (ringOutside s r.qp → recordReady { s with turn := { s.turn with waiting := rest } } r.qp = true →
            findInFlight t r.qp r.idx = none ∧ ∀ e, findInFlight s r.qp r.idx = some e → pairCompleted e s t) := by
      rw [hexec, decideTurn_refused hv hst]
      obtain ⟨t, rfl, hturn, hdone⟩ := endTurn_shown (qp := r.qp) (idx := r.idx) (st := st) (a := 0) (b := 0) (s := s)
        { s.turn with waiting := rest } rfl
      exact ⟨_, rfl, hturn, fun h1 h2 => ⟨(hdone h1 h2).1, fun e he => ((hdone h1 h2).2 e he).1⟩⟩
    refine ⟨fun hf hp => ?_, fun hf hp => refused (turnVerdict_refused hf hp) (by decide),
      fun hf => refused (turnVerdict_bad _ hf) (by decide)⟩
    rw [hexec, decideTurn_accepted (s := { s with turn := { s.turn with waiting := rest } }) (turnVerdict_ok hf hp)]
    rfl
  · rw [exec_turnDrainTimeout hr ht hd]
    obtain ⟨t, rfl, hturn, hdone⟩ := endTurn_shown (qp := tr.req.qp) (idx := tr.req.idx) (st := .timeout) (a := tr.suspended)
      (b := tr.ended) (s := s) { s.turn with trans := none } rfl
    exact ⟨_, rfl, hturn, hdone⟩

end Sys2Proof.Machine
end

section
/-! SUPPORT. What the step fence, the sequences set aside and the completion of a TURN leave unchanged, and TURN_ENTRY (R32, R34, R40 to
R42). -/

namespace Sys2Proof.Machine

/-! ### Stores leave the turn and the versions -/

/-- The turn and the version slots stay. -/
structure KeepsTurn (s t : State) : Prop where
  turn : t.turn = s.turn
  vers : t.vers = s.vers

theorem KeepsTurn.refl (s : State) : KeepsTurn s s := ⟨rfl, rfl⟩
theorem KeepsTurn.trans {s t u : State} (a : KeepsTurn s t) (b : KeepsTurn t u) : KeepsTurn s u :=
  ⟨b.turn.trans a.turn, b.vers.trans a.vers⟩
theorem KeepsTurn.foldl {α : Type} {f : State → α → State} (h : ∀ s x, KeepsTurn s (f s x)) :
    ∀ (l : List α) (s : State), KeepsTurn s (l.foldl f s)
  | [], s => KeepsTurn.refl s
  | x :: l, s => (h s x).trans (KeepsTurn.foldl h l (f s x))
theorem Sends.keepsTurn {s t : State} (h : Sends s t) : KeepsTurn s t := ⟨h.turn, h.vers⟩

/-- Work that leaves them, whether it ends OK or fails. -/
structure MKeepsTurn {α : Type} (m : M α) : Prop where
  run : ∀ w : Work, KeepsTurn w.s (m.run w).2.s

theorem MKeepsTurn.pure {α : Type} (a : α) : MKeepsTurn (pure a : M α) := ⟨fun w => KeepsTurn.refl w.s⟩
theorem MKeepsTurn.throw {α : Type} (e : Fail) : MKeepsTurn (throw e : M α) := ⟨fun w => KeepsTurn.refl w.s⟩
theorem MKeepsTurn.get : MKeepsTurn (get : M Work) := ⟨fun w => KeepsTurn.refl w.s⟩
theorem MKeepsTurn.getS : MKeepsTurn getS := ⟨fun w => KeepsTurn.refl w.s⟩
theorem MKeepsTurn.modS {f : State → State} (h : ∀ s, KeepsTurn s (f s)) : MKeepsTurn (modS f) := ⟨fun w => h w.s⟩
theorem MKeepsTurn.bind {α β : Type} {m : M α} {f : α → M β} (h : MKeepsTurn m) (k : ∀ a, MKeepsTurn (f a)) :
    MKeepsTurn (m >>= f) := by
  refine ⟨fun w => ?_⟩
  have hm := h.run w
  rw [M.run_bind]
  generalize m.run w = r at hm
  obtain ⟨_ | a, w'⟩ := r
  · exact hm
  · exact hm.trans ((k a).run w')
theorem MKeepsTurn.mapM {α β : Type} {f : α → M β} (h : ∀ a, MKeepsTurn (f a)) (l : List α) : MKeepsTurn (l.mapM f) := by
  rw [← List.mapM'_eq_mapM]
  induction l with
  | nil => exact MKeepsTurn.pure _
  | cons a l ih => exact (h a).bind fun _ => ih.bind fun _ => MKeepsTurn.pure _

theorem countUncorrectable_keepsTurn (n a source : Nat) (s : State) : KeepsTurn s (countUncorrectable n a source s) := by
  refine KeepsTurn.trans ?_ (raiseAlert_sends 4 _).keepsTurn
  exact ⟨rfl, rfl⟩

theorem markRange_keepsTurn (a len : Nat) (s : State) : KeepsTurn s (markRange a len s) := by
  refine KeepsTurn.foldl (fun s l => ?_) _ s
  unfold markLine
  split
  · unfold markStack
    split <;> exact ⟨rfl, rfl⟩
  · exact KeepsTurn.refl s

theorem writeCodeword_keepsTurn (source base : Nat) (bs : List Byte) (lo hi : Nat) :
    MKeepsTurn (writeCodeword source base bs lo hi) := by
  have answer {f : State → State} {b : Bool} (h : ∀ s, KeepsTurn s (f s)) : MKeepsTurn (do modS f; return b) :=
    (MKeepsTurn.modS h).bind fun _ => MKeepsTurn.pure b
  unfold writeCodeword
  refine MKeepsTurn.getS.bind fun s => ?_
  split
  · refine MKeepsTurn.bind ?_ fun _ => ?_
    · unfold holdIf
      split
      · exact MKeepsTurn.throw _
      · exact MKeepsTurn.pure _
    · dsimp only
      split
      · exact answer fun _ => ⟨rfl, rfl⟩
      · split
        · exact answer fun _ => countUncorrectable_keepsTurn _ _ _ _
        · exact answer fun _ => ⟨rfl, rfl⟩
        · exact answer fun _ => ⟨rfl, rfl⟩
  · exact answer fun _ => ⟨rfl, rfl⟩
  · exact MKeepsTurn.throw _
  · exact MKeepsTurn.throw _

theorem storeFrom_keepsTurn (source a : Nat) (bs : List Byte) : MKeepsTurn (storeFrom source a bs) := by
  unfold storeFrom
  split
  · exact MKeepsTurn.pure _
  · dsimp only
    refine MKeepsTurn.bind (MKeepsTurn.mapM (fun i => ?_) _) fun bad => ?_
    · exact (writeCodeword_keepsTurn _ _ _ _ _).bind fun _ => MKeepsTurn.pure _
    · split
      · exact MKeepsTurn.throw _
      · exact MKeepsTurn.pure _

theorem storeBytes_keepsTurn (a : Nat) (bs : List Byte) : MKeepsTurn (storeBytes a bs) := by
  unfold storeBytes
  refine MKeepsTurn.get.bind fun w => ?_
  refine MKeepsTurn.bind (MKeepsTurn.modS fun s => KeepsTurn.trans ?_ (markRange_keepsTurn _ _ _)) fun _ => storeFrom_keepsTurn _ _ _
  split
  · exact ⟨rfl, rfl⟩
  · exact KeepsTurn.refl s

theorem refuseProtected_keepsTurn (x : Nat) : MKeepsTurn (refuseProtected x) := by
  unfold refuseProtected failAt
  exact MKeepsTurn.bind (MKeepsTurn.modS fun _ => ⟨rfl, rfl⟩) fun _ => MKeepsTurn.throw _

theorem writeSerial_keepsTurn (a : Nat) (bs : List Byte) : MKeepsTurn (writeSerial a bs) := by
  unfold writeSerial
  refine MKeepsTurn.get.bind fun w => ?_
  split
  · exact ⟨fun w => ⟨rfl, rfl⟩⟩
  · split
    · exact MKeepsTurn.modS fun _ => ⟨rfl, rfl⟩
    · split
      · exact refuseProtected_keepsTurn _
      · refine (storeBytes_keepsTurn a bs).bind fun _ => ?_
        split
        · exact MKeepsTurn.modS fun _ => (queueWr_sends _ _ _ _).keepsTurn
        · exact MKeepsTurn.pure _

theorem scramble_keepsTurn (a len : Nat) (s : State) : KeepsTurn s (scramble a len s) := ⟨rfl, rfl⟩

theorem runWork_keepsTurn {α : Type} {m : M α} (h : MKeepsTurn m) (s : State) : KeepsTurn s (runWork m s).2.s := by
  have hrun := h.run (Work.start s.q.nextOrder [] s)
  refine KeepsTurn.trans ?_ (sendQueued_sends s _).keepsTurn
  unfold settleLate
  split
  · exact hrun.trans (KeepsTurn.foldl (fun s (a : MemAccess) => scramble_keepsTurn a.lo a.len s) _ _)
  · exact hrun

/-! ### The step fence -/

theorem KeepsTurn.foldl_snd {α β : Type} {f : β × State → α → β × State} (h : ∀ r x, KeepsTurn r.2 (f r x).2) :
    ∀ (l : List α) (r : β × State), KeepsTurn r.2 (l.foldl f r).2
  | [], r => KeepsTurn.refl r.2
  | x :: l, r => (h r x).trans (KeepsTurn.foldl_snd h l (f r x))

theorem forgetCopies_keepsTurn (s : State) : KeepsTurn s (forgetCopies s).2 := by
  unfold forgetCopies
  exact KeepsTurn.foldl_snd (fun r c => runWork_keepsTurn (writeSerial_keepsTurn (c.entry + 16) _) r.2) _ (none, s)

/-- Only the count of steps moves in a turn, and no version slot. -/
structure CountsSteps (s t : State) : Prop where
  turn : ∃ n, t.turn = { s.turn with steps := n }
  vers : t.vers = s.vers

theorem KeepsTurn.countsSteps {s t : State} (h : KeepsTurn s t) : CountsSteps s t := ⟨⟨s.turn.steps, h.turn⟩, h.vers⟩

theorem endStep_countsSteps (st : Status) (s : State) : CountsSteps s (endStep st s).2 := by
  obtain ⟨hturn, hvers⟩ := forgetCopies_keepsTurn s
  unfold endStep closeStep
  dsimp only
  exact ⟨⟨_, by rw [hturn]⟩, hvers⟩

theorem CountsSteps.of_keepsTurn {s t u : State} (a : KeepsTurn s t) (b : CountsSteps t u) : CountsSteps s u := by
  obtain ⟨⟨n, hn⟩, hv⟩ := b
  exact ⟨⟨n, by rw [hn, a.turn]⟩, hv.trans a.vers⟩

theorem stepFenceAct_countsSteps (s : State) : CountsSteps s (stepFenceAct s).2 := by
  unfold stepFenceAct
  split
  · refine CountsSteps.of_keepsTurn ?_ (endStep_countsSteps _ _)
    refine KeepsTurn.trans ?_ (raiseAlert_sends 8 _).keepsTurn
    exact ⟨rfl, rfl⟩
  · split
    · exact (KeepsTurn.refl s).countsSteps
    · split
      · refine CountsSteps.of_keepsTurn ?_ (endStep_countsSteps _ _)
        exact ⟨rfl, rfl⟩
      · exact endStep_countsSteps _ s

/-! ### Completing an entry -/

/-- A completed entry, where it is still there, waits for its record alone. -/
theorem await_of_finish {e x : InFlight} {s : State} (h : findInFlight (finish e s) e.qp e.idx = some x) : x.await = .nothing := by
  by_cases hr : recordReady s e.qp = true
  · rw [finish_of_ready hr, findInFlight_writeRecord] at h
    cases h
  · rw [finish_of_wait hr] at h
    obtain ⟨hq, hi⟩ := findInFlight_names h
    obtain ⟨y, -, hy⟩ := List.mem_map.mp (List.mem_of_find?_eq_some h)
    split at hy
    · rw [← hy]
    · rename_i hne
      subst hy
      exact absurd (by simp [hq, hi]) hne

theorem await_of_endTurn {qp : Fin 64} {idx : W32} {st : Status} {a b : W32} {s : State} {x : InFlight}
    (h : findInFlight (endTurn qp idx st a b s) qp idx = some x) : x.await = .nothing := by
  unfold endTurn at h
  cases he : findInFlight s qp idx with
  | none =>
    rw [he] at h
    dsimp only at h
    rw [he] at h
    cases h
  | some e =>
    obtain ⟨rfl, rfl⟩ := findInFlight_names he
    rw [he] at h
    exact await_of_finish h

theorem finishStep_countsSteps (e : InFlight) (s : State) : CountsSteps s (finishStep e s) := by
  have hfin (x : InFlight) (u : State) : KeepsTurn u (finish x u) := ⟨(finish_keepsBeside x u).turn, (finish_keepsBeside x u).vers⟩
  unfold finishStep
  split
  · obtain ⟨⟨n, hn⟩, hv⟩ := stepFenceAct_countsSteps s
    have h := hfin (e.acted (stepFenceAct s).1 s) (stepFenceAct s).2
    exact ⟨⟨n, h.turn.trans hn⟩, h.vers.trans hv⟩
  · exact (hfin e s).countsSteps

theorem afterAwaited_countsSteps {tr : TurnTrans} {s u : State} (h : afterAwaited tr s = some u) : CountsSteps s u := by
  unfold afterAwaited at h
  split at h
  · obtain ⟨e, -, rfl⟩ := Option.map_eq_some_iff.mp h
    exact finishStep_countsSteps e s
  · cases h
    exact (KeepsTurn.refl s).countsSteps

/-! ### The sequences set aside (R32) -/

/-- The turn, the version slots and the sequence slots stay. -/
structure KeepsSeqs (s t : State) : Prop where
  turn : t.turn = s.turn
  vers : t.vers = s.vers
  slots : t.sched.slots = s.sched.slots

theorem KeepsSeqs.refl (s : State) : KeepsSeqs s s := ⟨rfl, rfl, rfl⟩
theorem KeepsSeqs.trans {s t u : State} (a : KeepsSeqs s t) (b : KeepsSeqs t u) : KeepsSeqs s u :=
  ⟨b.turn.trans a.turn, b.vers.trans a.vers, b.slots.trans a.slots⟩
theorem KeepsSeqs.foldl {α : Type} {f : State → α → State} (h : ∀ s x, KeepsSeqs s (f s x)) :
    ∀ (l : List α) (s : State), KeepsSeqs s (l.foldl f s)
  | [], s => KeepsSeqs.refl s
  | x :: l, s => (h s x).trans (KeepsSeqs.foldl h l (f s x))

theorem schedWrite_keepsSeqs (a : Nat) (bs : List Byte) (s : State) : KeepsSeqs s (schedWrite a bs s) :=
  have h := sendWr_sends none a bs (poke s a bs)
  ⟨h.turn, h.vers, congrArg Sched.slots h.sched⟩

theorem writeBatch_keepsSeqs (h : BatchHead) (es : List BatchEntry) (s : State) : KeepsSeqs s (writeBatch h es s) := by
  have hring := KeepsSeqs.foldl (fun s (p : Nat × List Byte) => schedWrite_keepsSeqs p.1 p.2 s)
    (ringPieces s.sched.recBase.toNat s.sched.recBytes.toNat s.sched.recProduced.toNat (batchBytes s h es)) s
  have hall := hring.trans (schedWrite_keepsSeqs (s.sched.recBase.toNat + 128)
    (leBytes 8 (s.sched.recProduced + BitVec.ofNat 64 (batchBytes s h es).length).toNat) _)
  exact ⟨hall.turn, hall.vers, hall.slots⟩

theorem mem_insertSlot {x y : SeqSlot} {l : List SeqSlot} : y ∈ insertSlot x l ↔ y = x ∨ y ∈ l := by
  induction l with
  | nil => simp [insertSlot]
  | cons z l ih =>
    unfold insertSlot
    split
    · simp
    · simp only [List.mem_cons, ih]
      tauto

theorem mem_slotsInOrder {y : SeqSlot} {l : List SeqSlot} : y ∈ slotsInOrder l ↔ y ∈ l := by
  suffices h : ∀ acc, y ∈ l.foldl (fun acc x => insertSlot x acc) acc ↔ y ∈ acc ∨ y ∈ l from (h []).trans (by simp)
  induction l with
  | nil => simp
  | cons x l ih =>
    intro acc
    rw [List.foldl_cons, ih, mem_insertSlot, List.mem_cons]
    tauto

theorem mem_unsettled {r : TurnReq} {s : State} {y : SeqSlot} :
    y ∈ unsettled r s ↔ y ∈ s.sched.slots ∧ (r.ends || !y.suspended) = true := by
  unfold unsettled
  rw [List.mem_filter, mem_slotsInOrder]

/-- One sequence leaves its slot, or is suspended in it. -/
def setAside (r : TurnReq) (s : State) (x : SeqSlot) : State := if r.ends then freeSlot x.num s else suspendSlot x.num s

/-- It is no more to be set aside, and no other sequence comes to be. -/
theorem unsettled_setAside {r : TurnReq} {s : State} {x y : SeqSlot} (h : y ∈ unsettled r (setAside r s x)) :
    y ∈ unsettled r s ∧ y.num ≠ x.num := by
  obtain ⟨hmem, hleft⟩ := mem_unsettled.mp h
  unfold setAside at hmem
  split at hmem
  · obtain ⟨hy, hne⟩ := List.mem_filter.mp hmem
    exact ⟨mem_unsettled.mpr ⟨hy, hleft⟩, by simpa using hne⟩
  · rename_i hends
    obtain ⟨z, hz, rfl⟩ := List.mem_map.mp hmem
    split at hleft
    · exact absurd hleft (by simp [hends])
    · rename_i hne
      simp only [hne, if_false]
      exact ⟨mem_unsettled.mpr ⟨hz, hleft⟩, hne⟩

theorem unsettled_foldl_setAside {r : TurnReq} {y : SeqSlot} : ∀ {l : List SeqSlot} {s : State},
    y ∈ unsettled r (l.foldl (setAside r) s) → y ∈ unsettled r s ∧ ∀ x ∈ l, y.num ≠ x.num
  | [], _, h => ⟨h, by simp⟩
  | x :: l, s, h => by
    obtain ⟨h1, hl⟩ := unsettled_foldl_setAside (l := l) h
    obtain ⟨h0, hx⟩ := unsettled_setAside h1
    exact ⟨h0, List.forall_mem_cons.mpr ⟨hx, hl⟩⟩

theorem setAside_keepsTurn (r : TurnReq) (s : State) (x : SeqSlot) : KeepsTurn s (setAside r s x) := by
  unfold setAside
  split <;> exact ⟨rfl, rfl⟩

/-- Of the turn only the transition's counts move, and no version slot. -/
structure CountsAside (s t : State) : Prop where
  turn : ∃ g : TurnTrans → TurnTrans, (∀ x, (g x).req = x.req) ∧ t.turn = { s.turn with trans := s.turn.trans.map g }
  vers : t.vers = s.vers

theorem CountsAside.refl (s : State) : CountsAside s s := ⟨⟨id, fun _ => rfl, by rw [Option.map_id]; rfl⟩, rfl⟩

/-- The counts of a transition after `k` sequences were set aside. -/
def countAside (r : TurnReq) (k : Nat) (t : TurnTrans) : TurnTrans :=
  if r.ends then { t with ended := t.ended + BitVec.ofNat 32 k } else { t with suspended := t.suspended + BitVec.ofNat 32 k }

theorem settle_eq (r : TurnReq) (s : State) :
    let u := (unsettled r s).foldl (setAside r) s
    settle r s = { u with turn := { u.turn with trans := u.turn.trans.map (countAside r (unsettled r s).length) } } := rfl

theorem settleAll_countsAside (r : TurnReq) (s : State) : CountsAside s (settleAll r s) := by
  unfold settleAll
  split
  · exact CountsAside.refl s
  · have hw := writeBatch_keepsSeqs { (default : BatchHead) with last := true } (settleEntries r s) s
    generalize writeBatch { (default : BatchHead) with last := true } (settleEntries r s) s = w at hw
    have hf := KeepsTurn.foldl (setAside_keepsTurn r) (unsettled r w) w
    refine ⟨⟨countAside r (unsettled r w).length, fun x => ?_, ?_⟩, ?_⟩
    · unfold countAside
      split <;> rfl
    · show (settle r w).turn = _
      rw [settle_eq]
      dsimp only
      rw [hf.turn, hw.turn]
    · exact hf.vers.trans hw.vers

/-- Nothing is left to set aside. -/
theorem unsettled_settleAll (r : TurnReq) (s : State) : unsettled r (settleAll r s) = [] := by
  unfold settleAll
  split
  · rename_i h
    exact List.isEmpty_iff.mp h
  · generalize writeBatch { (default : BatchHead) with last := true } (settleEntries r s) s = w
    refine List.eq_nil_iff_forall_not_mem.mpr fun y hy => ?_
    have hy : y ∈ unsettled r ((unsettled r w).foldl (setAside r) w) := hy
    obtain ⟨hmem, hne⟩ := unsettled_foldl_setAside hy
    exact hne y hmem rfl

/-! ### TURN_ENTRY (R40 to R42) -/

/-- The state in which the target is entered: what was still in a slot set aside, the scheduler stopped on leaving GENERATE. -/
def entryBase (tr : TurnTrans) (u : State) : State := leaveGenerate (if u.turn.cur = .generate then settleAll tr.req u else u)

theorem leaveGenerate_keepsSeqs (s : State) : KeepsSeqs s (leaveGenerate s) := by
  unfold leaveGenerate
  split <;> exact ⟨rfl, rfl, rfl⟩

theorem leaveGenerate_stops {s : State} (h : s.turn.cur = .generate) :
    (leaveGenerate s).sched.startVersion = none ∧ (leaveGenerate s).sched.state = .stopped := by
  rw [leaveGenerate, if_pos h]
  exact ⟨rfl, rfl⟩

theorem unsettled_congr {s t : State} (r : TurnReq) (h : t.sched.slots = s.sched.slots) : unsettled r t = unsettled r s := by
  unfold unsettled
  rw [h]

theorem namedStart_congr {s t : State} (r : TurnReq) (h : t.vers = s.vers) : namedStart r t = namedStart r s := by
  unfold namedStart newestLive
  rw [h]

theorem entryBase_countsAside (tr : TurnTrans) (u : State) : CountsAside u (entryBase tr u) := by
  have h : CountsAside u (if u.turn.cur = .generate then settleAll tr.req u else u) := by
    split
    · exact settleAll_countsAside _ u
    · exact CountsAside.refl u
  have hk := leaveGenerate_keepsSeqs (if u.turn.cur = .generate then settleAll tr.req u else u)
  obtain ⟨⟨g, hg, ht⟩, hv⟩ := h
  exact ⟨⟨g, hg, hk.turn.trans ht⟩, hk.vers.trans hv⟩

theorem entryBase_settled {tr : TurnTrans} {u : State} (h : u.turn.cur = .generate) :
    unsettled tr.req (entryBase tr u) = [] ∧ (entryBase tr u).sched.startVersion = none ∧ (entryBase tr u).sched.state = .stopped := by
  obtain ⟨⟨g, -, ht⟩, -⟩ := settleAll_countsAside tr.req u
  rw [entryBase, if_pos h]
  refine ⟨?_, leaveGenerate_stops (by rw [ht]; exact h)⟩
  rw [unsettled_congr _ (leaveGenerate_keepsSeqs _).slots, unsettled_settleAll]

/-- Ending a transition: it is over, the scheduler and the versions stay, and its TURN waits for its record alone. -/
theorem endTransition_ends (t : TurnTrans) (st : Status) (s : State) :
    KeepsBeside { s with turn := { s.turn with trans := none } } (endTransition t st s)
      ∧ ∀ e, findInFlight (endTransition t st s) t.req.qp t.req.idx = some e → e.await = .nothing :=
  ⟨endTurn_keepsBeside _ _ _ _ _ _, fun _ h => await_of_endTurn h⟩

theorem exec_turnEntry {s u : State} {tr : TurnTrans} (n : W64) (hr : running s = true) (ht : s.turn.trans = some tr)
    (hd : drained tr s = true) (hu : afterAwaited tr s = some u) (hroom : settleRoom tr s = true) :
    exec (.turnEntry n) s = .next (doEntry tr n u) := by
  simp [exec, execTurnEntry, hr, ht, hu, hd, hroom]

/-- What an entry starts from, as of the state before it: of the turn only the count of steps and the transition's own counts have moved,
no version slot, and on leaving GENERATE no sequence is left and the scheduler is stopped. -/
structure EntersFrom (s u : State) (tr t : TurnTrans) (b : State) : Prop where
  turn : b.turn = { s.turn with steps := u.turn.steps, trans := some t }
  req : t.req = tr.req
  vers : b.vers = s.vers
  settled : s.turn.cur = .generate → unsettled tr.req b = []
  stops : s.turn.cur = .generate → b.sched.startVersion = none ∧ b.sched.state = .stopped

theorem entersFrom_entryBase {s u : State} {tr : TurnTrans} (ht : s.turn.trans = some tr) (hu : afterAwaited tr s = some u) :
    ∃ t, EntersFrom s u tr t (entryBase tr u) := by
  obtain ⟨⟨k, hk⟩, hv⟩ := afterAwaited_countsSteps hu
  obtain ⟨⟨g, hg, hb⟩, hbv⟩ := entryBase_countsAside tr u
  have hcur (h : s.turn.cur = .generate) : u.turn.cur = .generate := by rw [hk, h]
  refine ⟨g tr, ?_, hg tr, hbv.trans hv, fun h => (entryBase_settled (hcur h)).1, fun h => (entryBase_settled (hcur h)).2⟩
  rw [hb, hk]
  simp [ht]

/-- GENERATE is entered with a start version: the mask cache is emptied (R323) and the scheduler runs. -/
def startGenerate (r : TurnReq) (v : Fin 4) (s : State) : State :=
  { s with gate := { s.gate with cache := [] },
           sched := { s.sched with state := .running, startVersion := some v, follows := r.version == 0xFF, checked := false } }

theorem doEntry_eq {s u : State} {tr t : TurnTrans} (n : W64) (h : EntersFrom s u tr t (entryBase tr u)) :
    doEntry tr n u = match Turn.ofCode tr.req.target with
      | some .generate =>
        match namedStart tr.req s with
        | none => noteRefusal .versionRetired (endTransition t .versionRetired (entryBase tr u))
        | some v => enterTurn t .generate n (startGenerate tr.req v (entryBase tr u))
      | some x => enterTurn t x n (entryBase tr u)
      | none => endTransition t .badTransition (entryBase tr u) := by
  have hgetD : (entryBase tr u).turn.trans.getD tr = t := by rw [h.turn]; rfl
  rw [← h.req, ← namedStart_congr t.req h.vers, ← hgetD]
  rfl

/-- Entering a turn: the turn shown, no transition, the scheduler and the mask cache as they were. -/
theorem enterTurn_ends (t : TurnTrans) (x : Turn) (n : W64) (b : State) :
    let y := enterTurn t x n b
    y.turn = { b.turn with cur := x, seq := satInc b.turn.seq, lastLength := n, trans := none,
                           steps := if x = .learn then 0 else b.turn.steps }
      ∧ y.sched = b.sched ∧ y.gate.cache = b.gate.cache
      ∧ ∀ e, findInFlight y t.req.qp t.req.idx = some e → e.await = .nothing := by
  obtain ⟨⟨hturn, -, hsched, hcache⟩, hawait⟩ := endTransition_ends t .ok { b with turn := { b.turn with
    cur := x, seq := satInc b.turn.seq, lastLength := n, steps := if x = .learn then 0 else b.turn.steps } }
  exact ⟨hturn, hsched, hcache, hawait⟩

/-- What TURN_ENTRY leaves whichever way it goes: no transition, a TURN that waits for its record alone, and no sequence of GENERATE. -/
structure EntryOver (s : State) (tr : TurnTrans) (y : State) : Prop where
  trans : y.turn.trans = none
  await : ∀ e, findInFlight y tr.req.qp tr.req.idx = some e → e.await = .nothing
  settled : s.turn.cur = .generate → unsettled tr.req y = []

/-- The turn `x` was entered after `n` cycles. -/
structure Entered (s u : State) (x : Turn) (n : W64) (y : State) : Prop where
  cur : y.turn.cur = x
  seq : y.turn.seq = satInc s.turn.seq
  lastLength : y.turn.lastLength = n
  steps : y.turn.steps = if x = .learn then 0 else u.turn.steps

theorem EntryOver.noteRefusal {s y : State} {tr : TurnTrans} (h : EntryOver s tr y) (st : Status) : EntryOver s tr (noteRefusal st y) :=
  ⟨h.trans, h.await, h.settled⟩

section
variable {s u b : State} {tr t : TurnTrans} (h : EntersFrom s u tr t b)
include h

theorem entered_enterTurn {c : State} (x : Turn) (n : W64) (hc : KeepsSeqs b c) :
    EntryOver s tr (enterTurn t x n c) ∧ Entered s u x n (enterTurn t x n c) := by
  obtain ⟨hturn, hsched, -, hawait⟩ := enterTurn_ends t x n c
  rw [h.req] at hawait
  refine ⟨⟨by rw [hturn], hawait, fun hg => ?_⟩, ?_⟩
  · rw [unsettled_congr _ ((congrArg Sched.slots hsched).trans hc.slots), h.settled hg]
  · rw [hc.turn, h.turn] at hturn
    exact ⟨by rw [hturn], by rw [hturn], by rw [hturn], by rw [hturn]⟩

/-- A transition that ends without an entry leaves the turn where it was. -/
theorem entryOver_endTransition (st : Status) :
    EntryOver s tr (endTransition t st b)
      ∧ (endTransition t st b).turn = { s.turn with steps := u.turn.steps, trans := none } := by
  obtain ⟨⟨hturn, -, hsched, -⟩, hawait⟩ := endTransition_ends t st b
  rw [h.req] at hawait
  refine ⟨⟨by rw [hturn], hawait, fun hg => ?_⟩, by rw [hturn, h.turn]⟩
  exact (unsettled_congr tr.req (s := b) (congrArg Sched.slots hsched)).trans (h.settled hg)

theorem scheduler_of_enterTurn {x : Turn} (n : W64) (hg : s.turn.cur = .generate) :
    (enterTurn t x n b).sched.startVersion = none ∧ (enterTurn t x n b).sched.state = .stopped := by
  obtain ⟨-, hsched, -, -⟩ := enterTurn_ends t x n b
  rw [hsched]
  exact h.stops hg

end

theorem scheduler_of_startGenerate (t : TurnTrans) (r : TurnReq) (v : Fin 4) (n : W64) (b : State) :
    let y := enterTurn t .generate n (startGenerate r v b)
    y.sched.startVersion = some v ∧ y.sched.state = .running ∧ y.gate.cache = [] := by
  obtain ⟨-, hsched, hcache, -⟩ := enterTurn_ends t .generate n (startGenerate r v b)
  exact ⟨by rw [hsched]; rfl, by rw [hsched]; rfl, hcache⟩

/-- Settles O14: the step fence, the setting aside and the completion keep what the entry is decided by, so that the target and the version
named before them say which of the ways of `doEntry_eq` is taken. -/
theorem turnEntryEnters : Obligations.TurnEntryEnters := by
  intro s u tr n hr ht hd hu hroom
  obtain ⟨t, hb⟩ := entersFrom_entryBase ht hu
  have hdo := doEntry_eq n hb
  refine ⟨doEntry tr n u, exec_turnEntry n hr ht hd hu hroom, ?_⟩
  cases hx : Turn.ofCode tr.req.target with
  | none =>
    rw [hx] at hdo
    rw [hdo]
    obtain ⟨htrans, hawait, hset⟩ := (entryOver_endTransition hb .badTransition).1
    exact ⟨htrans, hawait, hset, nofun, nofun⟩
  | some x =>
    rw [hx] at hdo
    by_cases hgen : x = .generate
    · subst hgen
      cases hv : namedStart tr.req s with
      | none =>
        rw [hv] at hdo
        rw [hdo]
        obtain ⟨hover, hturn⟩ := entryOver_endTransition hb .versionRetired
        obtain ⟨htrans, hawait, hset⟩ := hover.noteRefusal .versionRetired
        refine ⟨htrans, hawait, hset, ?_, fun _ _ => ?_⟩
        · rintro _ ⟨⟩ (h | h) <;> exact absurd rfl h
        · simp only [noteRefusal, hturn]
          decide
      | some v =>
        rw [hv] at hdo
        rw [hdo]
        obtain ⟨⟨htrans, hawait, hset⟩, hcur, hseq, hlen, hsteps⟩ :=
          entered_enterTurn hb (c := startGenerate tr.req v (entryBase tr u)) .generate n ⟨rfl, rfl, rfl⟩
        refine ⟨htrans, hawait, hset, ?_, nofun⟩
        rintro _ ⟨⟩ -
        exact ⟨hcur, hseq, hlen, hsteps, fun _ => scheduler_of_startGenerate t tr.req v n _, fun h => absurd rfl h⟩
    · have hdo : doEntry tr n u = enterTurn t x n (entryBase tr u) := by
        rw [hdo]
        split
        · rename_i h
          exact absurd (Option.some.inj h) hgen
        · rename_i h
          rw [Option.some.inj h]
        · contradiction
      rw [hdo]
      obtain ⟨⟨htrans, hawait, hset⟩, hcur, hseq, hlen, hsteps⟩ := entered_enterTurn hb x n (KeepsSeqs.refl _)
      refine ⟨htrans, hawait, hset, ?_, fun h _ => absurd (Option.some.inj h) hgen⟩
      rintro _ ⟨⟩ -
      exact ⟨hcur, hseq, hlen, hsteps, fun h => absurd h hgen, fun _ hg => scheduler_of_enterTurn hb n hg⟩

end Sys2Proof.Machine
end

section
/-! Rounding is exact on codes (O60): a magnitude with no more bits than the precision and no finer than the least unit keeps its value
under `roundMag`, which at most moves powers of two from the unit to the mantissa; the encoders do not see such a move. -/

namespace Sys2Proof.Machine

/-! ### Shifting, and the same magnitude with a finer unit -/

@[simp] theorem shiftBy_zero_right (m : Nat) : shiftBy m 0 = m := by simp [shiftBy]

theorem shiftBy_natCast (m k : Nat) : shiftBy m (k : Int) = m * 2 ^ k := by simp [shiftBy]

theorem shiftBy_neg_natCast (m k : Nat) : shiftBy m (-(k : Int)) = m / 2 ^ k := by
  cases k with
  | zero => simp
  | succ k => rw [shiftBy, if_neg (by omega), Int.neg_neg, Int.toNat_natCast]

/-- A shift does not see powers of two moved into the mantissa. -/
theorem shiftBy_mul_two_pow (m k : Nat) (x : Int) : shiftBy (m * 2 ^ k) (x - k) = shiftBy m x := by
  obtain ⟨a, rfl | rfl⟩ := x.eq_nat_or_neg
  · rw [shiftBy_natCast]
    by_cases h : k ≤ a
    · rw [← Int.ofNat_sub h, shiftBy_natCast, Nat.mul_assoc, ← Nat.pow_add, Nat.add_sub_cancel' h]
    · have hk : (a : Int) - k = -((k - a : Nat) : Int) := by omega
      have hpow : 2 ^ k = 2 ^ a * 2 ^ (k - a) := by rw [← Nat.pow_add]; congr 1; omega
      rw [hk, shiftBy_neg_natCast, hpow, ← Nat.mul_assoc, Nat.mul_div_cancel _ (Nat.two_pow_pos _)]
  · have hk : -(a : Int) - k = -((k + a : Nat) : Int) := by omega
    rw [hk, shiftBy_neg_natCast, shiftBy_neg_natCast, Nat.pow_add, ← Nat.div_div_eq_div_mul,
      Nat.mul_div_cancel _ (Nat.two_pow_pos k)]

theorem log2_mul_two_pow {m : Nat} (hm : m ≠ 0) (k : Nat) : Nat.log2 (m * 2 ^ k) = Nat.log2 m + k := by
  have hp : m * 2 ^ k ≠ 0 := Nat.mul_ne_zero hm (Nat.two_pow_pos k).ne'
  rw [Nat.log2_eq_iff hp, Nat.pow_add, Nat.add_right_comm, Nat.pow_add]
  exact ⟨Nat.mul_le_mul_right _ (Nat.log2_self_le hm), Nat.mul_lt_mul_of_pos_right Nat.lt_log2_self (Nat.two_pow_pos k)⟩

theorem log2_two_pow_add {b fr : Nat} (h : fr < 2 ^ b) : Nat.log2 (2 ^ b + fr) = b :=
  (Nat.log2_eq_iff (by have := Nat.two_pow_pos b; omega)).2 ⟨Nat.le_add_right _ _, by rw [Nat.pow_succ]; omega⟩

/-- Rounding loses nothing of a magnitude of at most `p` bits whose unit is no finer than the least one (R70, R71). -/
theorem roundMag_exact (r : Rnd) {p m : Nat} {qmin e : Int} (hm : m < 2 ^ p) (he : qmin ≤ e) :
    ∃ k : Nat, roundMag r p qmin m e = (m * 2 ^ k, e - k) := by
  by_cases h0 : m = 0
  · have hq : e - ((e - qmin).toNat : Int) = qmin := by omega
    exact ⟨(e - qmin).toNat, by rw [hq, h0, Nat.zero_mul]; rfl⟩
  · have hlog : Nat.log2 m < p := (Nat.log2_lt h0).2 hm
    have hq : max qmin (e + (Nat.log2 m : Int) - ((p : Int) - 1)) ≤ e := by omega
    refine ⟨(e - max qmin (e + (Nat.log2 m : Int) - ((p : Int) - 1))).toNat, ?_⟩
    rw [roundMag, if_neg h0, if_pos hq, ← shiftBy_natCast, Int.toNat_of_nonneg (Int.sub_nonneg.2 hq), Int.sub_sub_self]

/-! ### The codes of a format -/

theorem FloatFmt.encodeMag_mul_two_pow (f : FloatFmt) (m k : Nat) (q : Int) :
    f.encodeMag (m * 2 ^ k) (q - k) = f.encodeMag m q := by
  by_cases h0 : m = 0
  · simp [FloatFmt.encodeMag, h0]
  · have htop : ((Nat.log2 m + k : Nat) : Int) + (q - k) = Nat.log2 m + q := by omega
    have hsh (u : Int) : shiftBy (m * 2 ^ k) (q - k - u) = shiftBy m (q - u) := by
      rw [← shiftBy_mul_two_pow m k]; congr 1; omega
    simp only [FloatFmt.encodeMag, log2_mul_two_pow h0, htop, hsh, Nat.mul_eq_zero, h0,
      Nat.pow_eq_zero, OfNat.ofNat_ne_zero, false_and, or_self]

/-- A magnitude below the least normal one has its own count of least units as code (R53). -/
theorem FloatFmt.encodeMag_subnormal (f : FloatFmt) {m : Nat} (hm : m < 2 ^ f.fb) : f.encodeMag m f.qmin = m := by
  by_cases h0 : m = 0
  · simp [FloatFmt.encodeMag, h0]
  · have hlog : Nat.log2 m < f.fb := (Nat.log2_lt h0).2 hm
    have htop : (Nat.log2 m : Int) + f.qmin < 1 - (f.bias : Int) := by simp only [FloatFmt.qmin]; omega
    simp [FloatFmt.encodeMag, h0, htop]

/-- A normal magnitude has its exponent and fraction fields as code (R53). -/
theorem FloatFmt.encodeMag_normal (f : FloatFmt) {ex fr : Nat} (hex : 1 ≤ ex) (hfr : fr < 2 ^ f.fb) :
    f.encodeMag (2 ^ f.fb + fr) ((ex : Int) - 1 + f.qmin) = ex * 2 ^ f.fb + fr := by
  have h0 : 2 ^ f.fb + fr ≠ 0 := by have := Nat.two_pow_pos f.fb; omega
  have htop : (f.fb : Int) + ((ex : Int) - 1 + f.qmin) = ex - f.bias := by simp only [FloatFmt.qmin]; omega
  have hnorm : ¬ ((ex : Int) - f.bias < 1 - (f.bias : Int)) := by omega
  have hsh : (ex : Int) - 1 + f.qmin - (ex - f.bias - f.fb) = 0 := by simp only [FloatFmt.qmin]; omega
  simp [FloatFmt.encodeMag, log2_two_pow_add hfr, htop, hnorm, hsh]

/-! ### F32 -/

theorem fmtF32_maxMag : fmtF32.maxMag = (2 ^ 24 - 1, 104) := by decide

theorem fmtF32_not_overflows {m k : Nat} {e : Int} (hm : m < 2 ^ 24) (he : e ≤ 104) :
    fmtF32.overflows (m * 2 ^ k) (e - k) = false := by
  have hmin : min (104 : Int) (e - k) = e - k := by omega
  have hexp : (104 : Int) - (e - k) = ((104 - e).toNat + k : Nat) := by omega
  have hle : m * 2 ^ k ≤ (2 ^ 24 - 1) * 2 ^ ((104 - e).toNat + k) := by
    rw [Nat.pow_add, ← Nat.mul_assoc]
    refine Nat.mul_le_mul_right _ (Nat.le_trans (by omega : m ≤ 2 ^ 24 - 1) (Nat.le_mul_of_pos_right _ (Nat.two_pow_pos _)))
  simp only [FloatFmt.overflows, fmtF32_maxMag, magLt, hmin, hexp, Int.sub_self, shiftBy_zero_right, shiftBy_natCast,
    decide_eq_false_iff_not]
  exact Nat.not_lt.2 hle

/-- Rounding to F32 encodes a representable magnitude as it is. -/
theorem f32Rnd_fin (n : Bool) {m : Nat} {e : Int} (hm : m < 2 ^ 24) (hlo : fmtF32.qmin ≤ e) (hhi : e ≤ 104) :
    f32Rnd (.fin n m e) = BitVec.ofNat 32 (fmtF32.signBit n + fmtF32.encodeMag m e) := by
  obtain ⟨k, hk⟩ : ∃ k : Nat, fmtF32.round .rne m e = (m * 2 ^ k, e - k) := roundMag_exact .rne hm hlo
  simp only [f32Rnd, hk, fmtF32_not_overflows hm hhi, FloatFmt.encodeMag_mul_two_pow, Bool.false_eq_true, if_false]

theorem fmtF32_signBit_of_code {c : Nat} (hc : c < 2 ^ 32) : fmtF32.signBit (c / 2 ^ 31 % 2 == 1) = c / 2 ^ 31 * 2 ^ 31 := by
  obtain h | h : c / 2 ^ 31 = 0 ∨ c / 2 ^ 31 = 1 := by omega
  · rw [h]; rfl
  · rw [h]; rfl

theorem f32Inf_eq_ofNat (n : Bool) : f32Inf n = BitVec.ofNat 32 (fmtF32.signBit n + 255 * 2 ^ 23) := by
  cases n <;> rfl

/-- An F32 code is its sign, exponent and fraction fields, and its value is read off them (R53). -/
theorem exists_f32_fields (w : F32) : ∃ (n : Bool) (ex fr : Nat), ex ≤ 255 ∧ fr < 2 ^ 23
    ∧ w = BitVec.ofNat 32 (fmtF32.signBit n + (ex * 2 ^ 23 + fr))
    ∧ f32Dec w = if ex = 255 then (if fr = 0 then .inf n else .nan)
        else if ex = 0 then .fin n fr fmtF32.qmin
        else .fin n (2 ^ 23 + fr) ((ex : Int) - 1 + fmtF32.qmin) := by
  refine ⟨w.toNat / 2 ^ 31 % 2 == 1, w.toNat / 2 ^ 23 % 2 ^ 8, w.toNat % 2 ^ 23, by omega, by omega, ?_, ?_⟩
  · have hw := w.isLt
    rw [fmtF32_signBit_of_code hw]
    bv_omega
  · have htop : fmtF32.top = .ieee := rfl
    simp only [f32Dec, FloatFmt.decode, htop, true_and, reduceCtorEq, false_and, if_false]
    rfl

theorem f32Rnd_f32Dec {w : F32} (hn : f32IsNan w = false) : f32Rnd (f32Dec w) = w := by
  have hq : fmtF32.qmin = -149 := rfl
  obtain ⟨n, ex, fr, hex, hfr, hw, hdec⟩ := exists_f32_fields w
  rw [f32IsNan, hdec] at hn
  rw [hdec, hw]
  by_cases htop : ex = 255
  · by_cases hzero : fr = 0
    · rw [if_pos htop, if_pos hzero, f32Rnd, f32Inf_eq_ofNat, htop, hzero, Nat.add_zero]
    · rw [if_pos htop, if_neg hzero] at hn
      contradiction
  · by_cases hsub : ex = 0
    · rw [if_neg htop, if_pos hsub, f32Rnd_fin n (by omega) (by omega) (by omega), fmtF32.encodeMag_subnormal hfr, hsub,
        Nat.zero_mul, Nat.zero_add]
    · have henc : fmtF32.encodeMag (2 ^ 23 + fr) ((ex : Int) - 1 + fmtF32.qmin) = ex * 2 ^ 23 + fr :=
        fmtF32.encodeMag_normal (Nat.one_le_iff_ne_zero.2 hsub) hfr
      rw [if_neg htop, if_neg hsub, f32Rnd_fin n (by omega) (by omega) (by omega), henc]

/-! ### A34 -/

/-- An A34 code is its sign, its exponent field and its fraction field (R53, R56). -/
theorem a34_toNat_eq_fields (w : A34) :
    w.toNat = (if (w.toNat / 2 ^ 33 == 1) = true then 2 ^ 33 else 0) + w.toNat / 2 ^ 23 % 1024 * 2 ^ 23 + w.toNat % 2 ^ 23 := by
  have hw := w.isLt
  simp only [beq_iff_eq]
  split <;> omega

/-- Rounding to A34 encodes a normal magnitude as it is, with nothing flushed. -/
theorem a34Rnd_normal (n : Bool) {ex fr : Nat} (hlo : 1 ≤ ex) (hhi : ex ≤ 1022) (hfr : fr < 2 ^ 23) :
    a34Rnd (.fin n (2 ^ 23 + fr) ((ex : Int) - 511 - 23))
      = (BitVec.ofNat 34 ((if n = true then 2 ^ 33 else 0) + ex * 2 ^ 23 + fr), false) := by
  obtain ⟨k, hk⟩ := roundMag_exact .rne (p := 24) (m := 2 ^ 23 + fr) (qmin := -100000) (e := (ex : Int) - 511 - 23)
    (by omega) (by omega)
  have h0 : 2 ^ 23 + fr ≠ 0 := by omega
  have htop : ((23 + k : Nat) : Int) + ((ex : Int) - 511 - 23 - k) = (ex : Int) - 511 := by omega
  have hsh : (ex : Int) - 511 - 23 - k - ((ex : Int) - 511 - 23) = 0 - k := by omega
  have hex : ((ex : Int) - 511 + 511).toNat = ex := by omega
  have hmin : ¬ ((ex : Int) - 511 < -510) := by omega
  have hmax : ¬ (511 < (ex : Int) - 511) := by omega
  simp only [a34Rnd, hk, h0, if_false, log2_mul_two_pow h0, log2_two_pow_add hfr, htop, hmin, hmax, hex, hsh,
    shiftBy_mul_two_pow, shiftBy_zero_right, Nat.add_sub_cancel_left]

theorem a34Rnd_a34Dec {w : A34}
    (h : (1 ≤ w.toNat / 2 ^ 23 % 1024 ∧ w.toNat / 2 ^ 23 % 1024 ≤ 1022) ∨ w.toNat % 2 ^ 33 = 0) :
    a34Rnd (a34Dec w) = (w, false) := by
  have hfr : w.toNat % 2 ^ 23 < 2 ^ 23 := Nat.mod_lt _ (by decide)
  have hcode : BitVec.ofNat 34 ((if (w.toNat / 2 ^ 33 == 1) = true then 2 ^ 33 else 0)
      + w.toNat / 2 ^ 23 % 1024 * 2 ^ 23 + w.toNat % 2 ^ 23) = w := by
    rw [← a34_toNat_eq_fields, BitVec.ofNat_toNat, BitVec.setWidth_eq]
  obtain ⟨hlo, hhi⟩ | hz := h
  · have htop : w.toNat / 2 ^ 23 % 1024 ≠ 1023 := by omega
    have hpos : w.toNat / 2 ^ 23 % 1024 ≠ 0 := by omega
    simp only [a34Dec, if_neg htop, if_neg hpos]
    rw [a34Rnd_normal _ hlo hhi hfr, hcode]
  · have hex : w.toNat / 2 ^ 23 % 1024 = 0 := by omega
    have hfr0 : w.toNat % 2 ^ 23 = 0 := by omega
    rw [hex, hfr0] at hcode
    simp only [a34Dec, hex]
    exact congrArg (·, false) hcode

/-! ### Sums and products -/

theorem Num.add_comm (x y : Num) : Num.add x y = Num.add y x := by
  cases x with
  | nan => cases y <;> rfl
  | inf a =>
    cases y with
    | nan => rfl
    | inf b => cases a <;> cases b <;> rfl
    | fin b n f => rfl
  | fin a m e =>
    cases y with
    | nan => rfl
    | inf b => rfl
    | fin b n f =>
      by_cases hm : m = 0 <;> by_cases hn : n = 0
      · simp [Num.add, hm, hn, Bool.and_comm]
      · simp [Num.add, hm, hn]
      · simp [Num.add, hm, hn]
      · simp only [Num.add, hm, hn, and_self, if_false, min_comm f e]
        by_cases hab : a = b
        · simp [hab, Nat.add_comm]
        · simp only [hab, Ne.symm hab, if_false]
          obtain hlt | heq | hgt := Nat.lt_trichotomy (shiftBy m (e - min e f)) (shiftBy n (f - min e f))
          · simp only [hlt, Nat.lt_asymm hlt, Nat.ne_of_lt hlt, Nat.ne_of_gt hlt, if_true, if_false]
          · simp only [heq, if_true]
          · simp only [hgt, Nat.lt_asymm hgt, Nat.ne_of_lt hgt, Nat.ne_of_gt hgt, if_true, if_false]

theorem Num.mul_comm (x y : Num) : Num.mul x y = Num.mul y x := by
  cases x with
  | nan => cases y <;> rfl
  | inf a =>
    cases y with
    | nan => rfl
    | inf b => simp only [Num.mul, bne_comm]
    | fin b n f => simp only [Num.mul, bne_comm]
  | fin a m e =>
    cases y with
    | nan => rfl
    | inf b => simp only [Num.mul, bne_comm]
    | fin b n f => simp only [Num.mul, bne_comm, Nat.mul_comm, Int.add_comm]

theorem f32Add_comm (a b : F32) : f32Add a b = f32Add b a := congrArg f32Rnd (Num.add_comm _ _)

theorem f32Mul_comm (a b : F32) : f32Mul a b = f32Mul b a := congrArg f32Rnd (Num.mul_comm _ _)

theorem f32Dec_of_isNan {a : F32} (h : f32IsNan a = true) : f32Dec a = .nan := by
  unfold f32IsNan at h
  cases hd : f32Dec a with
  | nan => rfl
  | inf n => rw [hd] at h; contradiction
  | fin n m e => rw [hd] at h; contradiction

/-- A sum with a NaN operand is the canonical NaN (R55, R142). -/
theorem f32Add_of_isNan {a : F32} (h : f32IsNan a = true) (b : F32) : f32Add a b = f32Nan := by
  rw [f32Add, f32Dec_of_isNan h, Num.add, f32Rnd]

/-- A product with a NaN operand is the canonical NaN (R55, R142). -/
theorem f32Mul_of_isNan {a : F32} (h : f32IsNan a = true) (b : F32) : f32Mul a b = f32Nan := by
  rw [f32Mul, f32Dec_of_isNan h, Num.mul, f32Rnd]

/-- Settles O60: `roundMag` only refines the unit of a representable magnitude, and the encoders do not see that; sums and products of
exact numbers commute before they are rounded. -/
theorem roundingIsExactOnCodes : Obligations.RoundingIsExactOnCodes :=
  ⟨fun _ hn => f32Rnd_f32Dec hn, fun _ h => a34Rnd_a34Dec h,
    fun a b => ⟨f32Add_comm a b, f32Mul_comm a b, fun hn => ⟨f32Add_of_isNan hn b, f32Mul_of_isNan hn b⟩⟩⟩

end Sys2Proof.Machine
end

section
/-! SUPPORT. A start whose work no write beside it reaches (R340, R544, R547), and the rows of a TILE (R102 to R132, R728). -/

namespace Sys2Proof.Machine

/-! ### What a start leaves of its work -/

section
variable {qp : Fin 64} {idx : W32} {d : Desc} {body : M Unit} {s : State} {w : Work}

theorem ownWrites_mem (old s : State) : (ownWrites old qp idx s).mem = s.mem := rfl

theorem openStep_mem (d : Desc) (s : State) : (openStep d s).mem = s.mem := by
  unfold openStep
  split <;> rfl

theorem headBase_mem : (headBase qp d s).mem = s.mem := by
  obtain ⟨x, hx⟩ := headBaseAt_sec (headIdx s qp) d (advanceHead qp 1 s)
  rw [headBase, hx]
  rfl

theorem headResult_eq : headResult s qp d = (headStatus qp d s, headBase qp d s) := headChecks_first qp d s

theorem passesHead_iff : passesHead qp d s = true ↔ running s = true ∧ canStart s qp d 1 = true ∧ headStatus qp d s = .ok := by
  simp [passesHead, headResult_eq, and_assoc]

theorem runsOk_iff : runsOk qp d body s = true
    ↔ passesHead qp d s = true ∧ readsAlone (classWork qp d body s).2 = true ∧ (classWork qp d body s).1 = .ok () := by
  unfold runsOk
  cases (classWork qp d body s).1 <;> simp

theorem raceOwn_of_readsAlone (h : readsAlone w = true) (e : InFlight) (s : State) : raceOwn w [] e s = (e, s) := by
  obtain ⟨hreads, hruns⟩ := Bool.and_eq_true_iff.mp h
  have hl : (if e.cls = clsSample then changedRuns w [] else []) = [] := by
    split
    · exact List.isEmpty_iff.mp hruns
    · rfl
  have hquiet : (w.s.q.inflight.any fun x => racyReads w.reads x.writes) = false := by simpa using hreads
  unfold raceOwn
  rw [hl, hquiet]
  rfl

theorem dropSuppressed_of_unpaired (hn : nextOf d = none) (w : Work) (s : State) : dropSuppressed d w s = s := by
  simp [dropSuppressed, hn]

/-- The entry of work that races with nothing is what the work says, but for the requests that the stacks then hold for it (R504). -/
theorem settleEntry_of_readsAlone {old : State} {e : InFlight} {r : Except Fail Unit × Work} (hn : nextOf d = none)
    (he : e.spoiled = []) (h : readsAlone r.2 = true) :
    ∃ l, settleEntry old d e r = ({ workEntry e.qp e.idx d r with order := r.2.order, requests := l },
      ownWrites old e.qp e.idx { settleWork r.2 with freeCtr := (settleWork r.2).freeCtr + l.length }) := by
  unfold settleEntry
  rw [he, raceOwn_of_readsAlone h]
  dsimp only
  rw [dropSuppressed_of_unpaired hn]
  exact ⟨_, rfl⟩

/-- A descriptor that passes checks 1 to 5 and whose work does not wait leaves what settles that work. -/
theorem startOne_settles (hh : headStatus qp d s = .ok) (hx : waitsIn (classWork qp d body s).1 = false) :
    startOne qp d body s
      = let x := settleEntry (headBase qp d s) d (heldEntry qp (headIdx s qp) d (openStep d (headBase qp d s))) (classWork qp d body s)
        pushInFlight x.1 x.2 := by
  unfold classWork at hx ⊢
  rw [headResult_eq] at hx ⊢
  have hc := headChecks_first qp d s
  rw [startOne_ok ((congrArg Prod.fst hc).trans hh), hc]
  exact runBody_settles hx

/-- Work that races with nothing leaves its memory, and an entry with its outcome, which is the newest. -/
theorem startOne_of_readsAlone (hh : headStatus qp d s = .ok) (hn : nextOf d = none)
    (hx : waitsIn (classWork qp d body s).1 = false) (h : readsAlone (classWork qp d body s).2 = true) :
    (startOne qp d body s).mem = (settleWork (classWork qp d body s).2).mem
      ∧ ∃ o l, newest (startOne qp d body s)
        = some { workEntry qp (headIdx s qp) d (classWork qp d body s) with order := o, requests := l } := by
  obtain ⟨l, hl⟩ := settleEntry_of_readsAlone (old := headBase qp d s)
    (e := heldEntry qp (headIdx s qp) d (openStep d (headBase qp d s))) hn rfl h
  rw [startOne_settles hh hx, hl]
  exact ⟨rfl, _, l, newest_pushInFlight _ _⟩

theorem startedOk_of_runsOk (hn : nextOf d = none) (h : runsOk qp d body s = true) :
    StartedOk qp d body s (startOne qp d body s) := by
  obtain ⟨hpass, halone, hok⟩ := runsOk_iff.mp h
  obtain ⟨-, -, hh⟩ := passesHead_iff.mp hpass
  obtain ⟨hmem, o, l, hnew⟩ := startOne_of_readsAlone hh hn (by rw [hok]; rfl) halone
  refine ⟨hmem, ?_⟩
  rw [hnew]
  simp [workEntry, hok]

/-- A row that starts its descriptor completes where its work does, and otherwise ends with what fails (R340, R544). -/
theorem completesOk_of_starts {c : Instr} (hn : nextOf d = none) (h : runsOk qp d body s = true)
    (hc : exec c s = .next (startOne qp d body s)) : CompletesOk c qp d body s :=
  ⟨_, hc, startedOk_of_runsOk hn h⟩

theorem failsWith_of_starts {c : Instr} (hh : headStatus qp d s = .ok) (hn : nextOf d = none)
    (halone : readsAlone (classWork qp d body s).2 = true) (hc : exec c s = .next (startOne qp d body s)) :
    FailsWith c qp d body s := by
  intro f hf hw
  obtain ⟨hmem, o, l, hnew⟩ := startOne_of_readsAlone hh hn (by rw [hf]; exact hw) halone
  refine ⟨_, hc, hmem, ?_⟩
  rw [hnew]
  simp [workEntry, hf]

/-- Work that fails before it touches memory leaves memory as it was, and an entry that waits for nothing (R340, R544). -/
theorem startOne_of_early_failure {f : Fail} (hh : headStatus qp d s = .ok) (hd : descClass d ≠ clsSample) (hn : nextOf d = none)
    (hf : f.waits = false) {info : List Byte}
    (hrun : ∀ u, (body.run (Work.start u.q.nextOrder [] u)) = (.error f, { Work.start u.q.nextOrder [] u with info := info })) :
    (startOne qp d body s).mem = s.mem ∧ startedAs s qp d .nothing f.status (startOne qp d body s) := by
  have hwork : classWork qp d body s = (.error f,
      { Work.start (openStep d (headBase qp d s)).q.nextOrder [] (openStep d (headBase qp d s)) with info := info }) := by
    unfold classWork runWork runWorkAt
    rw [headResult_eq, hrun]
    simp [settleLate, Work.start, sendQueued]
  rw [startOne_settles hh (by rw [hwork]; exact hf), hwork, settleEntry_of_no_access hd hn rfl rfl rfl]
  refine ⟨?_, startedAs_of_push rfl rfl rfl⟩
  simp only [pushInFlight_mem, ownWrites_mem, Work.start, openStep_mem, headBase_mem]
end

/-! ### The checks of a TILE's own fields (R132) -/

theorem M.run_getS (w : Work) : getS.run w = (.ok w.s, w) := rfl

/-- A failure that is no uncorrectable read passes what a TILE's checks do on one (R121). -/
theorem orClose_run_of_error {α : Type} {t : TileFields} {m : M α} {w w' : Work} {f : Fail} (h : m.run w = (.error f, w'))
    (hf : f.status ≠ .uncorrectableMem) : (orClose t m).run w = (.error f, w') := by
  have hc : ¬(t.terrace = true ∧ f.status = .uncorrectableMem) := fun hc => hf hc.2
  unfold orClose
  rw [M.run_tryCatch, h]
  dsimp only
  rw [if_neg hc]
  rfl

theorem orUnread_run_of_error {α : Type} {outs : M (List (Nat × Nat))} {m : M α} {w w' : Work} {f : Fail}
    (h : m.run w = (.error f, w')) (hf : f.status ≠ .uncorrectableMem) : (orUnread outs m).run w = (.error f, w') := by
  unfold orUnread orUnreadBy
  rw [M.run_tryCatch, h]
  dsimp only
  rw [if_neg hf]
  rfl

theorem M.run_bind_of_error {α β : Type} {m : M α} {k : α → M β} {w w' : Work} {f : Fail} (h : m.run w = (.error f, w')) :
    (m >>= k).run w = (.error f, w') := by
  rw [M.run_bind, h]

theorem tileReady_run_of_fields {d : Desc} {w : Work} (h : tileFieldsOk w.s d (tileFields d) = false) :
    (tileReady d).run w = (.error ⟨.badDescriptor, none, false⟩, w) := by
  refine M.run_bind_of_error ?_
  unfold tileChecks
  rw [M.run_bind, M.run_getS]
  exact M.run_bind_of_error (by rw [h]; rfl)

/-- A TILE whose own fields fail the first row of R132 has done nothing but set its bytes of the record (R116). -/
theorem tileBody_run_of_fields {d : Desc} {w : Work} (h : tileFieldsOk w.s d (tileFields d) = false) :
    (tileBody d).run w = (.error ⟨.badDescriptor, none, false⟩, { w with info := tileInfo (tileFields d).bound 0 none }) := by
  have hready := tileReady_run_of_fields (w := { w with info := tileInfo (tileFields d).bound 0 none }) h
  unfold tileBody
  rw [M.run_bind]
  exact M.run_bind_of_error (orUnread_run_of_error (orClose_run_of_error hready (by decide)) (by decide))

/-- The fields that R132's first row refuses on their own fail its check, whatever the state is. -/
theorem tileFieldsOk_of_tileRefused {d : Desc} (h : tileRefused d) (s : State) : tileFieldsOk s d (tileFields d) = false := by
  refine Bool.eq_false_iff.mpr fun hok => ?_
  simp only [tileFieldsOk, Bool.and_eq_true, bne_iff_ne, ne_eq, decide_eq_true_eq, Bool.or_eq_true, Bool.not_eq_true', beq_iff_eq,
    and_assoc] at hok
  obtain ⟨-, -, -, -, -, -, -, hrnd, hovf, hrows, hrowsMax, hplazas, hlast, hdepth, hterrace⟩ := hok
  rcases h with h | h | h | h | h | h | h | ⟨hbit, h⟩
  · exact hrnd h
  · exact hovf h
  · exact absurd hrows (by simp [tileFields, h])
  · exact absurd hrowsMax (Nat.not_le.mpr h)
  · exact absurd hplazas (by simp [tileFields, h])
  · exact absurd hlast (Nat.not_le.mpr h)
  · exact absurd hdepth (Nat.not_le.mpr h)
  · obtain hplain | ⟨hm, hmMax, hn, hnMax, hone, -⟩ := hterrace
    · exact Bool.noConfusion (hbit.symm.trans hplain)
    · simp only [tileFields] at hm hmMax hn hnMax hone
      omega

/-! ### The rows of a TILE (R98, R108, R109, R112, R728) -/

section
variable {qp : Fin 64} {d : Desc} {s : State} {c : Instr}

theorem nextOf_of_tile (hd : descClass d = clsTile) : nextOf d = none := by
  simp [nextOf, hd, clsTile, clsMove, clsShard]

theorem mem_descRows_of_tileRows (hc : c ∈ tileRows qp d) : c ∈ descRows qp d := by
  simp only [tileRows, List.mem_cons, List.not_mem_nil, or_false] at hc
  rcases hc with rfl | rfl | rfl | rfl <;> simp [descRows, descRows1]

/-- All four rows start their TILE in one way. -/
theorem exec_tileRow (hc : c ∈ tileRows qp d) (hw : c.wellFormed = true) :
    descClass d = clsTile ∧ exec c s = startTile true qp d s := by
  cases rowShape_of_descRows (mem_descRows_of_tileRows hc) hw with
  | tile _ _ _ hd hrow hx => exact ⟨hd, by rw [hx, hrow]⟩
  | kernel _ _ hl | exchange _ hl | plain _ _ hl => exact absurd hc hl
  | turn | stepFence | reserved => simp [tileRows] at hc

theorem exec_tileRow_alone (hc : c ∈ tileRows qp d) (hw : c.wellFormed = true) (hn : nextUnknown s qp = false)
    (hpost : postOf s qp = none) (hpass : passesHead qp d s = true) : exec c s = .next (startOne qp d (tileBody d) s) := by
  obtain ⟨hr, hcan, -⟩ := passesHead_iff.mp hpass
  rw [(exec_tileRow hc hw).2, startTile_alone hn hpost, startDesc_starts _ hr hcan]

theorem tileRow_completesOk (hc : c ∈ tileRows qp d) (hw : c.wellFormed = true) (hn : nextUnknown s qp = false)
    (hpost : postOf s qp = none) (h : runsOk qp d (tileBody d) s = true) : CompletesOk c qp d (tileBody d) s :=
  completesOk_of_starts (nextOf_of_tile (exec_tileRow (s := s) hc hw).1) h (exec_tileRow_alone hc hw hn hpost (runsOk_iff.mp h).1)

theorem startOne_of_tileRefused (hd : descClass d = clsTile) (hh : headStatus qp d s = .ok) (h : tileRefused d) :
    (startOne qp d (tileBody d) s).mem = s.mem ∧ startedAs s qp d .nothing .badDescriptor (startOne qp d (tileBody d) s) :=
  startOne_of_early_failure (f := ⟨.badDescriptor, none, false⟩) hh (by rw [hd]; decide) (nextOf_of_tile hd) rfl
    fun u => tileBody_run_of_fields (tileFieldsOk_of_tileRefused h u)
end

/-- Settles O20: the four rows share one start, which is that of any descriptor alone once what follows it in the ring is known. -/
theorem tileRowsComplete : Obligations.TileRowsComplete := by
  intro qp d s
  refine ⟨fun hn hpost hok => ?_, fun c hc hw => ⟨fun d2 hpost => ?_, fun hn hr hcan => ?_, fun halone hpass => ?_⟩⟩
  · have row (c : Instr) (hc : c ∈ tileRows qp d) (hw : c.wellFormed = true) := tileRow_completesOk hc hw hn hpost hok
    exact ⟨row (.tile qp d) (by simp [tileRows]), row (.terraceOpen qp d) (by simp [tileRows]),
      row (.terraceContribute qp d) (by simp [tileRows]), row (.terraceClose qp d) (by simp [tileRows])⟩
  · exact exec_of_postOf (rowShape_of_descRows (mem_descRows_of_tileRows hc) hw) hc hpost
  · rw [(exec_tileRow hc hw).2, startTile_asks hr hn hcan]
  · obtain ⟨hn, hpost⟩ := halone.2 hc
    have hstart := exec_tileRow_alone hc hw hn hpost hpass
    obtain ⟨-, -, hh⟩ := passesHead_iff.mp hpass
    have hd := (exec_tileRow (s := s) hc hw).1
    exact ⟨fun h => ⟨_, hstart, startOne_of_tileRefused hd hh h⟩, fun h => failsWith_of_starts hh (nextOf_of_tile hd) h hstart⟩

end Sys2Proof.Machine
end

section
/-! SUPPORT. The rows of a KERNEL (R138, R152 to R161, R728). -/

namespace Sys2Proof.Machine

/-- Every KERNEL row starts its descriptor in one way. -/
theorem exec_kernelRow {x : Nat × (Fin 64 → Desc → Instr)} (hx : x ∈ kernelRows) (qp : Fin 64) (d : Desc) (s : State) :
    exec (x.2 qp d) s = startKernel x.1 qp d s := by
  simp only [kernelRows, List.mem_cons, List.not_mem_nil, or_false] at hx
  rcases hx with rfl | rfl | rfl | rfl | rfl | rfl | rfl | rfl | rfl | rfl | rfl | rfl | rfl | rfl | rfl | rfl | rfl | rfl | rfl | rfl <;> rfl

theorem nextOf_of_kernel {d : Desc} (hd : descClass d = clsKernel) : nextOf d = none := by
  simp [nextOf, hd, clsKernel, clsMove, clsShard]

/-- Settles O21: a row whose KERNEL does not open a pair starts it as any descriptor alone. -/
theorem kernelRowsComplete : Obligations.KernelRowsComplete := by
  intro qp d s x hx hk
  refine ⟨fun hfuse hok => ?_, fun hfuse hr => ?_⟩
  · obtain ⟨hr, hcan, -⟩ := passesHead_iff.mp (runsOk_iff.mp hok).1
    refine completesOk_of_starts (nextOf_of_kernel (class_of_row hk)) hok ?_
    rw [exec_kernelRow hx, startKernel_alone (beq_false_of_ne hfuse), hk, startDesc_starts _ hr hcan]
  · rw [exec_kernelRow hx, startKernel_first hk hr (beq_iff_eq.mpr hfuse)]

end Sys2Proof.Machine
end

section
/-! SUPPORT. What a descriptor's start leaves unchanged, and how far HEAD of its pair moves (R162, R163, R528, R535, R544). -/

namespace Sys2Proof.Machine

/-! ### What a descriptor's work keeps -/

/-- Flash and fuses, the reset and power controllers, the turn with its sequence number, the waiting commands and every pair stay: what
`Quiet` says but for memory and the protected ranges, which an UNPROTECT drops. -/
structure Framed (s t : State) : Prop where
  persist : t.persist = s.persist
  rst : t.rst = s.rst
  power : t.power = s.power
  cur : t.turn.cur = s.turn.cur
  seq : t.turn.seq = s.turn.seq
  pending : t.pending = s.pending
  qps : t.q.qps = s.q.qps

theorem Quiet.framed {s t : State} (h : Quiet s t) : Framed s t :=
  ⟨h.persist, h.rst, h.power, h.calm.cur, h.seq, h.calm.pending, h.qps⟩

theorem Framed.trans {s t u : State} (a : Framed s t) (b : Framed t u) : Framed s u :=
  ⟨b.persist.trans a.persist, b.rst.trans a.rst, b.power.trans a.power, b.cur.trans a.cur, b.seq.trans a.seq,
    b.pending.trans a.pending, b.qps.trans a.qps⟩

/-- Work that keeps them, whether it ends OK or fails. -/
structure MFramed {α : Type} (m : M α) : Prop where
  run : ∀ w : Work, Framed w.s (m.run w).2.s

theorem MQuiet.framed {α : Type} {m : M α} (h : MQuiet m) : MFramed m := ⟨fun w => (h.run w).framed⟩

theorem MFramed.bind {α β : Type} {m : M α} {f : α → M β} (h : MQuiet m) (k : ∀ a, MFramed (f a)) : MFramed (m >>= f) := by
  refine ⟨fun w => ?_⟩
  have hm := (h.run w).framed
  rw [M.run_bind]
  generalize m.run w = r at hm
  obtain ⟨_ | a, w'⟩ := r
  · exact hm
  · exact hm.trans ((k a).run w')

theorem unprotectBody_framed (d : Desc) : MFramed (unprotectBody d) := by
  unfold unprotectBody
  exact MFramed.bind (MQuiet.needDesc _) fun _ => MFramed.bind (needShardTurn_mquiet _) fun _ => MFramed.bind MQuiet.getS fun _ =>
    MFramed.bind (MQuiet.need _ _) fun _ => ⟨fun _ => ⟨rfl, rfl, rfl, rfl, rfl, rfl, rfl⟩⟩

theorem runWork_framed {body : M Unit} (h : MFramed body) (s : State) : Framed s (runWork body s).2.s := by
  have hlate {r : Except Fail Unit × Work} (hr : Framed s r.2.s) : Framed s (settleLate r).2.s := by
    unfold settleLate
    split
    · exact hr.trans (Quiet.foldl (fun s (a : MemAccess) => scramble_quiet a.lo a.len s) _ _).framed
    · exact hr
  exact (hlate (h.run (Work.start s.q.nextOrder [] s))).trans (sendQueued_quiet s _).framed

theorem runBody_framed {qp : Fin 64} {idx : W32} {d : Desc} {body : M Unit} (h : MFramed body) (s : State) :
    Framed s (runBody qp idx d body s) := by
  unfold runBody
  dsimp only
  split
  · exact (((openStep_quiet d s).trans (askFor_quiet _ _ _)).trans (pushInFlight_quiet _ _)).framed
  · exact ((openStep_quiet d s).framed.trans (runWork_framed h _)).trans
      ((settleEntry_quiet _ _ _ _).trans (pushInFlight_quiet _ _)).framed

/-! ### HEAD moves -/

/-- HEAD of one pair moves past n entries, and what the pair knows of its ring may change; the rest of `Framed` stays. -/
structure HeadMoves (qp : Fin 64) (n : Nat) (s t : State) : Prop where
  persist : t.persist = s.persist
  rst : t.rst = s.rst
  power : t.power = s.power
  cur : t.turn.cur = s.turn.cur
  seq : t.turn.seq = s.turn.seq
  pending : t.pending = s.pending
  others : ∀ q : Fin 64, q ≠ qp → t.q.qps[q] = s.q.qps[q]
  own : ∃ f r, t.q.qps[qp] = { (s.q.qps[qp]) with head := (s.q.qps[qp]).head + BitVec.ofNat 32 n, front := f, ring := r }

section
variable {qp : Fin 64} {d : Desc} {s t u : State}

theorem HeadMoves.framed {n : Nat} (a : HeadMoves qp n s t) (b : Framed t u) : HeadMoves qp n s u :=
  ⟨b.persist.trans a.persist, b.rst.trans a.rst, b.power.trans a.power, b.cur.trans a.cur, b.seq.trans a.seq,
    b.pending.trans a.pending, fun q h => by rw [b.qps]; exact a.others q h, by rw [b.qps]; exact a.own⟩

theorem HeadMoves.quiet {n : Nat} (a : HeadMoves qp n s t) (b : Quiet t u) : HeadMoves qp n s u := a.framed b.framed

theorem noteVisit_qps (qp : Fin 64) (n : Nat) (q : Queues) : (noteVisit qp n q).qps = q.qps := by
  unfold noteVisit
  split <;> rfl

theorem advanceHead_moves (qp : Fin 64) (n : Nat) (s : State) : HeadMoves qp n s (advanceHead qp n s) := by
  refine ⟨rfl, rfl, rfl, rfl, rfl, rfl, fun q h => ?_, none, [], Vector.getElem_set_self qp.isLt⟩
  rw [← noteVisit_qps qp n s.q]
  exact setPair_other _ { s with q := noteVisit qp n s.q } h

theorem showFront_moves (qp : Fin 64) (d : Desc) (s : State) : HeadMoves qp 0 s (showFront qp d s) := by
  have h0 : (s.q.qps[qp]).head = (s.q.qps[qp]).head + BitVec.ofNat 32 0 := (BitVec.add_zero _).symm
  unfold showFront
  dsimp only
  split
  · exact ⟨rfl, rfl, rfl, rfl, rfl, rfl, fun _ h => setPair_other _ s h,
      some d, (s.q.qps[qp]).ring, by rw [← h0]; exact Vector.getElem_set_self qp.isLt⟩
  · exact ⟨rfl, rfl, rfl, rfl, rfl, rfl, fun _ _ => rfl, (s.q.qps[qp]).front, (s.q.qps[qp]).ring, by rw [← h0]⟩

theorem startOne_moves {body : M Unit} (h : MFramed body) : HeadMoves qp 1 s (startOne qp d body s) := by
  have hc := (advanceHead_moves qp 1 s).quiet (headChecks_quiet (advanceHead qp 1 s) (s.q.qps[qp]).head d)
  unfold startOne
  dsimp only
  split
  · exact hc.framed (runBody_framed h _)
  · exact hc.quiet (pushInFlight_quiet _ _)

theorem startFused_moves (qp : Fin 64) (d1 d2 : Desc) (s : State) : HeadMoves qp 2 s (startFused qp d1 d2 s) := by
  have h1 := (advanceHead_moves qp 2 s).quiet (headChecks_quiet (advanceHead qp 2 s) (s.q.qps[qp]).head d1)
  unfold startFused
  dsimp only
  generalize headChecks (advanceHead qp 2 s) (s.q.qps[qp]).head d1 = c1 at h1 ⊢
  split
  · exact h1.quiet (pushBoth_quiet _ _ _ _ _ _)
  · have h2 := h1.quiet (headChecks_quiet c1.2 ((s.q.qps[qp]).head + 1) d2)
    generalize headChecks c1.2 ((s.q.qps[qp]).head + 1) d2 = c2 at h2 ⊢
    split
    · exact h2.quiet (pushBoth_quiet _ _ _ _ _ _)
    · exact h2.quiet (runFused_quiet _ _ _ _ _)

/-! ### The ways in which a command starts a descriptor -/

/-- A descriptor alone: HEAD moves past it where it starts, and otherwise stays. -/
def MovesAlone (qp : Fin 64) (s t : State) : Prop := HeadMoves qp 1 s t ∨ HeadMoves qp 0 s t

theorem startDesc_moves {isRow : Bool} {body : M Unit} (hb : MFramed body) (h : startDesc isRow qp d body s = .next t) :
    MovesAlone qp s t := by
  obtain ⟨-, -, ⟨-, rfl⟩ | ⟨-, rfl⟩⟩ := startDesc_cases h
  · exact .inl (startOne_moves hb)
  · exact .inr (showFront_moves qp d s)

theorem startKernel_moves {num : Nat} (h : startKernel num qp d s = .next t) : MovesAlone qp s t := by
  unfold startKernel at h
  split at h
  · cases h
    exact .inr (showFront_moves qp d s)
  · exact startDesc_moves (kernelBody_mquiet d).framed h

theorem startExchange_moves {isRow : Bool} {k : XKind} (h : startExchange isRow k qp d s = .next t) : MovesAlone qp s t := by
  obtain ⟨-, -, ⟨-, rfl⟩ | ⟨-, rfl⟩⟩ := startExchange_cases h
  · exact .inl ((startOne_moves (exchangeBody_mquiet _ _ _ _).framed).quiet (pumpAll_quiet _))
  · exact .inr (showFront_moves qp d s)

theorem execTurn_moves (h : execTurn qp d s = .next t) : MovesAlone qp s t := by
  have hstart := startOne_moves (qp := qp) (d := d) (s := s) (turnBody_mquiet qp (s.q.qps[qp]).head d).framed
  unfold execTurn at h
  split_ifs at h <;> cases h
  · refine .inl ?_
    unfold noteHeadRefusal
    dsimp only
    split
    · exact hstart
    · exact hstart.quiet (noteRefusal_quiet _ _)
  · exact .inr (showFront_moves qp d s)

theorem execStepFence_moves (h : execStepFence qp d s = .next t) : MovesAlone qp s t := by
  have hstart := startOne_moves (qp := qp) (d := d) (s := s) (fenceBody_mquiet qp d).framed
  unfold execStepFence at h
  split_ifs at h <;> cases h
  · refine .inl ?_
    unfold startStep
    dsimp only
    split
    · split
      · exact hstart.quiet (actStep_quiet _ _)
      · exact hstart
    · exact hstart
  · exact .inr (showFront_moves qp d s)

theorem execReservedClassCode_moves (h : execReservedClassCode qp d s = .next t) : MovesAlone qp s t := by
  unfold execReservedClassCode at h
  split at h
  · cases h
    exact .inr (showFront_moves qp d s)
  · exact startDesc_moves (MQuiet.fail _).framed h

theorem execFusedPair_moves {d1 d2 : Desc} (h : execFusedPair qp d1 d2 s = .next t) : HeadMoves qp 2 s t ∨ HeadMoves qp 0 s t := by
  unfold execFusedPair at h
  dsimp only at h
  split_ifs at h <;> cases h
  · exact .inl (startFused_moves qp d1 d2 s)
  · exact .inr (showFront_moves qp _ s)

theorem startTile_moves {isRow : Bool} (h : startTile isRow qp d s = .next t) : HeadMoves qp 2 s t ∨ MovesAlone qp s t := by
  unfold startTile at h
  split_ifs at h
  · cases h
    exact .inr (.inr ((showFront_moves qp d s).quiet (askLines_quiet _ _ _)))
  · split at h
    · exact (execFusedPair_moves h).imp_right .inr
    · exact .inr (startDesc_moves (tileBody_mquiet d).framed h)

end

/-! ### Every row -/

section
variable {qp : Fin 64} {d : Desc} {s t : State} {c : Instr}

theorem tileRow_moves (hc : c ∈ tileRows qp d) (h : exec c s = .next t) : HeadMoves qp 2 s t ∨ MovesAlone qp s t := by
  simp only [tileRows, List.mem_cons, List.not_mem_nil, or_false] at hc
  rcases hc with rfl | rfl | rfl | rfl
  all_goals exact startTile_moves h

theorem descRows1_moves (hc : c ∈ descRows1 qp d) (ht : c ∉ tileRows qp d) (h : exec c s = .next t) : MovesAlone qp s t := by
  simp only [descRows1, List.mem_cons, List.not_mem_nil, or_false] at hc
  rcases hc with rfl | rfl | rfl | rfl | rfl | hkernel
  · exact execTurn_moves h
  iterate 4 exact absurd (by simp [tileRows]) ht
  · obtain ⟨x, hx, rfl⟩ : ∃ x ∈ kernelRows, c = x.2 qp d := by simpa [kernelRows] using hkernel
    exact startKernel_moves ((exec_kernelRow hx qp d s).symm.trans h)

theorem descRows2_moves (hc : c ∈ descRows2 qp d) (h : exec c s = .next t) : MovesAlone qp s t := by
  simp only [descRows2, List.mem_cons, List.not_mem_nil, or_false] at hc
  rcases hc with rfl | rfl | rfl | rfl | rfl | rfl | rfl | rfl | rfl | rfl | rfl | rfl | rfl | rfl | rfl | rfl | rfl | rfl | rfl | rfl | rfl | rfl | rfl | rfl | rfl | rfl | rfl | rfl | rfl | rfl | rfl
  iterate 3 exact startDesc_moves (attnBody_mquiet d).framed h
  iterate 4 exact startDesc_moves (versionBody_mquiet d).framed h
  iterate 2 exact startDesc_moves (sampleBody_mquiet d).framed h
  iterate 4 exact startDesc_moves (careBody_mquiet d).framed h
  iterate 3 exact startExchange_moves h
  · exact startDesc_moves (loadBody_mquiet d).framed h
  iterate 2 exact startExchange_moves h
  · exact startDesc_moves (protectBody_mquiet d).framed h
  · exact startDesc_moves (unprotectBody_framed d) h
  · exact startDesc_moves (zeroBody_mquiet d).framed h
  iterate 4 exact startDesc_moves (moveBody_mquiet d).framed h
  iterate 2 exact startDesc_moves (fenceBody_mquiet qp d).framed h
  · exact execStepFence_moves h
  · exact startDesc_moves (fenceBody_mquiet qp d).framed h
  · exact execReservedClassCode_moves h

theorem fusedPair_notMem_descRows {d1 d2 : Desc} : Instr.fusedPair qp d1 d2 ∉ descRows qp d := by
  simp [descRows, descRows1, descRows2]

/-- How many entries HEAD moves past by the row that starts them: two for a pair alone, and one only for a descriptor alone. -/
theorem exec_moves (hc : c ∈ descRows qp d ∨ ∃ d2, c = .fusedPair qp d d2) (h : exec c s = .next t) :
    ∃ n, HeadMoves qp n s t ∧ n ≤ 2 ∧ (n = 2 → c ∈ tileRows qp d ∨ ∃ d2, c = .fusedPair qp d d2)
      ∧ (n = 1 → ∀ d2, c ≠ .fusedPair qp d d2) := by
  have alone (hrow : c ∈ descRows qp d) (hm : MovesAlone qp s t) : ∃ n, HeadMoves qp n s t ∧ n ≤ 2
      ∧ (n = 2 → c ∈ tileRows qp d ∨ ∃ d2, c = .fusedPair qp d d2) ∧ (n = 1 → ∀ d2, c ≠ .fusedPair qp d d2) :=
    hm.elim (fun hm => ⟨1, hm, by decide, nofun, fun _ _ e => fusedPair_notMem_descRows (e ▸ hrow)⟩)
      fun hm => ⟨0, hm, by decide, nofun, nofun⟩
  rcases hc with hrow | ⟨d2, rfl⟩
  · by_cases ht : c ∈ tileRows qp d
    · exact (tileRow_moves ht h).elim (fun hm => ⟨2, hm, le_rfl, fun _ => .inl ht, nofun⟩) (alone hrow)
    · exact alone hrow ((List.mem_append.mp hrow).elim (fun h1 => descRows1_moves h1 ht h) fun h2 => descRows2_moves h2 h)
  · exact (execFusedPair_moves h).elim (fun hm => ⟨2, hm, le_rfl, fun _ => .inr ⟨d2, rfl⟩, nofun⟩)
      fun hm => ⟨0, hm, by decide, nofun, nofun⟩
end

/-- Settles O10: a start is HEAD's move, then work that keeps everything named, or shows the entry at HEAD. -/
theorem startFrame : Obligations.StartFrame := by
  intro qp d s t c hc h
  obtain ⟨n, hm, hn, h2, h1⟩ := exec_moves hc h
  obtain ⟨f, r, hown⟩ := hm.own
  exact ⟨hm.persist, hm.rst, hm.power, hm.cur, hm.seq, hm.pending, hm.others, n, f, r, hn, h2, h1, hown⟩

end Sys2Proof.Machine
end

section
/-! SUPPORT. What asserting a reset leaves, and the level and cause that each source gives it (R513, R514, R537, R678, R682 to R685,
R727). -/

namespace Sys2Proof.Machine

/-- A pair as a reset of a level leaves it: DISABLED, with its counts at 0 (R537). -/
theorem assertReset_pair (l : Level) (cause : Byte) (source : Bool) (s : State) (q : Fin 64) :
    let p := (assertReset l cause source s).q.qps[q]
    p.state = .disabled ∧ p.head = 0 ∧ p.tail = 0 := by
  have hdeep : State.reset.q.qps[q] = QueuePair.reset := Vector.getElem_replicate q.isLt
  have hcore : s.q.core.qps[q] = (s.q.qps[q]).core := Vector.getElem_map QueuePair.core q.isLt
  cases l with
  | core =>
    have h : (assertReset .core cause source s).q.qps[q] = (s.q.qps[q]).core := hcore
    rw [h]
    exact ⟨rfl, rfl, rfl⟩
  | sys =>
    have h : (assertReset .sys cause source s).q.qps[q] = QueuePair.reset := hdeep
    rw [h]
    exact ⟨rfl, rfl, rfl⟩
  | po =>
    have h : (assertReset .po cause source s).q.qps[q] = QueuePair.reset := hdeep
    rw [h]
    exact ⟨rfl, rfl, rfl⟩

/-- A source has asserted a reset at a level with one of some causes, and memory is as that level leaves it. -/
def Asserts (l : Level) (causes : List Byte) (s t : State) : Prop := asserted l causes t ∧ memoryAfterReset l s t

theorem assertReset_asserts (l : Level) (cause : Byte) (source : Bool) (s : State) {causes : List Byte} (h : cause ∈ causes) :
    Asserts l causes s (assertReset l cause source s) := by
  refine ⟨⟨rfl, h, rfl, (assertReset_cleared l cause source s).cur, ?_, assertReset_pair l cause source s⟩, ?_⟩
  · cases l <;> rfl
  · cases l <;> exact ⟨rfl, rfl⟩

/-- The cause that a source's reset records is one of those that R682 leaves. -/
theorem causeOf_mem_sourceCauses {l : Level} {cause : Byte} {s : State} {r : ResetRun} (h : s.rst.run = some r) :
    causeOf r l cause s ∈ sourceCauses l cause s := by
  unfold causeOf sourceCauses
  rw [h]
  dsimp only
  split_ifs <;> simp_all

theorem raiseSource_asserts (l : Level) (cause : Byte) (holds : Bool) (s : State) :
    Asserts (sourceLevel l s) (sourceCauses l cause s) s (raiseSource l cause holds s) := by
  unfold raiseSource sourceLevel
  cases h : s.rst.run with
  | none => exact assertReset_asserts l cause holds s (by simp [sourceCauses, h])
  | some r => exact assertReset_asserts (deeper r.level l) _ _ { s with freeCtr := s.freeCtr + 1 } (causeOf_mem_sourceCauses h)

/-- Neither the level nor the causes of a source look at more of the reset controller than the reset in progress and its cause. -/
theorem raiseSource_asserts_of_rst {l : Level} {cause : Byte} {holds : Bool} {s : State} {x : ResetCtl} (hrun : x.run = s.rst.run)
    (hcause : x.cause = s.rst.cause) :
    Asserts (sourceLevel l s) (sourceCauses l cause s) s (raiseSource l cause holds { s with rst := x }) := by
  have h := raiseSource_asserts l cause holds { s with rst := x }
  simpa only [sourceLevel, sourceCauses, hrun, hcause, Asserts, memoryAfterReset] using h

/-- The reset controller that raising a source leaves: nothing is pending. -/
theorem raiseSource_pending (l : Level) (cause : Byte) (holds : Bool) (s : State) :
    (raiseSource l cause holds s).rst.pending = none := by
  have hassert (l : Level) (cause : Byte) (holds : Bool) (s : State) : (assertReset l cause holds s).rst.pending = none := by
    cases l <;> rfl
  unfold raiseSource
  split <;> exact hassert _ _ _ _

theorem sourceEvent_next_of {c : Bool} {s : State} (f : State → State) (hoff : s.rst.off = false) (hc : c = true) :
    sourceEvent c f s = .next (f s) := by
  rw [hc, sourceEvent_next f hoff]

/-- Settles O53: each source is `raiseSource` or `assertReset` in a state that differs in the reset controller alone. -/
theorem resetSourcesAssert : Obligations.ResetSourcesAssert := by
  intro s
  refine ⟨fun h => ?powerOn, fun hoff => ⟨?brownOut, ?watchdog, fun hpin hwait => ?pinReset, fun hrun => ?lockUp,
    fun hrun => ?lockUpInReset, fun x hx => ?resetBegin, fun hsrc => ?clockFailureHeld, fun hsrc => ?clockFailure⟩⟩
  case powerOn =>
    have hc : (s.rst.off || s.rst.source) = true := by simpa using h
    have ha := assertReset_asserts .po 1 false
      { s with rst := { s.rst with off := false, pwrGood := true, clockGood := false, run := none } } (List.mem_singleton.mpr rfl)
    exact ⟨_, if_pos hc, ha.1, rfl, ha.2⟩
  case brownOut =>
    have hexec : exec .brownOut s = .next (raiseSource .po 2 true { s with rst := { s.rst with pwrGood := false } }) :=
      sourceEvent_next (fun s => raiseSource .po 2 true { s with rst := { s.rst with pwrGood := false } }) hoff
    exact ⟨_, hexec, raiseSource_asserts_of_rst rfl rfl⟩
  case watchdog => exact ⟨_, sourceEvent_next_of _ hoff rfl, raiseSource_asserts ..⟩
  case pinReset => exact ⟨_, sourceEvent_next_of _ hoff (by simp [hpin, hwait]), raiseSource_asserts ..⟩
  case lockUp => exact ⟨_, sourceEvent_next_of _ hoff (by simp [hrun]), raiseSource_asserts ..⟩
  case lockUpInReset => simp [exec, execLockUp, sourceEvent, hoff, Option.isNone_iff_eq_none, hrun]
  case resetBegin =>
    have hexec : exec .resetBegin s = .next (raiseSource x.1 x.2 false { s with rst := { s.rst with pending := none } }) := by
      simp only [exec, execResetBegin, hx]
      exact sourceEvent_next _ hoff
    refine ⟨⟨_, hexec, raiseSource_asserts_of_rst rfl rfl⟩, fun t ht => ?_⟩
    cases hexec.symm.trans ht
    exact raiseSource_pending ..
  case clockFailureHeld =>
    have hfail : failClock s = raiseSource .sys 7 false { s with rst := { s.rst with clockGood := false } } := if_pos hsrc
    exact ⟨_, (sourceEvent_next _ hoff).trans (congrArg _ hfail), raiseSource_asserts_of_rst rfl rfl⟩
  case clockFailure =>
    have hfail : failClock s = assertReset .sys 7 false { s with rst := { s.rst with clockGood := false } } :=
      if_neg (Bool.eq_false_iff.mp hsrc)
    have ha := assertReset_asserts .sys 7 false { s with rst := { s.rst with clockGood := false } } (List.mem_singleton.mpr rfl)
    exact ⟨_, (sourceEvent_next _ hoff).trans (congrArg _ hfail), ha.1, rfl, ha.2⟩

end Sys2Proof.Machine
end

section
/-! SUPPORT. The work of a TILE or KERNEL leaves the queues as they are, and its place in the order of starts (R162 to R165, R547). -/

namespace Sys2Proof.Machine

/-! ### Work that leaves the queues -/

/-- The queues are as they were, and so is the descriptor's place in the order of starts. -/
structure KeepsQueue (w v : Work) : Prop where
  q : v.s.q = w.s.q
  order : v.order = w.order

theorem KeepsQueue.refl (w : Work) : KeepsQueue w w := ⟨rfl, rfl⟩
theorem KeepsQueue.trans {w v x : Work} (a : KeepsQueue w v) (b : KeepsQueue v x) : KeepsQueue w x :=
  ⟨b.q.trans a.q, b.order.trans a.order⟩

/-- Work that leaves them, whether it ends OK or fails. -/
structure MKeepsQueue {α : Type} (m : M α) : Prop where
  run : ∀ w : Work, KeepsQueue w (m.run w).2

section
variable {α β : Type}

@[simp] theorem MKeepsQueue.pure (a : α) : MKeepsQueue (pure a : M α) := ⟨fun w => KeepsQueue.refl w⟩
@[simp] theorem MKeepsQueue.throw (e : Fail) : MKeepsQueue (throw e : M α) := ⟨fun w => KeepsQueue.refl w⟩
@[simp] theorem MKeepsQueue.fail (st : Status) : MKeepsQueue (fail st : M α) := MKeepsQueue.throw _
@[simp] theorem MKeepsQueue.failAt (st : Status) (a : Nat) : MKeepsQueue (failAt st a : M α) := MKeepsQueue.throw _
@[simp] theorem MKeepsQueue.hold : MKeepsQueue (hold : M α) := MKeepsQueue.throw _
@[simp] theorem MKeepsQueue.get : MKeepsQueue (get : M Work) := ⟨fun w => KeepsQueue.refl w⟩
@[simp] theorem MKeepsQueue.getS : MKeepsQueue getS := ⟨fun w => KeepsQueue.refl w⟩

/-- A change of the work's own fields or of the state that leaves them. -/
theorem MKeepsQueue.modify {f : Work → Work} (hq : ∀ w, (f w).s.q = w.s.q) (ho : ∀ w, (f w).order = w.order) :
    MKeepsQueue (modify f : M Unit) := ⟨fun w => ⟨hq w, ho w⟩⟩
theorem MKeepsQueue.modS {f : State → State} (h : ∀ s, (f s).q = s.q) : MKeepsQueue (modS f) := ⟨fun w => ⟨h w.s, rfl⟩⟩

theorem MKeepsQueue.bind {m : M α} {f : α → M β} (h : MKeepsQueue m) (k : ∀ a, MKeepsQueue (f a)) : MKeepsQueue (m >>= f) := by
  refine ⟨fun w => ?_⟩
  have hm := h.run w
  rw [M.run_bind]
  generalize m.run w = r at hm
  obtain ⟨_ | a, w'⟩ := r
  · exact hm
  · exact hm.trans ((k a).run w')

theorem MKeepsQueue.catches {m : M α} {f : Fail → M α} (h : MKeepsQueue m) (k : ∀ e, MKeepsQueue (f e)) :
    MKeepsQueue (tryCatch m f) := by
  refine ⟨fun w => ?_⟩
  have hm := h.run w
  rw [M.run_tryCatch]
  generalize m.run w = r at hm
  obtain ⟨e | a, w'⟩ := r
  · exact hm.trans ((k e).run w')
  · exact hm

theorem MKeepsQueue.discard {m : M α} (h : MKeepsQueue m) : MKeepsQueue (discard m) := by
  have hb : Functor.discard m = m >>= fun _ => Pure.pure PUnit.unit := rfl
  rw [hb]
  exact h.bind fun _ => MKeepsQueue.pure _

theorem MKeepsQueue.forM {f : α → M PUnit} (h : ∀ a, MKeepsQueue (f a)) : ∀ l : List α, MKeepsQueue (l.forM f)
  | [] => MKeepsQueue.pure _
  | a :: l => (h a).bind fun _ => MKeepsQueue.forM h l

theorem MKeepsQueue.mapM {f : α → M β} (h : ∀ a, MKeepsQueue (f a)) (l : List α) : MKeepsQueue (l.mapM f) := by
  rw [← List.mapM'_eq_mapM]
  induction l with
  | nil => exact MKeepsQueue.pure _
  | cons a l ih => exact (h a).bind fun _ => ih.bind fun _ => MKeepsQueue.pure _

theorem MKeepsQueue.ite {c : Prop} [Decidable c] {m n : M α} (h : MKeepsQueue m) (k : MKeepsQueue n) :
    MKeepsQueue (if c then m else n) := by
  split
  · exact h
  · exact k
end

/-- Folding a change that leaves the queues leaves them. -/
theorem foldl_q {α : Type} {f : State → α → State} (h : ∀ s x, (f s x).q = s.q) (l : List α) (s : State) :
    (l.foldl f s).q = s.q := by
  induction l generalizing s with
  | nil => rfl
  | cons x l ih => rw [List.foldl_cons, ih, h]

/-! ### The changes of the state that work makes -/

@[simp] theorem countCorrected_q (n loc : Nat) (s : State) : (countCorrected n loc s).q = s.q := rfl
@[simp] theorem countUncorrectable_q (n a source : Nat) (s : State) : (countUncorrectable n a source s).q = s.q :=
  (raiseAlert_sends 4 _).q
@[simp] theorem markStack_q (n : Nat) (s : State) : (markStack n s).q = s.q := by
  unfold markStack
  split <;> simp
@[simp] theorem markLine_q (a : Nat) (s : State) : (markLine a s).q = s.q := by
  unfold markLine
  split <;> simp
@[simp] theorem markRange_q (a len : Nat) (s : State) : (markRange a len s).q = s.q := foldl_q (by simp) _ s
@[simp] theorem invalidateLines_q (a len : Nat) (s : State) : (invalidateLines a len s).q = s.q := rfl
@[simp] theorem queueWr_q (owner : Option (Fin 64 × W32)) (a : Nat) (bs : List Byte) (s : State) : (queueWr owner a bs s).q = s.q :=
  (queueWr_sends owner a bs s).q
@[simp] theorem scramble_q (a len : Nat) (s : State) : (scramble a len s).q = s.q := rfl
@[simp] theorem scrambleAll_q (l : List (Nat × Nat)) (s : State) : (scrambleAll l s).q = s.q := foldl_q (by simp) l s
@[simp] theorem restoreRanges_q (l : List (Nat × List Byte)) (s : State) : (restoreRanges l s).q = s.q := foldl_q (by simp) l s
theorem sparing_q {f : State → State} (h : ∀ s, (f s).q = s.q) (l : List (Nat × Nat)) (s : State) : (sparing l f s).q = s.q := by
  simp [sparing, h]
@[simp] theorem freeCopies_q (p : StashCopy → Bool) (s : State) : (freeCopies p s).q = s.q := rfl
@[simp] theorem dropTile_q (p tRow : Nat) (s : State) : (dropTile p tRow s).q = s.q := rfl
@[simp] theorem countPanels_q (p : Fin 64) (square n : Nat) (s : State) : (countPanels p square n s).q = s.q := rfl
@[simp] theorem runStreet_q (w : Nat → Nat → Weight) (p : Fin 64) (base L : Nat) (passes : List Pass) (s : State) :
    (runStreet w p base L passes s).q = s.q := by
  unfold runStreet
  split
  · rfl
  · exact foldl_q (by simp) _ s
@[simp] theorem setJunction_q (p : Fin 64) (rows : List (List A34)) (s : State) : (setJunction p rows s).q = s.q := by
  unfold setJunction
  split <;> rfl
@[simp] theorem TileFields.useStreet_q (t : TileFields) (a b : Operand) (p : Fin 64) (street base L : Nat) (groups : List Nat)
    (s : State) : (t.useStreet a b p street base L groups s).q = s.q := by
  have hrun : ((List.range L).foldl (fun s q => countPanels p (base + q) (groups.length * t.panels * t.blocks) s)
      (runStreet (t.weight b) p base L (streetPasses groups t.panels t.blocks (loopCount L)) s)).q = s.q :=
    (foldl_q (by simp) _ _).trans (runStreet_q ..)
  unfold TileFields.useStreet
  dsimp only
  split
  · exact hrun
  · exact hrun
@[simp] theorem TileFields.useArrays_q (t : TileFields) (a b : Operand) (s : State) : (t.useArrays a b s).q = s.q := by
  refine foldl_q (fun s i => ?_) _ s
  dsimp only
  split
  · simp
  · exact (setJunction_q ..).trans (foldl_q (by simp) _ s)
@[simp] theorem TileFields.takeSplit_q (t : TileFields) (s : State) : (t.takeSplit s).q = s.q := foldl_q (by simp) _ s
@[simp] theorem countRows_q (l : List (UnitId × Nat)) (s : State) : (countRows l s).q = s.q := foldl_q (by simp) l s

@[simp] theorem Work.keep_q (a : Nat) (bs : List Byte) (w : Work) : (w.keep a bs).s.q = w.s.q := rfl
@[simp] theorem Work.keep_order (a : Nat) (bs : List Byte) (w : Work) : (w.keep a bs).order = w.order := rfl

/-! ### Reads and writes

Each of these is a chain of parts already shown to leave the queues: the proof takes the chain apart and `simp` closes the parts. -/

@[simp] theorem noteRead_keepsQueue (a len : Nat) : MKeepsQueue (noteRead a len) :=
  MKeepsQueue.modify (fun w => by split <;> rfl) fun w => by split <;> rfl
@[simp] theorem noteWrite_keepsQueue (a len : Nat) : MKeepsQueue (noteWrite a len) :=
  MKeepsQueue.modify (fun w => by split <;> rfl) fun w => by split <;> rfl
@[simp] theorem setInfo_keepsQueue (l : List Byte) : MKeepsQueue (setInfo l) := MKeepsQueue.modify (fun _ => rfl) fun _ => rfl
@[simp] theorem orExc_keepsQueue (e : W16) : MKeepsQueue (orExc e) := MKeepsQueue.modify (fun _ => rfl) fun _ => rfl
@[simp] theorem holdRanges_keepsQueue (l : List (Nat × Nat)) : MKeepsQueue (holdRanges l) :=
  MKeepsQueue.modify (fun _ => rfl) fun _ => rfl
@[simp] theorem useUnits_keepsQueue (us : List UnitId) : MKeepsQueue (useUnits us) :=
  MKeepsQueue.modify (fun w => foldl_q (fun s u => by split <;> simp) us w.s) fun _ => rfl
@[simp] theorem holdIf_keepsQueue (c : Bool) : MKeepsQueue (holdIf c) := MKeepsQueue.hold.ite (MKeepsQueue.pure _)
@[simp] theorem need_keepsQueue (c : Bool) (st : Status) : MKeepsQueue (need c st) := (MKeepsQueue.pure _).ite (MKeepsQueue.fail st)
@[simp] theorem needDesc_keepsQueue (c : Bool) : MKeepsQueue (needDesc c) := need_keepsQueue c _

@[simp] theorem touch_keepsQueue (a : Nat) : MKeepsQueue (touch a) := by
  unfold touch
  repeat' (first | with_reducible apply MKeepsQueue.bind | with_reducible apply MKeepsQueue.modS | intro _ | split | simp)

@[simp] theorem needLines_keepsQueue (a len : Nat) : MKeepsQueue (needLines a len) := by
  unfold needLines
  repeat' (first | with_reducible apply MKeepsQueue.bind | with_reducible apply MKeepsQueue.modify | intro _ | split | simp)

@[simp] theorem touchRange_keepsQueue (a len : Nat) : MKeepsQueue (touchRange a len) := by
  unfold touchRange
  repeat' (first | with_reducible apply MKeepsQueue.bind | with_reducible apply MKeepsQueue.forM | intro _ | split | simp)

@[simp] theorem fetchBytes_keepsQueue (a len : Nat) : MKeepsQueue (fetchBytes a len) := by
  unfold fetchBytes
  repeat' (first | with_reducible apply MKeepsQueue.bind | intro _ | simp)

@[simp] theorem readSerial_keepsQueue (a len : Nat) : MKeepsQueue (readSerial a len) := by
  unfold readSerial
  repeat' (first | with_reducible apply MKeepsQueue.bind | with_reducible apply MKeepsQueue.modify | simp)

@[simp] theorem readBytes_keepsQueue (a len : Nat) : MKeepsQueue (readBytes a len) := by
  unfold readBytes
  repeat' (first | with_reducible apply MKeepsQueue.bind | simp)

@[simp] theorem readU_keepsQueue (n a : Nat) : MKeepsQueue (readU n a) := by
  unfold readU
  repeat' (first | with_reducible apply MKeepsQueue.bind | simp)

@[simp] theorem readU8_keepsQueue (a : Nat) : MKeepsQueue (readU8 a) := by
  unfold readU8
  simp

@[simp] theorem readU32_keepsQueue (a : Nat) : MKeepsQueue (readU32 a) := by
  unfold readU32
  simp

@[simp] theorem readU64_keepsQueue (a : Nat) : MKeepsQueue (readU64 a) := by
  unfold readU64
  repeat' (first | with_reducible apply MKeepsQueue.bind | simp)

@[simp] theorem writeCodeword_keepsQueue (source base : Nat) (bs : List Byte) (lo hi : Nat) :
    MKeepsQueue (writeCodeword source base bs lo hi) := by
  unfold writeCodeword
  repeat' (first | with_reducible apply MKeepsQueue.bind | with_reducible apply MKeepsQueue.modS | intro _ | dsimp only | split | simp)

@[simp] theorem storeFrom_keepsQueue (source a : Nat) (bs : List Byte) : MKeepsQueue (storeFrom source a bs) := by
  unfold storeFrom
  repeat' (first | with_reducible apply MKeepsQueue.bind | with_reducible apply MKeepsQueue.mapM | intro _ | split | simp)

@[simp] theorem storeBytes_keepsQueue (a : Nat) (bs : List Byte) : MKeepsQueue (storeBytes a bs) := by
  unfold storeBytes
  repeat' (first | with_reducible apply MKeepsQueue.bind | with_reducible apply MKeepsQueue.modS | intro _ | split | simp)

@[simp] theorem refuseProtected_keepsQueue (x : Nat) : MKeepsQueue (refuseProtected x) := by
  unfold refuseProtected
  repeat' (first | with_reducible apply MKeepsQueue.bind | with_reducible apply MKeepsQueue.modS | simp)

@[simp] theorem writeSerial_keepsQueue (a : Nat) (bs : List Byte) : MKeepsQueue (writeSerial a bs) := by
  unfold writeSerial
  repeat' (first
    | with_reducible apply MKeepsQueue.bind | with_reducible apply MKeepsQueue.modS | with_reducible apply MKeepsQueue.modify | intro _
    | split | simp)

@[simp] theorem writeBeside_keepsQueue (a : Nat) (bs : List Byte) : MKeepsQueue (writeBeside a bs) := by
  unfold writeBeside
  repeat' (first
    | with_reducible apply MKeepsQueue.bind | with_reducible apply MKeepsQueue.modS | with_reducible apply MKeepsQueue.modify | intro _
    | split | simp)

@[simp] theorem writeBytes_keepsQueue (a : Nat) (bs : List Byte) : MKeepsQueue (writeBytes a bs) := by
  unfold writeBytes
  repeat' (first | with_reducible apply MKeepsQueue.bind | simp)

@[simp] theorem needMapped_keepsQueue (a len : Nat) : MKeepsQueue (needMapped a len) := by
  unfold needMapped
  repeat' (first | with_reducible apply MKeepsQueue.bind | intro _ | split | simp)

@[simp] theorem needInStacks_keepsQueue (a len : Nat) : MKeepsQueue (needInStacks a len) := by
  unfold needInStacks
  repeat' (first | with_reducible apply MKeepsQueue.bind | simp)

@[simp] theorem needBacked_keepsQueue (a len : Nat) : MKeepsQueue (needBacked a len) := by
  unfold needBacked
  repeat' (first | with_reducible apply MKeepsQueue.bind | intro _ | split | simp)

@[simp] theorem needWritable_keepsQueue (a len : Nat) : MKeepsQueue (needWritable a len) := by
  unfold needWritable
  repeat' (first | with_reducible apply MKeepsQueue.bind | intro _ | split | simp)

@[simp] theorem freeBlock_keepsQueue (n : Nat) : MKeepsQueue (freeBlock n) := ⟨fun _ => ⟨rfl, rfl⟩⟩

/-! ### Work under other circumstances -/

theorem spoil_keepsQueue {f : State → State} (h : ∀ s, (f s).q = s.q) : MKeepsQueue (spoil f) :=
  MKeepsQueue.modify (fun w => sparing_q h _ w.s) fun _ => rfl

/-- The work's own fields change, and the queues stay. -/
theorem modify_keepsQueue {f : Work → Work} (h : ∀ w, KeepsQueue w (f w)) : MKeepsQueue (modify f : M Unit) :=
  MKeepsQueue.modify (fun w => (h w).q) fun w => (h w).order

theorem inTurn_keepsQueue {α : Type} {m : M α} (k : Nat) (h : MKeepsQueue m) : MKeepsQueue (inTurn k m) := by
  unfold inTurn
  refine MKeepsQueue.get.bind fun _ => MKeepsQueue.bind (modify_keepsQueue fun _ => ⟨rfl, rfl⟩) fun _ => h.bind fun _ => ?_
  exact MKeepsQueue.bind (modify_keepsQueue fun _ => ⟨rfl, rfl⟩) fun _ => MKeepsQueue.pure _

theorem orScramble_keepsQueue {α : Type} {m : M α} (outs : List (Nat × Nat)) (h : MKeepsQueue m) : MKeepsQueue (orScramble outs m) := by
  refine h.catches fun _ => ?_
  split
  · exact (spoil_keepsQueue (scrambleAll_q outs)).bind fun _ => MKeepsQueue.throw _
  · exact MKeepsQueue.throw _

theorem orNone_keepsQueue {α : Type} {m : M (List α)} (h : MKeepsQueue m) : MKeepsQueue (orNone m) :=
  h.catches fun e => (MKeepsQueue.throw e).ite (MKeepsQueue.pure _)

/-- What `how` finds out leaves the queues when it is done. -/
structure SpoilsKeepQueue (how : M (State → State)) : Prop where
  of : ∀ (w : Work) (f : State → State), (how.run w).1 = .ok f → ∀ s, (f s).q = s.q

theorem SpoilsKeepQueue.pure {f : State → State} (h : ∀ s, (f s).q = s.q) : SpoilsKeepQueue (pure f) :=
  ⟨fun _ _ e => by cases e; exact h⟩

theorem SpoilsKeepQueue.bind {α : Type} {m : M α} {k : α → M (State → State)} (h : ∀ a, SpoilsKeepQueue (k a)) :
    SpoilsKeepQueue (m >>= k) := by
  refine ⟨fun w f e => ?_⟩
  rw [M.run_bind] at e
  generalize m.run w = r at e
  obtain ⟨_ | a, w'⟩ := r
  · cases e
  · exact (h a).of w' f e

theorem orUnreadBy_keepsQueue {α : Type} {how : M (State → State)} {m : M α} (hs : SpoilsKeepQueue how) (h : MKeepsQueue m) :
    MKeepsQueue (orUnreadBy how m) := by
  refine h.catches fun e => ?_
  dsimp only
  split
  · refine (spoil_keepsQueue fun s => ?_).bind fun _ => MKeepsQueue.throw _
    split
    · rename_i f hf
      exact hs.of _ f hf s
    · rfl
  · exact MKeepsQueue.throw _

theorem orUnread_keepsQueue {α : Type} {outs : M (List (Nat × Nat))} {m : M α} (h : MKeepsQueue m) : MKeepsQueue (orUnread outs m) :=
  orUnreadBy_keepsQueue (SpoilsKeepQueue.bind fun l => SpoilsKeepQueue.pure (scrambleAll_q l)) h

theorem thenAlways_keepsQueue {α : Type} {m : M α} {after : M Unit} (h : MKeepsQueue m) (k : MKeepsQueue after) :
    MKeepsQueue (thenAlways m after) :=
  (h.catches fun _ => k.bind fun _ => MKeepsQueue.throw _).bind fun _ => k.bind fun _ => MKeepsQueue.pure _

theorem holding_keepsQueue {m : M Unit} (l : List (Nat × List Byte)) (h : MKeepsQueue m) : MKeepsQueue (holding l m) := by
  unfold holding
  refine MKeepsQueue.get.bind fun _ => MKeepsQueue.bind (modify_keepsQueue fun _ => ⟨rfl, rfl⟩) fun _ => thenAlways_keepsQueue ?_ ?_
  · exact h.bind fun _ => MKeepsQueue.get.bind fun _ => MKeepsQueue.pure _
  · exact modify_keepsQueue fun _ => ⟨rfl, rfl⟩

theorem underDefaults_keepsQueue {α : Type} {m : M α} (x : Defaults) (h : MKeepsQueue m) : MKeepsQueue (underDefaults x m) := by
  refine MKeepsQueue.getS.bind fun _ => MKeepsQueue.bind (MKeepsQueue.modS fun _ => ?_) fun _ =>
    thenAlways_keepsQueue h (MKeepsQueue.modS fun _ => ?_)
  · rfl
  · rfl

/-! ### Operands -/

@[simp] theorem needPlazas_keepsQueue (first n : Nat) : MKeepsQueue (needPlazas first n) := by
  unfold needPlazas
  repeat' (first | with_reducible apply MKeepsQueue.bind | simp)

@[simp] theorem awaitPlazas_keepsQueue (first n : Nat) : MKeepsQueue (awaitPlazas first n) := by
  unfold awaitPlazas
  repeat' (first | with_reducible apply MKeepsQueue.bind | simp)

@[simp] theorem inStartOrder_keepsQueue (d : Desc) : MKeepsQueue (inStartOrder d) := by
  unfold inStartOrder
  repeat' (first | with_reducible apply MKeepsQueue.bind | simp)

@[simp] theorem getTRec_keepsQueue (a : Nat) : MKeepsQueue (getTRec a) := by
  unfold getTRec
  repeat' (first | with_reducible apply MKeepsQueue.bind | intro _ | split | simp)

@[simp] theorem readRanges_keepsQueue (l : List (Nat × Nat)) : MKeepsQueue (readRanges l) := by
  unfold readRanges
  repeat' (first | with_reducible apply MKeepsQueue.bind | with_reducible apply MKeepsQueue.forM | intro _ | simp)

@[simp] theorem openRec_keepsQueue (t : TRec) (R C : Nat) : MKeepsQueue (openRec t R C) := by
  unfold openRec
  repeat' (first | with_reducible apply MKeepsQueue.bind | intro _ | simp)

@[simp] theorem codedW_keepsQueue (a : Nat) : MKeepsQueue (codedW a) := by
  unfold codedW
  repeat' (first | with_reducible apply MKeepsQueue.bind | intro _ | simp)

@[simp] theorem codedOffset_keepsQueue (data : Nat) : ∀ k off : Nat, MKeepsQueue (codedOffset data k off)
  | 0, _ => MKeepsQueue.pure _
  | k + 1, _ => (codedW_keepsQueue _).bind fun _ => codedOffset_keepsQueue data k _

@[simp] theorem checkCoded_keepsQueue (t : TRec) : MKeepsQueue (checkCoded t) := by
  unfold checkCoded
  repeat' (first | with_reducible apply MKeepsQueue.bind | intro _ | split | simp)

@[simp] theorem codedBlock_keepsQueue (t : TRec) (b : Nat) : MKeepsQueue (codedBlock t b) := by
  unfold codedBlock
  repeat' (first | with_reducible apply MKeepsQueue.bind | intro _ | split | simp)

@[simp] theorem blockOf_keepsQueue (t : TRec) (b : Nat) : MKeepsQueue (blockOf t b) := by
  unfold blockOf
  repeat' (first | with_reducible apply MKeepsQueue.bind | intro _ | split | simp)

@[simp] theorem openAny_keepsQueue (t : TRec) (R C : Nat) : MKeepsQueue (openAny t R C) := by
  unfold openAny
  repeat' (first
    | with_reducible apply MKeepsQueue.bind | with_reducible apply MKeepsQueue.mapM | with_reducible apply MKeepsQueue.discard | intro _
    | split | simp)

@[simp] theorem getPairHead_keepsQueue (a : Nat) : MKeepsQueue (getPairHead a) := by
  unfold getPairHead
  repeat' (first | with_reducible apply MKeepsQueue.bind | intro _ | simp)

@[simp] theorem promotePair_keepsQueue (h : PairHead) (r0 r1 : TRec) : MKeepsQueue (promotePair h r0 r1) := by
  unfold promotePair
  repeat' (first | with_reducible apply MKeepsQueue.bind | intro _ | split | simp)

@[simp] theorem getPair_keepsQueue (a : Nat) : MKeepsQueue (getPair a) := by
  unfold getPair
  repeat' (first | with_reducible apply MKeepsQueue.bind | intro _ | simp)

@[simp] theorem getDelta_keepsQueue (a : Nat) : MKeepsQueue (getDelta a) := by
  unfold getDelta
  repeat' (first | with_reducible apply MKeepsQueue.bind | intro _ | simp)

@[simp] theorem deltaWalk_keepsQueue (f : Fmt) (k a : Nat) : MKeepsQueue (deltaWalk f k a) := by
  induction k generalizing a with
  | zero => exact MKeepsQueue.pure _
  | succ k ih =>
    refine (readU8_keepsQueue _).bind fun b => ?_
    split
    · exact ih _
    · exact MKeepsQueue.fail _

@[simp] theorem deltaGroup_keepsQueue (d : Delta) (g cur : Nat) : MKeepsQueue (deltaGroup d g cur) := by
  unfold deltaGroup
  repeat' (first | with_reducible apply MKeepsQueue.bind | intro _ | simp)

@[simp] theorem deltaGroups_keepsQueue (d : Delta) : ∀ n g cur : Nat, MKeepsQueue (deltaGroups d n g cur)
  | 0, _, _ => (needDesc_keepsQueue _).bind fun _ => MKeepsQueue.pure _
  | n + 1, _, _ => (deltaGroup_keepsQueue _ _ _).bind fun _ => (deltaGroups_keepsQueue d n _ _).bind fun _ => MKeepsQueue.pure _

@[simp] theorem deltaBlock_keepsQueue (d : Delta) (x : W64 × Nat) (b : Nat) : MKeepsQueue (deltaBlock d x b) := by
  unfold deltaBlock
  repeat' (first | with_reducible apply MKeepsQueue.bind | intro _ | split | simp)

@[simp] theorem openDelta_keepsQueue (d : Delta) (R C : Nat) : MKeepsQueue (openDelta d R C) := by
  unfold openDelta
  repeat' (first
    | with_reducible apply MKeepsQueue.bind | with_reducible apply MKeepsQueue.mapM | with_reducible apply MKeepsQueue.discard | intro _
    | split | simp)

@[simp] theorem noteSat_keepsQueue (sat : Bool) : MKeepsQueue (noteSat sat) := by
  unfold noteSat
  repeat' (first | split | simp)

@[simp] theorem noteValues_keepsQueue (m : OutMode) (l : List Num) : MKeepsQueue (noteValues m l) := by
  unfold noteValues
  repeat' (first | split | simp)

@[simp] theorem writeBlock_keepsQueue (t : TRec) (m : OutMode) (b : Nat) (ps : List (Option (Nat × Nat))) (w : Nat → Nat → Num) :
    MKeepsQueue (writeBlock t m b ps w) := by
  unfold writeBlock
  repeat' (first | with_reducible apply MKeepsQueue.bind | intro _ | simp)

@[simp] theorem writeTensor_keepsQueue (t : TRec) (m : OutMode) (R C : Nat) (w : Nat → Nat → Num) :
    MKeepsQueue (writeTensor t m R C w) := by
  unfold writeTensor
  repeat' (first | with_reducible apply MKeepsQueue.bind | with_reducible apply MKeepsQueue.mapM | intro _ | split | simp)

@[simp] theorem getEntry_keepsQueue (a : Nat) : MKeepsQueue (getEntry a) := by
  unfold getEntry
  repeat' (first | with_reducible apply MKeepsQueue.bind | intro _ | simp)

@[simp] theorem writeEntry_keepsQueue (e : Entry) (copy state readsDone : Nat) : MKeepsQueue (writeEntry e copy state readsDone) := by
  unfold writeEntry
  repeat' (first | with_reducible apply MKeepsQueue.bind | simp)

@[simp] theorem recPlanes_keepsQueue (t : TRec) : MKeepsQueue (recPlanes t) := by
  unfold recPlanes
  repeat' (first | with_reducible apply MKeepsQueue.bind | intro _ | simp)

@[simp] theorem convertedRec_keepsQueue (e : Entry) : MKeepsQueue (convertedRec e) := by
  unfold convertedRec
  repeat' (first | with_reducible apply MKeepsQueue.bind | intro _ | split | simp)

@[simp] theorem copyReads_keepsQueue (c : StashCopy) : MKeepsQueue (copyReads c) := by
  unfold copyReads
  repeat' (first | with_reducible apply MKeepsQueue.bind | simp)

@[simp] theorem dropUnit_keepsQueue (u : Nat) : MKeepsQueue (dropUnit u) := by
  unfold dropUnit
  repeat' (first
    | with_reducible apply MKeepsQueue.bind | with_reducible apply MKeepsQueue.modS | with_reducible apply MKeepsQueue.forM | intro _
    | simp)

@[simp] theorem reclaim_keepsQueue (n : Nat) (l : List StashUnit) : MKeepsQueue (reclaim n l) := by
  induction l with
  | nil => exact MKeepsQueue.pure _
  | cons u l ih =>
    exact MKeepsQueue.getS.bind fun _ => (MKeepsQueue.pure _).ite (((dropUnit_keepsQueue _).bind fun _ => ih).ite ih)

@[simp] theorem writeCopy_keepsQueue (grans : List Nat) (bs : List Byte) : MKeepsQueue (writeCopy grans bs) := by
  unfold writeCopy
  repeat' (first | with_reducible apply MKeepsQueue.forM | simp)

@[simp] theorem readCopy_keepsQueue (grans : List Nat) (n : Nat) : MKeepsQueue (readCopy grans n) := by
  unfold readCopy
  repeat' (first | with_reducible apply MKeepsQueue.bind | with_reducible apply MKeepsQueue.mapM | simp)

@[simp] theorem keepCopy_keepsQueue (e : Entry) (elem scale : List Byte) : MKeepsQueue (keepCopy e elem scale) := by
  unfold keepCopy
  repeat' (first | with_reducible apply MKeepsQueue.bind | with_reducible apply MKeepsQueue.modS | intro _ | simp)

@[simp] theorem firstInner_keepsQueue (e : Entry) : MKeepsQueue (firstInner e) := by
  unfold firstInner
  repeat' (first | with_reducible apply MKeepsQueue.bind | with_reducible apply MKeepsQueue.modS | intro _ | split | simp)

@[simp] theorem keepMade_keepsQueue (e : Entry) (c : List Byte × List Byte × Bool) : MKeepsQueue (keepMade e c) := by
  unfold keepMade
  repeat' (first | with_reducible apply MKeepsQueue.bind | simp)

@[simp] theorem capture_keepsQueue (e : Entry) : MKeepsQueue (capture e) := by
  unfold capture
  repeat' (first | with_reducible apply MKeepsQueue.bind | with_reducible apply MKeepsQueue.modS | intro _ | split | simp)

@[simp] theorem openCopy_keepsQueue (e : Entry) : MKeepsQueue (openCopy e) := by
  unfold openCopy
  repeat' (first | with_reducible apply MKeepsQueue.bind | intro _ | split | simp)

@[simp] theorem openEntry_keepsQueue (e0 : Entry) : MKeepsQueue (openEntry e0) := by
  unfold openEntry
  repeat' (first | with_reducible apply MKeepsQueue.bind | with_reducible apply MKeepsQueue.modS | intro _ | split | simp)

@[simp] theorem getIn_keepsQueue (a : Nat) (deltaOk codedOk : Bool) : MKeepsQueue (getIn a deltaOk codedOk) := by
  unfold getIn
  repeat' (first | with_reducible apply MKeepsQueue.bind | intro _ | split | simp)

@[simp] theorem InSlot.openR_keepsQueue (i : InSlot) (R C : Nat) : MKeepsQueue (InSlot.openR i R C) := by
  unfold InSlot.openR
  repeat' (first | split | simp)

@[simp] theorem needReadable_keepsQueue : ∀ (seen : List Nat) (l : List InSlot), MKeepsQueue (needReadable seen l)
  | _, [] => MKeepsQueue.pure _
  | _, .entry _ :: l => (getEntry_keepsQueue _).bind fun _ => (needDesc_keepsQueue _).bind fun _ => needReadable_keepsQueue _ l
  | seen, .tensor _ :: l => needReadable_keepsQueue seen l
  | seen, .delta _ :: l => needReadable_keepsQueue seen l

@[simp] theorem getOut_keepsQueue (a : Nat) : MKeepsQueue (getOut a) := by
  unfold getOut
  repeat' (first | with_reducible apply MKeepsQueue.bind | intro _ | dsimp only | split | simp)

@[simp] theorem OutSlot.captured_keepsQueue (o : OutSlot) : MKeepsQueue (OutSlot.captured o) := by
  unfold OutSlot.captured
  repeat' (first | split | simp)

@[simp] theorem captureAll_keepsQueue (l : List OutSlot) : MKeepsQueue (captureAll l) := by
  refine MKeepsQueue.bind (MKeepsQueue.mapM (fun o => MKeepsQueue.catches ?_ fun e => ?_) l) fun _ => ?_
  · exact (OutSlot.captured_keepsQueue o).bind fun _ => MKeepsQueue.pure _
  · exact (MKeepsQueue.pure _).ite (MKeepsQueue.throw e)
  · exact (MKeepsQueue.fail _).ite (MKeepsQueue.pure _)

@[simp] theorem needEntryTurn_keepsQueue (names : Bool) : MKeepsQueue (needEntryTurn names) := by
  unfold needEntryTurn
  repeat' (first | with_reducible apply MKeepsQueue.bind | simp)

@[simp] theorem needStash_keepsQueue (names : Bool) : MKeepsQueue (needStash names) := by
  unfold needStash
  repeat' (first | with_reducible apply MKeepsQueue.bind | simp)

@[simp] theorem countSkip_keepsQueue : MKeepsQueue countSkip := MKeepsQueue.modS fun _ => rfl

@[simp] theorem needOutBacked_keepsQueue (l : List (Nat × Nat)) : MKeepsQueue (needOutBacked l) := by
  unfold needOutBacked
  repeat' (first | with_reducible apply MKeepsQueue.forM | simp)

@[simp] theorem needOutWritable_keepsQueue (l : List (Nat × Nat)) : MKeepsQueue (needOutWritable l) := by
  unfold needOutWritable
  repeat' (first | with_reducible apply MKeepsQueue.forM | simp)

/-! ### Tiles -/

@[simp] theorem tileSlots_keepsQueue (t : TileFields) : MKeepsQueue (tileSlots t) := by
  unfold tileSlots
  repeat' (first | with_reducible apply MKeepsQueue.bind | intro _ | split | simp)

@[simp] theorem drain_keepsQueue (t : TileFields) (seed : Nat) (y : OutSlot) (f : F32) (v : Nat → Nat → A34) :
    MKeepsQueue (drain t seed y f v) := by
  unfold drain
  repeat' (first
    | with_reducible apply MKeepsQueue.bind | with_reducible apply MKeepsQueue.forM | with_reducible apply MKeepsQueue.discard | intro _
    | split | simp)

@[simp] theorem TileFields.start_keepsQueue (t : TileFields) : MKeepsQueue (TileFields.start t) := by
  unfold TileFields.start
  repeat' (first | with_reducible apply MKeepsQueue.bind | with_reducible apply MKeepsQueue.modS | intro _ | simp)

@[simp] theorem openTile_keepsQueue (t : TileFields) (x : TileSlots) : MKeepsQueue (openTile t x) := by
  unfold openTile
  repeat' (first | with_reducible apply MKeepsQueue.bind | intro _ | split | simp)

@[simp] theorem plainWork_keepsQueue (t : TileFields) (x : TileSlots) : MKeepsQueue (plainWork t x) := by
  unfold plainWork
  repeat' (first | with_reducible apply MKeepsQueue.bind | with_reducible apply MKeepsQueue.modS | intro _ | split | simp)

@[simp] theorem addPanel_keepsQueue (t : TileFields) (a b : Operand) (x : OpenTile) (i : Nat) : MKeepsQueue (addPanel t a b x i) := by
  refine MKeepsQueue.getS.bind fun _ => MKeepsQueue.bind (MKeepsQueue.modS fun s => ?_) fun _ => MKeepsQueue.pure _
  exact foldl_q (fun s _ => foldl_q (fun _ _ => terrSet_q _ _ _ _ _) _ s) _ s

@[simp] theorem addPanels_keepsQueue (t : TileFields) (a b : Operand) :
    ∀ (n i : Nat) (x : OpenTile) (e : W16) (f : Option FirstInvalid), MKeepsQueue (addPanels t a b n i x e f)
  | 0, _, _, _, _ => MKeepsQueue.pure _
  | n + 1, i, x, _, _ => (addPanel_keepsQueue t a b x i).bind fun _ => addPanels_keepsQueue t a b n (i + 1) _ _ _

@[simp] theorem closeTile_keepsQueue (t : TileFields) (seed : Nat) (x : OpenTile) (y : OutSlot) : MKeepsQueue (closeTile t seed x y) := by
  unfold closeTile
  repeat' (first | with_reducible apply MKeepsQueue.bind | with_reducible apply MKeepsQueue.modS | intro _ | simp)

@[simp] theorem terraceWork_keepsQueue (t : TileFields) (x : TileSlots) : MKeepsQueue (terraceWork t x) := by
  unfold terraceWork
  repeat' (first
    | with_reducible apply MKeepsQueue.bind | with_reducible apply MKeepsQueue.modS | with_reducible apply MKeepsQueue.catches | intro _
    | split | simp)

@[simp] theorem tileRest_keepsQueue (s : State) (d : Desc) (t : TileFields) (x : TileSlots) : MKeepsQueue (tileRest s d t x) := by
  unfold tileRest
  repeat' (first | with_reducible apply MKeepsQueue.bind | simp)

@[simp] theorem tileChecks_keepsQueue (d : Desc) : MKeepsQueue (tileChecks d) := by
  unfold tileChecks
  repeat' (first | with_reducible apply MKeepsQueue.bind | intro _ | simp)

@[simp] theorem tileReach_keepsQueue (t : TileFields) : MKeepsQueue (tileReach t) := by
  unfold tileReach
  repeat' (first | with_reducible apply MKeepsQueue.bind | split | simp)

theorem orClose_keepsQueue {α : Type} {m : M α} (t : TileFields) (h : MKeepsQueue m) : MKeepsQueue (orClose t m) := by
  refine h.catches fun _ => ?_
  split
  · exact (MKeepsQueue.modS (dropTile_q _ _)).bind fun _ => MKeepsQueue.throw _
  · exact MKeepsQueue.throw _

@[simp] theorem tileWork_keepsQueue (d : Desc) (x : TileSlots) : MKeepsQueue (tileWork d x) := by
  unfold tileWork
  repeat' (first | with_reducible apply MKeepsQueue.bind | with_reducible apply orScramble_keepsQueue | split | simp)

@[simp] theorem tileReadable_keepsQueue (t : TileFields) (x : TileSlots) : MKeepsQueue (tileReadable t x) := by
  unfold tileReadable
  repeat' (first | split | simp)

/-! ### Kernels -/

@[simp] theorem kernelSlot_keepsQueue (f : KernelFields) (k : KSpec) (n : Nat) : MKeepsQueue (kernelSlot f k n) := by
  unfold kernelSlot
  repeat' (first | with_reducible apply MKeepsQueue.bind | intro _ | split | simp)

@[simp] theorem kernelSlots_keepsQueue (d : Desc) (paired : Bool) : MKeepsQueue (kernelSlots d paired) := by
  unfold kernelSlots
  repeat' (first | with_reducible apply MKeepsQueue.bind | with_reducible apply MKeepsQueue.mapM | intro _ | dsimp only | split | simp)

@[simp] theorem kernelRest_keepsQueue (r : KReady) : MKeepsQueue (kernelRest r) := by
  unfold kernelRest
  repeat' (first | with_reducible apply MKeepsQueue.bind | simp)

@[simp] theorem kernelReach_keepsQueue (d : Desc) : MKeepsQueue (kernelReach d) := by
  unfold kernelReach
  repeat' (first
    | with_reducible apply MKeepsQueue.bind | with_reducible apply MKeepsQueue.mapM | with_reducible apply orNone_keepsQueue | intro _
    | dsimp only | split | simp)

@[simp] theorem kernelOpen_keepsQueue (r : KReady) (n : Nat) (lastPos : Nat) : MKeepsQueue (kernelOpen r n lastPos) := by
  unfold kernelOpen
  repeat' (first | with_reducible apply MKeepsQueue.bind | with_reducible apply inTurn_keepsQueue | dsimp only | split | simp)

@[simp] theorem kernelWrite_keepsQueue (r : KReady) (seed : Nat) (o : Nat × KSlot × OutSlot × TRec) (v : List (List F32)) :
    MKeepsQueue (kernelWrite r seed o v) := by
  unfold kernelWrite
  repeat' (first | with_reducible apply MKeepsQueue.bind | with_reducible apply inTurn_keepsQueue | intro _ | dsimp only | split | simp)

@[simp] theorem kernelWriteAll_keepsQueue (r : KReady) (seed : Nat) (res : KRes) :
    ∀ (l : List (Nat × KSlot × OutSlot × TRec)) (e : W16) (fi : Option FirstInvalid), MKeepsQueue (kernelWriteAll r seed res l e fi)
  | [], _, _ => MKeepsQueue.pure _
  | _ :: l, _, _ => (kernelWrite_keepsQueue _ _ _ _).bind fun _ => (setInfo_keepsQueue _).bind fun _ =>
      kernelWriteAll_keepsQueue r seed res l _ _

@[simp] theorem kernelCompute_keepsQueue (r : KReady) : MKeepsQueue (kernelCompute r) := by
  unfold kernelCompute
  repeat' (first | with_reducible apply MKeepsQueue.bind | with_reducible apply MKeepsQueue.mapM | intro _ | split | simp)

@[simp] theorem useKiosks_keepsQueue (first n rows : Nat) : MKeepsQueue (useKiosks first n rows) := by
  unfold useKiosks
  repeat' (first | with_reducible apply MKeepsQueue.bind | with_reducible apply MKeepsQueue.modify | intro _ | simp)

@[simp] theorem kernelReadable_keepsQueue (r : KReady) : MKeepsQueue (kernelReadable r) := by
  unfold kernelReadable
  repeat' (first | split | simp)

@[simp] theorem kernelWork_keepsQueue (d : Desc) (r : KReady) : MKeepsQueue (kernelWork d r) := by
  unfold kernelWork
  repeat' (first
    | with_reducible apply MKeepsQueue.bind | with_reducible apply MKeepsQueue.modS | with_reducible apply orScramble_keepsQueue
    | with_reducible apply inTurn_keepsQueue | intro _ | split | simp)

/-! ### Fused pairs -/

@[simp] theorem slotWord_keepsQueue (f : KernelFields) (n : Nat) : MKeepsQueue (slotWord f n) := by
  unfold slotWord
  repeat' (first | with_reducible apply MKeepsQueue.bind | simp)

@[simp] theorem fusedOk_keepsQueue (k : KReady) (t : TileFields) (out : List (Nat × Nat)) : MKeepsQueue (fusedOk k t out) := by
  unfold fusedOk
  repeat' (first | with_reducible apply MKeepsQueue.bind | intro _ | dsimp only | split | simp)

@[simp] theorem halfReach_keepsQueue (d : Desc) : MKeepsQueue (halfReach d) := by
  unfold halfReach
  repeat' (first | split | simp)

theorem orCloseHalf_keepsQueue {α : Type} {m : M α} (d : Desc) (h : MKeepsQueue m) : MKeepsQueue (orCloseHalf d m) :=
  (orClose_keepsQueue _ h).ite h

@[simp] theorem unkept_keepsQueue (d1 d2 : Desc) : MKeepsQueue (unkept d1 d2) := by
  unfold unkept
  repeat' (first | with_reducible apply MKeepsQueue.bind | with_reducible apply orNone_keepsQueue | intro _ | split | simp)

theorem halfChecks_keepsQueue {α : Type} {m : M α} (d1 d2 d : Desc) (h : MKeepsQueue m) : MKeepsQueue (halfChecks d1 d2 d m) :=
  orUnreadBy_keepsQueue
    (SpoilsKeepQueue.bind fun _ => SpoilsKeepQueue.bind fun _ => SpoilsKeepQueue.pure (sparing_q (scrambleAll_q _) _))
    (orCloseHalf_keepsQueue d h)

@[simp] theorem preChecks_keepsQueue (kd td : Desc) : MKeepsQueue (preChecks kd td) := by
  unfold preChecks
  repeat' (first | with_reducible apply MKeepsQueue.bind | with_reducible apply halfChecks_keepsQueue | intro _ | simp)

@[simp] theorem postChecks_keepsQueue (td kd : Desc) : MKeepsQueue (postChecks td kd) := by
  unfold postChecks
  repeat' (first | with_reducible apply MKeepsQueue.bind | with_reducible apply halfChecks_keepsQueue | intro _ | simp)

@[simp] theorem fusedChecks_keepsQueue (d1 d2 : Desc) : MKeepsQueue (fusedChecks d1 d2) := by
  unfold fusedChecks
  repeat' (first | with_reducible apply MKeepsQueue.bind | intro _ | split | simp)

@[simp] theorem tileHalf_keepsQueue (d : Desc) (x : TileSlots) : MKeepsQueue (tileHalf d x) := by
  unfold tileHalf
  repeat' (first | with_reducible apply MKeepsQueue.bind | simp)

@[simp] theorem kernelHalf_keepsQueue (d : Desc) (r : KReady) : MKeepsQueue (kernelHalf d r) := by
  unfold kernelHalf
  repeat' (first | with_reducible apply MKeepsQueue.bind | simp)

@[simp] theorem firstHalf_keepsQueue (d1 d2 : Desc) : MKeepsQueue (firstHalf d1 d2) := by
  unfold firstHalf
  repeat' (first
    | with_reducible apply MKeepsQueue.bind | with_reducible apply holding_keepsQueue | with_reducible apply orUnread_keepsQueue
    | intro _ | split | simp)

@[simp] theorem secondHalf_keepsQueue (d : Desc) : MKeepsQueue (secondHalf d) := by
  unfold secondHalf
  repeat' (first | with_reducible apply MKeepsQueue.bind | with_reducible apply orUnread_keepsQueue | split | simp)

end Sys2Proof.Machine
end

section
/-! SUPPORT. What a completion records, and when none comes (R528, R534, R536, R549). -/

namespace Sys2Proof.Machine

/-! ### Work that is run leaves the queues -/

theorem settleLate_keepsQueue {α : Type} {w : Work} {r : Except Fail α × Work} (h : KeepsQueue w r.2) :
    KeepsQueue w (settleLate r).2 := by
  unfold settleLate
  split
  · exact ⟨(foldl_q (fun s (a : MemAccess) => scramble_q a.lo a.len s) _ _).trans h.q, h.order⟩
  · exact h

theorem runWorkAt_q {α : Type} {m : M α} (h : MKeepsQueue m) (order : Nat) (lines : List GotLine) (s : State) :
    (runWorkAt order lines m s).2.s.q = s.q :=
  (sendQueued_sends s _).q.trans (settleLate_keepsQueue (h.run (Work.start order lines s))).q

theorem runWorkAt_order {α : Type} {m : M α} (h : MKeepsQueue m) (order : Nat) (lines : List GotLine) (s : State) :
    (runWorkAt order lines m s).2.order = order :=
  (settleLate_keepsQueue (h.run (Work.start order lines s))).order

/-! ### RETIRED (R528) -/

/-- The least of a start value and a list's values is at most all of them, and one of them. -/
theorem foldl_min_le {α : Type} (f : α → Nat) (l : List α) (n : Nat) :
    l.foldl (fun m x => min m (f x)) n ≤ n ∧ (∀ x ∈ l, l.foldl (fun m x => min m (f x)) n ≤ f x)
    ∧ (l.foldl (fun m x => min m (f x)) n = n ∨ ∃ x ∈ l, l.foldl (fun m x => min m (f x)) n = f x) := by
  induction l generalizing n with
  | nil => simp
  | cons y l ih =>
    obtain ⟨hn, hl, hat⟩ := ih (min n (f y))
    rw [List.foldl_cons]
    refine ⟨by omega, fun x hx => ?_, ?_⟩
    · rcases List.mem_cons.mp hx with rfl | hx
      · omega
      · exact hl x hx
    · rcases hat with h | ⟨x, hx, h⟩
      · rcases Nat.le_total n (f y) with hle | hle
        · exact .inl (by omega)
        · exact .inr ⟨y, List.mem_cons_self .., by omega⟩
      · exact .inr ⟨x, List.mem_cons_of_mem _ hx, h⟩

theorem pairAfter_retired (p : QueuePair) (st : Status) (last : Bool) : (pairAfter p st last).retired = p.retired := by
  unfold pairAfter
  split_ifs <;> rfl

theorem retiredOf_offset (head : W32) (l : List InFlight) (b : W32) :
    (retiredOf head l b - b).toNat = l.foldl (fun m e => min m (e.idx - b).toNat) (head - b).toNat := by
  have hlt : l.foldl (fun m e => min m (e.idx - b).toNat) (head - b).toNat < 2 ^ 32 :=
    Nat.lt_of_le_of_lt (foldl_min_le _ l _).1 (head - b).isLt
  unfold retiredOf
  rw [add_sub_cancel_left, BitVec.toNat_ofNat, Nat.mod_eq_of_lt hlt]

/-- An index at the offset of another is that index. -/
theorem eq_of_offset {n m b : W32} (h : (n - b).toNat = (m - b).toNat) : n = m := by
  have h := BitVec.eq_of_toNat_eq h
  rw [← BitVec.sub_add_cancel n b, h, BitVec.sub_add_cancel]

theorem writeRecord_qps (e : InFlight) (s : State) : (writeRecord e s).q.qps = s.q.qps.set e.qp (pairOf e s) :=
  congrArg Queues.qps (writeRecord_q e s)

theorem writeRecord_pair (e : InFlight) (s : State) : (writeRecord e s).q.qps[e.qp] = pairOf e s := by
  simp [writeRecord_qps]

theorem writeRecord_inflight (e : InFlight) (s : State) : (writeRecord e s).q.inflight = restOf e s :=
  congrArg Queues.inflight (writeRecord_q e s)

theorem pairOf_head (e : InFlight) (s : State) : (pairOf e s).head = (s.q.qps[e.qp]).head := (pairAfter_counts _ _ _).2.1

/-- Writing a record leaves RETIRED the largest index that nothing uncompleted lies below (R528). -/
theorem retiredIsLargest_writeRecord (e : InFlight) (s : State) : retiredIsLargest e.qp s (writeRecord e s) := by
  have hmine {x : InFlight} : x ∈ (restOf e s).filter (fun x => x.qp == e.qp) ↔ x ∈ (writeRecord e s).q.inflight ∧ x.qp = e.qp := by
    rw [writeRecord_inflight, List.mem_filter, beq_iff_eq]
  have hn : (writeRecord e s).q.qps[e.qp].retired
      = retiredOf (s.q.qps[e.qp]).head ((restOf e s).filter fun x => x.qp == e.qp) (s.q.qps[e.qp]).retired := by
    rw [writeRecord_pair]
    exact pairAfter_retired _ _ _
  have hh : (writeRecord e s).q.qps[e.qp].head = (s.q.qps[e.qp]).head := by rw [writeRecord_pair, pairOf_head]
  have hoff := retiredOf_offset (s.q.qps[e.qp]).head ((restOf e s).filter fun x => x.qp == e.qp) (s.q.qps[e.qp]).retired
  rw [← hn] at hoff
  obtain ⟨hle, hall, hat⟩ := foldl_min_le (fun x : InFlight => (x.idx - (s.q.qps[e.qp]).retired).toNat)
    ((restOf e s).filter fun x => x.qp == e.qp) ((s.q.qps[e.qp]).head - (s.q.qps[e.qp]).retired).toNat
  rw [← hoff] at hle hall hat
  refine ⟨?_, fun x hx hq => hall x (hmine.mpr ⟨hx, hq⟩), ?_⟩
  · rw [hh]; exact hle
  · rw [hh]
    rcases hat with h | ⟨x, hx, h⟩
    · exact .inl (eq_of_offset h)
    · exact .inr ⟨x, (hmine.mp hx).1, (hmine.mp hx).2, eq_of_offset h⟩

/-! ### The pair's state (R534, R536) -/

theorem halts_eq (stopOnFailure : Bool) (st : Status) :
    halts stopOnFailure st = (haltsAlways st || (stopOnFailure && haltsYes st)) := by
  cases st <;> rfl

/-- The state and halt reason that a pair takes when a descriptor completes. -/
theorem pairAfter_state (p : QueuePair) (st : Status) (last : Bool) :
    (pairAfter p st last).state = pairStateAfter p.state (halts p.stopOnFailure st) last
    ∧ (pairAfter p st last).halt = if (pairAfter p st last).state = .halted ∧ p.state ≠ .halted
      then BitVec.ofNat 16 st.code else p.halt := by
  rw [halts_eq]
  unfold pairAfter pairStateAfter
  cases hp : p.state <;> cases last <;> cases hs : (haltsAlways st || (p.stopOnFailure && haltsYes st)) <;> simp [hp]

/-! ### What a completion does first leaves the queues (R380, R564) -/

theorem followStart_q (v : Fin 4) (s : State) : (followStart v s).q = s.q := by
  unfold followStart
  split <;> rfl

theorem retireSlot_q (x : SlotId) (force : Bool) (s : State) : (retireSlot x force s).q = s.q := setSlot_q x _ s

theorem publishSlot_q (f : VersionFields) (v : Fin 4) (s : State) : (publishSlot f v s).2.q = s.q := by
  unfold publishSlot
  split
  · rfl
  · exact (followStart_q v _).trans (setSlot_q _ _ s)

theorem retireVersion_q (f : VersionFields) (v : Fin 4) (s : State) : (retireVersion f v s).2.q = s.q := by
  unfold retireVersion
  split
  · rfl
  · split
    · rfl
    · exact retireSlot_q _ _ s

theorem loadAdapter_q (f : VersionFields) (a : Fin 256) (s : State) : (loadAdapter f a s).2.q = s.q := by
  unfold loadAdapter
  split
  · rfl
  · refine (setSlot_q _ _ _).trans ?_
    split
    · exact retireSlot_q _ _ s
    · rfl

theorem retireAdapter_q (f : VersionFields) (s : State) : (retireAdapter f s).2.q = s.q := by
  unfold retireAdapter
  split
  · exact retireSlot_q _ _ s
  · rfl

theorem versionAct_q (f : VersionFields) (s : State) : (versionAct f s).2.q = s.q := by
  unfold versionAct
  split
  · exact publishSlot_q f _ s
  · exact retireVersion_q f _ s
  · exact loadAdapter_q f _ s
  · exact retireAdapter_q f s

theorem versionCompletion_q (e : InFlight) (d : Desc) (s : State) : (versionCompletion e d s).2.q = s.q := by
  have hact (st : Status) (u : State) : (if st = .ok then versionAct (versionFields d) u else (st, u)).2.q = u.q := by
    split
    · exact versionAct_q _ u
    · rfl
  refine (hact _ _).trans ?_
  split <;> rfl

theorem completeVersion_eq (e : InFlight) (d : Desc) (s : State) :
    completeVersion e d s = finish (versionCompletion e d s).1 (versionCompletion e d s).2 := by
  unfold completeVersion versionCompletion
  dsimp only
  cases versionSlot (versionFields d) (if e.racy then { s with freeCtr := s.freeCtr + 1 } else s) <;> rfl

theorem forgetCopies_q (s : State) : (forgetCopies s).2.q = s.q := by
  have hfold (l : List StashCopy) (r : Option Fail × State) : (l.foldl (fun r c =>
      let w := runWork (writeSerial (c.entry + 16) (List.replicate 6 0)) r.2
      (r.1 <|> match w.1 with
        | .ok _ => none
        | .error f => some f, w.2.s)) r).2.q = r.2.q := by
    induction l generalizing r with
    | nil => rfl
    | cons c l ih => exact (ih _).trans (runWorkAt_q (writeSerial_keepsQueue _ _) _ _ r.2)
  exact hfold _ _

theorem endStep_q (st : Status) (s : State) : (endStep st s).2.q = s.q := forgetCopies_q s

theorem stepFenceAct_q (s : State) : (stepFenceAct s).2.q = s.q := by
  unfold stepFenceAct
  split
  · exact (endStep_q _ _).trans (raiseAlert_sends 8 _).q
  · split
    · rfl
    · split
      · exact endStep_q _ _
      · exact endStep_q _ _

/-! ### Entries in flight -/

theorem setInFlight_inflight (e : InFlight) (s : State) :
    (setInFlight e s).q.inflight = s.q.inflight.map fun x => if x.qp == e.qp && x.idx == e.idx then e else x := rfl

/-- A replaced entry is found in its place. -/
theorem findInFlight_setInFlight {y x : InFlight} {s : State} (h : findInFlight s y.qp y.idx = some x) :
    findInFlight (setInFlight y s) y.qp y.idx = some y := by
  unfold findInFlight at h ⊢
  rw [setInFlight_inflight]
  revert h
  induction s.q.inflight with
  | nil => exact fun h => nomatch h
  | cons z l ih =>
    rw [List.map_cons]
    intro h
    cases hz : z.qp == y.qp && z.idx == y.idx with
    | true => exact List.find?_cons_of_pos (by simp)
    | false =>
      rw [List.find?_cons, hz] at h
      rw [if_neg (by simp), List.find?_cons, hz]
      exact ih h

/-- Replacing an entry leaves those of every other place. -/
theorem findInFlight_setInFlight_other {y : InFlight} {s : State} {qp : Fin 64} {idx : W32} (h : ¬(y.qp = qp ∧ y.idx = idx)) :
    findInFlight (setInFlight y s) qp idx = findInFlight s qp idx := by
  unfold findInFlight
  rw [setInFlight_inflight]
  induction s.q.inflight with
  | nil => rfl
  | cons z l ih =>
    rw [List.map_cons, List.find?_cons, List.find?_cons, ih]
    cases hz : z.qp == y.qp && z.idx == y.idx with
    | true =>
      have hy : (y.qp == qp && y.idx == idx) = false := by simpa using h
      obtain ⟨hq, hi⟩ : z.qp = y.qp ∧ z.idx = y.idx := by simpa using hz
      rw [if_pos rfl, hq, hi, hy]
    | false => rw [if_neg (by simp)]

/-- Writing a record leaves the entries of every other place. -/
theorem findInFlight_writeRecord_other {e : InFlight} {s : State} {qp : Fin 64} {idx : W32} (h : ¬(e.qp = qp ∧ e.idx = idx)) :
    findInFlight (writeRecord e s) qp idx = findInFlight s qp idx := by
  unfold findInFlight
  rw [writeRecord_inflight, restOf, List.find?_filter]
  refine congrArg (s.q.inflight.find? ·) (funext fun x => ?_)
  cases hx : x.qp == qp && x.idx == idx with
  | false => simp
  | true =>
    obtain ⟨rfl, rfl⟩ : x.qp = qp ∧ x.idx = idx := by simpa using hx
    have hne : (x.qp == e.qp && x.idx == e.idx) = false := by simpa [@eq_comm _ x.qp, @eq_comm _ x.idx] using h
    simp [hne]

/-! ### Completing -/

section
variable {e e' : InFlight} {s u : State}

/-- An entry that a completion can come for has its WR_DONEs and is no second of a pair. -/
theorem completion_waits (h : completion e s = some (e', u)) : writesDone s e = true ∧ e.follows = none := by
  unfold completion at h
  split at h
  · cases h
  · rename_i hc
    simpa using hc

/-- An entry that waits for nothing records what it is, in the state it is in. -/
theorem completion_of_nothing (ha : e.await = .nothing) (h : completion e s = some (e', u)) : e' = e ∧ u = s := by
  obtain ⟨hw, hf⟩ := completion_waits h
  unfold completion at h
  rw [if_neg (by simp [hw, hf]), ha] at h
  cases h
  exact ⟨rfl, rfl⟩

/-- Without what it waits for, an entry that is no second of a pair does what its kind says. -/
theorem completeOne_of_free (hw : writesDone s e = true) (hf : e.follows = none) :
    completeOne e s = match e.await with
      | .nothing => some (completeDone e s)
      | .held d x => some (retryHeld e d x s)
      | .version d => some (completeVersion e d s)
      | .turn => none
      | .exchange => some (pumpAll s)
      | .turnRefused => some (finish { e with info := turnInfo s.turn.cur 0 0 } s)
      | _ => completeFence e s := by
  unfold completeOne
  rw [hf, if_neg (by simp [hw])] <;> rfl

/-- What a completion records is its own entry's, what it does first leaves the queues, and its record is finished: by `completeDone`
where the entry waits for nothing. -/
theorem completion_does (h : completion e s = some (e', u)) : e'.qp = e.qp ∧ e'.idx = e.idx ∧ u.q = s.q
    ∧ completeOne e s = some (if e.await = .nothing then completeDone e' u else finish e' u) := by
  obtain ⟨hw, hf⟩ := completion_waits h
  rw [completeOne_of_free hw hf]
  unfold completion at h
  rw [if_neg (by simp [hw, hf])] at h
  cases ha : e.await with
  | nothing =>
    rw [ha] at h
    cases h
    exact ⟨rfl, rfl, rfl, rfl⟩
  | version d =>
    rw [ha] at h
    cases h
    exact ⟨rfl, rfl, versionCompletion_q e d s, congrArg some (completeVersion_eq e d s)⟩
  | queueFence =>
    rw [ha] at h
    obtain ⟨hc, rfl, rfl⟩ : _ ∧ e = e' ∧ s = u := by simpa using h
    exact ⟨rfl, rfl, rfl, by simp [completeFence, ha, hc]⟩
  | waitFence q w =>
    rw [ha] at h
    dsimp only at h
    split at h
    · rename_i hc
      cases h
      exact ⟨rfl, rfl, rfl, by simp [completeFence, ha, hc]⟩
    · cases h
  | stepFence =>
    rw [ha] at h
    obtain ⟨hc, rfl, rfl⟩ : _ ∧ e.acted (stepFenceAct s).1 s = e' ∧ (stepFenceAct s).2 = u := by simpa using h
    exact ⟨rfl, rfl, stepFenceAct_q s, by simp [completeFence, finishStep, ha, hc]⟩
  | drainFence =>
    rw [ha] at h
    obtain ⟨hc, rfl, rfl⟩ : _ ∧ e = e' ∧ s = u := by simpa using h
    exact ⟨rfl, rfl, rfl, by simp [completeFence, finishStep, ha, hc]⟩
  | stepRefused =>
    rw [ha] at h
    cases h
    exact ⟨rfl, rfl, rfl, by simp [completeFence, ha]⟩
  | waitRefused q =>
    rw [ha] at h
    cases h
    exact ⟨rfl, rfl, rfl, by simp [completeFence, ha]⟩
  | turnRefused =>
    rw [ha] at h
    cases h
    exact ⟨rfl, rfl, rfl, rfl⟩
  | turn =>
    rw [ha] at h
    cases h
  | exchange =>
    rw [ha] at h
    cases h
  | held d x =>
    rw [ha] at h
    cases h

theorem idx_succ_ne (i : W32) : i ≠ i + 1 := by
  intro h
  bv_omega

/-- Where no second of a pair waits for an entry, none runs when its record is written. -/
theorem followOn_of_none (h : secondOf e s = none) : followOn e (writeRecord e s) = writeRecord e s := by
  unfold followOn
  rw [findInFlight_writeRecord_other fun hx => idx_succ_ne _ hx.2]
  unfold secondOf at h
  cases hx : findInFlight s e.qp (e.idx + 1) with
  | none => rfl
  | some x =>
    rw [hx] at h
    have hf : x.follows = none := by simpa [Option.filter] using h
    dsimp only
    rw [hf]

theorem completeDone_of_none (hfind : findInFlight s e.qp e.idx = some e) (h : secondOf e s = none) :
    completeDone e s = finish e s := by
  unfold completeDone
  dsimp only
  by_cases hr : recordReady s e.qp = true
  · rw [finish_of_ready hr, followOn_of_none h, ite_self]
  · rw [finish_of_wait hr]
    have hy := findInFlight_setInFlight (y := { e with await := .nothing }) hfind
    exact if_neg (by rw [hy]; exact Bool.false_ne_true)

/-- A completion that no second of a pair follows finishes its record. -/
theorem completeOne_of_completion (hfind : findInFlight s e.qp e.idx = some e) (h : completion e s = some (e', u))
    (h2 : secondOf e s = none) : completeOne e s = some (finish e' u) := by
  obtain ⟨-, -, -, hc⟩ := completion_does h
  rw [hc]
  split
  · rename_i ha
    obtain ⟨rfl, rfl⟩ := completion_of_nothing ha h
    rw [completeDone_of_none hfind h2]
  · rfl

end

/-- DESCRIPTOR_COMPLETE does what the entry can do, and nothing where it can do nothing. -/
theorem exec_descriptorComplete {qp : Fin 64} {idx : W32} {s : State} (h : running s = true) :
    exec (.descriptorComplete qp idx) s = .next (((findInFlight s qp idx).bind fun e => completeOne e s).getD s) := by
  change execDescriptorComplete qp idx s = _
  unfold execDescriptorComplete
  rw [if_neg (by simp [h])]
  cases (findInFlight s qp idx).bind fun e => completeOne e s <;> rfl

/-- A fence whose completion has not come does nothing. -/
theorem completeFence_of_none {e : InFlight} {s : State} (hw : writesDone s e = true) (hf : e.follows = none)
    (h : (completion e s).isNone = true)
    (hk : e.await = .queueFence ∨ (∃ q w, e.await = .waitFence q w) ∨ e.await = .stepFence ∨ e.await = .drainFence) :
    completeFence e s = none := by
  unfold completion at h
  rw [if_neg (by simp [hw, hf])] at h
  unfold completeFence
  rcases hk with ha | ⟨q, w, ha⟩ | ha | ha
  all_goals
    rw [ha] at h ⊢
    dsimp only at h ⊢
    split at h
    · cases h
    · rename_i hc
      exact if_neg hc

/-- What still waits does nothing. -/
theorem completeOne_of_waitsStill {e : InFlight} {s : State} (h : waitsStill e s = true) : completeOne e s = none := by
  unfold waitsStill at h
  cases hw : writesDone s e with
  | false => exact if_pos (by simp [hw])
  | true =>
    rw [hw] at h
    cases hf : e.follows with
    | some x =>
      have hd : x.due = false := by simpa [hf] using h
      unfold completeOne
      rw [hw, hf]
      dsimp only
      rw [hd]
      rfl
    | none =>
      rw [completeOne_of_free hw hf]
      rw [hf] at h
      have hn := completeFence_of_none hw hf
      cases ha : e.await with
      | turn => rfl
      | queueFence => rw [ha] at h hn; exact hn h (.inl rfl)
      | waitFence q w => rw [ha] at h hn; exact hn h (.inr (.inl ⟨q, w, rfl⟩))
      | stepFence => rw [ha] at h hn; exact hn h (.inr (.inr (.inl rfl)))
      | drainFence => rw [ha] at h hn; exact hn h (.inr (.inr (.inr rfl)))
      | nothing | held | version | exchange | turnRefused | stepRefused | waitRefused => rw [ha] at h; cases h

/-! ### O18 -/

/-- Writing a record moves its pair's state as the table says, with the status as the reason of a halt (R534, R536). -/
theorem writeRecord_state (e : InFlight) (s : State) :
    let t := writeRecord e s
    let p := s.q.qps[e.qp]
    let last := !(t.q.inflight.any fun x => x.qp == e.qp)
    let x := pairStateAfter p.state (halts p.stopOnFailure e.status) last
    (t.q.qps[e.qp]).state = x
    ∧ (t.q.qps[e.qp]).halt = if x = .halted ∧ p.state ≠ .halted then BitVec.ofNat 16 e.status.code else p.halt := by
  have hlast : ((restOf e s).filter fun x => x.qp == e.qp).isEmpty = !((restOf e s).any fun x => x.qp == e.qp) := by
    rw [Bool.eq_iff_iff]
    simp
  obtain ⟨hs, hh⟩ := pairAfter_state { s.q.qps[e.qp] with
    produced := (s.q.qps[e.qp]).produced + 1
    retired := retiredOf (s.q.qps[e.qp]).head ((restOf e s).filter fun x => x.qp == e.qp) (s.q.qps[e.qp]).retired }
    e.status ((restOf e s).filter fun x => x.qp == e.qp).isEmpty
  rw [hs] at hh
  dsimp only
  rw [writeRecord_pair, writeRecord_inflight, ← hlast]
  exact ⟨hs, hh⟩

/-- A completed pair is told by its entry's place alone. -/
theorem pairCompleted_of_place {e e' : InFlight} {s t : State} (hq : e'.qp = e.qp) (hi : e'.idx = e.idx)
    (h : pairCompleted e' s t) : pairCompleted e s t := by
  obtain ⟨qp, idx⟩ := e
  cases hq
  cases hi
  exact h

/-- Settles O18: a completion finishes its own entry's record in a state with the queues as they were, and what still waits finishes
none. -/
theorem completionWritesTheRecord : Obligations.CompletionWritesTheRecord := by
  unfold Obligations.CompletionWritesTheRecord
  refine ⟨fun qp idx s u e e' hrun hfind hcomp hsecond => ?_, fun qp idx s hrun hwait => ?_⟩
  · obtain ⟨hq, hi, hu, -⟩ := completion_does hcomp
    obtain ⟨heq, hei⟩ := findInFlight_names hfind
    have hexec : exec (.descriptorComplete qp idx) s = .next (finish e' u) := by
      rw [exec_descriptorComplete hrun, hfind, Option.bind_some, completeOne_of_completion (by rw [heq, hei]; exact hfind) hcomp hsecond]
      rfl
    have hplace : pairCompleted e' u (writeRecord e' u) → pairCompleted e u (writeRecord e' u) := pairCompleted_of_place hq hi
    obtain rfl : e'.qp = qp := hq.trans heq
    obtain rfl : e'.idx = idx := hi.trans hei
    rw [hexec, ← hu]
    refine ⟨fun hready => ⟨_, rfl, ?_⟩, fun _ hready => ⟨_, rfl, ?_⟩⟩
    · have hring : ringOutside s e'.qp → ringOutside u e'.qp := by
        unfold ringOutside
        rw [hu]
        exact id
      rw [finish_of_ready hready]
      exact ⟨hplace (pairCompleted_writeRecord e' u), retiredIsLargest_writeRecord e' u,
        fun hout => recordWritten_writeRecord (hring hout), writeRecord_state e' u⟩
    · rw [finish_of_wait (by simp [hready])]
      refine ⟨rfl, rfl, findInFlight_setInFlight (y := { e' with await := .nothing }) (x := e) ?_⟩
      unfold findInFlight at hfind ⊢
      rw [hu]
      exact hfind
  · rw [exec_descriptorComplete hrun]
    cases hfind : findInFlight s qp idx with
    | none => rfl
    | some e =>
      rw [Option.bind_some, completeOne_of_waitsStill (hwait e hfind)]
      rfl

end Sys2Proof.Machine
end

section
/-! SUPPORT. What settling a descriptor's work leaves of the entries in flight: their places (R165, R547). -/

namespace Sys2Proof.Machine

/-! ### Places of the entries in flight -/

/-- The places of the uncompleted descriptors, in the order in which they started. -/
def places (s : State) : List (Fin 64 × W32) := s.q.inflight.map fun e => (e.qp, e.idx)

theorem places_of_q {s t : State} (h : t.q = s.q) : places t = places s := by rw [places, places, h]

theorem findInFlight_eq_none_iff {s : State} {qp : Fin 64} {idx : W32} : findInFlight s qp idx = none ↔ (qp, idx) ∉ places s := by
  simp [findInFlight, places]

theorem findInFlight_of_places {s t : State} {qp : Fin 64} {idx : W32} {x : InFlight} (h : places t = places s)
    (hx : findInFlight s qp idx = some x) : ∃ y, findInFlight t qp idx = some y := by
  cases hy : findInFlight t qp idx with
  | some y => exact ⟨y, rfl⟩
  | none =>
    rw [findInFlight_eq_none_iff, h, ← findInFlight_eq_none_iff, hx] at hy
    cases hy

theorem inflight_length_of_places {s t : State} (h : places t = places s) : t.q.inflight.length = s.q.inflight.length := by
  simpa [places] using congrArg List.length h

/-! ### What spoiling and races leave of the queues -/

@[simp] theorem takeFree_q (n : Nat) (s : State) : (takeFree n s).2.q = s.q := rfl
@[simp] theorem scrambleTerrace_q (p : Fin 64) (s : State) : (scrambleTerrace p s).q = s.q := rfl
@[simp] theorem scrambleGate_q (slots : List Nat) (s : State) : (scrambleGate slots s).q = s.q :=
  foldl_q (fun s n => by split <;> rfl) slots s

theorem writeLate_q (a : Nat) (bs : List Byte) (s : State) : (writeLate a bs s).q = s.q := by
  unfold writeLate
  split
  · rfl
  · exact runWorkAt_q (writeSerial_keepsQueue a bs) _ _ s

theorem clearTag_q (a : Nat) (s : State) : (clearTag a s).q = s.q := by
  unfold clearTag
  split
  · exact writeLate_q _ _ s
  · rfl

theorem dropPair_q (e : InFlight) (s : State) : (dropPair e s).q = s.q := by
  unfold dropPair
  split
  · split
    · exact clearTag_q _ s
    · rfl
  · rfl

theorem dropSuppressed_q (d : Desc) (w : Work) (s : State) : (dropSuppressed d w s).q = s.q := by
  unfold dropSuppressed
  split
  · split
    · exact clearTag_q _ s
    · rfl
  · rfl

theorem raceEntry_q (e : InFlight) (decides : Bool) (s : State) : (raceEntry e decides s).2.q = s.q := by
  have hterrace (l : List UnitId) (s : State) : (l.foldl (fun s u => match u with
      | .plaza p => scrambleTerrace p s
      | _ => s) s).q = s.q := foldl_q (fun s u => by cases u <;> rfl) l s
  unfold raceEntry
  split
  · dsimp only
    split
    · split
      · exact hterrace _ _
      · exact scrambleGate_q _ _
    · refine (dropPair_q e _).trans ?_
      split
      · exact hterrace _ _
      · exact scrambleGate_q _ _
  · rfl

theorem raceAll_q (beside : InFlight → Bool) (writes : List MemAccess) (l : List InFlight) (s : State) :
    (raceAll beside writes l s).2.q = s.q := by
  induction l generalizing s with
  | nil => rfl
  | cons e l ih =>
    refine (ih _).trans ?_
    split
    · exact raceEntry_q _ _ s
    · rfl

theorem markKey_q (l : Nat) (s : State) : (markKey l s).q = s.q := by
  unfold markKey
  split
  · exact markStack_q _ s
  · rfl

theorem useLine_q (l : Nat) (s : State) : (useLine l s).q = s.q := by
  unfold useLine
  split
  · split
    · rfl
    · exact markKey_q l s
  · exact markKey_q l s

theorem noteRequests_q (l : List Nat) (s : State) : (noteRequests l s).q = s.q := by
  unfold noteRequests
  dsimp only
  split <;> rfl

theorem settleReads_q (w : Work) (s : State) : (settleReads w s).q = s.q := by
  unfold settleReads demandReads
  dsimp only
  split
  · exact (foldl_q (fun s r => markRange_q _ _ s) _ _).trans (noteRequests_q _ s)
  · exact (foldl_q (fun s l => useLine_q _ s) _ _).trans (noteRequests_q _ s)

theorem askFor_q (reader : Reader) (w : Work) (s : State) : (askFor reader w s).q = s.q := by
  refine (transmit_sends _).q.trans (foldl_q (fun s line => ?_) _ _)
  unfold askLine
  split <;> rfl

/-! ### What they leave of the entries' places -/

/-- An entry keeps its place, its order of start and whether it is the second of a pair. -/
structure KeepsPlace (e x : InFlight) : Prop where
  qp : x.qp = e.qp
  idx : x.idx = e.idx
  order : x.order = e.order
  follows : x.follows = e.follows

theorem KeepsPlace.refl (e : InFlight) : KeepsPlace e e := ⟨rfl, rfl, rfl, rfl⟩

theorem raceInfo_keepsPlace (e : InFlight) (decides : Bool) (n : Nat) : KeepsPlace e (raceInfo e decides n) := by
  unfold raceInfo
  dsimp only
  split
  · split
    · exact KeepsPlace.refl e
    · exact ⟨rfl, rfl, rfl, rfl⟩
  · exact ⟨rfl, rfl, rfl, rfl⟩

theorem raceEntry_keepsPlace (e : InFlight) (decides : Bool) (s : State) : KeepsPlace e (raceEntry e decides s).1 := by
  unfold raceEntry
  split
  · exact raceInfo_keepsPlace e _ _
  · exact ⟨rfl, rfl, rfl, rfl⟩

/-- A descriptor's own entry races, after its spoiled outputs, or stays as it is. -/
theorem raceOwn_cases (w : Work) (since : List (Nat × Nat)) (e : InFlight) (s : State) :
    raceOwn w since e s = (e, s) ∨ ∃ decides l, raceOwn w since e s = raceEntry e decides (scrambleAll l s) := by
  unfold raceOwn
  extract_lets l
  split
  · exact .inr ⟨_, _, rfl⟩
  · exact .inl rfl

theorem raceOwn_keepsPlace (w : Work) (since : List (Nat × Nat)) (e : InFlight) (s : State) : KeepsPlace e (raceOwn w since e s).1 := by
  rcases raceOwn_cases w since e s with h | ⟨decides, l, h⟩
  · rw [h]; exact KeepsPlace.refl e
  · rw [h]; exact raceEntry_keepsPlace e decides _

theorem raceOwn_q (w : Work) (since : List (Nat × Nat)) (e : InFlight) (s : State) : (raceOwn w since e s).2.q = s.q := by
  rcases raceOwn_cases w since e s with h | ⟨decides, l, h⟩
  · rw [h]
  · rw [h]; exact (raceEntry_q e decides _).trans (scrambleAll_q l s)

theorem map_places {f : InFlight → InFlight} (h : ∀ e, KeepsPlace e (f e)) (l : List InFlight) :
    (l.map f).map (fun e => (e.qp, e.idx)) = l.map fun e => (e.qp, e.idx) := by
  rw [List.map_map]
  exact List.map_congr_left fun e _ => Prod.ext (h e).qp (h e).idx

theorem raceAll_places (beside : InFlight → Bool) (writes : List MemAccess) (l : List InFlight) (s : State) :
    (raceAll beside writes l s).1.map (fun e => (e.qp, e.idx)) = l.map fun e => (e.qp, e.idx) := by
  induction l generalizing s with
  | nil => rfl
  | cons e l ih =>
    refine List.cons_eq_cons.mpr ⟨?_, ih _⟩
    dsimp only
    split
    · have h := raceEntry_keepsPlace e (racyReads (deciding e.reads) writes) s
      exact Prod.ext h.qp h.idx
    · rfl

theorem freeInfoOf_places (order : Nat) (s : State) : places (freeInfoOf order s) = places s :=
  map_places (fun e => by split <;> exact ⟨rfl, rfl, rfl, rfl⟩) _

theorem spoilRuns_places (own : Option Nat) (l : List (Nat × Nat)) (s : State) : places (spoilRuns own l s) = places s := by
  have hfold (hit : List GateRun) (s : State) : places (hit.foldl
      (fun s r => freeInfoOf r.order (scrambleGate r.slots (scramble r.out.1 r.out.2 s))) s) = places s := by
    induction hit generalizing s with
    | nil => rfl
    | cons r hit ih =>
      refine (ih _).trans ((freeInfoOf_places _ _).trans (places_of_q ?_))
      exact (scrambleGate_q _ _).trans (scramble_q _ _ s)
  unfold spoilRuns
  split
  · rfl
  · exact (map_places (fun e => by split <;> exact ⟨rfl, rfl, rfl, rfl⟩) _).trans (hfold _ s)

theorem spoilOne_keepsPlace (writes : List MemAccess) (e : InFlight) : KeepsPlace e (spoilOne writes e) := by
  unfold spoilOne
  split
  · exact ⟨rfl, rfl, rfl, rfl⟩
  · exact KeepsPlace.refl e

/-- Settling work leaves every entry its place. -/
theorem settleWork_places (w : Work) : places (settleWork w) = places w.s := by
  unfold settleWork settleAmong
  refine (places_of_q (settleReads_q w _)).trans ?_
  refine (map_places (fun e => ?_) _).trans ((raceAll_places _ _ _ _).trans ((spoilRuns_places _ _ _).trans (places_of_q ?_)))
  · exact spoilOne_keepsPlace w.writes e
  · exact foldl_q (fun s e => scrambleAll_q _ s) _ _

theorem settleEntry_places (old : State) (d : Desc) (e : InFlight) (r : Except Fail Unit × Work) :
    places (settleEntry old d e r).2 = places r.2.s := by
  refine (places_of_q ?_).trans (settleWork_places r.2)
  exact (dropSuppressed_q d r.2 _).trans (raceOwn_q r.2 _ _ _)

/-- The entry that work leaves has its descriptor's place, the order that the work has, and is no second of a pair. -/
theorem settleEntry_keepsPlace (old : State) (d : Desc) (e : InFlight) (r : Except Fail Unit × Work) :
    KeepsPlace { e with order := r.2.order, follows := none } (settleEntry old d e r).1 := by
  have h := raceOwn_keepsPlace r.2 e.spoiled { workEntry e.qp e.idx d r with order := r.2.order } (settleWork r.2)
  exact ⟨h.qp, h.idx, h.order, h.follows⟩

/-! ### The second of a pair when the first's record is written -/

/-- An entry put in the place of the second, in a state with the first's record written: the first has none, the second is that entry. -/
theorem second_replaced {e x y : InFlight} {s u : State} (hu : places u = places (writeRecord e s))
    (hx : findInFlight s e.qp (e.idx + 1) = some x) (hq : y.qp = e.qp) (hi : y.idx = e.idx + 1) :
    findInFlight (setInFlight y u) e.qp e.idx = none ∧ findInFlight (setInFlight y u) e.qp (e.idx + 1) = some y := by
  have hne : ¬(y.qp = e.qp ∧ y.idx = e.idx) := fun h => idx_succ_ne e.idx (h.2.symm.trans hi)
  rw [findInFlight_setInFlight_other hne, findInFlight_eq_none_iff, hu, ← findInFlight_eq_none_iff]
  refine ⟨findInFlight_writeRecord e s, ?_⟩
  rw [← findInFlight_writeRecord_other (e := e) fun h => idx_succ_ne _ h.2] at hx
  obtain ⟨z, hz⟩ := findInFlight_of_places hu hx
  rw [← hq, ← hi] at hz ⊢
  exact findInFlight_setInFlight hz

/-- The second's work, once run, leaves an entry in its place and order: one that no longer waits for the first, or one that waits for what
the work lacks (R515). -/
theorem runSecond_replaces (x : InFlight) (h : FusedHalf) (s : State) : ∃ y u, runSecond x h s = setInFlight y u
    ∧ places u = places s ∧ y.qp = x.qp ∧ y.idx = x.idx ∧ y.order = x.order
    ∧ (y.follows = none ∨ ∃ k, y.follows = some k ∧ k.due = true) := by
  have hm := underDefaults_keepsQueue h.defaults (holding_keepsQueue h.held (secondHalf_keepsQueue h.d))
  unfold runSecond
  dsimp only
  split
  · exact ⟨_, _, rfl, places_of_q (askFor_q _ _ s), rfl, rfl, rfl, .inr ⟨_, rfl, rfl⟩⟩
  · generalize hr : runWorkAt x.order x.lines _ s = r
    obtain ⟨hq, hi, ho, hf⟩ := settleEntry_keepsPlace s h.d x (dropAnswer r)
    refine ⟨_, _, rfl, (settleEntry_places s h.d x (dropAnswer r)).trans (places_of_q ?_), hq, hi, ho.trans ?_, .inl hf⟩
    · rw [← hr]
      exact runWorkAt_q hm _ _ s
    · rw [← hr]
      exact runWorkAt_order hm _ _ s

/-- What the completion of a first does to its second. -/
theorem followOn_writeRecord {e x : InFlight} {s : State} (h2 : secondOf e s = some x) :
    let t := followOn e (writeRecord e s)
    findInFlight t e.qp e.idx = none
    ∧ (e.status ≠ .ok →
      findInFlight t e.qp (e.idx + 1) = some { x with status := e.status, faultAddr := e.faultAddr, follows := none })
    ∧ (e.status = .ok → ∃ y, findInFlight t e.qp (e.idx + 1) = some y ∧ y.order = x.order
      ∧ (x.status ≠ .ok → y = { x with follows := none }) ∧ (y.follows = none ∨ ∃ h, y.follows = some h ∧ h.due = true)) := by
  obtain ⟨hx, hf⟩ := Option.filter_eq_some_iff.mp h2
  obtain ⟨h, hf⟩ := Option.isSome_iff_exists.mp hf
  obtain ⟨hq, hi⟩ := findInFlight_names hx
  have hfound := (findInFlight_writeRecord_other (e := e) fun h => idx_succ_ne _ h.2).trans hx
  have hreplaced {y : InFlight} {u : State} (hu : places u = places (writeRecord e s)) (hyq : y.qp = x.qp) (hyi : y.idx = x.idx) :=
    second_replaced hu hx (hyq.trans hq) (hyi.trans hi)
  unfold followOn
  rw [hfound]
  dsimp only
  rw [hf]
  dsimp only
  by_cases he : e.status = .ok
  · rw [if_neg (not_not.mpr he)]
    by_cases hs : x.status = .ok
    · rw [if_neg (not_not.mpr hs)]
      obtain ⟨y, u, hrun, hu, hyq, hyi, ho, hy⟩ := runSecond_replaces x h (writeRecord e s)
      obtain ⟨hnone, hsome⟩ := hreplaced hu hyq hyi
      rw [hrun]
      exact ⟨hnone, fun hne => absurd he hne, fun _ => ⟨y, hsome, ho, fun hne => absurd hs hne, hy⟩⟩
    · rw [if_pos hs]
      obtain ⟨hnone, hsome⟩ := hreplaced (y := { x with follows := none }) rfl rfl rfl
      exact ⟨hnone, fun hne => absurd he hne, fun _ => ⟨_, hsome, rfl, fun _ => rfl, .inl rfl⟩⟩
  · rw [if_pos he]
    obtain ⟨hnone, hsome⟩ := hreplaced (y := { x with status := e.status, faultAddr := e.faultAddr, follows := none }) rfl rfl rfl
    exact ⟨hnone, fun _ => hsome, fun h => absurd h he⟩

/-! ### A pair that starts -/

section
variable {qp : Fin 64} {d1 d2 : Desc} {s : State}

theorem class_of_headChecks {idx : W32} {d : Desc} {u : State} (h : (headChecks u idx d).1 = .ok) :
    (if seqOk idx d then descClass d else 0) = descClass d := by
  rw [headChecks_eq] at h
  have hs : fld d.w0 63 32 = idx.toNat := by
    by_contra hne
    rw [show headStatusAt idx d u = .badSequence from if_pos hne] at h
    cases h
  rw [if_pos (seqOk_iff.mpr hs)]

theorem headChecks_q (u : State) (idx : W32) (d : Desc) : (headChecks u idx d).2.q = u.q := by
  rw [headChecks_eq]
  obtain ⟨x, hx⟩ := headBaseAt_sec idx d u
  dsimp only
  rw [hx]

theorem openStep_q (d : Desc) (s : State) : (openStep d s).q = s.q := by
  unfold openStep
  split <;> rfl

/-- The first of a pair is a TILE or a KERNEL, and works on no next copy. -/
theorem nextOf_of_fused (h : isFused d1 d2 = true) : nextOf d1 = none := by
  rcases Bool.or_eq_true_iff.mp h with h | h
  · exact nextOf_of_kernel (class_of_row h)
  · rw [Bool.and_assoc] at h
    exact nextOf_of_tile (class_of_row h)

/-- A pair whose first works without a race and ends OK adds its two entries. -/
theorem runFused_inflight {idx : W32} (hn : nextOf d1 = none) (hseq : (if seqOk (idx + 1) d2 then descClass d2 else 0) = descClass d2)
    (ha : readsAlone (runWork (firstHalf d1 d2) (openStep d1 s)).2 = true)
    (hok : (runWork (firstHalf d1 d2) (openStep d1 s)).1.isOk = true) : ∃ (u : State) (e1 e2 : InFlight),
      (runFused qp idx d1 d2 s).q.inflight = u.q.inflight ++ [e1, e2] ∧ places u = places s
      ∧ [e1, e2].map (fun e => (e.qp, e.idx, e.cls, e.status, e.follows.isSome))
        = [(qp, idx, descClass d1, Status.ok, false), (qp, idx + 1, descClass d2, Status.ok, true)] := by
  have hplaces : places (runWork (firstHalf d1 d2) (openStep d1 s)).2.s = places s :=
    places_of_q ((runWorkAt_q (firstHalf_keepsQueue d1 d2) _ _ _).trans (openStep_q d1 s))
  unfold runFused
  dsimp only
  generalize runWork (firstHalf d1 d2) (openStep d1 s) = r at ha hok hplaces
  obtain ⟨bytes | bytes, w⟩ := r
  · cases hok
  · have hsettle := settleEntry_places s d1 (heldEntry qp idx d1 (openStep d1 s)) (dropAnswer (Except.ok bytes, w))
    obtain ⟨l, hl⟩ := settleEntry_of_readsAlone (old := s) (e := heldEntry qp idx d1 (openStep d1 s))
      (r := dropAnswer (Except.ok bytes, w)) hn rfl ha
    rw [if_neg (by simp [waitsIn])]
    refine ⟨_, _, _, List.append_assoc .., hsettle.trans hplaces, ?_⟩
    rw [hl]
    refine List.cons_eq_cons.mpr ⟨rfl, List.cons_eq_cons.mpr ⟨?_, rfl⟩⟩
    exact Prod.ext rfl (Prod.ext rfl (Prod.ext hseq rfl))

/-- The states in which a pair's header checks leave it: the first's, then both'. -/
def firstHead (qp : Fin 64) (d1 : Desc) (s : State) : Status × State := headChecks (advanceHead qp 2 s) (headIdx s qp) d1
def secondHead (qp : Fin 64) (d1 d2 : Desc) (s : State) : Status × State :=
  headChecks (firstHead qp d1 s).2 (headIdx s qp + 1) d2

/-- A pair that runs OK is a pair, may start, passes both header checks, and its first's work reads alone and ends OK. -/
theorem fusedRunsOk_parts (h : fusedRunsOk qp d1 d2 s = true) :
    isFused d1 d2 = true ∧ pairMayStart qp d1 d2 s = true ∧ (firstHead qp d1 s).1 = .ok ∧ (secondHead qp d1 d2 s).1 = .ok
    ∧ readsAlone (runWork (firstHalf d1 d2) (openStep d1 (secondHead qp d1 d2 s).2)).2 = true
    ∧ (runWork (firstHalf d1 d2) (openStep d1 (secondHead qp d1 d2 s).2)).1.isOk = true := by
  unfold fusedRunsOk at h
  obtain ⟨hfm, hw⟩ := Bool.and_eq_true_iff.mp h
  obtain ⟨hf, hm⟩ := Bool.and_eq_true_iff.mp hfm
  have hhead : fusedHead qp d1 d2 s = if (firstHead qp d1 s).1 = .ok ∧ (secondHead qp d1 d2 s).1 = .ok
      then some (openStep d1 (secondHead qp d1 d2 s).2) else none := rfl
  rw [hhead] at hw
  by_cases hc : (firstHead qp d1 s).1 = .ok ∧ (secondHead qp d1 d2 s).1 = .ok
  · rw [if_pos hc] at hw
    obtain ⟨ha, hok⟩ := Bool.and_eq_true_iff.mp hw
    exact ⟨hf, hm, hc.1, hc.2, ha, hok⟩
  · rw [if_neg hc] at hw
    cases hw

theorem startFused_of_heads (h1 : (firstHead qp d1 s).1 = .ok) (h2 : (secondHead qp d1 d2 s).1 = .ok) :
    startFused qp d1 d2 s = runFused qp (headIdx s qp) d1 d2 (secondHead qp d1 d2 s).2 :=
  (if_neg (not_not.mpr h1)).trans (if_neg (not_not.mpr h2))

/-- A pair that starts moves HEAD past both its descriptors and gives each its entry. -/
theorem startFused_starts (h : fusedRunsOk qp d1 d2 s = true) :
    (startFused qp d1 d2 s).q.qps = (advanceHead qp 2 s).q.qps
    ∧ ((startFused qp d1 d2 s).q.inflight.drop s.q.inflight.length).map (fun e => (e.qp, e.idx, e.cls, e.status, e.follows.isSome))
      = [(qp, headIdx s qp, descClass d1, Status.ok, false), (qp, headIdx s qp + 1, descClass d2, Status.ok, true)] := by
  obtain ⟨hf, -, h1, h2, ha, hok⟩ := fusedRunsOk_parts h
  have hq : (secondHead qp d1 d2 s).2.q = (advanceHead qp 2 s).q := (headChecks_q _ _ d2).trans (headChecks_q _ _ d1)
  obtain ⟨u, e1, e2, hin, hu, he⟩ := runFused_inflight (nextOf_of_fused hf) (class_of_headChecks h2) ha hok
  have hlen : u.q.inflight.length = s.q.inflight.length := by
    rw [inflight_length_of_places hu, hq, advanceHead_inflight]
  rw [startFused_of_heads h1 h2]
  refine ⟨(runFused_quiet qp _ d1 d2 _).qps.trans (congrArg Queues.qps hq), ?_⟩
  rw [hin, ← hlen, List.drop_left, he]

end

/-- Settles O22: the first half by the two entries that a start adds, the second by what `followOn` does to the second's. -/
theorem fusedPairCompletes : Obligations.FusedPairCompletes := by
  unfold Obligations.FusedPairCompletes
  refine ⟨fun qp d1 d2 s h => ?_, fun qp idx s e x hrun hfind ha hsome h2 hready => ?_⟩
  · obtain ⟨hf, hm, -⟩ := fusedRunsOk_parts h
    exact ⟨_, exec_fusedPair_starts hf hm, startFused_starts h⟩
  · obtain ⟨rfl, rfl⟩ := findInFlight_names hfind
    obtain ⟨⟨e', u⟩, hcomp⟩ := Option.isSome_iff_exists.mp hsome
    obtain ⟨-, -, -, hone⟩ := completion_does hcomp
    obtain ⟨rfl, rfl⟩ := completion_of_nothing ha hcomp
    have hdone : completeDone e' u = followOn e' (writeRecord e' u) := by
      unfold completeDone
      dsimp only
      rw [finish_of_ready hready, findInFlight_writeRecord]
      rfl
    obtain ⟨hnone, hfail, hok⟩ := followOn_writeRecord h2
    refine ⟨followOn e' (writeRecord e' u), ?_, hnone, ?_, hfail, hok⟩
    · rw [exec_descriptorComplete hrun, hfind, Option.bind_some, hone, if_pos ha, hdone]
      rfl
    · rw [(followOn_quiet e' (writeRecord e' u)).qps]
      exact (pairCompleted_writeRecord e' u).2.1

end Sys2Proof.Machine
end

section
/-! SUPPORT. The rows of an ATTN, a SAMPLE and a CARE (R196 to R201, R304 to R307, R393 to R404), and what a refused one leaves (R216, R336,
R408). -/

namespace Sys2Proof.Machine

/-! ### How work can end

A CARE whose fields are refused still reads what it can of its list for its record (R410): its work is followed by the ways in which it can
end, and by what its entry waits for, which no read changes. -/

/-- How a part of a descriptor's work that began in `w` has ended: OK only where `passes` holds, and otherwise with a failure that satisfies
`P`; what the entry waits for is as it was. -/
inductive Ended {α : Type} (passes : Prop) (P : Fail → Prop) (w : Work) : Except Fail α × Work → Prop where
  | ok {a : α} {v : Work} (h : passes) (hv : v.await = w.await) : Ended passes P w (.ok a, v)
  | error {f : Fail} {v : Work} (h : P f) (hv : v.await = w.await) : Ended passes P w (.error f, v)

/-- Work that ends so wherever it begins. -/
structure MEnds {α : Type} (passes : Prop) (P : Fail → Prop) (m : M α) : Prop where
  run : ∀ w : Work, Ended passes P w (m.run w)

/-- Work that may end OK and, where it fails, as it likes. -/
abbrev MReads {α : Type} (m : M α) : Prop := MEnds True (fun _ => True) m

/-- Work that fails only by waiting for something. -/
abbrev MWaits {α : Type} (m : M α) : Prop := MEnds True (fun f => f.waits = true) m

/-- The failure of a check of a descriptor's own fields. -/
def badFields : Fail := ⟨.badDescriptor, none, false⟩

/-- Work that never ends OK: it waits, or refuses its descriptor's fields. -/
abbrev MRefuses {α : Type} (m : M α) : Prop := MEnds False (fun f => f.waits = true ∨ f = badFields) m

section
variable {α β : Type} {p q : Prop} {P Q : Fail → Prop}

theorem Ended.mono {w v : Work} {r : Except Fail α × Work} (h : Ended p P v r) (hv : v.await = w.await) (hp : p → q)
    (hP : ∀ f, P f → Q f) : Ended q Q w r := by
  cases h with
  | ok h hr => exact .ok (hp h) (hr.trans hv)
  | error h hr => exact .error (hP _ h) (hr.trans hv)

theorem MEnds.pure (a : α) : MEnds True P (pure a : M α) := ⟨fun _ => .ok trivial rfl⟩
theorem MEnds.throw {e : Fail} (h : P e) : MEnds p P (throw e : M α) := ⟨fun _ => .error h rfl⟩
theorem MEnds.get : MEnds True P (get : M Work) := ⟨fun _ => .ok trivial rfl⟩
theorem MEnds.getS : MEnds True P getS := ⟨fun _ => .ok trivial rfl⟩
theorem MEnds.modify {f : Work → Work} (h : ∀ w, (f w).await = w.await) : MEnds True P (modify f : M Unit) :=
  ⟨fun w => .ok trivial (h w)⟩
theorem MEnds.modS (f : State → State) : MEnds True P (modS f) := ⟨fun _ => .ok trivial rfl⟩

theorem MEnds.mono {m : M α} (h : MEnds p P m) (hP : ∀ f, P f → Q f) : MEnds p Q m := ⟨fun w => (h.run w).mono rfl id hP⟩

/-- The second part counts only where the first may end OK. -/
theorem MEnds.bind {m : M α} {f : α → M β} (h : MEnds p P m) (k : p → ∀ a, MEnds q P (f a)) : MEnds q P (m >>= f) := by
  refine ⟨fun w => ?_⟩
  have hm := h.run w
  rw [M.run_bind]
  generalize m.run w = r at hm
  cases hm with
  | ok hp hv => exact ((k hp _).run _).mono hv id fun _ => id
  | error hf hv => exact .error hf hv

/-- The handler counts only for the failures that there can be. -/
theorem MEnds.catches {m : M α} {f : Fail → M α} (h : MEnds p P m) (k : ∀ e, P e → MEnds p Q (f e)) : MEnds p Q (tryCatch m f) := by
  refine ⟨fun w => ?_⟩
  have hm := h.run w
  rw [M.run_tryCatch]
  generalize m.run w = r at hm
  cases hm with
  | ok hp hv => exact .ok hp hv
  | error hf hv => exact ((k _ hf).run _).mono hv id fun _ => id

theorem MEnds.ite {c : Prop} [Decidable c] {m n : M α} (h : MEnds p P m) (k : MEnds p P n) : MEnds p P (if c then m else n) := by
  split
  · exact h
  · exact k

theorem MEnds.forM {f : α → M PUnit} (h : ∀ a, MEnds True P (f a)) : ∀ l : List α, MEnds True P (l.forM f)
  | [] => MEnds.pure _
  | a :: l => (h a).bind fun _ _ => MEnds.forM h l

theorem MEnds.mapM {f : α → M β} (h : ∀ a, MEnds True P (f a)) (l : List α) : MEnds True P (l.mapM f) := by
  rw [← List.mapM'_eq_mapM]
  induction l with
  | nil => exact MEnds.pure _
  | cons a l ih => exact (h a).bind fun _ _ => ih.bind fun _ _ => MEnds.pure _

theorem MEnds.inTurn {m : M α} (k : Nat) (h : MEnds True P m) : MEnds True P (inTurn k m) := by
  unfold Machine.inTurn
  refine MEnds.get.bind fun _ _ => MEnds.bind (MEnds.modify ?_) fun _ _ => h.bind fun _ _ =>
    MEnds.bind (MEnds.modify ?_) fun _ _ => MEnds.pure _
  all_goals exact fun _ => rfl

/-- Of a failure only a wait gets past `attempt`. -/
theorem attempt_mwaits {m : M α} (h : MReads m) : MWaits (attempt m) := by
  refine (h.bind fun _ _ => MEnds.pure _).catches fun e _ => ?_
  split
  · next hw => exact MEnds.throw hw
  · exact MEnds.pure _

end

/-! ### Reads -/

theorem touch_mreads (a : Nat) : MReads (touch a) := by
  unfold touch
  refine MEnds.get.bind fun _ w => ?_
  dsimp only
  cases resolve w.s a with
  | unbacked => exact MEnds.throw trivial
  | unmapped => exact MEnds.throw trivial
  | companion _ =>
    dsimp only
    split
    · exact (MEnds.pure _).ite (MEnds.throw trivial)
    · exact MEnds.pure _
  | stack n off =>
    refine (MEnds.throw trivial).ite ?_
    split
    · exact MEnds.pure _
    · exact MEnds.modS _
    · exact (MEnds.modS _).bind fun _ _ => MEnds.throw trivial

theorem needLines_mreads (a len : Nat) : MReads (needLines a len) := by
  unfold needLines
  refine MEnds.get.bind fun _ _ => (MEnds.pure _).ite (MEnds.bind (MEnds.modify ?_) fun _ _ => MEnds.throw trivial)
  exact fun _ => rfl

theorem touchRange_mreads (a len : Nat) : MReads (touchRange a len) :=
  MEnds.get.bind fun _ _ => (MEnds.pure _).ite ((needLines_mreads a len).bind fun _ _ => MEnds.forM (fun _ => touch_mreads _) _)

theorem fetchBytes_mreads (a len : Nat) : MReads (fetchBytes a len) :=
  (touchRange_mreads a len).bind fun _ _ => MEnds.get.bind fun _ _ => MEnds.pure _

theorem noteRead_mreads (a len : Nat) : MReads (noteRead a len) := MEnds.modify fun w => by split <;> rfl

theorem readU64_mreads (a : Nat) : MReads (readU64 a) :=
  (((noteRead_mreads a 8).bind fun _ _ => fetchBytes_mreads a 8).bind fun _ _ => MEnds.pure _).bind fun _ _ => MEnds.pure _

/-! ### A CARE whose fields are refused (R408, R410) -/

theorem inStartOrder_mwaits (d : Desc) : MWaits (inStartOrder d) :=
  MEnds.get.bind fun _ _ => MEnds.ite (MEnds.throw (P := fun f => f.waits = true) rfl) (MEnds.pure _)

theorem shownWord_mwaits (a : Nat) : MWaits (shownWord a) :=
  MEnds.getS.bind fun _ _ => ((attempt_mwaits (readU64_mreads a)).bind fun _ _ => MEnds.pure _).ite (MEnds.pure _)

theorem careShown_mwaits (f : CareFields) : MWaits (careShown f) := by
  refine (MEnds.mapM (fun _ => shownWord_mwaits _) _).bind fun _ _ => ?_
  refine (MEnds.mapM (fun _ => MEnds.inTurn _ (shownWord_mwaits _)) _).bind fun _ _ => ?_
  exact MEnds.ite ((shownWord_mwaits _).bind fun _ _ => MEnds.pure _) (MEnds.pure _)

theorem needDesc_false_ends : MEnds False (· = badFields) (needDesc false) := MEnds.throw rfl

theorem careNames_ends {d : Desc} (h : careFieldsOk d (careFields d) = false) : MEnds False (· = badFields) (careNames d) := by
  unfold careNames
  dsimp only
  rw [h]
  exact needDesc_false_ends.bind fun hno => hno.elim

/-- What a CARE shows of its list changes nothing of the failure, unless it waits for a line. -/
theorem careChecks_mrefuses {d : Desc} (h : careFieldsOk d (careFields d) = false) : MRefuses (careChecks d) := by
  refine MEnds.bind (p := False) ((careNames_ends h).catches fun e he => ?_) fun hno => hno.elim
  have hrethrow : MRefuses (throw e : M (CareReady × Option Nat)) := MEnds.throw (.inr he)
  have hshown := (careShown_mwaits (careFields d)).mono (Q := fun f => f.waits = true ∨ f = badFields) fun _ => .inl
  exact MEnds.ite (hshown.bind fun _ _ => MEnds.bind (MEnds.modify fun _ => rfl) fun _ _ => hrethrow) hrethrow

theorem careBody_mrefuses {d : Desc} (h : careFieldsOk d (careFields d) = false) : MRefuses (careBody d) := by
  refine ((inStartOrder_mwaits d).mono fun _ => .inl).bind fun _ _ => ?_
  refine MEnds.bind (p := False) ((careChecks_mrefuses h).catches fun e he => ?_) fun hno => hno.elim
  dsimp only
  split
  · exact MEnds.bind (MEnds.modify fun _ => rfl) fun _ _ => MEnds.throw he
  · exact MEnds.throw he

/-- The fields that R408's first row refuses on their own fail its check. -/
theorem careFieldsOk_of_careRefused {d : Desc} (h : careRefused d) : careFieldsOk d (careFields d) = false := by
  refine Bool.eq_false_iff.mpr fun hok => ?_
  simp only [careFieldsOk, Bool.and_eq_true, bne_iff_ne, ne_eq, decide_eq_true_eq, and_assoc] at hok
  dsimp only [careFields] at hok
  obtain ⟨-, -, -, -, -, hclip, hcsmode, hamaxsrc, hrnd, hovf, hcount, -⟩ := hok
  rcases h with h | h | h | h | h | h
  · omega
  · omega
  · omega
  · exact hrnd h
  · exact hovf h
  · omega

/-! ### An ATTN and a SAMPLE whose fields are refused (R216, R336) -/

theorem needDesc_run_of_false {w : Work} {c : Bool} (h : c = false) : (needDesc c).run w = (.error badFields, w) := by
  rw [h]
  rfl

theorem orUnreadBy_run_of_badFields {α : Type} {how : M (State → State)} {m : M α} {w : Work} (h : m.run w = (.error badFields, w)) :
    (orUnreadBy how m).run w = (.error badFields, w) := by
  unfold orUnreadBy
  rw [M.run_tryCatch, h]
  rfl

/-- An ATTN whose own fields fail the first row of R216 has done nothing. -/
theorem attnBody_run_of_fields {d : Desc} {w : Work} (h : attnFieldsOk d (attnFields d) = false) :
    (attnBody d).run w = (.error badFields, w) := by
  have hnames : (attnNames d).run w = (.error badFields, w) := M.run_bind_of_error (needDesc_run_of_false h)
  have hready : (attnReady d).run w = (.error badFields, w) := M.run_bind_of_error (M.run_bind_of_error hnames)
  exact M.run_bind_of_error (orUnreadBy_run_of_badFields hready)

/-- A SAMPLE whose own fields fail the first row of R336 has done nothing. -/
theorem sampleBody_run_of_fields {d : Desc} {w : Work} (h : sampleFieldsOk d (sampleFields d) = false) :
    (sampleBody d).run w = (.error badFields, w) := by
  have hchecks : (sampleChecks d false).run w = (.error badFields, w) := M.run_bind_of_error (needDesc_run_of_false h)
  exact M.run_bind_of_error (orUnreadBy_run_of_badFields hchecks)

/-- The fields that R216's first row refuses on their own fail its check. -/
theorem attnFieldsOk_of_attnRefused {d : Desc} (h : attnRefused d) : attnFieldsOk d (attnFields d) = false := by
  refine Bool.eq_false_iff.mpr fun hok => ?_
  simp only [attnFieldsOk, Bool.and_eq_true, bne_iff_ne, ne_eq, decide_eq_true_eq, Bool.or_eq_true, Bool.not_eq_true',
    beq_iff_eq, and_assoc] at hok
  dsimp only [attnFields] at hok
  obtain ⟨-, -, -, -, happend, hkv, -, -, -, -, -, hdh, hrnd, hovf, hentries, -, -, -, hplazas, hlast, -⟩ := hok
  rcases h with ⟨hbit, h⟩ | ⟨h2, h4⟩ | h | h | h | h | h | h
  · exact happend.elim (fun hno => Bool.noConfusion (hbit.symm.trans hno)) h
  · exact hkv.elim h2 h4
  · exact hdh h
  · exact hrnd h
  · exact hovf h
  · exact hentries h
  · omega
  · omega

/-- The fields that R336's first row refuses on their own fail its check. -/
theorem sampleFieldsOk_of_sampleRefused {d : Desc} (h : sampleRefused d) : sampleFieldsOk d (sampleFields d) = false := by
  refine Bool.eq_false_iff.mpr fun hok => ?_
  simp only [sampleFieldsOk, Bool.and_eq_true, decide_eq_true_eq, Bool.or_eq_true, beq_iff_eq, and_assoc] at hok
  dsimp only [sampleFields] at hok
  obtain ⟨-, -, -, -, -, -, hdlogits, -, -, -, hentries, -, hvocab, hvocabMax, hplazas, hlast⟩ := hok
  rcases h with ⟨hdraw, h⟩ | h | h | h | h | h
  · obtain hverify | ⟨hnone, -⟩ := hdlogits
    · omega
    · exact h hnone
  · omega
  · omega
  · omega
  · omega
  · omega

/-! ### What a start leaves of refused work -/

section
variable {qp : Fin 64} {d : Desc} {body : M Unit} {s : State} {c : Instr}

/-- The state in which a class's own checks and work run. -/
abbrev workStart (qp : Fin 64) (d : Desc) (s : State) : Work :=
  Work.start (openStep d (headBase qp d s)).q.nextOrder [] (openStep d (headBase qp d s))

theorem classWork_of_error {f : Fail} {w : Work} (h : body.run (workStart qp d s) = (.error f, w)) :
    classWork qp d body s = (.error f, { w with s := sendQueued (openStep d (headBase qp d s)) w.s }) := by
  unfold classWork runWork runWorkAt
  rw [headResult_eq, h]
  rfl

/-- Work that refuses its descriptor's fields and does not wait leaves an entry of that status, which waits for nothing (R340, R544). -/
theorem startOne_of_mrefuses (h : MRefuses body) (hh : headStatus qp d s = .ok) (hn : nextOf d = none)
    (halone : readsAlone (classWork qp d body s).2 = true) (hw : waitsIn (classWork qp d body s).1 = false) :
    startedAs s qp d .nothing .badDescriptor (startOne qp d body s) := by
  obtain ⟨-, o, l, hnew⟩ := startOne_of_readsAlone hh hn hw halone
  have hend := h.run (workStart qp d s)
  rw [startedAs, hnew]
  generalize hr : body.run (workStart qp d s) = r at hend
  cases hend with
  | ok hno => exact hno.elim
  | error hf hv =>
    rw [classWork_of_error hr] at hw ⊢
    obtain hwaits | rfl := hf
    · exact Bool.noConfusion (hw.symm.trans hwaits)
    · simp only [workEntry, Option.map_some, hv]
      rfl

/-- Work that fails before it touches anything ends with nothing read or written. -/
theorem startOne_mem_of_untouched {f : Fail} (hrun : body.run (workStart qp d s) = (.error f, workStart qp d s)) (hf : f.waits = false)
    (hh : headStatus qp d s = .ok) (hn : nextOf d = none) (halone : readsAlone (classWork qp d body s).2 = true) :
    (startOne qp d body s).mem = s.mem := by
  have hwork := classWork_of_error hrun
  obtain ⟨hmem, -⟩ := startOne_of_readsAlone hh hn (by rw [hwork]; exact hf) halone
  have hsent : sendQueued (openStep d (headBase qp d s)) (workStart qp d s).s = openStep d (headBase qp d s) := if_pos rfl
  rw [hmem, hwork, settleWork_of_no_access rfl rfl rfl]
  dsimp only
  rw [hsent, openStep_mem, headBase_mem]

theorem mrefuses_of_run (h : ∀ w, body.run w = (.error badFields, w)) : MRefuses body := by
  refine ⟨fun w => ?_⟩
  rw [h w]
  exact .error (.inr rfl) rfl

/-! ### The rows -/

/-- The rows of an ATTN. -/
def attnRowsOf (qp : Fin 64) (d : Desc) : List Instr := [Instr.attnForward qp d, .attnBackward qp d, .appendOnly qp d]
/-- The rows of a SAMPLE. -/
def sampleRowsOf (qp : Fin 64) (d : Desc) : List Instr := [Instr.draw qp d, .verify qp d]
/-- The rows of a CARE. -/
def careRowsOf (qp : Fin 64) (d : Desc) : List Instr := [Instr.update qp d, .emit qp d, .updateEmit qp d, .scan qp d]

/-- A row that starts its descriptor alone, which marks no pair as a COPY_TENSOR or a GATHER does. -/
structure PlainRow (c : Instr) (qp : Fin 64) (d : Desc) (body : M Unit) : Prop where
  unpaired : nextOf d = none
  exec_eq : ∀ s, exec c s = startDesc true qp d body s

theorem PlainRow.exec_starts (hrow : PlainRow c qp d body) (hpass : passesHead qp d s = true) :
    exec c s = .next (startOne qp d body s) := by
  obtain ⟨hr, hcan, -⟩ := passesHead_iff.mp hpass
  rw [hrow.exec_eq, startDesc_starts _ hr hcan]

theorem PlainRow.completesOk (hrow : PlainRow c qp d body) (h : runsOk qp d body s = true) : CompletesOk c qp d body s :=
  completesOk_of_starts hrow.unpaired h (hrow.exec_starts (runsOk_iff.mp h).1)

theorem PlainRow.failsWith (hrow : PlainRow c qp d body) (hpass : passesHead qp d s = true)
    (halone : readsAlone (classWork qp d body s).2 = true) : FailsWith c qp d body s :=
  failsWith_of_starts (passesHead_iff.mp hpass).2.2 hrow.unpaired halone (hrow.exec_starts hpass)

/-- A row whose fields are refused starts, and its entry has that status. -/
theorem PlainRow.refused (hrow : PlainRow c qp d body) (h : MRefuses body) (hpass : passesHead qp d s = true)
    (halone : readsAlone (classWork qp d body s).2 = true) (hw : waitsIn (classWork qp d body s).1 = false) :
    ∃ t, exec c s = .next t ∧ startedAs s qp d .nothing .badDescriptor t :=
  ⟨_, hrow.exec_starts hpass, startOne_of_mrefuses h (passesHead_iff.mp hpass).2.2 hrow.unpaired halone hw⟩

/-- One whose work has then done nothing leaves memory as it was. -/
theorem PlainRow.refused_untouched (hrow : PlainRow c qp d body) (h : ∀ w, body.run w = (.error badFields, w))
    (hpass : passesHead qp d s = true) (halone : readsAlone (classWork qp d body s).2 = true)
    (hw : waitsIn (classWork qp d body s).1 = false) :
    ∃ t, exec c s = .next t ∧ startedAs s qp d .nothing .badDescriptor t ∧ t.mem = s.mem := by
  obtain ⟨-, -, hh⟩ := passesHead_iff.mp hpass
  exact ⟨_, hrow.exec_starts hpass, startOne_of_mrefuses (mrefuses_of_run h) hh hrow.unpaired halone hw,
    startOne_mem_of_untouched (h _) rfl hh hrow.unpaired halone⟩

theorem nextOf_of_class (hm : descClass d ≠ clsMove) (hs : descClass d ≠ clsShard) : nextOf d = none := by
  simp [nextOf, hm, hs]

/-- A row that is taken by its class and a field of its own. -/
theorem plainRow_of {n : Nat} {b : Bool} (hw : (descClass d == n && b) = true) (hm : n ≠ clsMove) (hs : n ≠ clsShard)
    (h : ∀ s, exec c s = startDesc (descClass d == n && b) qp d body s) : PlainRow c qp d body := by
  have hd := class_of_row hw
  exact ⟨nextOf_of_class (hd ▸ hm) (hd ▸ hs), fun s => by rw [h, hw]⟩

theorem attn_plainRow (hc : c ∈ attnRowsOf qp d) (hw : c.wellFormed = true) :
    PlainRow c qp d (attnBody d) := by
  simp only [attnRowsOf, List.mem_cons, List.not_mem_nil, or_false] at hc
  rcases hc with rfl | rfl | rfl
  all_goals exact plainRow_of hw (by decide) (by decide) fun _ => rfl

theorem sample_plainRow (hc : c ∈ sampleRowsOf qp d) (hw : c.wellFormed = true) : PlainRow c qp d (sampleBody d) := by
  simp only [sampleRowsOf, List.mem_cons, List.not_mem_nil, or_false] at hc
  rcases hc with rfl | rfl
  all_goals exact plainRow_of hw (by decide) (by decide) fun _ => rfl

theorem care_plainRow (hc : c ∈ careRowsOf qp d) (hw : c.wellFormed = true) :
    PlainRow c qp d (careBody d) := by
  simp only [careRowsOf, List.mem_cons, List.not_mem_nil, or_false] at hc
  rcases hc with rfl | rfl | rfl | rfl
  all_goals exact plainRow_of hw (by decide) (by decide) fun _ => rfl
end

/-- Settles O23: every row starts its descriptor as any does alone; refused fields end an ATTN and a SAMPLE before they touch anything, and
a CARE after it has shown what it can of its list. -/
theorem attnSampleAndCareRowsComplete : Obligations.AttnSampleAndCareRowsComplete := by
  intro qp d s
  refine ⟨fun hok => ?_, fun hok => ?_, fun hok => ?_, fun hpass => ⟨fun c hc hw halone => ?_, fun c hc hw halone => ?_,
    fun c hc hw halone => ?_⟩⟩
  · have row (c : Instr) (hc : c ∈ attnRowsOf qp d) (hw : c.wellFormed = true) := (attn_plainRow hc hw).completesOk hok
    exact ⟨row (.attnForward qp d) (by simp [attnRowsOf]), row (.attnBackward qp d) (by simp [attnRowsOf]),
      row (.appendOnly qp d) (by simp [attnRowsOf])⟩
  · have row (c : Instr) (hc : c ∈ sampleRowsOf qp d) (hw : c.wellFormed = true) := (sample_plainRow hc hw).completesOk hok
    exact ⟨row (.draw qp d) (by simp [sampleRowsOf]), row (.verify qp d) (by simp [sampleRowsOf])⟩
  · have row (c : Instr) (hc : c ∈ careRowsOf qp d) (hw : c.wellFormed = true) := (care_plainRow hc hw).completesOk hok
    exact ⟨row (.update qp d) (by simp [careRowsOf]), row (.emit qp d) (by simp [careRowsOf]),
      row (.updateEmit qp d) (by simp [careRowsOf]), row (.scan qp d) (by simp [careRowsOf])⟩
  · have hrow := attn_plainRow hc hw
    refine ⟨hrow.failsWith hpass halone, fun href hwait => ?_⟩
    obtain ⟨t, ht, hs, hm⟩ :=
      hrow.refused_untouched (fun _ => attnBody_run_of_fields (attnFieldsOk_of_attnRefused href)) hpass halone hwait
    exact ⟨t, ht, hs, fun _ => hm⟩
  · have hrow := sample_plainRow hc hw
    refine ⟨hrow.failsWith hpass halone, fun href hwait => ?_⟩
    obtain ⟨t, ht, hs, hm⟩ :=
      hrow.refused_untouched (fun _ => sampleBody_run_of_fields (sampleFieldsOk_of_sampleRefused href)) hpass halone hwait
    exact ⟨t, ht, hs, fun _ => hm⟩
  · have hrow := care_plainRow hc hw
    refine ⟨hrow.failsWith hpass halone, fun href hwait => ?_⟩
    obtain ⟨t, ht, hs⟩ := hrow.refused (careBody_mrefuses (careFieldsOk_of_careRefused href)) hpass halone hwait
    exact ⟨t, ht, hs, False.elim⟩

end Sys2Proof.Machine
end

section
/-! SUPPORT. A request that is served now, and what a READ answers (R611, R615 to R617). -/

namespace Sys2Proof.Machine

/-- Where the state serves a request now, its own row executes it at once and answers it on its path (R615, R617). -/
theorem request_of_reqState {isRow : Bool} {own : Own} {p : Asker} {r : List Byte} {s u : State} (hrow : isRow = true)
    (hu : reqState p r s = some u) :
    let a := serveOpc own (Asker.path p) r u
    request isRow own p r s = .next (reqSent p r (responseBytes r a) s (noteAbort a)) := by
  subst hrow
  unfold reqState at hu
  split at hu
  · cases hu
  · rename_i hserves
    obtain ⟨hrun, hflush⟩ : running s = true ∧ s.gate.flushPending = [] := by simpa using hserves
    cases p with
    | carard tag =>
      cases hu
      exact request_carard hrun hflush
    | field =>
      dsimp only at hu
      split at hu
      · rename_i src q rest hqueue
        split at hu
        · rename_i holdest
          obtain ⟨rfl, hnew⟩ := holdest
          cases hu
          have hkept : keptResponse { s with od := { s.od with fieldQueue := rest } } src q = none := hnew
          rw [request_field hrun hflush hqueue]
          simp only [serveField, hkept, reqSent, hqueue]
          rfl
        · cases hu
      · cases hu

/-- The checks of R617 that a READ passes where `readReaches` names its object. -/
theorem readReaches_some {p : Path} {r : List Byte} {u : State} {o : Obj} (h : readReaches p r u = some o) :
    malformed r = false ∧ reqOpc r = 1 ∧ debugBusy p r u = false ∧ objectChecks p r u = .ok o ∧ o.access ≠ .wo := by
  unfold readReaches at h
  split at h
  · cases h
  · rename_i hpass
    simp only [Bool.or_eq_true, not_or, Bool.not_eq_true, bne_eq_false_iff_eq] at hpass
    obtain ⟨⟨hform, hopc⟩, hbusy⟩ := hpass
    split at h
    · rename_i hobj
      split at h
      · cases h
      · rename_i hreadable
        cases h
        exact ⟨hform, hopc, hbusy, hobj, hreadable⟩
    · cases h

/-- A READ that passes every check of R617 is served its object's value, whatever rule the object has for writes. -/
theorem serveOpc_of_readReaches {own : Own} {p : Path} {r : List Byte} {u : State} {o : Obj} (h : readReaches p r u = some o) :
    serveOpc own p r u = ⟨abNone, leBytes o.size (objVal u p (reqIndex r) (reqSub r)), afterRead r u⟩ := by
  obtain ⟨hform, hopc, hbusy, hobj, hreadable⟩ := readReaches_some h
  have hnowrite : isWriteReq r = false := by simp [isWriteReq, hopc]
  have haccess : accessCheck o (reqOpc r) = abNone := by simp [accessCheck, hopc, hreadable]
  calc serveOpc own p r u = serveObject own p r u := by simp [serveOpc, hform, hopc]
    _ = _ := by simp [serveObject, hobj, hnowrite, haccess, hbusy]

/-- Settles O33: the row of a probe's READ and that of every other READ serve it alike, and it passes the checks of R617 to its value. -/
theorem readsAnswerTheValue : Obligations.ReadsAnswerTheValue := by
  intro p r s u o hu hreach v c hc hw
  have answers (isRow : Bool) (hrow : isRow = true) : request isRow ownNone p r s
      = .next (reqSent p r (okResponse r (leBytes o.size (objVal u (Asker.path p) (reqIndex r) (reqSub r))) v) s v) := by
    rw [request_of_reqState hrow hu, serveOpc_of_readReaches hreach]
    rfl
  simp only [List.mem_cons, List.not_mem_nil, or_false] at hc
  rcases hc with rfl | rfl
  · exact answers (isReadRow r) hw
  · exact answers (readsProbe r) hw

end Sys2Proof.Machine
end

section
/-! SUPPORT. The rows of a VERSION: work that only reads leaves memory and every slot as they are (R547, R563), and what a completion makes
of the slot that its VERSION names (R264, R265, R277, R280, R564). -/

namespace Sys2Proof.Machine

/-! ### Work that only reads -/

/-- Memory and the version and adapter slots stay. -/
structure KeepsSlots (s t : State) : Prop where
  mem : t.mem = s.mem
  vers : t.vers = s.vers
  adapters : t.adapters = s.adapters

theorem KeepsSlots.refl (s : State) : KeepsSlots s s := ⟨rfl, rfl, rfl⟩
theorem KeepsSlots.trans {s t u : State} (a : KeepsSlots s t) (b : KeepsSlots t u) : KeepsSlots s u :=
  ⟨b.mem.trans a.mem, b.vers.trans a.vers, b.adapters.trans a.adapters⟩
theorem KeepsSlots.foldl {α : Type} {f : State → α → State} (h : ∀ s x, KeepsSlots s (f s x)) :
    ∀ (l : List α) (s : State), KeepsSlots s (l.foldl f s)
  | [], s => KeepsSlots.refl s
  | x :: l, s => (h s x).trans (KeepsSlots.foldl h l (f s x))

theorem Sends.adapters {s t : State} (h : Sends s t) : t.adapters = s.adapters := by rw [h.eq]
theorem Sends.keepsSlots {s t : State} (h : Sends s t) : KeepsSlots s t := ⟨h.mem, h.vers, h.adapters⟩

/-- A part of a descriptor's work has written nothing and suppressed no write, and what its entry waits for is as it was. -/
structure OnlyReads (w v : Work) : Prop where
  slots : KeepsSlots w.s v.s
  writes : v.writes = w.writes
  late : v.late = w.late
  await : v.await = w.await

theorem OnlyReads.refl (w : Work) : OnlyReads w w := ⟨KeepsSlots.refl w.s, rfl, rfl, rfl⟩
theorem OnlyReads.trans {w v x : Work} (a : OnlyReads w v) (b : OnlyReads v x) : OnlyReads w x :=
  ⟨a.slots.trans b.slots, b.writes.trans a.writes, b.late.trans a.late, b.await.trans a.await⟩

/-- Work of which this holds, whether it ends OK or fails. -/
structure MOnlyReads {α : Type} (m : M α) : Prop where
  run : ∀ w : Work, OnlyReads w (m.run w).2

section
variable {α β : Type}

theorem MOnlyReads.pure (a : α) : MOnlyReads (pure a : M α) := ⟨OnlyReads.refl⟩
theorem MOnlyReads.throw (e : Fail) : MOnlyReads (throw e : M α) := ⟨OnlyReads.refl⟩
theorem MOnlyReads.get : MOnlyReads (get : M Work) := ⟨OnlyReads.refl⟩
theorem MOnlyReads.getS : MOnlyReads getS := ⟨OnlyReads.refl⟩
theorem MOnlyReads.modS {f : State → State} (h : ∀ s, KeepsSlots s (f s)) : MOnlyReads (modS f) :=
  ⟨fun w => ⟨h w.s, rfl, rfl, rfl⟩⟩

theorem MOnlyReads.bind {m : M α} {f : α → M β} (h : MOnlyReads m) (k : ∀ a, MOnlyReads (f a)) : MOnlyReads (m >>= f) := by
  refine ⟨fun w => ?_⟩
  have hm := h.run w
  rw [M.run_bind]
  generalize m.run w = r at hm
  obtain ⟨_ | a, v⟩ := r
  · exact hm
  · exact hm.trans ((k a).run v)

theorem MOnlyReads.ite {c : Prop} [Decidable c] {m n : M α} (h : MOnlyReads m) (k : MOnlyReads n) : MOnlyReads (if c then m else n) := by
  split
  · exact h
  · exact k

theorem MOnlyReads.forM {f : α → M PUnit} (h : ∀ a, MOnlyReads (f a)) : ∀ l : List α, MOnlyReads (l.forM f)
  | [] => MOnlyReads.pure _
  | a :: l => (h a).bind fun _ => MOnlyReads.forM h l

theorem MOnlyReads.mapM {f : α → M β} (h : ∀ a, MOnlyReads (f a)) (l : List α) : MOnlyReads (l.mapM f) := by
  rw [← List.mapM'_eq_mapM]
  induction l with
  | nil => exact MOnlyReads.pure _
  | cons a l ih => exact (h a).bind fun _ => ih.bind fun _ => MOnlyReads.pure _
end

theorem need_onlyReads (c : Bool) (st : Status) : MOnlyReads (need c st) := (MOnlyReads.pure _).ite (MOnlyReads.throw _)
theorem needDesc_onlyReads (c : Bool) : MOnlyReads (needDesc c) := need_onlyReads c _

theorem countUncorrectable_keepsSlots (n a source : Nat) (s : State) : KeepsSlots s (countUncorrectable n a source s) := by
  refine KeepsSlots.trans ?_ (raiseAlert_sends 4 _).keepsSlots
  exact ⟨rfl, rfl, rfl⟩

/-- A read of a codeword counts what it meets and stores nothing (R493, R497). -/
theorem touch_onlyReads (a : Nat) : MOnlyReads (touch a) := by
  unfold touch
  refine MOnlyReads.get.bind fun w => ?_
  dsimp only
  cases resolve w.s a with
  | unbacked => exact MOnlyReads.throw _
  | unmapped => exact MOnlyReads.throw _
  | companion _ =>
    dsimp only
    split
    · exact (MOnlyReads.pure _).ite (MOnlyReads.throw _)
    · exact MOnlyReads.pure _
  | stack n off =>
    refine (MOnlyReads.throw _).ite ?_
    split
    · exact MOnlyReads.pure _
    · exact MOnlyReads.modS fun _ => ⟨rfl, rfl, rfl⟩
    · exact (MOnlyReads.modS (countUncorrectable_keepsSlots _ _ _)).bind fun _ => MOnlyReads.throw _

theorem needLines_onlyReads (a len : Nat) : MOnlyReads (needLines a len) := by
  unfold needLines
  refine MOnlyReads.get.bind fun _ => (MOnlyReads.pure _).ite (MOnlyReads.bind ⟨fun _ => ?_⟩ fun _ => MOnlyReads.throw _)
  exact ⟨KeepsSlots.refl _, rfl, rfl, rfl⟩

theorem touchRange_onlyReads (a len : Nat) : MOnlyReads (touchRange a len) :=
  MOnlyReads.get.bind fun _ => (MOnlyReads.pure _).ite
    ((needLines_onlyReads a len).bind fun _ => MOnlyReads.forM (fun _ => touch_onlyReads _) _)

theorem noteRead_onlyReads (a len : Nat) : MOnlyReads (noteRead a len) := by
  refine ⟨fun w => ?_⟩
  change OnlyReads w (if w.holds a len then w else { w with reads := ⟨a, len, w.turn, w.data⟩ :: w.reads })
  split
  · exact OnlyReads.refl w
  · exact ⟨KeepsSlots.refl _, rfl, rfl, rfl⟩

theorem readBytes_onlyReads (a len : Nat) : MOnlyReads (readBytes a len) :=
  (noteRead_onlyReads a len).bind fun _ => (touchRange_onlyReads a len).bind fun _ => MOnlyReads.get.bind fun _ => MOnlyReads.pure _

theorem readU64_onlyReads (a : Nat) : MOnlyReads (readU64 a) :=
  ((readBytes_onlyReads a 8).bind fun _ => MOnlyReads.pure _).bind fun _ => MOnlyReads.pure _

theorem needMapped_onlyReads (a len : Nat) : MOnlyReads (needMapped a len) := by
  refine MOnlyReads.getS.bind fun s => ?_
  split
  · exact MOnlyReads.throw _
  · exact MOnlyReads.pure _

/-! ### What a start leaves of it -/

/-- Of work that has written nothing only its reads have a meaning for the stacks and those that run beside it (R547). -/
theorem settleWork_of_no_writes {w : Work} (hw : w.writes = []) : settleWork w = settleReads w w.s := by
  have hover (e : InFlight) (s : State) : overlap e w.reads [] s = s := by
    simp [overlap, racyReads_nil_right, racyParts, scrambleAll]
  have hfold (l : List InFlight) (s : State) : l.foldl (fun s e => overlap e w.reads [] s) s = s := by
    induction l generalizing s with
    | nil => rfl
    | cons e l ih => rw [List.foldl_cons, hover, ih]
  unfold settleWork settleAmong
  simp only [hw, hfold, List.map_nil, spoilRuns_nil, raceAll_of_no_writes, if_true, spoilOne_of_no_writes, List.map_id']

theorem markStack_keepsSlots (n : Nat) (s : State) : KeepsSlots s (markStack n s) := by
  unfold markStack
  split <;> exact ⟨rfl, rfl, rfl⟩

theorem markRange_keepsSlots (a len : Nat) (s : State) : KeepsSlots s (markRange a len s) := by
  refine KeepsSlots.foldl (fun s l => ?_) _ s
  unfold markLine
  split
  · exact markStack_keepsSlots _ s
  · exact KeepsSlots.refl s

theorem useLine_keepsSlots (l : Nat) (s : State) : KeepsSlots s (useLine l s) := by
  have hmark : KeepsSlots s (markKey l s) := by
    unfold markKey
    split
    · exact markStack_keepsSlots _ s
    · exact KeepsSlots.refl s
  unfold useLine
  split
  · split
    · exact ⟨rfl, rfl, rfl⟩
    · exact hmark.trans ⟨rfl, rfl, rfl⟩
  · exact hmark

theorem noteRequests_keepsSlots (l : List Nat) (s : State) : KeepsSlots s (noteRequests l s) := by
  unfold noteRequests
  dsimp only
  split <;> exact ⟨rfl, rfl, rfl⟩

theorem settleReads_keepsSlots (w : Work) (s : State) : KeepsSlots s (settleReads w s) := by
  have hdemand (l : List MemAccess) (u : State) : KeepsSlots u (demandReads l u) := ⟨rfl, rfl, rfl⟩
  unfold settleReads
  dsimp only
  refine KeepsSlots.trans ?_ (hdemand _ _)
  split
  · exact (noteRequests_keepsSlots _ s).trans (KeepsSlots.foldl (fun s _ => markRange_keepsSlots _ _ s) _ _)
  · exact (noteRequests_keepsSlots _ s).trans (KeepsSlots.foldl (fun s _ => useLine_keepsSlots _ s) _ _)

section
variable {qp : Fin 64} {d : Desc} {body : M Unit} {s : State} {a : Await}

theorem openStep_keepsSlots (d : Desc) (s : State) : KeepsSlots s (openStep d s) := by
  unfold openStep
  split <;> exact ⟨rfl, rfl, rfl⟩

theorem headBase_keepsSlots (qp : Fin 64) (d : Desc) (s : State) : KeepsSlots s (headBase qp d s) := by
  obtain ⟨x, hx⟩ := headBaseAt_sec (headIdx s qp) d (advanceHead qp 1 s)
  rw [headBase, hx]
  exact ⟨rfl, rfl, rfl⟩

/-- A class's work that only reads, once its entry is to wait for `a`, ends so. -/
theorem classWork_onlyReads (h : ∀ w : Work, OnlyReads { w with await := a } (body.run w).2) :
    OnlyReads { workStart qp d s with await := a } (classWork qp d body s).2 := by
  have hrun := h (workStart qp d s)
  have hlate : settleLate (body.run (workStart qp d s)) = body.run (workStart qp d s) := by
    unfold settleLate
    rw [hrun.late]
    split
    · next hsome => cases hsome
    · rfl
  unfold classWork runWork runWorkAt
  rw [headResult_eq, hlate]
  exact hrun.trans ⟨(sendQueued_sends _ _).keepsSlots, rfl, rfl, rfl⟩

/-- A descriptor whose work only reads and ends OK leaves memory and the slots, and an entry that waits for what its class says. -/
theorem startOne_of_onlyReads (h : ∀ w : Work, OnlyReads { w with await := a } (body.run w).2) (hn : nextOf d = none)
    (hok : runsOk qp d body s = true) :
    KeepsSlots s (startOne qp d body s) ∧ startedAs s qp d a .ok (startOne qp d body s) := by
  obtain ⟨hpass, halone, hends⟩ := runsOk_iff.mp hok
  obtain ⟨-, -, hh⟩ := passesHead_iff.mp hpass
  have hx : waitsIn (classWork qp d body s).1 = false := by rw [hends]; rfl
  have hwork := classWork_onlyReads (qp := qp) (d := d) (s := s) h
  have hbase : KeepsSlots s (openStep d (headBase qp d s)) := (headBase_keepsSlots qp d s).trans (openStep_keepsSlots d _)
  have hsettled : KeepsSlots s (settleWork (classWork qp d body s).2) := by
    rw [settleWork_of_no_writes hwork.writes]
    exact (hbase.trans hwork.slots).trans (settleReads_keepsSlots _ _)
  obtain ⟨-, o, l, hnew⟩ := startOne_of_readsAlone hh hn hx halone
  obtain ⟨l', hentry⟩ := settleEntry_of_readsAlone (old := headBase qp d s)
    (e := heldEntry qp (headIdx s qp) d (openStep d (headBase qp d s))) hn rfl halone
  refine ⟨hsettled.trans ?_, ?_⟩
  · rw [startOne_settles hh hx, hentry]
    exact ⟨rfl, rfl, rfl⟩
  · rw [startedAs, hnew]
    simp [workEntry, hends, hwork.await]
end

/-! ### The start of a VERSION (R563) -/

theorem viewKind_onlyReads (a : Nat) : MOnlyReads (viewKind a) :=
  (readU64_onlyReads a).bind fun _ => (needDesc_onlyReads _).bind fun _ => (needMapped_onlyReads _ _).bind fun _ =>
    (readU64_onlyReads _).bind fun _ => (needDesc_onlyReads _).bind fun _ => MOnlyReads.pure _

/-- A VERSION's checks only read, and its entry waits for its completion. -/
theorem versionBody_onlyReads (d : Desc) (w : Work) : OnlyReads { w with await := .version d } ((versionBody d).run w).2 := by
  have hact : MOnlyReads (do
      let r := versionAct (versionFields d) (← getS)
      need (r.1 == .ok) r.1) := MOnlyReads.getS.bind fun _ => need_onlyReads _ _
  unfold versionBody
  rw [M.run_bind, show (setAwait (.version d)).run w = (.ok (), { w with await := .version d }) from rfl]
  refine MOnlyReads.run ((needDesc_onlyReads _).bind fun _ => ?_) _
  split
  · refine (needMapped_onlyReads _ _).bind fun _ => (MOnlyReads.mapM (fun _ => viewKind_onlyReads _) _).bind fun kinds => ?_
    exact MOnlyReads.getS.bind fun _ => (need_onlyReads _ _).bind fun _ => hact
  · split
    · exact (needMapped_onlyReads _ _).bind fun _ => hact
    · exact hact

/-- A VERSION's row whose checks pass starts it and moves no slot. -/
theorem version_starts {c : Instr} {qp : Fin 64} {d : Desc} {s : State} {op : Nat} (hw : isVersion op d = true)
    (hexec : ∀ s, exec c s = startDesc (isVersion op d) qp d (versionBody d) s) (hok : runsOk qp d (versionBody d) s = true) :
    ∃ t, exec c s = .next t ∧ t.mem = s.mem ∧ t.vers = s.vers ∧ t.adapters = s.adapters ∧ startedAs s qp d (.version d) .ok t := by
  have hrow : PlainRow c qp d (versionBody d) := plainRow_of hw (by decide) (by decide) hexec
  obtain ⟨hslots, hstarted⟩ := startOne_of_onlyReads (versionBody_onlyReads d) hrow.unpaired hok
  exact ⟨_, hrow.exec_starts (runsOk_iff.mp hok).1, hslots.mem, hslots.vers, hslots.adapters, hstarted⟩

/-! ### Slots -/

/-- A write of a slot changes that slot and no other. -/
theorem getSlot_setSlot (x y : SlotId) (w : WSlot) (s : State) : getSlot (setSlot x w s) y = if y = x then w else getSlot s y := by
  cases x <;> cases y <;> simp [getSlot, setSlot, Vector.getElem_set, Fin.ext_iff, eq_comm]

theorem setSlot_version_vers (v x : Fin 4) (w : WSlot) (s : State) :
    (setSlot (.version v) w s).vers[x] = if x = v then w else s.vers[x] := by
  simpa [getSlot] using getSlot_setSlot (.version v) (.version x) w s

theorem setSlot_adapter_adapters (a x : Fin 256) (w : WSlot) (s : State) :
    (setSlot (.adapter a) w s).adapters[x] = if x = a then w else s.adapters[x] := by
  simpa [getSlot] using getSlot_setSlot (.adapter a) (.adapter x) w s

/-! ### What each operation makes of the slots (R265, R267, R277, R280) -/

theorem followStart_keepsSlots (v : Fin 4) (s : State) : KeepsSlots s (followStart v s) := by
  unfold followStart
  split <;> exact ⟨rfl, rfl, rfl⟩

theorem publishSlot_of_used {f : VersionFields} {v : Fin 4} {s : State} (h : (s.vers[v]).state ≠ .free) : (publishSlot f v s).2 = s :=
  congrArg Prod.snd (if_pos h)

theorem publishSlot_of_free {f : VersionFields} {v : Fin 4} {s : State} (h : (s.vers[v]).state = .free) :
    KeepsSlots (setSlot (.version v) ⟨.live, f.serial, 0, f.table, f.entries, s.pubCount, false⟩ s) (publishSlot f v s).2 := by
  unfold publishSlot
  rw [if_neg (not_not.mpr h)]
  refine KeepsSlots.trans ?_ (followStart_keepsSlots v _)
  exact ⟨rfl, rfl, rfl⟩

/-- PUBLISH makes the slot LIVE where it is FREE. -/
theorem publishSlot_slots (f : VersionFields) (v : Fin 4) (s : State) :
    (publishSlot f v s).2.adapters = s.adapters ∧ ∀ x : Fin 4, (publishSlot f v s).2.vers[x]
      = if x = v ∧ (s.vers[x]).state = .free then ⟨.live, f.serial, 0, f.table, f.entries, s.pubCount, false⟩ else s.vers[x] := by
  by_cases hfree : (s.vers[v]).state = .free
  · have hset := publishSlot_of_free (f := f) hfree
    refine ⟨hset.adapters, fun x => ?_⟩
    rw [hset.vers, setSlot_version_vers]
    exact if_congr ⟨fun hx => ⟨hx, hx ▸ hfree⟩, And.left⟩ rfl rfl
  · rw [publishSlot_of_used hfree]
    exact ⟨rfl, fun x => (if_neg fun ⟨hx, h⟩ => hfree (hx ▸ h)).symm⟩

/-- What RETIRE asks of its slot: it is LIVE, of the serial named, and not the start version (R265, R561). -/
abbrev mayRetire (f : VersionFields) (v : Fin 4) (s : State) : Prop :=
  (s.vers[v]).state = .live ∧ s.sched.startVersion ≠ some v ∧ (f.serial = 0 ∨ f.serial = (s.vers[v]).gen)

theorem retireVersion_of_mayRetire {f : VersionFields} {v : Fin 4} {s : State} (h : mayRetire f v s) :
    (retireVersion f v s).2 = retireSlot (.version v) f.force s := by
  obtain ⟨hlive, hstart, hserial⟩ := h
  have hmatch : ¬(!(f.serial == 0 || f.serial == (s.vers[v]).gen)) = true := by simpa [or_iff_not_imp_left] using hserial
  unfold retireVersion
  rw [if_neg hstart, if_neg (not_or.mpr ⟨not_not.mpr hlive, hmatch⟩)]

theorem retireVersion_of_not_mayRetire {f : VersionFields} {v : Fin 4} {s : State} (h : ¬mayRetire f v s) :
    (retireVersion f v s).2 = s := by
  unfold retireVersion
  split
  · rfl
  · next hstart =>
    refine congrArg Prod.snd (if_pos ?_)
    by_contra hgood
    obtain ⟨hlive, hserial⟩ := not_or.mp hgood
    exact h ⟨not_not.mp hlive, hstart, by simpa [or_iff_not_imp_left] using hserial⟩

/-- RETIRE makes the slot RETIRING where it is as it asks. -/
theorem retireVersion_slots (f : VersionFields) (v : Fin 4) (s : State) :
    (retireVersion f v s).2.adapters = s.adapters ∧ ∀ x : Fin 4, (retireVersion f v s).2.vers[x]
      = if x = v ∧ mayRetire f x s then { (s.vers[x]) with state := .retiring, force := f.force } else s.vers[x] := by
  by_cases hmay : mayRetire f v s
  · rw [retireVersion_of_mayRetire hmay]
    refine ⟨rfl, fun x => ?_⟩
    rw [retireSlot, setSlot_version_vers]
    by_cases hx : x = v
    · subst hx
      rw [if_pos rfl, if_pos ⟨rfl, hmay⟩]
      rfl
    · rw [if_neg hx, if_neg fun h => hx h.1]
  · rw [retireVersion_of_not_mayRetire hmay]
    exact ⟨rfl, fun x => (if_neg fun ⟨hx, h⟩ => hmay (hx ▸ h)).symm⟩

/-- The state in which the LIVE adapter slot of a key, where there is one, has become RETIRING (R277, R280). -/
def keyRetired (key : Nat) (force : Bool) (s : State) : State :=
  ((keySlot s key).map fun a => retireSlot (.adapter a) force s).getD s

theorem keyRetired_sched (key : Nat) (force : Bool) (s : State) : (keyRetired key force s).sched = s.sched := by
  unfold keyRetired
  cases keySlot s key <;> rfl

theorem keyRetired_slots (key : Nat) (force : Bool) (s : State) :
    (keyRetired key force s).vers = s.vers ∧ ∀ x : Fin 256, (keyRetired key force s).adapters[x]
      = if keySlot s key = some x then { (s.adapters[x]) with state := .retiring, force := force } else s.adapters[x] := by
  unfold keyRetired
  cases keySlot s key with
  | none => exact ⟨rfl, fun _ => rfl⟩
  | some a =>
    refine ⟨rfl, fun x => (setSlot_adapter_adapters a x _ s).trans ?_⟩
    by_cases hx : x = a
    · subst hx
      rw [if_pos rfl, if_pos rfl]
      rfl
    · rw [if_neg hx, if_neg fun h => hx (Option.some.inj h).symm]

theorem retireAdapter_state (f : VersionFields) (s : State) : (retireAdapter f s).2 = keyRetired f.key f.force s := by
  unfold retireAdapter keyRetired
  cases keySlot s f.key <;> rfl

/-- LOAD_ADAPTER of a FREE slot makes it LIVE after the key's own slot, where there is one, has become RETIRING. -/
theorem loadAdapter_of_free {f : VersionFields} {b : Fin 256} {s : State} (h : (s.adapters[b]).state = .free) :
    (loadAdapter f b s).2.vers = s.vers ∧ (loadAdapter f b s).2.sched.lastGen = s.sched.lastGen + 1
      ∧ ∀ x : Fin 256, (loadAdapter f b s).2.adapters[x]
        = if x = b then ⟨.live, s.sched.lastGen + 1, f.key, f.table, f.entries, 0, false⟩
          else if keySlot s f.key = some x then { (s.adapters[x]) with state := .retiring, force := false } else s.adapters[x] := by
  have hstate : (loadAdapter f b s).2 = { setSlot (.adapter b) ⟨.live, s.sched.lastGen + 1, f.key, f.table, f.entries, 0, false⟩
      (keyRetired f.key false s) with sched := { s.sched with lastGen := s.sched.lastGen + 1 } } := by
    unfold loadAdapter keyRetired
    rw [if_neg (not_not.mpr h)]
    cases keySlot s f.key <;> rfl
  obtain ⟨hvers, hadapters⟩ := keyRetired_slots f.key false s
  rw [hstate]
  refine ⟨hvers, rfl, fun x => (setSlot_adapter_adapters b x _ _).trans ?_⟩
  rw [hadapters]

theorem loadAdapter_of_used {f : VersionFields} {b : Fin 256} {s : State} (h : (s.adapters[b]).state ≠ .free) :
    (loadAdapter f b s).2 = s := by
  unfold loadAdapter
  rw [if_pos h]

theorem loadAdapter_vers (f : VersionFields) (b : Fin 256) (s : State) : (loadAdapter f b s).2.vers = s.vers := by
  by_cases h : (s.adapters[b]).state = .free
  · exact (loadAdapter_of_free h).1
  · rw [loadAdapter_of_used h]

/-! ### A VERSION's completion (R564) -/

theorem versionSlot_lt (d : Desc) : (versionFields d).slot < 256 := by
  simp only [versionFields, fld]
  omega

theorem op_of_isVersion {op : Nat} {d : Desc} (h : isVersion op d = true) : (versionFields d).op = op := by
  simp_all [isVersion]

section
variable {f : VersionFields} {s : State}

/-- Which operation acts, by OP and the slot named. -/
theorem versionAct_publish (hop : f.op = 0) (hslot : f.slot < 4) : versionAct f s = publishSlot f ⟨f.slot, hslot⟩ s := by
  simp [versionAct, versionSlot, hop, hslot]
theorem versionAct_retire (hop : f.op = 1) (hslot : f.slot < 4) : versionAct f s = retireVersion f ⟨f.slot, hslot⟩ s := by
  simp [versionAct, versionSlot, hop, hslot]
theorem versionAct_loadAdapter (hop : f.op = 2) {b : Fin 256} (hb : b.val = f.slot) : versionAct f s = loadAdapter f b s := by
  obtain ⟨n, hn⟩ := b
  subst hb
  simp [versionAct, versionSlot, hop, hn]
theorem versionAct_retireAdapter (hop : f.op = 3) : versionAct f s = retireAdapter f s := by
  simp [versionAct, hop]
end

/-- Writing a record leaves the slots and the scheduler. -/
theorem writeRecord_keeps (e : InFlight) (s : State) : (writeRecord e s).vers = s.vers ∧ (writeRecord e s).adapters = s.adapters
    ∧ (writeRecord e s).sched = s.sched := by
  have hsent := writeRecord_sends e s
  obtain ⟨c, r, h, hcount⟩ := countOk_eq e s
  have hbefore : (recorded e s).vers = s.vers ∧ (recorded e s).adapters = s.adapters ∧ (recorded e s).sched = s.sched := by
    unfold recorded
    rw [hcount]
    exact ⟨rfl, rfl, rfl⟩
  rw [hsent.vers, hsent.adapters, hsent.sched]
  exact hbefore

/-- A VERSION whose record's WR can leave acts and completes (R549, R564). -/
theorem exec_descriptorComplete_of_version {qp : Fin 64} {idx : W32} {s : State} {e : InFlight} {d : Desc} (hrun : running s = true)
    (hfind : findInFlight s qp idx = some e) (hawait : e.await = .version d) (hst : e.status = .ok) (hracy : e.racy = false)
    (hfirst : e.follows = none) (hwr : writesDone s e = true) (hready : recordReady (versionCompletion e d s).2 qp = true) :
    ∃ t, exec (.descriptorComplete qp idx) s = .next t ∧ pairCompleted e s t ∧ t.vers = (versionAct (versionFields d) s).2.vers
      ∧ t.adapters = (versionAct (versionFields d) s).2.adapters ∧ t.sched = (versionAct (versionFields d) s).2.sched := by
  have hcomp : completion e s = some (versionCompletion e d s) := by simp [completion, hwr, hfirst, hawait]
  obtain ⟨hq, hi, hqueues, hone⟩ := completion_does hcomp
  have hacted : (versionCompletion e d s).2 = (versionAct (versionFields d) s).2 := by simp [versionCompletion, hst, hracy]
  have hexec : exec (.descriptorComplete qp idx) s
      = .next (writeRecord (versionCompletion e d s).1 (versionCompletion e d s).2) := by
    rw [exec_descriptorComplete hrun, hfind, Option.bind_some, hone, hawait, if_neg (by simp),
      finish_of_ready (by rw [hq, (findInFlight_names hfind).1]; exact hready)]
    rfl
  have hpair := pairCompleted_of_place hq hi (pairCompleted_writeRecord (versionCompletion e d s).1 (versionCompletion e d s).2)
  obtain ⟨hvers, hadapters, hsched⟩ := writeRecord_keeps (versionCompletion e d s).1 (versionCompletion e d s).2
  refine ⟨_, hexec, ?_, hacted ▸ hvers, hacted ▸ hadapters, hacted ▸ hsched⟩
  unfold pairCompleted at hpair ⊢
  rw [← hqueues]
  exact hpair

/-- Settles O24: the checks of a start only read; a completion's record leaves what its operation has made of the slots; and a slot freed is
the only one written. -/
theorem versionRowsMoveTheirSlot : Obligations.VersionRowsMoveTheirSlot := by
  refine ⟨fun qp d s hok => ?_, fun qp idx s e d hrun hfind hawait hst hracy hfirst hwr _ hready => ?_, fun x s hrun hstate hrefs => ?_⟩
  · exact ⟨fun hw => version_starts hw (fun _ => rfl) hok, fun hw => version_starts hw (fun _ => rfl) hok,
      fun hw => version_starts hw (fun _ => rfl) hok, fun hw => version_starts hw (fun _ => rfl) hok⟩
  · obtain ⟨t, hexec, hpair, hvers, hadapters, hsched⟩ :=
      exec_descriptorComplete_of_version hrun hfind hawait hst hracy hfirst hwr hready
    refine ⟨t, hexec, hpair, fun hop hslot => ?_, fun hop hslot => ?_, fun hop => ?_, fun hop => ?_⟩
    all_goals rw [hvers, hadapters]
    · rw [versionAct_publish (op_of_isVersion hop) hslot]
      simpa only [Fin.ext_iff] using publishSlot_slots (versionFields d) ⟨_, hslot⟩ s
    · rw [versionAct_retire (op_of_isVersion hop) hslot]
      simpa only [Fin.ext_iff] using retireVersion_slots (versionFields d) ⟨_, hslot⟩ s
    · have hact (b : Fin 256) (hb : b.val = (versionFields d).slot) := versionAct_loadAdapter (s := s) (op_of_isVersion hop) hb
      refine ⟨?_, fun b hb => ?_⟩
      · rw [hact ⟨_, versionSlot_lt d⟩ rfl]
        exact loadAdapter_vers _ _ s
      · rw [hsched, hact b hb]
        split
        · next hfree => exact (loadAdapter_of_free hfree).2
        · next hused =>
          rw [loadAdapter_of_used hused]
          exact ⟨rfl, rfl⟩
    · rw [versionAct_retireAdapter (op_of_isVersion hop), retireAdapter_state]
      exact keyRetired_slots _ _ s
  · have hfreed (y : SlotId) := getSlot_setSlot x y WSlot.free s
    refine ⟨?_, fun y hy => by rw [hfreed, if_neg hy], by rw [hfreed, if_pos rfl]; rfl⟩
    simp [exec, execSlotFreed, hrun, hstate, hrefs]

end Sys2Proof.Machine
end

section
/-! SUPPORT. A write to the object dictionary whose checks pass, and its object's rule (R613, R617, R649). -/

namespace Sys2Proof.Machine

/-- Each row of a write is a request of its own words, served under its object's rule (R613). -/
theorem exec_objectRow {x : ObjectRow} (hx : x ∈ objectRows) (p : Asker) (r : List Byte) (s : State) :
    exec (x.1 p r) s = request (x.1 p r).wellFormed x.2 p r s := by
  have rows : objectRows.Forall fun x => exec (x.1 p r) s = request (x.1 p r).wellFormed x.2 p r s := by
    repeat' apply And.intro
    all_goals rfl
  exact List.forall_iff_forall_mem.mp rows x hx

/-- The checks of R617 that a write passes where `writeReaches` holds. -/
theorem checks_of_writeReaches {p : Path} {r : List Byte} {u : State} (h : writeReaches p r u = true) :
    malformed r = false ∧ (reqOpc r = 2 ∨ reqOpc r = 3) ∧ (p = u.od.holder ∨ reqIndex r = 0x2000)
      ∧ (reqOpc r = 3 → (checkCritical (reqCounter r) (reqTag r) (reqCommand r) "GLOFATHAL OD" u).1 = true)
      ∧ ∃ o, objectChecks p r u = .ok o ∧ accessCheck o (reqOpc r) = abNone ∧ reqLen r = o.size
        ∧ ¬(o.isBool && decide (1 < reqValue r)) = true ∧ ¬debugBusy p r (authState r u) = true := by
  unfold writeReaches at h
  simp only [Bool.and_eq_true] at h
  obtain ⟨⟨⟨⟨hform, hwrite⟩, hholder⟩, hauth⟩, hobj⟩ := h
  refine ⟨by simpa using hform, by simpa [isWriteReq] using hwrite, by simpa using hholder, fun h3 => by simpa [h3] using hauth, ?_⟩
  split at hobj
  · rename_i o ho
    simp only [Bool.and_eq_true] at hobj
    obtain ⟨⟨⟨haccess, hlen⟩, hbool⟩, hbusy⟩ := hobj
    exact ⟨o, ho, by simpa using haccess, by simpa using hlen, by simpa [or_iff_not_imp_left] using hbool, by simpa using hbusy⟩
  · cases hobj

/-- What a write answers once its object's rule has decided (R456, R617). -/
def ruleAnswer (r : List Byte) (v : State) : Except Nat State → Answer
  | .ok t => ⟨abNone, [], t⟩
  | .error a => ⟨a, [], countDebugRefusal r a v⟩

/-- A write that reaches its object's rule is served by it, in the state that has taken an authenticated write's counter (R617, R649). -/
theorem serveOpc_of_writeReaches {own : Own} {p : Path} {r : List Byte} {u : State} (h : writeReaches p r u = true) :
    serveOpc own p r u = ruleAnswer r (authState r u) (own p r (authState r u)) := by
  obtain ⟨hform, hopc, hholder, hauth, o, hobj, haccess, hlen, hbool, hbusy⟩ := checks_of_writeReaches h
  have hwrite : isWriteReq r = true := by simpa [isWriteReq] using hopc
  have hheld : ¬(isWriteReq r && p != u.od.holder && reqIndex r != 0x2000) = true := by
    rcases hholder with hp | hi
    · simp [hp]
    · simp [hi]
  calc serveOpc own p r u = serveObject own p r u := by
        rcases hopc with h2 | h3
        · simp [serveOpc, hform, h2]
        · simp [serveOpc, hform, h3]
    _ = writeAuthed own o p r u := by
        unfold serveObject
        rw [hobj]
        dsimp only
        rw [if_neg hheld, if_neg (not_not.mpr haccess), if_pos hwrite]
    _ = writeChecked own o p r (authState r u) := by
        rcases hopc with h2 | h3
        · simp [writeAuthed, authState, h2]
        · simp [writeAuthed, authState, h3, hauth h3]
    _ = ruleAnswer r (authState r u) (own p r (authState r u)) := by
        unfold writeChecked
        rw [if_neg (not_not.mpr hlen), if_neg hbool, if_neg hbusy]
        rfl

/-- Settles O32: every row of a write is a request under its object's rule, and once the checks of R617 have passed that rule answers. -/
theorem writesFollowTheirObjectsRule : Obligations.WritesFollowTheirObjectsRule := by
  intro p r s u x hx hw hu hreach
  have hexec := (exec_objectRow hx p r s).trans (request_of_reqState hw hu)
  rw [serveOpc_of_writeReaches hreach] at hexec
  split
  · next v hv =>
    rw [hv] at hexec
    exact hexec
  · next a ha =>
    intro hne
    rw [ha] at hexec
    simpa [ruleAnswer, noteAbort, hne, aborted, responseBytes] using hexec

end Sys2Proof.Machine
end

section
/-! SUPPORT. What sending, raising alerts and taking a message leave of the stacks, and that what has been sent stays sent (R576, R577,
R638). -/

namespace Sys2Proof.Machine

/-- A later state differs in nothing but alerts, links and what has been sent, to which it only adds. -/
structure Posts (s t : State) : Prop extends Sends s t where
  stk : t.stk = s.stk
  sent : s.outbox ⊆ t.outbox

theorem Posts.refl (s : State) : Posts s s := ⟨Sends.refl s, rfl, List.Subset.refl _⟩

theorem Posts.trans {s t u : State} (a : Posts s t) (b : Posts t u) : Posts s u :=
  ⟨a.toSends.trans b.toSends, b.stk.trans a.stk, List.Subset.trans a.sent b.sent⟩

theorem Posts.foldl {α : Type} {f : State → α → State} (h : ∀ s x, Posts s (f s x)) : ∀ (l : List α) (s : State), Posts s (l.foldl f s)
  | [], s => Posts.refl s
  | x :: l, s => (h s x).trans (Posts.foldl h l (f s x))

theorem setLink_posts {l : Link} {s : State} (h : l.cbytes = s.lk.cl.cbytes) : Posts s (setLink .cl l s) :=
  ⟨setLink_sends h, rfl, List.Subset.refl _⟩

theorem ackOf_posts (s : State) : Posts s (ackOf .cl s).2 := by
  unfold ackOf
  split
  · exact Posts.refl s
  · exact ⟨⟨rfl, rfl, rfl, rfl⟩, rfl, List.Subset.refl _⟩

theorem emitFlit_posts (type ch : Nat) (seq : BitVec 12) (bs : List Byte) (s : State) : Posts s (emitFlit .cl type ch seq bs s) :=
  (ackOf_posts s).trans ⟨⟨rfl, rfl, rfl, rfl⟩, rfl, List.subset_append_left _ _⟩

theorem putFlit_posts (type ch : Nat) (seq : BitVec 12) (bs : List Byte) (s : State) : Posts s (putFlit .cl type ch seq bs s) := by
  unfold putFlit
  dsimp only
  split
  · exact ((setLink_posts (by rfl)).trans (emitFlit_posts _ _ _ _ _)).trans (emitFlit_posts _ _ _ _ _)
  · exact (setLink_posts (by rfl)).trans (emitFlit_posts _ _ _ _ _)

theorem sendFlit_posts (b : FlitBody) (s : State) : Posts s (sendFlit .cl b s) := by
  have hseq (f : Flit) (s : State) : Posts s (putSequenced .cl f s) := by
    unfold putSequenced
    split <;> exact putFlit_posts _ _ _ _ _
  unfold sendFlit
  dsimp only
  exact (setLink_posts (by rfl)).trans (hseq _ _)

theorem takeMsgs_posts (n : Nat) (taken : List OutMsg) (s : State) : Posts s (takeMsgs .cl n taken s).2 := by
  induction n generalizing taken s with
  | zero => exact Posts.refl s
  | succ n ih =>
    unfold takeMsgs
    split
    · exact (setLink_posts (by rfl)).trans (ih _ _)
    · exact Posts.refl s

theorem transmit_posts (s : State) : Posts s (transmit .cl s) := by
  have hstreams (l : List OutMsg) (s : State) : Posts s (sendStreams .cl l s) :=
    Posts.foldl (fun _ _ => Posts.foldl (fun _ _ => sendFlit_posts _ _) _ _) _ s
  have hcount (l : List OutMsg) (s : State) : Posts s (countMsgs .cl l s) :=
    ⟨countMsgs_sends l s, rfl, List.subset_append_left _ _⟩
  unfold transmit
  dsimp only
  split
  · exact Posts.refl s
  · exact ((takeMsgs_posts _ _ s).trans (hcount _ _)).trans (hstreams _ _)

theorem linkPost_posts (m : OutMsg) (s : State) : Posts s (linkPost .cl m s) := by
  have hqueue : Posts s (linkQueue .cl m s) := setLink_posts (by rfl)
  exact hqueue.trans (transmit_posts _)

theorem mailRequest_posts (op : Nat) (data : List Byte) (s : State) : Posts s (mailRequest op data s) := by
  refine Posts.trans ?_ (linkPost_posts _ _)
  exact ⟨⟨rfl, rfl, rfl, rfl⟩, rfl, List.Subset.refl _⟩

theorem sendAlert_posts (s : State) : Posts s (sendAlert s) := by
  unfold sendAlert
  dsimp only
  split
  · split
    · refine Posts.trans ?_ (mailRequest_posts _ _ _)
      exact ⟨⟨rfl, rfl, rfl, rfl⟩, rfl, List.subset_append_left _ _⟩
    · exact Posts.refl s
  · split
    · exact Posts.refl s
    · exact ⟨⟨rfl, rfl, rfl, rfl⟩, rfl, List.subset_append_left _ _⟩

theorem raiseAlert_posts (bits : W32) (s : State) : Posts s (raiseAlert bits s) := by
  have hod (x : Dict) (s : State) : Posts s { s with od := x } := ⟨⟨rfl, rfl, rfl, rfl⟩, rfl, List.Subset.refl _⟩
  have hgained (s : State) : Posts s (alertGained s) := by
    unfold alertGained
    split <;> split
    · exact hod _ s
    · exact sendAlert_posts s
    · exact hod _ s
    · exact sendAlert_posts s
  unfold raiseAlert
  dsimp only
  split
  · exact hod _ s
  · exact (hod _ s).trans (hgained _)

/-- A message on the Carard link that has come whole frees its room, for which a CREDIT may go back (R577). -/
theorem arrived_posts (pool units : Nat) (s : State) : Posts s (arrived .cl pool units s) := by
  have hcredits (s : State) : Posts s (returnCredits .cl s) := by
    unfold returnCredits
    dsimp only
    split
    · exact (setLink_posts (by rfl)).trans (sendFlit_posts _ _)
    · exact setLink_posts (by rfl)
  have hfreed {l : Link} (h : l.cbytes = s.lk.cl.cbytes) : Posts s { setLink .cl l s with freeCtr := s.freeCtr + 1 } :=
    (setLink_posts h).trans ⟨⟨rfl, rfl, rfl, rfl⟩, rfl, List.Subset.refl _⟩
  unfold arrived
  dsimp only
  split
  · split
    · exact (hfreed (by rfl)).trans (hcredits _)
    · exact hfreed (by rfl)
  · exact Posts.refl s

end Sys2Proof.Machine
end

section
/-! SUPPORT. Where the bytes of one 4 KiB granule lie, and what leaves every byte and codeword of memory as it is (R483 to R487, R491). -/

namespace Sys2Proof.Machine

/-! ### The bytes of a granule (R484 to R486) -/

/-- The bytes of a granule of the stack region lie one after another on one stack, if it is backed. -/
theorem stackPlace_granule (k j S g : Nat) :
    ∃ p : Option (Nat × Nat), ∀ r < 4096, stackPlace k j S (4096 * g + r) = p.map fun x => (x.1, 4096 * x.2 + r) := by
  have hG (m : Nat) : m * gib = 4096 * (m * 262144) := by rw [show gib = 4096 * 262144 by decide]; ring
  have hlt (m r : Nat) (hr : r < 4096) : 4096 * g + r < m * gib ↔ g < m * 262144 := by rw [hG]; omega
  have hsub (m r : Nat) (h : ¬g < m * 262144) : 4096 * g + r - m * gib = 4096 * (g - m * 262144) + r := by rw [hG]; omega
  have hdiv (x m r : Nat) (hr : r < 4096) : (4096 * x + r) / (m * gib) = x / (m * 262144) := by
    rw [hG, ← Nat.div_div_eq_div_mul]
    congr 1
    omega
  have hmod (x m r : Nat) (hr : r < 4096) : (4096 * x + r) % (m * gib) = 4096 * (x % (m * 262144)) + r := by
    rw [hG, Nat.mod_mul, show (4096 * x + r) / 4096 = x by omega]
    omega
  by_cases hall : g < 32 * k * 262144
  · by_cases hin : g < S * k * 262144
    · refine ⟨some (g % S, g / S), fun r hr => ?_⟩
      unfold stackPlace
      rw [if_pos ((hlt _ r hr).mpr hall), if_pos ((hlt _ r hr).mpr hin), show (4096 * g + r) / 4096 = g by omega]
      simp only [Option.map_some, Option.some.injEq, Prod.mk.injEq, true_and]
      omega
    · refine ⟨none, fun r hr => ?_⟩
      unfold stackPlace
      rw [if_pos ((hlt _ r hr).mpr hall), if_neg (mt (hlt _ r hr).mp hin)]
      rfl
  · by_cases hdist : g < 32 * (k + j) * 262144
    · generalize ho : g - 32 * k * 262144 = o
      refine ⟨some (4 * (o / (4 * j * 262144)) + o % (4 * j * 262144) % 4, k * 262144 + o % (4 * j * 262144) / 4), fun r hr => ?_⟩
      unfold stackPlace
      rw [if_neg (mt (hlt _ r hr).mp hall), if_pos ((hlt _ r hr).mpr hdist), hsub _ r hall, ho, hdiv _ _ r hr, hmod _ _ r hr, hG]
      simp only [Option.map_some, Option.some.injEq, Prod.mk.injEq]
      omega
    · generalize ho : g - 32 * (k + j) * 262144 = o
      refine ⟨some (o / ((96 - k - j) * 262144), (k + j) * 262144 + o % ((96 - k - j) * 262144)), fun r hr => ?_⟩
      unfold stackPlace
      rw [if_neg (mt (hlt _ r hr).mp hall), if_neg (mt (hlt _ r hr).mp hdist), hsub _ r hdist, ho]
      dsimp only
      rw [hdiv _ _ r hr, hmod _ _ r hr, hG]
      simp only [Option.map_some, Option.some.injEq, Prod.mk.injEq, true_and]
      omega

/-- The bytes [a, a + len) lie within one granule, on stack k, at offsets that follow one another from granule b of it. -/
structure OneStack (s : State) (k b a len : Nat) : Prop where
  fits : a % 4096 + len ≤ 4096
  place : ∀ x, a ≤ x → x < a + len → resolve s x = .stack k (4096 * b + x % 4096)

/-- A range within a granule whose first byte is a stack's lies on that stack. -/
theorem oneStack_of_resolve {s : State} {a len k off : Nat} (h : resolve s a = .stack k off) (hfits : a % 4096 + len ≤ 4096) :
    ∃ b, OneStack s k b a len := by
  have hE : stackEnd = 4096 * 805306368 := by decide
  obtain ⟨p, hp⟩ := stackPlace_granule s.stk.k s.stk.j s.persist.variant.stacks (a / 4096)
  have hplace (x : Nat) (hx : x / 4096 = a / 4096) : stackPlace s.stk.k s.stk.j s.persist.variant.stacks x
      = p.map fun y => (y.1, 4096 * y.2 + x % 4096) := by
    rw [← hp _ (Nat.mod_lt x (by norm_num)), ← hx, Nat.div_add_mod]
  have hin : a < stackEnd := by
    by_contra hout
    unfold resolve at h
    rw [if_neg hout] at h
    split_ifs at h
  have hresolve (x : Nat) (hx : x / 4096 = a / 4096) : resolve s x = match p with
      | none => .unbacked
      | some y => if stackReachable s y.1 then .stack y.1 (4096 * y.2 + x % 4096) else .unbacked := by
    unfold resolve
    rw [if_pos (by omega), hplace x hx]
    cases p <;> rfl
  rw [hresolve a rfl] at h
  cases p with
  | none => cases h
  | some y =>
    dsimp only at h hresolve
    split at h
    · rename_i hreach
      obtain ⟨rfl, -⟩ := Place.stack.inj h
      exact ⟨y.2, hfits, fun x h1 h2 => by rw [hresolve x (by omega), if_pos hreach]⟩
    · cases h

section
variable {s : State} {k b a len : Nat} (h : OneStack s k b a len)
include h

theorem OneStack.locOf {x : Nat} (h1 : a ≤ x) (h2 : x < a + len) : locOf s x = some (k * stackBytes + (4096 * b + x % 4096)) := by
  unfold Machine.locOf
  rw [h.place x h1 h2]
  rfl

/-- Bytes of different codewords are kept in different codewords. -/
theorem OneStack.codeword {x y l m : Nat} (hx : a ≤ x ∧ x < a + len) (hy : a ≤ y ∧ y < a + len) (hl : Machine.locOf s x = some l)
    (hm : Machine.locOf s y = some m) (hne : x / 16 ≠ y / 16) : l / 16 ≠ m / 16 := by
  have hfits := h.fits
  have hB : stackBytes = 16 * 6442450944 := by decide
  rw [h.locOf hx.1 hx.2, Option.some.injEq] at hl
  rw [h.locOf hy.1 hy.2, Option.some.injEq] at hm
  rw [hB] at hl hm
  omega
end

/-! ### What leaves the map -/

/-- Every address names what it named, the same stacks are in reset, and the same SAMPLEs run. -/
structure SameMap (s t : State) : Prop where
  resolve : ∀ a, resolve t a = resolve s a
  inReset : ∀ n, stackInReset t n = stackInReset s n
  runs : t.gate.runs = s.gate.runs

/-- Memory and its codewords are as they were, too. -/
structure SameStore (s t : State) : Prop extends SameMap s t where
  mem : t.mem = s.mem
  ecc : t.stk.ecc = s.stk.ecc

theorem SameMap.refl (s : State) : SameMap s s := ⟨fun _ => rfl, fun _ => rfl, rfl⟩
theorem SameStore.refl (s : State) : SameStore s s := ⟨SameMap.refl s, rfl, rfl⟩

theorem SameMap.trans {s t u : State} (f : SameMap s t) (g : SameMap t u) : SameMap s u :=
  ⟨fun a => (g.resolve a).trans (f.resolve a), fun n => (g.inReset n).trans (f.inReset n), g.runs.trans f.runs⟩
theorem SameStore.trans {s t u : State} (f : SameStore s t) (g : SameStore t u) : SameStore s u :=
  ⟨f.toSameMap.trans g.toSameMap, g.mem.trans f.mem, g.ecc.trans f.ecc⟩

theorem SameStore.foldl {α : Type} {f : State → α → State} (h : ∀ s x, SameStore s (f s x)) :
    ∀ (l : List α) (s : State), SameStore s (l.foldl f s)
  | [], s => SameStore.refl s
  | x :: l, s => (h s x).trans (SameStore.foldl h l (f s x))

theorem SameMap.locOf {s t : State} (h : SameMap s t) (a : Nat) : locOf t a = locOf s a := congrArg Place.loc (h.resolve a)

/-- Distinct addresses have distinct places. -/
def PlacesApart (s : State) : Prop := ∀ x y l, locOf s x = some l → locOf s y = some l → x = y

theorem placesApart_of_legal {s : State} (h : SharesLegal s) : PlacesApart s := fun _ _ _ hx hy => locOf_inj h hx hy

theorem SameMap.placesApart {s t : State} (h : SameMap s t) (hs : PlacesApart s) : PlacesApart t := fun x y l hx hy =>
  hs x y l ((h.locOf x).symm.trans hx) ((h.locOf y).symm.trans hy)

theorem memoryCanonical_congr {s t : State} (h : t.mem = s.mem) : MemoryCanonical t ↔ MemoryCanonical s := by
  unfold MemoryCanonical
  rw [h]

theorem SameMap.peek {s t : State} (h : SameMap s t) (hm : t.mem = s.mem) (a : Nat) : peek t a = peek s a :=
  peek_congr h.locOf hm a

theorem SameMap.inResetAt {s t : State} (h : SameMap s t) (a : Nat) : inResetAt t a = inResetAt s a := by
  unfold Machine.inResetAt
  rw [h.resolve a]
  split
  · exact h.inReset _
  · rfl

/-- The map rests on the shares, the units, the variant and the companion's memory. -/
theorem sameMap_of_eq {s t : State} (hk : t.stk.k = s.stk.k) (hj : t.stk.j = s.stk.j) (hp : t.persist = s.persist)
    (hc : t.lk.cl.cbytes = s.lk.cl.cbytes) (hu : t.units = s.units) (hg : t.gate.runs = s.gate.runs) : SameMap s t :=
  ⟨resolve_congr hk hj (by rw [hp]) hc (by rw [hu]), fun n => by rw [stackInReset, hu]; rfl, hg⟩

theorem Sends.sameMap {s t : State} (h : Sends s t) : SameMap s t :=
  sameMap_of_eq h.k h.j (by rw [h.eq]) h.cbytes (by rw [h.eq]) (congrArg _ h.gate)

theorem Posts.sameStore {s t : State} (h : Posts s t) : SameStore s t := ⟨h.toSends.sameMap, h.mem, congrArg _ h.stk⟩

theorem Units.get_set_other (x : Units) {u v : UnitId} (c : UnitCtl) (h : v ≠ u) : (x.set u c).get v = x.get v := by
  cases u <;> cases v <;> simp_all [Units.get, Units.set]
  all_goals exact Vector.getElem_set_ne _ _ fun e => h (Fin.ext e.symm)

theorem countWork_state (u v : UnitId) (n : Nat) (s : State) : ((countWork u n s).units.get v).state = (s.units.get v).state := by
  unfold countWork
  by_cases h : v = u
  · rw [h, Units.get_set_same]
  · exact congrArg UnitCtl.state (Units.get_set_other _ _ h)

/-- Work that is counted changes no place and no reset. -/
theorem countWork_sameStore (u : UnitId) (n : Nat) (s : State) : SameStore s (countWork u n s) := by
  have hstack (m : Fin 32) := countWork_state u (.stack m) n s
  have hdistrict (m : Fin 8) := countWork_state u (.district m) n s
  have hreach (m : Nat) : stackReachable (countWork u n s) m = stackReachable s m := by
    unfold stackReachable
    split
    · rename_i hm
      rw [show ((countWork u n s).units.stackUnits[(⟨m, hm⟩ : Fin 32)]).state = _ from hstack ⟨m, hm⟩]
      rfl
    · rfl
  refine ⟨⟨fun a => ?_, fun m => ?_, rfl⟩, rfl, rfl⟩
  · delta Machine.resolve
    rw [countWork_stk, countWork_persist, countWork_lk]
    simp only [hreach]
  · unfold stackInReset
    split
    · rename_i hm
      rw [show ((countWork u n s).units.stackUnits[(⟨m, hm⟩ : Fin 32)]).state = _ from hstack ⟨m, hm⟩,
        show ((countWork u n s).units.districts[(⟨m / 4, by omega⟩ : Fin 8)]).state = _ from hdistrict ⟨m / 4, by omega⟩]
      rfl
    · rfl

theorem markRange_sameStore (a len : Nat) (s : State) : SameStore s (markRange a len s) := by
  refine SameStore.foldl (fun s l => ?_) _ s
  unfold markLine
  split
  · unfold markStack
    split
    · exact countWork_sameStore _ _ s
    · exact SameStore.refl s
  · exact SameStore.refl s

theorem wakeStack_sameStore (a : Nat) (s : State) : SameStore s (wakeStack a s) := by
  have hstk (x : Vector Bool 32) : SameStore s { s with stk := { s.stk with selfRefresh := x } } :=
    ⟨sameMap_of_eq rfl rfl rfl rfl rfl rfl, rfl, rfl⟩
  unfold wakeStack
  split
  · split
    · exact hstk _
    · exact SameStore.refl s
  · exact SameStore.refl s

/-! ### Codewords (R491, R494) -/

theorem eccAt_congr {s t : State} (h : t.stk.ecc = s.stk.ecc) (l : Nat) : eccAt t l = eccAt s l := by
  unfold eccAt
  rw [h]

/-- Clearing the error of one codeword leaves every other codeword's. -/
theorem eccAt_eccClear {l m : Nat} (h : l / 16 ≠ m / 16) (s : State) : eccAt (eccClear s m) l = eccAt s l := by
  have hfind (e : BadCodeword) : (decide ((e.loc != m / 16 * 16) = true ∧ (e.loc == l / 16 * 16) = true)) = (e.loc == l / 16 * 16) := by
    by_cases he : e.loc = l / 16 * 16
    · simp [he, h]
    · simp [he]
  unfold eccAt eccClear
  simp only [List.find?_filter, hfind]

theorem eccClear_sameMap (loc : Nat) (s : State) : SameMap s (eccClear s loc) := sameMap_of_eq rfl rfl rfl rfl rfl rfl

theorem countCorrected_sameMap (n loc : Nat) (s : State) : SameMap s (countCorrected n loc s) := sameMap_of_eq rfl rfl rfl rfl rfl rfl

theorem countUncorrectable_sameStore (n a source : Nat) (s : State) : SameStore s (countUncorrectable n a source s) := by
  refine SameStore.trans ?_ (raiseAlert_posts 4 _).sameStore
  exact ⟨sameMap_of_eq rfl rfl rfl rfl rfl rfl, rfl, rfl⟩

theorem poke_sameMap (s : State) (a : Nat) (bs : List Byte) : SameMap s (poke s a bs) := ⟨resolve_poke s a bs, fun _ => rfl, rfl⟩

theorem eccClear_poke (s : State) (loc a : Nat) (bs : List Byte) : eccClear (poke s a bs) loc = poke (eccClear s loc) a bs := by
  unfold poke
  rw [pokeList_congr (eccClear_sameMap loc s).locOf]
  rfl

end Sys2Proof.Machine
end

section
/-! SUPPORT. A write from outside, codeword by codeword: what it stores, what it leaves as stored, and when it fails; and a DWR (R321, R494,
R586, R588). -/

namespace Sys2Proof.Machine

/-! ### One codeword -/

theorem peek_poke_same {s : State} {a i l : Nat} {bs : List Byte} (hapart : PlacesApart s) (hm : MemoryCanonical s)
    (hi : i < bs.length) (hl : locOf s (a + i) = some l) : peek (poke s a bs) (a + i) = bs[i] := by
  unfold peek
  rw [locOf_poke, hl]
  refine memGet_pokeList_same s a bs s.mem hm (fun p q m _ _ hp hq => ?_) i l hi hl
  have := hapart _ _ _ hp hq
  omega

theorem peek_poke_apart {s : State} {a x : Nat} {bs : List Byte} (hapart : PlacesApart s) (hx : x < a ∨ a + bs.length ≤ x) :
    peek (poke s a bs) x = peek s x := by
  refine peek_poke_other s a bs x fun i hi => ?_
  cases hl : locOf s x with
  | none => exact .inr rfl
  | some l =>
    refine .inl fun he => ?_
    have := hapart _ _ _ he hl
    omega

/-- Bytes of one codeword are left as stored together (R494). -/
theorem leftAsStored_congr {s : State} {a n x y : Nat} (h : x / 16 = y / 16) : leftAsStored s a n x ↔ leftAsStored s a n y := by
  unfold leftAsStored
  rw [h]

/-- The codeword at c is left as stored where the write covers it in part and it is uncorrectable (R494). -/
theorem leftAsStored_iff {s : State} {a n c l : Nat} (hc : c % 16 = 0) (h1 : a < c + 16) (h2 : c < a + n)
    (hl : locOf s (max a c) = some l) :
    leftAsStored s a n (max a c) ↔ min (a + n) (c + 16) - max a c ≠ 16 ∧ eccAt s l = some true := by
  have hcw : max a c / 16 * 16 = c := by omega
  have hpart : c < a ∨ a + n < c + 16 ↔ min (a + n) (c + 16) - max a c ≠ 16 := by omega
  unfold leftAsStored badCodeword
  rw [hcw]
  simp [hl, hpart]

/-- What a write of bs at a, begun in s, has made of memory in v up to address h: the bytes written below h but for those left as stored,
every other byte as it was, and every codeword from h on as it was (R494). -/
structure Storing (a : Nat) (bs : List Byte) (s : State) (h : Nat) (v : State) : Prop where
  map : SameMap s v
  canonical : MemoryCanonical s → MemoryCanonical v
  codewords : ∀ x l, h ≤ x → a ≤ x → x < a + bs.length → locOf s x = some l → eccAt v l = eccAt s l
  others : ∀ x, x < a ∨ h ≤ x ∨ a + bs.length ≤ x → peek v x = peek s x
  bytes : MemoryCanonical s → ∀ i, i < bs.length → a + i < h →
    (¬leftAsStored s a bs.length (a + i) → bs[i]? = some (peek v (a + i)))
    ∧ (leftAsStored s a bs.length (a + i) → peek v (a + i) = peek s (a + i))

theorem Storing.begin {a h : Nat} {bs : List Byte} {s v : State} (hv : SameStore s v) (hh : h ≤ a) : Storing a bs s h v where
  map := hv.toSameMap
  canonical := (memoryCanonical_congr hv.mem).mpr
  codewords _ _ _ _ _ _ := eccAt_congr hv.ecc _
  others x _ := hv.toSameMap.peek hv.mem x
  bytes _ i _ hi := by omega

section
variable {a c k b : Nat} {bs : List Byte} {s v u : State} (h : Storing a bs s c v) (hu : SameMap v u) (hmem : u.mem = v.mem)
include h hu hmem

/-- A change that leaves memory and the codewords still to come. -/
theorem Storing.beside {d : Nat} (hd : c ≤ d) (hleft : ∀ x, a ≤ x → c ≤ x → x < d → leftAsStored s a bs.length x)
    (hecc : ∀ x l, d ≤ x → a ≤ x → x < a + bs.length → locOf s x = some l → eccAt u l = eccAt v l) : Storing a bs s d u where
  map := h.map.trans hu
  canonical hm := (memoryCanonical_congr hmem).mpr (h.canonical hm)
  codewords x l h1 h2 h3 hl := (hecc x l h1 h2 h3 hl).trans (h.codewords x l (hd.trans h1) h2 h3 hl)
  others x hx := (hu.peek hmem x).trans (h.others x (by omega))
  bytes hm i hi h1 := by
    rw [hu.peek hmem]
    by_cases hc : a + i < c
    · exact h.bytes hm i hi hc
    · exact ⟨fun hn => absurd (hleft _ (by omega) (by omega) h1) hn, fun _ => h.others _ (by omega)⟩

/-- The codeword at c is written, after a change that leaves memory and the codewords still to come. -/
theorem Storing.write (hapart : PlacesApart s) (hon : OneStack s k b a bs.length)
    (hc : c % 16 = 0) (h1 : a < c + 16) (h2 : c < a + bs.length) (hnot : ¬leftAsStored s a bs.length (max a c))
    (hecc : ∀ x l, c + 16 ≤ x → a ≤ x → x < a + bs.length → locOf s x = some l → eccAt u l = eccAt v l) :
    Storing a bs s (c + 16)
      (poke u (max a c) ((bs.drop (max a c - a)).take (min (a + bs.length) (c + 16) - max a c))) := by
  have hlocs := (h.map.trans hu).locOf
  have hafter : PlacesApart u := (h.map.trans hu).placesApart hapart
  have hcan (hm : MemoryCanonical s) : MemoryCanonical u := (memoryCanonical_congr hmem).mpr (h.canonical hm)
  generalize hpart : (bs.drop (max a c - a)).take (min (a + bs.length) (c + 16) - max a c) = part
  have hlen : part.length = min (a + bs.length) (c + 16) - max a c := by
    rw [← hpart, List.length_take, List.length_drop]
    omega
  have hother (x : Nat) (hx : x < max a c ∨ c + 16 ≤ x ∨ a + bs.length ≤ x) : peek (poke u (max a c) part) x = peek v x := by
    rw [peek_poke_apart hafter (by omega)]
    exact hu.peek hmem x
  refine ⟨(h.map.trans hu).trans (poke_sameMap _ _ _), fun hm => poke_wf _ _ _ (hcan hm), ?_, fun x hx => ?_,
    fun hm i hi h3 => ?_⟩
  · intro x l h3 h4 h5 hl
    exact (hecc x l h3 h4 h5 hl).trans (h.codewords x l (by omega) h4 h5 hl)
  · exact (hother x (by omega)).trans (h.others x (by omega))
  · by_cases hlow : a + i < c
    · rw [hother _ (.inl (by omega))]
      exact h.bytes hm i hi hlow
    · have hnot' : ¬leftAsStored s a bs.length (a + i) := by
        rwa [leftAsStored_congr (show (a + i) / 16 = max a c / 16 by omega)]
      have hloc := hon.locOf (x := a + i) (by omega) (by omega)
      refine ⟨fun _ => ?_, fun hleft => absurd hleft hnot'⟩
      obtain ⟨j, hj⟩ : ∃ j, a + i = max a c + j := ⟨a + i - max a c, by omega⟩
      rw [hj, ← hlocs] at hloc
      rw [hj, peek_poke_same hafter (hcan hm) (by omega) hloc]
      simp only [← hpart, List.getElem_take, List.getElem_drop]
      rw [List.getElem?_eq_getElem hi]
      congr 2
      omega
end

/-- The part of a write that falls on the codeword at c stores it, or fails and leaves it as stored (R494). -/
theorem writeCodeword_run {source a c k b : Nat} {bs : List Byte} {s : State} {w : Work} (h : Storing a bs s c w.s)
    (hapart : PlacesApart s) (hon : OneStack s k b a bs.length)
    (hreset : stackInReset s k = false) (hbs : 0 < bs.length) (hc : c % 16 = 0) (h1 : a < c + 16) (h2 : c < a + bs.length) :
    ∃ failed v, (writeCodeword source a bs (max a c) (min (a + bs.length) (c + 16))).run w = (.ok failed, { w with s := v })
      ∧ Storing a bs s (c + 16) v ∧ (failed = true ↔ leftAsStored s a bs.length (max a c)) := by
  have hlo : a ≤ max a c ∧ max a c < a + bs.length := by omega
  have hloc := hon.locOf hlo.1 hlo.2
  have hplace : resolve w.s (max a c) = .stack k (4096 * b + max a c % 4096) := (h.map.resolve _).trans (hon.place _ hlo.1 hlo.2)
  generalize hoff : 4096 * b + max a c % 4096 = off at hloc hplace
  have hleft := leftAsStored_iff (n := bs.length) hc h1 h2 hloc
  have hecc : eccAt w.s (k * stackBytes + off) = eccAt s (k * stackBytes + off) := h.codewords _ _ (by omega) hlo.1 hlo.2 hloc
  have hreads {e : Option Bool} (he : eccAt w.s (k * stackBytes + off) = e) (hne : e ≠ some true) :
      ¬leftAsStored s a bs.length (max a c) := fun hl => hne (he.symm.trans (hecc.trans (hleft.mp hl).2))
  have hclear (v : State) (hv : v.stk.ecc = (eccClear w.s (k * stackBytes + off)).stk.ecc) (x l : Nat) (h3 : c + 16 ≤ x) (h4 : a ≤ x)
      (h5 : x < a + bs.length) (hl : locOf s x = some l) : eccAt v l = eccAt w.s l :=
    (eccAt_congr hv l).trans (eccAt_eccClear (hon.codeword ⟨h4, h5⟩ hlo hl hloc (by omega)) w.s)
  have answers (f : State → State) (r : Bool) : (do modS f; return r : M Bool).run w = (.ok r, { w with s := f w.s }) := rfl
  unfold writeCodeword
  rw [M.run_bind, show getS.run w = (.ok w.s, w) from rfl]
  dsimp only
  rw [hplace]
  dsimp only
  rw [h.map.inReset, hreset, M.run_bind, show (holdIf false).run w = (.ok (), w) from rfl]
  dsimp only
  by_cases hfull : min (a + bs.length) (c + 16) - max a c = 16
  · have hnot : ¬leftAsStored s a bs.length (max a c) := fun hl => (hleft.mp hl).1 hfull
    rw [if_pos hfull, answers]
    refine ⟨_, _, rfl, ?_, by simp [hnot]⟩
    rw [eccClear_poke]
    exact h.write (eccClear_sameMap _ _) rfl hapart hon hc h1 h2 hnot (hclear _ rfl)
  · rw [if_neg hfull]
    split
    · rename_i hbad
      have hl : leftAsStored s a bs.length (max a c) := hleft.mpr ⟨hfull, hecc.symm.trans hbad⟩
      have hcount := countUncorrectable_sameStore k (max a c) source w.s
      rw [answers]
      refine ⟨_, _, rfl, ?_, by simp [hl]⟩
      exact h.beside hcount.toSameMap hcount.mem (by omega) (fun x h3 h4 h5 => (leftAsStored_congr (by omega)).mpr hl)
        fun _ _ _ _ _ _ => eccAt_congr hcount.ecc _
    · rename_i hsingle
      have hnot := hreads hsingle (by decide)
      rw [answers]
      refine ⟨_, _, rfl, ?_, by simp [hnot]⟩
      exact h.write (countCorrected_sameMap _ _ _) rfl hapart hon hc h1 h2 hnot (hclear _ rfl)
    · rename_i hgood
      have hnot := hreads hgood (by decide)
      rw [answers]
      refine ⟨_, _, rfl, ?_, by simp [hnot]⟩
      exact h.write (SameMap.refl _) rfl hapart hon hc h1 h2 hnot fun _ _ _ _ _ _ => rfl

/-! ### All codewords -/

/-- Work done for each number of a range in turn, each keeping an invariant of the state and answering whether it failed. -/
theorem mapM_range'_run {f : Nat → M (Option Nat)} {Inv : Nat → State → Prop} {Left : Nat → Prop} {stop : Nat}
    (step : ∀ i w, i < stop → Inv i w.s → ∃ r v, (f i).run w = (.ok r, { w with s := v }) ∧ Inv (i + 1) v ∧ (r.isSome = true ↔ Left i))
    (len start : Nat) (hstop : start + len = stop) (w : Work) (hw : Inv start w.s) :
    ∃ l v, ((List.range' start len).mapM f).run w = (.ok l, { w with s := v }) ∧ Inv stop v
      ∧ ((∃ r ∈ l, r.isSome = true) ↔ ∃ i, start ≤ i ∧ i < stop ∧ Left i) := by
  induction len generalizing start w with
  | zero =>
    subst hstop
    refine ⟨[], w.s, rfl, hw, ?_⟩
    constructor
    · rintro ⟨r, hr, -⟩
      cases hr
    · rintro ⟨i, h1, h2, -⟩
      omega
  | succ len ih =>
    obtain ⟨r, v, hrun, hv, hr⟩ := step start w (by omega) hw
    obtain ⟨l, u, hrest, hu, hl⟩ := ih (start + 1) (by omega) { w with s := v } hv
    refine ⟨r :: l, u, ?_, hu, ?_⟩
    · rw [List.range'_succ, List.mapM_cons, M.run_bind, hrun]
      dsimp only
      rw [M.run_bind, hrest]
      rfl
    · rw [List.exists_mem_cons_iff, hr, hl]
      constructor
      · rintro (h | ⟨i, h1, h2, h⟩)
        · exact ⟨start, le_refl _, by omega, h⟩
        · exact ⟨i, by omega, h2, h⟩
      · rintro ⟨i, h1, h2, h⟩
        rcases Nat.eq_or_lt_of_le h1 with rfl | h3
        · exact .inl h
        · exact .inr ⟨i, h3, h2, h⟩

/-- What a store does for the codeword i places after its first one: it answers the address of one that it could not write. -/
def storePart (source a : Nat) (bs : List Byte) (i : Nat) : M (Option Nat) := do
  let failed ← writeCodeword source a bs (max a ((a / 16 + i) * 16)) (min (a + bs.length) ((a / 16 + i + 1) * 16))
  return if failed then some ((a / 16 + i) * 16) else none

/-- A store does its part for each codeword, and fails with the first one that it could not write (R494). -/
theorem storeFrom_eq (source a : Nat) {bs : List Byte} (hbs : 0 < bs.length) : storeFrom source a bs = (do
    let bad ← (List.range' 0 ((a + bs.length - 1) / 16 - a / 16 + 1)).mapM (storePart source a bs)
    match bad.find? Option.isSome with
    | some (some x) => failAt .uncorrectableMem x
    | _ => pure ()) := by
  cases bs with
  | nil => cases hbs
  | cons y l => rw [← List.range_eq_range']; rfl

section
variable {source a k b : Nat} {bs : List Byte} {s : State} {w : Work} (hapart : PlacesApart s)
  (hon : OneStack s k b a bs.length) (hreset : stackInReset s k = false) (hbs : 0 < bs.length)
include hapart hon hreset hbs

theorem storePart_run {i : Nat} (hi : i < (a + bs.length - 1) / 16 - a / 16 + 1) (h : Storing a bs s ((a / 16 + i) * 16) w.s) :
    ∃ r v, (storePart source a bs i).run w = (.ok r, { w with s := v }) ∧ Storing a bs s ((a / 16 + i + 1) * 16) v
      ∧ (r.isSome = true ↔ leftAsStored s a bs.length (max a ((a / 16 + i) * 16))) := by
  obtain ⟨failed, v, hrun, hv, hleft⟩ := writeCodeword_run (source := source) h hapart hon hreset hbs (by omega) (by omega) (by omega)
  rw [show (a / 16 + i) * 16 + 16 = (a / 16 + i + 1) * 16 by omega] at hrun hv
  refine ⟨if failed then some ((a / 16 + i) * 16) else none, v, ?_, hv, ?_⟩
  · unfold storePart
    rw [M.run_bind, hrun]
    rfl
  · rw [← hleft]
    cases failed <;> simp

/-- A store to one stack, not in reset, stores its bytes but those of codewords left as stored, and fails where there are such (R494). -/
theorem storeFrom_run (hv : SameStore s w.s) :
    ∃ r v h, (storeFrom source a bs).run w = (r, { w with s := v }) ∧ Storing a bs s h v ∧ a + bs.length ≤ h
      ∧ (r.isOk = false ↔ ∃ i < bs.length, leftAsStored s a bs.length (a + i)) := by
  obtain ⟨l, v, hrun, hstored, hfailed⟩ := mapM_range'_run (stop := (a + bs.length - 1) / 16 - a / 16 + 1)
    (Inv := fun i v => Storing a bs s ((a / 16 + i) * 16) v)
    (fun i w hi hw => storePart_run (source := source) hapart hon hreset hbs hi hw) _ 0 (Nat.zero_add _) w (Storing.begin hv (by omega))
  have hleft : (∃ r ∈ l, r.isSome = true) ↔ ∃ i < bs.length, leftAsStored s a bs.length (a + i) := by
    rw [hfailed]
    constructor
    · rintro ⟨i, -, hi, hleft⟩
      refine ⟨max a ((a / 16 + i) * 16) - a, by omega, ?_⟩
      rwa [show a + (max a ((a / 16 + i) * 16) - a) = max a ((a / 16 + i) * 16) by omega]
    · rintro ⟨i, hi, hleft⟩
      refine ⟨(a + i) / 16 - a / 16, by omega, by omega, ?_⟩
      rwa [leftAsStored_congr (y := a + i) (by omega)]
  rw [storeFrom_eq source a hbs, M.run_bind, hrun]
  dsimp only
  rw [← hleft]
  cases hfind : l.find? Option.isSome with
  | none =>
    refine ⟨.ok (), v, _, rfl, hstored, by omega, iff_of_false (by decide) ?_⟩
    rintro ⟨r, hr, hsome⟩
    exact List.find?_eq_none.mp hfind r hr hsome
  | some r =>
    obtain ⟨x, rfl⟩ := Option.isSome_iff_exists.mp (List.find?_some hfind)
    exact ⟨.error _, v, _, rfl, hstored, by omega, iff_of_true rfl ⟨_, List.mem_of_find?_eq_some hfind, rfl⟩⟩
end

/-! ### The outputs of running SAMPLEs (R321) -/

theorem scrambleGate_sameStore (slots : List Nat) (s : State) : SameStore s (scrambleGate slots s) := by
  refine SameStore.foldl (fun s n => ?_) slots s
  split
  · exact SameStore.refl s
  · exact ⟨sameMap_of_eq rfl rfl rfl rfl rfl rfl, rfl, rfl⟩

/-- The record and the place of a descriptor are no part of memory. -/
theorem withQueues_sameStore (q : Queues) (n : Nat) (s : State) : SameStore s { s with q := q, freeCtr := n } :=
  ⟨sameMap_of_eq rfl rfl rfl rfl rfl rfl, rfl, rfl⟩

theorem scramble_sameMap (a len : Nat) (s : State) : SameMap s (scramble a len s) := sameMap_of_eq rfl rfl rfl rfl rfl rfl

theorem peek_scramble_apart {a len x : Nat} {s : State} (hapart : PlacesApart s) (hx : x < a ∨ a + len ≤ x) :
    peek (scramble a len s) x = peek s x := by
  have hfree := withQueues_sameStore s.q (s.freeCtr + len) s
  refine (peek_poke_apart (hfree.toSameMap.placesApart hapart) ?_).trans (hfree.toSameMap.peek hfree.mem x)
  rwa [List.length_map, List.length_range]

/-- Spoiling the outputs of running SAMPLEs changes no byte outside them. -/
theorem peek_spoilRuns {own : Option Nat} {l : List (Nat × Nat)} {s : State} {x : Nat}
    (hapart : PlacesApart s) (hx : outsideRuns s x) : peek (spoilRuns own l s) x = peek s x := by
  have hspoil (hit : List GateRun) (hout : ∀ r ∈ hit, x < r.out.1 ∨ r.out.1 + r.out.2 ≤ x) (s : State) (hapart : PlacesApart s) :
      peek (hit.foldl (fun s r => freeInfoOf r.order (scrambleGate r.slots (scramble r.out.1 r.out.2 s))) s) x = peek s x := by
    induction hit generalizing s with
    | nil => rfl
    | cons r hit ih =>
      have hafter : SameStore (scramble r.out.1 r.out.2 s)
          (freeInfoOf r.order (scrambleGate r.slots (scramble r.out.1 r.out.2 s))) :=
        (scrambleGate_sameStore _ _).trans (withQueues_sameStore _ _ _)
      have hmap := (scramble_sameMap r.out.1 r.out.2 s).trans hafter.toSameMap
      calc _ = peek (freeInfoOf r.order (scrambleGate r.slots (scramble r.out.1 r.out.2 s))) x :=
            ih (fun y hy => hout y (List.mem_cons_of_mem _ hy)) _ (hmap.placesApart hapart)
        _ = peek (scramble r.out.1 r.out.2 s) x := hafter.toSameMap.peek hafter.mem x
        _ = peek s x := peek_scramble_apart hapart (hout r List.mem_cons_self)
  unfold spoilRuns
  split
  · rfl
  · have hq (q : Queues) (s : State) := withQueues_sameStore q s.freeCtr s
    refine ((hq _ _).toSameMap.peek rfl x).trans ?_
    exact hspoil _ (fun r hr => hx r (List.mem_filter.mp hr).1) s hapart

/-- A byte of a range where no SAMPLE that runs has outputs is in none of them. -/
theorem outsideRuns_of_noRunAt {s : State} {a len x : Nat} (h : noRunAt s a len) (h1 : a ≤ x) (h2 : x < a + len) : outsideRuns s x := by
  intro r hr
  have hmeet := h r hr
  simp only [rangesMeet, Bool.and_eq_false_iff, decide_eq_false_iff_not] at hmeet
  omega

/-! ### A DWR (R586, R588) -/

section
variable {source a k b : Nat} {bs : List Byte} {s v : State}

/-- A write from outside to one stack, not in reset: it fails where it leaves codewords as stored, and changes its own bytes alone, beside
the outputs of SAMPLEs that run (R321, R494). -/
theorem outsideWrite_stores (hlegal : SharesLegal s) (hon : OneStack s k b a bs.length) (hreset : stackInReset s k = false)
    (hbs : 0 < bs.length) (hv : SameStore s v) :
    ((outsideWrite source a bs v).1.isSome = true ↔ ∃ i < bs.length, leftAsStored s a bs.length (a + i))
      ∧ (∀ x, x < a ∨ a + bs.length ≤ x → outsideRuns s x → peek (outsideWrite source a bs v).2 x = peek s x)
      ∧ holdsWritten a bs s (outsideWrite source a bs v).2 := by
  have hapart := placesApart_of_legal hlegal
  have hmarked := hv.trans (markRange_sameStore a bs.length v)
  obtain ⟨r, u, h, hrun, hstored, hh, hfails⟩ := storeFrom_run (source := source)
    (w := Work.start (markRange a bs.length v).q.nextOrder [] (markRange a bs.length v)) hapart hon hreset hbs hmarked
  have hwork : runWork (storeFrom source a bs) (markRange a bs.length v)
      = (r, { Work.start (markRange a bs.length v).q.nextOrder [] (markRange a bs.length v) with
          s := sendQueued (markRange a bs.length v) u }) := by
    unfold runWork runWorkAt
    rw [hrun]
    cases r <;> rfl
  have hsent := sendQueued_sends (markRange a bs.length v) u
  have hmap := hstored.map.trans hsent.sameMap
  have hspoiled (x : Nat) (hx : outsideRuns s x) : peek (outsideWrite source a bs v).2 x = peek u x := by
    unfold outsideWrite
    rw [hwork]
    refine (peek_spoilRuns (hmap.placesApart hapart) ?_).trans (hsent.peek x)
    unfold outsideRuns
    rw [hmap.runs]
    exact hx
  refine ⟨?_, fun x hx hout => (hspoiled x hout).trans (hstored.others x (by omega)), fun hm hruns i hi => ?_⟩
  · rw [← hfails]
    unfold outsideWrite
    rw [hwork]
    cases r <;> simp [Except.isOk, Except.toBool]
  · rw [hspoiled _ (outsideRuns_of_noRunAt hruns (by omega) (by omega))]
    exact hstored.bytes hm i hi (by omega)
end

/-- The link brings the DWR, which waits or is answered (R584, R586). -/
theorem exec_dwr {tag : BitVec 12} {a : BitVec 48} {bs : List Byte} {s : State} (hform : dwrForm a bs.length = true)
    (hrun : running s = true) (hcl : clCarries s 1 = true) :
    exec (.dwr tag a bs) s = .next (takeDwr tag a.toNat bs (arrived .cl 1 (unitsOf (16 + bs.length)) s)) := by
  have hexec : exec (.dwr tag a bs) s = clMessage (dwrForm a bs.length) 1
    (fun s => takeDwr tag a.toNat bs (arrived .cl 1 (unitsOf (16 + bs.length)) s)) s := rfl
  rw [hexec, hform, clMessage_next _ hrun hcl]

theorem Posts.deviceWaits {s t : State} (h : Posts s t) (a : Nat) : deviceWaits a t = deviceWaits a s := by
  unfold Machine.deviceWaits
  rw [h.toSends.sameMap.inResetAt, h.stk]

/-- Answering a DWR sends its status; beside that it is the write (R588). -/
theorem answerDwr_posts (tag : BitVec 12) (a : Nat) (bs : List Byte) (s : State) :
    Posts (writeForCompanion a bs s).2 (answerDwr tag a bs s)
      ∧ .dwrDone tag (BitVec.ofNat 8 (writeForCompanion a bs s).1) ∈ (answerDwr tag a bs s).outbox := by
  have hnote (u : State) (e : OutEvent) : Posts u { u with outbox := u.outbox ++ [e] } :=
    ⟨⟨rfl, rfl, rfl, rfl⟩, rfl, List.subset_append_left _ _⟩
  unfold answerDwr
  dsimp only
  generalize writeForCompanion a bs s = r
  have hpost := linkPost_posts ⟨1, 16, 0, clBytes 0x92 r.1 a tag.toNat [], none⟩
    { r.2 with outbox := r.2.outbox ++ [.dwrDone tag (BitVec.ofNat 8 r.1)] }
  exact ⟨(hnote _ _).trans hpost, hpost.sent (by simp)⟩

section
variable {tag : BitVec 12} {a : Nat} {bs : List Byte} {s u v : State}

/-- The answer to a DWR that writes nothing: its status, and memory as it was. -/
theorem answerDwr_of_refused {st : Nat} (h : writeForCompanion a bs u = (st, v)) (hv : SameStore s v) :
    .dwrDone tag (BitVec.ofNat 8 st) ∈ (answerDwr tag a bs u).outbox ∧ (answerDwr tag a bs u).mem = s.mem
      ∧ (answerDwr tag a bs u).shard = v.shard ∧ ∀ x, peek (answerDwr tag a bs u) x = peek s x := by
  obtain ⟨hposts, hdone⟩ := answerDwr_posts tag a bs u
  rw [h] at hposts hdone
  exact ⟨hdone, hposts.mem.trans hv.mem, by rw [hposts.eq], fun x => (hposts.peek x).trans (hv.toSameMap.peek hv.mem x)⟩

theorem refuseOutside_sameStore (s : State) : SameStore s (refuseOutside s) :=
  ⟨sameMap_of_eq rfl rfl rfl rfl rfl rfl, rfl, rfl⟩

/-- A DWR to a stack that meets no protected range is a write from outside, with status 4 where that fails (R494, R588). -/
theorem writeForCompanion_of_stack {k off : Nat} (h : resolve u a = .stack k off) (hprot : firstProtected u.prot a bs.length = none) :
    writeForCompanion a bs u
      = (if (outsideWrite 2 a bs (wakeStack a u)).1.isSome then 4 else 0, (outsideWrite 2 a bs (wakeStack a u)).2) := by
  unfold writeForCompanion
  rw [h]
  dsimp only
  rw [hprot]
  rfl

theorem writeForCompanion_of_protected {k off : Nat} (h : resolve u a = .stack k off) (hprot : firstProtected u.prot a bs.length ≠ none) :
    writeForCompanion a bs u = (3, refuseOutside u) := by
  unfold writeForCompanion
  rw [h]
  exact if_pos (Option.isSome_iff_ne_none.mpr hprot)

/-- The answer to a DWR of one stack's bytes, in a state with the memory of s (R494, R588). -/
theorem answerDwr_of_stack {k off : Nat} (hu : SameStore s u) (hlegal : SharesLegal s) (hplace : resolve s a = .stack k off)
    (hreset : stackInReset s k = false) (hfits : a % 4096 + bs.length ≤ 4096) (hbs : 0 < bs.length)
    (hprot : firstProtected u.prot a bs.length = none) :
    (∀ x, x < a ∨ a + bs.length ≤ x → outsideRuns s x → peek (answerDwr tag a bs u) x = peek s x)
      ∧ holdsWritten a bs s (answerDwr tag a bs u)
      ∧ ((∃ i < bs.length, leftAsStored s a bs.length (a + i)) → .dwrDone tag 4 ∈ (answerDwr tag a bs u).outbox)
      ∧ ((∀ i < bs.length, ¬leftAsStored s a bs.length (a + i)) → .dwrDone tag 0 ∈ (answerDwr tag a bs u).outbox) := by
  obtain ⟨b, hon⟩ := oneStack_of_resolve hplace hfits
  obtain ⟨hfails, hothers, hbytes⟩ := outsideWrite_stores (source := 2) hlegal hon hreset hbs (hu.trans (wakeStack_sameStore a u))
  obtain ⟨hposts, hdone⟩ := answerDwr_posts tag a bs u
  rw [writeForCompanion_of_stack ((hu.resolve a).trans hplace) hprot] at hposts hdone
  refine ⟨fun x hx hout => (hposts.peek x).trans (hothers x hx hout), fun hm hruns i hi => ?_, fun hleft => ?_, fun hnone => ?_⟩
  · rw [hposts.peek]
    exact hbytes hm hruns i hi
  · rw [if_pos (hfails.mpr hleft)] at hdone
    exact hdone
  · rw [if_neg fun hsome => by obtain ⟨i, hi, hleft⟩ := hfails.mp hsome; exact hnone i hi hleft] at hdone
    exact hdone
end

/-- Settles O45: a DWR waits where its stack or a request before it does; otherwise its bytes lie on one stack, or the map alone decides its
answer, and sending that changes no byte. -/
theorem dwrWrites : Obligations.DwrWrites := by
  intro tag a bs s hform hrun hcl hlegal n
  obtain ⟨hbs, hfits⟩ : 0 < bs.length ∧ a.toNat % 4096 + bs.length ≤ 4096 := by
    simp only [dwrForm, Bool.and_eq_true, decide_eq_true_eq] at hform
    omega
  rw [exec_dwr hform hrun hcl]
  have harr := arrived_posts 1 (unitsOf (16 + bs.length)) s
  generalize arrived .cl 1 (unitsOf (16 + bs.length)) s = u at harr
  have hstore := harr.sameStore
  unfold takeDwr
  rw [harr.deviceWaits]
  refine ⟨fun hwait => by rw [if_pos hwait], fun hnow => ⟨answerDwr tag a.toNat bs u, by rw [hnow]; rfl, ?_⟩⟩
  have hplace := hstore.resolve a.toNat
  have refused {st : Nat} {v : State} (h : writeForCompanion a.toNat bs u = (st, v)) (hv : SameStore u v) :=
    answerDwr_of_refused (tag := tag) h (hstore.trans hv)
  have unwritten {st : Nat} (h : writeForCompanion a.toNat bs u = (st, u)) :
      (∀ x, x < a.toNat ∨ a.toNat + bs.length ≤ x → outsideRuns s x → peek (answerDwr tag a.toNat bs u) x = peek s x)
        ∧ .dwrDone tag (BitVec.ofNat 8 st) ∈ (answerDwr tag a.toNat bs u).outbox ∧ (answerDwr tag a.toNat bs u).mem = s.mem := by
    obtain ⟨hdone, hmem, -, hpeek⟩ := refused h (SameStore.refl u)
    exact ⟨fun x _ _ => hpeek x, hdone, hmem⟩
  cases hs : resolve s a.toNat with
  | unbacked => exact unwritten (by rw [writeForCompanion, hplace, hs])
  | unmapped => exact unwritten (by rw [writeForCompanion, hplace, hs])
  | companion c => exact unwritten (by rw [writeForCompanion, hplace, hs])
  | stack k off =>
    rw [hs] at hplace
    have hprot : u.prot = s.prot := by rw [harr.eq]
    by_cases hfree : firstProtected s.prot a.toNat bs.length = none
    · have hreset : stackInReset s k = false := by
        have hnot := (Bool.or_eq_false_iff.mp hnow).1
        unfold inResetAt at hnot
        rw [hs] at hnot
        exact hnot
      obtain ⟨hothers, hbytes, hleft, hall⟩ :=
        answerDwr_of_stack (tag := tag) hstore hlegal hs hreset hfits hbs (hprot ▸ hfree)
      exact ⟨hothers, fun hne => absurd hfree hne, fun _ => ⟨hbytes, hleft, hall⟩⟩
    · obtain ⟨hdone, hmem, hshard, hpeek⟩ := refused (writeForCompanion_of_protected hplace (hprot ▸ hfree)) (refuseOutside_sameStore u)
      refine ⟨fun x _ _ => hpeek x, fun _ => ⟨hdone, hmem, ?_⟩, fun h => absurd h hfree⟩
      rw [hshard, refuseOutside, harr.eq]

end Sys2Proof.Machine
end

section
/-! SUPPORT. What a CORE reset keeps of the pairs and the units (R514, R537, R633, R681). -/

namespace Sys2Proof.Machine

/-- A unit as a CORE reset leaves it. -/
theorem Units.core_get (x : Units) (u : UnitId) : x.core.get u = (x.get u).core := by
  cases u with
  | district n => exact Vector.getElem_map UnitCtl.core n.isLt
  | plaza n => exact Vector.getElem_map UnitCtl.core n.isLt
  | kiosk n => exact Vector.getElem_map UnitCtl.core n.isLt
  | stack n => exact Vector.getElem_map UnitCtl.core n.isLt
  | avenue n => exact Vector.getElem_map UnitCtl.core n.isLt

/-- A pair as a CORE reset leaves it. -/
theorem Queues.core_pair (x : Queues) (q : Fin 64) : x.core.qps[q] = (x.qps[q]).core := Vector.getElem_map QueuePair.core q.isLt

/-- A lock-up outside a reset asserts a CORE reset. -/
theorem exec_lockUp {s : State} (hoff : s.rst.off = false) (hrun : s.rst.run = none) :
    exec .lockUp s = .next (assertReset .core 8 false s) := by
  have hraise : raiseSource .core 8 false s = assertReset .core 8 false s := by
    unfold raiseSource
    rw [hrun]
  exact (sourceEvent_next_of _ hoff (by rw [hrun]; rfl)).trans (congrArg _ hraise)

/-- Settles O54: a lock-up leaves what `clearCore` keeps, and nothing of it but the reset controller is changed after. -/
theorem coreResetKeeps : Obligations.CoreResetKeeps := by
  intro s hoff hrun
  refine ⟨_, exec_lockUp hoff hrun, rfl, rfl, rfl, rfl, rfl, rfl, rfl, rfl, rfl, fun n => ?refresh, rfl, rfl, rfl, rfl, rfl, rfl,
    fun q => ?pairs, fun u => ?units, fun v => ?versions, rfl, rfl⟩
  case refresh => exact Vector.getElem_replicate n.isLt
  case pairs =>
    have hpair : (assertReset .core 8 false s).q.qps[q] = (s.q.qps[q]).core := Queues.core_pair s.q q
    rw [hpair]
    exact ⟨rfl, rfl, rfl, rfl, rfl⟩
  case units =>
    have hunit : (assertReset .core 8 false s).units.get u = (s.units.get u).core := Units.core_get s.units u
    rw [hunit]
    rfl
  case versions => exact congrArg WSlot.state (Vector.getElem_replicate (a := WSlot.free) v.isLt)

end Sys2Proof.Machine
end

section
/-! SUPPORT. The start of a FENCE, and the records of those that failed their own checks (R381, R553 to R557). -/

namespace Sys2Proof.Machine

/-! ### The checks of a FENCE's own fields (R553, R555) -/

/-- What a FENCE of each kind waits for (R554). -/
def fenceCondition (d : Desc) : Await :=
  match fenceKind d with
  | 0 => .queueFence
  | 1 => .waitFence (fenceQid d) (fenceW d)
  | 2 => .stepFence
  | _ => .drainFence

/-- What the record of a FENCE of each kind shows where its fields fail (R381, R557). -/
def fenceShows (d : Desc) : Await :=
  match fenceKind d with
  | 1 => .waitRefused (fenceQid d)
  | 2 => .stepRefused
  | _ => .nothing

def fenceAwait (qp : Fin 64) (d : Desc) : Await := if fenceFieldsOk qp d then fenceCondition d else fenceShows d

def fenceOutcome (qp : Fin 64) (d : Desc) : Except Fail Unit :=
  if fenceFieldsOk qp d then .ok () else .error ⟨.badDescriptor, none, false⟩

theorem fenceAwait_of_ok {qp : Fin 64} {d : Desc} (h : fenceFieldsOk qp d = true) : fenceAwait qp d = fenceCondition d := if_pos h
theorem fenceOutcome_of_ok {qp : Fin 64} {d : Desc} (h : fenceFieldsOk qp d = true) : fenceOutcome qp d = .ok () := if_pos h
theorem fenceAwait_of_refused {qp : Fin 64} {d : Desc} (h : fenceFieldsOk qp d = false) : fenceAwait qp d = fenceShows d :=
  if_neg (Bool.eq_false_iff.mp h)
theorem fenceOutcome_of_refused {qp : Fin 64} {d : Desc} (h : fenceFieldsOk qp d = false) :
    fenceOutcome qp d = .error ⟨.badDescriptor, none, false⟩ := if_neg (Bool.eq_false_iff.mp h)

theorem isFenceKind_iff {k : Nat} {d : Desc} : isFenceKind k d = true ↔ descClass d = clsFence ∧ fenceKind d = k := by
  simp [isFenceKind]

theorem fenceBody_run (qp : Fin 64) (d : Desc) (w : Work) :
    (fenceBody qp d).run w = (fenceOutcome qp d, { w with await := fenceAwait qp d }) := by
  unfold fenceBody fenceOutcome fenceAwait
  cases fenceFieldsOk qp d with
  | true => rfl
  | false => rfl

/-! ### The state after a FENCE has started -/

/-- HEAD has moved past it, and it has an entry. -/
def startedFence (qp : Fin 64) (e : InFlight) (d : Desc) (s : State) : State :=
  pushInFlight e (ownWrites (headBase qp d s) qp (headIdx s qp) (headBase qp d s))

section
variable {qp : Fin 64} {d : Desc} {s : State}

theorem startOne_fence (hd : descClass d = clsFence) (hh : headStatus qp d s = .ok) : ∃ e,
    startOne qp d (fenceBody qp d) s = startedFence qp e d s ∧ e.qp = qp ∧ e.idx = headIdx s qp ∧ e.cls = descClass d
      ∧ e.await = fenceAwait qp d ∧ e.status = outcomeStatus (fenceOutcome qp d) := by
  have hopen : openStep d (headBase qp d s) = headBase qp d s := if_neg fun h => h.2.2.1 hd
  have hwaits : waitsIn (fenceOutcome qp d) = false := by
    unfold fenceOutcome
    split <;> rfl
  exact startOne_of_no_access hh hopen (by rw [hd]; decide) (by simp [nextOf, hd, clsFence, clsMove, clsShard]) hwaits
    (runWork_of_same_link (fenceBody_run qp d _) rfl)

/-- The start of a FENCE changes of the state the queues, what checks 1 to 5 count, what the stacks hold of requests and WRs, and
what is sent. -/
theorem startedFence_eq (e : InFlight) (t : State) (h : startedFence qp e d s = t) :
    t = { s with q := t.q, sec := t.sec, stk := t.stk, outbox := t.outbox } ∧ t.stk.k = s.stk.k ∧ t.stk.j = s.stk.j := by
  subst h
  obtain ⟨x, hx⟩ := headBaseAt_sec (headIdx s qp) d (advanceHead qp 1 s)
  rw [startedFence, headBase, hx]
  exact ⟨rfl, rfl, rfl⟩

theorem startedFence_inflight (e : InFlight) :
    (startedFence qp e d s).q.inflight = s.q.inflight ++ [{ e with order := s.q.nextOrder }] := by
  obtain ⟨x, hx⟩ := headBaseAt_sec (headIdx s qp) d (advanceHead qp 1 s)
  rw [startedFence, headBase, hx, pushInFlight_inflight]
  exact congr (congrArg _ (advanceHead_inflight qp 1 s)) (by simp [ownWrites, advanceHead_nextOrder])

/-- Starting it leaves memory, the step, the open tiles, the turn and the map. -/
theorem startedFence_leaves (e : InFlight) (t : State) (h : startedFence qp e d s = t) :
    SameMap s t ∧ t.mem = s.mem ∧ t.stash = s.stash ∧ t.terr = s.terr ∧ t.turn = s.turn := by
  obtain ⟨heq, hk, hj⟩ := startedFence_eq e t h
  refine ⟨sameMap_of_eq hk hj ?_ ?_ ?_ ?_, ?_, ?_, ?_, ?_⟩ <;> rw [heq]

/-- A FENCE that starts leaves memory, the step and the turn, and an entry with what its own checks decide. -/
theorem startOne_fence_starts (hd : descClass d = clsFence) (hh : headStatus qp d s = .ok) :
    ∃ t, startOne qp d (fenceBody qp d) s = t ∧ t.mem = s.mem ∧ t.stash = s.stash ∧ t.terr = s.terr ∧ t.turn = s.turn
      ∧ startedAs s qp d (fenceAwait qp d) (outcomeStatus (fenceOutcome qp d)) t := by
  obtain ⟨e, hstart, hq, hi, hcls, ha, hst⟩ := startOne_fence hd hh
  obtain ⟨-, hmem, hstash, hterr, hturn⟩ := startedFence_leaves e _ hstart.symm
  refine ⟨_, rfl, hmem, hstash, hterr, hturn, ?_⟩
  rw [hstart, ← ha, ← hst]
  exact startedAs_of_push hq hi hcls

theorem exec_stepFence (hd : isFenceKind 2 d = true) (hr : running s = true) (hc : canStart s qp d 1 = true) :
    exec (.stepFence qp d) s = .next (startStep qp d s) := by
  simp [exec, execStepFence, hd, hr, hc]

/-- A STEP fence whose own checks fail acts on nothing. -/
theorem startStep_of_refused (hd : isFenceKind 2 d = true) (hc : canStart s qp d 1 = true) (hh : headStatus qp d s = .ok)
    (hf : fenceFieldsOk qp d = false) : startStep qp d s = startOne qp d (fenceBody qp d) s := by
  obtain ⟨hcls, hkind⟩ := isFenceKind_iff.mp hd
  obtain ⟨e, hstart, -, -, -, ha, -⟩ := startOne_fence hcls hh
  unfold startStep
  dsimp only
  rw [hstart]
  split
  · rename_i x hx
    refine if_neg fun h => ?_
    have hmem := List.mem_of_find?_eq_some hx
    rw [startedFence_inflight, List.mem_append, List.mem_singleton] at hmem
    rcases hmem with hold | rfl
    · exact no_stepFence_of_canStart hc hold h.1
    · rw [show e.await = .stepRefused by simp [ha, fenceAwait_of_refused hf, fenceShows, hkind]] at h
      exact nomatch h.1
  · rfl
end

/-! ### Completing -/

/-- A completion that leaves the state as it is writes its record where the ring can take one. -/
theorem exec_descriptorComplete_records {qp : Fin 64} {idx : W32} {s : State} {e e' : InFlight} (hrun : running s = true)
    (hfind : findInFlight s qp idx = some e) (hcomp : completion e s = some (e', s)) (hne : e.await ≠ .nothing)
    (hring : ringOutside s qp) (hready : recordReady s qp = true) :
    ∃ t, exec (.descriptorComplete qp idx) s = .next t ∧ pairCompleted e s t ∧ recordWritten e' s t := by
  obtain ⟨hq, hi, -, hdone⟩ := completion_does hcomp
  obtain ⟨heq, -⟩ := findInFlight_names hfind
  obtain rfl : e'.qp = qp := hq.trans heq
  refine ⟨writeRecord e' s, ?_, pairCompleted_of_place hq hi (pairCompleted_writeRecord e' s), recordWritten_writeRecord hring⟩
  rw [exec_descriptorComplete hrun, hfind, Option.bind_some, hdone, if_neg hne, finish_of_ready hready]
  rfl

/-- Settles O16: the start of a FENCE by what its own checks decide, and the completions of the two refused kinds. -/
theorem fencesWait : Obligations.FencesWait := by
  refine ⟨fun qp d s hr hc hh => ?_, fun qp idx s e hr hfind hw hfol hring hready => ?_⟩
  · intro starts
    have row {k : Nat} (hk : isFenceKind k d = true) :
        startDesc (isFenceKind k d) qp d (fenceBody qp d) s = .next (startOne qp d (fenceBody qp d) s) := by
      rw [hk, startDesc_starts _ hr hc]
    have passing {c : Instr} {k : Nat} {a : Await} (hk : isFenceKind k d = true)
        (hexec : exec c s = .next (startOne qp d (fenceBody qp d) s)) (hf : fenceFieldsOk qp d = true)
        (ha : fenceKind d = k → fenceCondition d = a) : starts c a .ok := by
      obtain ⟨hcls, hkind⟩ := isFenceKind_iff.mp hk
      obtain ⟨t, ht, hleft⟩ := startOne_fence_starts hcls hh
      rw [fenceAwait_of_ok hf, fenceOutcome_of_ok hf, ha hkind] at hleft
      exact ⟨t, hexec.trans (congrArg _ ht), hleft⟩
    have refused {c : Instr} {k : Nat} {a : Await} (hk : isFenceKind k d = true)
        (hexec : exec c s = .next (startOne qp d (fenceBody qp d) s)) (hf : fenceFieldsOk qp d = false)
        (ha : fenceKind d = k → fenceShows d = a) : starts c a .badDescriptor := by
      obtain ⟨hcls, hkind⟩ := isFenceKind_iff.mp hk
      obtain ⟨t, ht, hleft⟩ := startOne_fence_starts hcls hh
      rw [fenceAwait_of_refused hf, fenceOutcome_of_refused hf, ha hkind] at hleft
      exact ⟨t, hexec.trans (congrArg _ ht), hleft⟩
    refine ⟨fun hk hf => ?queue, fun hk hf => ?wait, fun hk hf => ?drain, fun hk hf => ?queueRefused, fun hk hf => ?waitRefused,
      fun hk hf => ?stepRefused, fun hk hf => ?drainRefused⟩
    case queue => exact passing hk (row hk) hf fun h => by simp [fenceCondition, h]
    case wait => exact passing hk (row hk) hf fun h => by simp [fenceCondition, h]
    case drain => exact passing hk (row hk) hf fun h => by simp [fenceCondition, h]
    case queueRefused => exact refused hk (row hk) hf fun h => by simp [fenceShows, h]
    case waitRefused => exact refused hk (row hk) hf fun h => by simp [fenceShows, h]
    case stepRefused =>
      have hexec : exec (.stepFence qp d) s = .next (startOne qp d (fenceBody qp d) s) := by
        rw [exec_stepFence hk hr hc, startStep_of_refused hk hc hh hf]
      exact refused hk hexec hf fun h => by simp [fenceShows, h]
    case drainRefused => exact refused hk (row hk) hf fun h => by simp [fenceShows, h]
  · have records {e' : InFlight} (hcomp : completion e s = some (e', s)) (hne : e.await ≠ .nothing) :=
      exec_descriptorComplete_records hr hfind hcomp hne hring hready
    refine ⟨fun q ha => ?_, fun ha => ?_⟩
    · exact records (by simp [completion, hw, hfol, ha, waitInfo]) (by simp [ha])
    · exact records (by simp [completion, hw, hfol, ha, refusedStepInfo]) (by simp [ha])

end Sys2Proof.Machine
end

section
/-! SUPPORT. What a STEP fence stores, what it leaves of the step, and when it acts (R347, R380, R456, R494, R515). -/

namespace Sys2Proof.Machine

/-! ### Stores within some addresses -/

/-- Beside those of some addresses every byte is as it was, and so are the step, the open tiles and the map. -/
structure Stores (A : Nat → Prop) (s t : State) : Prop extends SameMap s t where
  stash : t.stash = s.stash
  terr : t.terr = s.terr
  others : PlacesApart s → ∀ x, ¬A x → peek t x = peek s x

section
variable {A : Nat → Prop}

theorem Stores.of_sameMap {s t : State} (h : SameMap s t) (hm : t.mem = s.mem) (hs : t.stash = s.stash) (ht : t.terr = s.terr) :
    Stores A s t := ⟨h, hs, ht, fun _ x _ => h.peek hm x⟩

theorem Stores.refl (s : State) : Stores A s s := .of_sameMap (SameMap.refl s) rfl rfl rfl

theorem Stores.trans {s t u : State} (a : Stores A s t) (b : Stores A t u) : Stores A s u :=
  ⟨a.toSameMap.trans b.toSameMap, b.stash.trans a.stash, b.terr.trans a.terr,
    fun hs x hx => (b.others (a.placesApart hs) x hx).trans (a.others hs x hx)⟩

theorem Stores.foldl {α : Type} {f : State → α → State} (h : ∀ s x, Stores A s (f s x)) :
    ∀ (l : List α) (s : State), Stores A s (l.foldl f s)
  | [], s => Stores.refl s
  | x :: l, s => (h s x).trans (Stores.foldl h l (f s x))

/-- The same of a fold that carries more than a state. -/
theorem Stores.foldl_snd {α β : Type} {f : β × State → α → β × State} {l : List α} (h : ∀ r, ∀ x ∈ l, Stores A r.2 (f r x).2)
    (r : β × State) : Stores A r.2 (l.foldl f r).2 := by
  induction l generalizing r with
  | nil => exact Stores.refl r.2
  | cons x l ih =>
    exact (h r x List.mem_cons_self).trans (ih (fun r y hy => h r y (List.mem_cons_of_mem x hy)) (f r x))

theorem Sends.stores {s t : State} (h : Sends s t) : Stores A s t :=
  ⟨h.sameMap, by rw [h.eq], by rw [h.eq], fun _ x _ => h.peek x⟩

theorem poke_stores {a : Nat} {bs : List Byte} (h : ∀ x, a ≤ x → x < a + bs.length → A x) (s : State) : Stores A s (poke s a bs) :=
  ⟨poke_sameMap s a bs, rfl, rfl, fun hs x hx => peek_poke_apart hs (by by_contra hin; exact hx (h x (by omega) (by omega)))⟩

/-! ### Work that stores within them -/

/-- Work whose stores lie within some addresses, whether it ends OK or fails, and that names no output. -/
structure MStores (A : Nat → Prop) {α : Type} (m : M α) : Prop where
  run : ∀ w : Work, Stores A w.s (m.run w).2.s
  writes : ∀ w : Work, (m.run w).2.writes = w.writes

theorem MStores.pure {α : Type} (a : α) : MStores A (pure a : M α) := ⟨fun w => Stores.refl w.s, fun _ => rfl⟩
theorem MStores.throw {α : Type} (e : Fail) : MStores A (throw e : M α) := ⟨fun w => Stores.refl w.s, fun _ => rfl⟩
theorem MStores.get : MStores A (get : M Work) := ⟨fun w => Stores.refl w.s, fun _ => rfl⟩
theorem MStores.getS : MStores A getS := ⟨fun w => Stores.refl w.s, fun _ => rfl⟩
theorem MStores.modS {f : State → State} (h : ∀ s, Stores A s (f s)) : MStores A (modS f) := ⟨fun w => h w.s, fun _ => rfl⟩

theorem MStores.bind {α β : Type} {m : M α} {f : α → M β} (h : MStores A m) (k : ∀ a, MStores A (f a)) : MStores A (m >>= f) := by
  have both (w : Work) : Stores A w.s ((m >>= f).run w).2.s ∧ ((m >>= f).run w).2.writes = w.writes := by
    have hs := h.run w
    have hw := h.writes w
    rw [M.run_bind]
    generalize m.run w = r at hs hw
    obtain ⟨_ | a, w'⟩ := r
    · exact ⟨hs, hw⟩
    · exact ⟨hs.trans ((k a).run w'), ((k a).writes w').trans hw⟩
  exact ⟨fun w => (both w).1, fun w => (both w).2⟩

theorem MStores.mapM {α β : Type} {f : α → M β} (h : ∀ a, MStores A (f a)) (l : List α) : MStores A (l.mapM f) := by
  rw [← List.mapM'_eq_mapM]
  induction l with
  | nil => exact MStores.pure _
  | cons a l ih => exact (h a).bind fun _ => ih.bind fun _ => MStores.pure _

theorem countUncorrectable_stores (n a source : Nat) (s : State) : Stores A s (countUncorrectable n a source s) := by
  refine Stores.trans ?_ (raiseAlert_sends 4 _).stores
  exact .of_sameMap (sameMap_of_eq rfl rfl rfl rfl rfl rfl) rfl rfl rfl

theorem markRange_stores (a len : Nat) (s : State) : Stores A s (markRange a len s) := by
  refine Stores.foldl (fun s l => ?_) _ s
  unfold markLine
  split
  · unfold markStack
    split
    · exact .of_sameMap (countWork_sameStore _ _ s).toSameMap rfl rfl rfl
    · exact Stores.refl s
  · exact Stores.refl s

theorem refuseProtected_stores (x : Nat) : MStores A (refuseProtected x) :=
  MStores.bind (MStores.modS fun s => .of_sameMap (sameMap_of_eq (s := s) rfl rfl rfl rfl rfl rfl) rfl rfl rfl) fun _ => MStores.throw _

/-- The part of a write on one codeword stores within [lo, hi). -/
theorem writeCodeword_stores {lo hi : Nat} (h : ∀ x, lo ≤ x → x < hi → A x) (source base : Nat) (bs : List Byte) :
    MStores A (writeCodeword source base bs lo hi) := by
  have answer {f : State → State} {b : Bool} (h : ∀ s, Stores A s (f s)) : MStores A (do modS f; return b) :=
    (MStores.modS h).bind fun _ => MStores.pure b
  have part (s : State) : Stores A s (poke s lo ((bs.drop (lo - base)).take (hi - lo))) :=
    poke_stores (fun x h1 h2 => h x h1 (by rw [List.length_take] at h2; omega)) s
  unfold writeCodeword
  refine MStores.getS.bind fun s => ?_
  split
  · refine MStores.bind ?_ fun _ => ?_
    · unfold holdIf
      split
      · exact MStores.throw _
      · exact MStores.pure _
    · dsimp only
      split
      · exact answer fun s => (part s).trans (.of_sameMap (eccClear_sameMap _ _) rfl rfl rfl)
      · split
        · exact answer fun _ => countUncorrectable_stores _ _ _ _
        · exact answer fun s => Stores.trans (.of_sameMap (countCorrected_sameMap _ _ s) rfl rfl rfl) (part _)
        · exact answer part
  · exact answer part
  · exact MStores.throw _
  · exact MStores.throw _

section
variable {a : Nat} {bs : List Byte} (h : ∀ x, a ≤ x → x < a + bs.length → A x)
include h

theorem storeFrom_stores (source : Nat) : MStores A (storeFrom source a bs) := by
  unfold storeFrom
  split
  · exact MStores.pure _
  · dsimp only
    refine MStores.bind (MStores.mapM (fun i => ?_) _) fun bad => ?_
    · exact (writeCodeword_stores (fun x h1 h2 => h x (by omega) (by omega)) _ _ _).bind fun _ => MStores.pure _
    · split
      · exact MStores.throw _
      · exact MStores.pure _

theorem storeBytes_stores : MStores A (storeBytes a bs) := by
  unfold storeBytes
  refine MStores.get.bind fun w => ?_
  refine MStores.bind (MStores.modS fun s => Stores.trans ?_ (markRange_stores _ _ _)) fun _ => storeFrom_stores h _
  split
  · exact .of_sameMap (sameMap_of_eq rfl rfl rfl rfl rfl rfl) rfl rfl rfl
  · exact Stores.refl s

theorem writeSerial_stores : MStores A (writeSerial a bs) := by
  unfold writeSerial
  refine MStores.get.bind fun w => ?_
  split
  · exact ⟨fun w => Stores.refl w.s, fun _ => rfl⟩
  · split
    · exact MStores.modS (poke_stores h)
    · split
      · exact refuseProtected_stores _
      · refine (storeBytes_stores h).bind fun _ => ?_
        split
        · exact MStores.modS fun _ => (queueWr_sends _ _ _ _).stores
        · exact MStores.pure _
end

/-- Work that names no output spoils none (R456). -/
theorem runWork_stores {α : Type} {m : M α} (h : MStores A m) (s : State) : Stores A s (runWork m s).2.s := by
  have hrun := h.run (Work.start s.q.nextOrder [] s)
  have hwrites : (m.run (Work.start s.q.nextOrder [] s)).2.writes = [] := h.writes _
  refine Stores.trans ?_ (sendQueued_sends s _).stores
  unfold settleLate
  split
  · rw [hwrites]
    exact hrun
  · exact hrun
end

/-! ### Ending the step (R347, R380) -/

/-- The COPY fields of the entries whose copies the stash holds. -/
def copyFields (s : State) (x : Nat) : Prop := ∃ c ∈ s.stash.copies, c.entry + 16 ≤ x ∧ x < c.entry + 22

theorem forgetCopies_stores (s : State) : Stores (copyFields s) s (forgetCopies s).2 := by
  unfold forgetCopies
  exact Stores.foldl_snd (fun r c hc => runWork_stores (writeSerial_stores fun x h1 h2 => ⟨c, hc, h1, h2⟩) r.2) (none, s)

/-- What a step's end leaves: the stash closed and empty under the next tag, the steps of LEARN counted, and memory as it was beside the
COPY fields of the copies freed. -/
structure StepEnds (s t : State) : Prop where
  stash : t.stash = { s.stash with copies := [], fill := 0, tag := nextTag s.stash.tag, state := .closed, units := [], readUnits := [] }
  terr : t.terr = s.terr
  turn : t.turn = { s.turn with steps := if s.turn.cur = .learn then satInc s.turn.steps else s.turn.steps }
  others : PlacesApart s → ∀ x, ¬copyFields s x → peek t x = peek s x

theorem endStep_ends (st : Status) (s : State) : StepEnds s (endStep st s).2 := by
  have hstores := forgetCopies_stores s
  have hturn := (forgetCopies_keepsTurn s).turn
  have hclose : SameMap (forgetCopies s).2 (endStep st s).2 := sameMap_of_eq rfl rfl rfl rfl rfl rfl
  refine ⟨?_, hstores.terr, ?_, fun hs x hx => (hclose.peek rfl x).trans (hstores.others hs x hx)⟩
  · change (closeStep (forgetCopies s).2).stash = _
    unfold closeStep
    rw [hstores.stash]
  · change (closeStep (forgetCopies s).2).turn = _
    unfold closeStep
    rw [hturn]

/-- A status other than OK stays, whatever the writes of the COPY fields come to. -/
theorem endStep_status {st : Status} (h : st ≠ .ok) (s : State) : (endStep st s).1.1 = st := by
  unfold endStep
  dsimp only
  cases (forgetCopies s).1 with
  | none => rfl
  | some f => exact congrArg Prod.fst (if_neg h)

/-- With no copies there are no COPY fields to write. -/
theorem endStep_status_of_no_copies {s : State} (h : s.stash.copies = []) (st : Status) : (endStep st s).1.1 = st := by
  have hnone : (forgetCopies s).1 = none := by
    unfold forgetCopies
    rw [h]
    rfl
  unfold endStep
  dsimp only
  rw [hnone]

/-- An exhausted step's open tiles are discarded, and it is counted (R380). -/
def exhaustedStep (s : State) : State :=
  { s with terr := { s.terr with tiles := [] }, stash := { s.stash with stepsExhausted := satInc s.stash.stepsExhausted } }

/-- The state in which a complete step ends: one that downgraded is counted (R380). -/
def completeStep (s : State) : State :=
  { s with stash := { s.stash with
    stepsDowngraded := if s.stash.state = .downgrading then satInc s.stash.stepsDowngraded else s.stash.stepsDowngraded } }

section
variable {s : State}

theorem stepFenceAct_of_exhausted (h : s.stash.state = .exhausted) : stepFenceAct s =
    endStep .stashExhausted (raiseAlert 8 (exhaustedStep s)) := if_pos h

theorem stepFenceAct_of_open (h : s.stash.state ≠ .exhausted) (hopen : s.terr.tiles ≠ []) :
    stepFenceAct s = ((.stepIncomplete, none), s) := by
  unfold stepFenceAct
  rw [if_neg h, if_pos (by simpa using hopen)]

theorem stepFenceAct_of_complete (h : s.stash.state ≠ .exhausted) (hnone : s.terr.tiles = []) :
    stepFenceAct s = endStep .ok (completeStep s) := by
  unfold stepFenceAct completeStep
  rw [if_neg h, if_neg (by simp [hnone])]
  split <;> rfl

/-- The step has ended: the stash is closed and empty under the next tag, and 2200:04 counts the step in LEARN (R355, R380). -/
def stepEnded (s t : State) : Prop :=
  t.stash.state = .closed ∧ t.stash.copies = [] ∧ t.stash.fill = 0 ∧ t.stash.tag = nextTag s.stash.tag
    ∧ t.turn.steps = if s.turn.cur = .learn then satInc s.turn.steps else s.turn.steps

theorem StepEnds.ended {s u t : State} (h : StepEnds u t) (htag : u.stash.tag = s.stash.tag) (hturn : u.turn = s.turn) :
    stepEnded s t := by
  rw [stepEnded, h.stash, h.turn, ← htag, ← hturn]
  exact ⟨rfl, rfl, rfl, rfl, rfl⟩

/-- What acting on an exhausted step leaves (R380, case 1). -/
theorem stepFenceAct_exhausted (he : s.stash.state = .exhausted) : (stepFenceAct s).1.1 = .stashExhausted
    ∧ stepEnded s (stepFenceAct s).2 ∧ (stepFenceAct s).2.terr.tiles = []
    ∧ (stepFenceAct s).2.stash.stepsExhausted = satInc s.stash.stepsExhausted := by
  have hsent := raiseAlert_sends 8 (exhaustedStep s)
  have hstash : (raiseAlert 8 (exhaustedStep s)).stash = (exhaustedStep s).stash := by rw [hsent.eq]
  have hterr : (raiseAlert 8 (exhaustedStep s)).terr = (exhaustedStep s).terr := by rw [hsent.eq]
  have hends := endStep_ends .stashExhausted (raiseAlert 8 (exhaustedStep s))
  rw [stepFenceAct_of_exhausted he]
  refine ⟨endStep_status (by decide) _, hends.ended (by rw [hstash]; rfl) hsent.turn, ?_, ?_⟩
  · rw [hends.terr, hterr]
    rfl
  · rw [hends.stash, hstash]
    rfl

/-- What acting on a complete step leaves (R380, case 3). -/
theorem stepFenceAct_complete (he : s.stash.state ≠ .exhausted) (hnone : s.terr.tiles = []) :
    (s.stash.copies = [] → (stepFenceAct s).1.1 = .ok) ∧ stepEnded s (stepFenceAct s).2 ∧ (stepFenceAct s).2.terr = s.terr
      ∧ (stepFenceAct s).2.stash.stepsDowngraded
        = if s.stash.state = .downgrading then satInc s.stash.stepsDowngraded else s.stash.stepsDowngraded := by
  have hends := endStep_ends .ok (completeStep s)
  rw [stepFenceAct_of_complete he hnone]
  refine ⟨fun h => endStep_status_of_no_copies (by exact h) _, hends.ended rfl rfl, hends.terr, ?_⟩
  rw [hends.stash]
  rfl

/-- Acting changes no byte but of the COPY fields of the copies that it frees (R347). -/
theorem peek_stepFenceAct (hs : PlacesApart s) {x : Nat} (hx : ¬copyFields s x) : peek (stepFenceAct s).2 x = peek s x := by
  have ends {st : Status} {u : State} (hmap : SameMap s u) (hmem : u.mem = s.mem) (hcopies : u.stash.copies = s.stash.copies) :
      peek (endStep st u).2 x = peek s x := by
    refine ((endStep_ends st u).others (hmap.placesApart hs) x fun h => hx ?_).trans (hmap.peek hmem x)
    rwa [copyFields, hcopies] at h
  by_cases he : s.stash.state = .exhausted
  · have hsent := raiseAlert_sends 8 (exhaustedStep s)
    have hmap : SameMap s (exhaustedStep s) := sameMap_of_eq rfl rfl rfl rfl rfl rfl
    rw [stepFenceAct_of_exhausted he]
    exact ends (hmap.trans hsent.sameMap) hsent.mem (by rw [hsent.eq]; rfl)
  · by_cases hopen : s.terr.tiles = []
    · rw [stepFenceAct_of_complete he hopen]
      exact ends (sameMap_of_eq rfl rfl rfl rfl rfl rfl) rfl rfl
    · rw [stepFenceAct_of_open he hopen]
end

/-! ### The start of a STEP fence whose fields pass -/

/-- The newest entry, replaced, is the newest. -/
theorem newest_setInFlight {x y : InFlight} {s : State} (h : newest s = some x) (hq : y.qp = x.qp) (hi : y.idx = x.idx) :
    newest (setInFlight y s) = some y := by
  unfold newest at h ⊢
  rw [setInFlight_inflight, List.getLast?_map, h]
  exact congrArg some (if_pos (by simp [hq, hi]))

section
variable {qp : Fin 64} {d : Desc} {s : State}

theorem findInFlight_startedFence {e : InFlight} (hfresh : freshIndex s qp) (hq : e.qp = qp) (hi : e.idx = headIdx s qp) :
    findInFlight (startedFence qp e d s) qp (headIdx s qp) = some { e with order := s.q.nextOrder } := by
  unfold freshIndex findInFlight at hfresh
  unfold findInFlight
  rw [startedFence_inflight, List.find?_append, hfresh]
  simp [hq, hi]

/-- It waits for what was started before it, and for the stacks that it is to write to (R515, R554). -/
theorem fenceReady_startedFence (e x : InFlight) (hx : x.await = .stepFence) (ho : x.order = s.q.nextOrder) :
    fenceReady x (startedFence qp e d s) = (allQuiet s s.q.nextOrder && copiesThere s) := by
  have hquiet : allQuiet (startedFence qp e d s) s.q.nextOrder = allQuiet s s.q.nextOrder := by
    unfold allQuiet
    rw [startedFence_inflight]
    simp
  obtain ⟨hmap, -, hstash, -⟩ := startedFence_leaves e _ (rfl : startedFence qp e d s = _)
  have hcopies : copiesThere (startedFence qp e d s) = copiesThere s := by
    unfold copiesThere
    simp only [hstash, hmap.inResetAt]
  unfold fenceReady
  rw [ho, hquiet, hcopies, hx]
  rfl

/-- A STEP fence whose fields pass acts where nothing holds it, and waits with its entry otherwise. -/
theorem startStep_of_passing (hd : isFenceKind 2 d = true) (hh : headStatus qp d s = .ok) (hf : fenceFieldsOk qp d = true)
    (hfresh : freshIndex s qp) : ∃ e, startStep qp d s
        = (if allQuiet s s.q.nextOrder && copiesThere s then actStep { e with order := s.q.nextOrder } (startedFence qp e d s)
          else startedFence qp e d s)
      ∧ e.qp = qp ∧ e.idx = headIdx s qp ∧ e.cls = descClass d ∧ e.await = .stepFence ∧ e.status = .ok := by
  obtain ⟨hcls, hkind⟩ := isFenceKind_iff.mp hd
  obtain ⟨e, hstart, hq, hi, hc, ha, hst⟩ := startOne_fence hcls hh
  have hawait : e.await = .stepFence := by simp [ha, fenceAwait_of_ok hf, fenceCondition, hkind]
  refine ⟨e, ?_, hq, hi, hc, hawait, by rw [hst, fenceOutcome_of_ok hf]; rfl⟩
  have hfind := findInFlight_startedFence (d := d) hfresh hq hi
  unfold headIdx at hfind
  unfold startStep
  dsimp only
  rw [hstart, hfind]
  dsimp only
  rw [fenceReady_startedFence e { e with order := s.q.nextOrder } hawait rfl]
  simp [hawait]

/-- Acting leaves the step, the open tiles, the turn and memory as its three cases do. -/
theorem actStep_leaves {e : InFlight} {u t : State} (h : actStep e u = t) : t.stash = (stepFenceAct u).2.stash
    ∧ t.terr = (stepFenceAct u).2.terr ∧ t.turn = (stepFenceAct u).2.turn ∧ ∀ x, peek t x = peek (stepFenceAct u).2 x := by
  subst h
  have hmap : SameMap (stepFenceAct u).2 (actStep e u) := sameMap_of_eq rfl rfl rfl rfl rfl rfl
  exact ⟨rfl, rfl, rfl, hmap.peek rfl⟩

/-- The entry that acting leaves is the newest, with the status that the three cases of R380 give. -/
theorem startedAs_actStep {e : InFlight} {u : State} (hu : startedFence qp e d s = u) (hq : e.qp = qp) (hi : e.idx = headIdx s qp)
    (hc : e.cls = descClass d) :
    startedAs s qp d .drainFence (stepFenceAct u).1.1 (actStep { e with order := s.q.nextOrder } u) := by
  have hnew : newest (stepFenceAct u).2 = some { e with order := s.q.nextOrder } := by
    rw [newest, stepFenceAct_q, ← hu, startedFence_inflight, List.getLast?_concat]
  have hacted : newest (actStep { e with order := s.q.nextOrder } u) = _ := newest_setInFlight hnew rfl rfl
  rw [startedAs, hacted, ← hi, ← hq, ← hc]
  rfl
end

/-- Settles O17: the entry's start, which changes nothing that the fence acts on, and then the three cases of R380. -/
theorem stepFenceActs : Obligations.StepFenceActs := by
  intro qp d s hd hr hc hh hf hfresh
  obtain ⟨e, hstart, hq, hi, hcls, hawait, hok⟩ := startStep_of_passing hd hh hf hfresh
  generalize hu : startedFence qp e d s = u at hstart
  obtain ⟨hmap, hmem, hstash, hterr, hturn⟩ := startedFence_leaves e u hu
  rw [exec_stepFence hd hr hc, hstart]
  by_cases hacts : (allQuiet s s.q.nextOrder && copiesThere s) = true
  · rw [if_pos hacts]
    have hacted := startedAs_actStep hu hq hi hcls
    generalize ht : actStep { e with order := s.q.nextOrder } u = t at hacted
    obtain ⟨htstash, htterr, htturn, htpeek⟩ := actStep_leaves ht
    refine ⟨t, rfl, ?_⟩
    rw [← hstash, ← hterr, ← hturn, htstash, htterr, htturn]
    refine ⟨?cur, fun hs x hx => ?memory, fun h => absurd h (by simp [hacts]), fun _ => ⟨fun he => ?exhausted,
      fun he hopen => ?stillOpen, fun he hnone => ?complete⟩⟩
    case cur =>
      obtain ⟨n, hn⟩ := (stepFenceAct_countsSteps u).turn
      rw [hn]
    case memory =>
      have hfields : ¬copyFields u x := by
        rintro ⟨c, hc, h1, h2⟩
        have := hx c hc
        omega
      rw [htpeek, peek_stepFenceAct (hmap.placesApart (placesApart_of_legal hs)) hfields, hmap.peek hmem]
    case exhausted =>
      obtain ⟨hst, hended, htiles, hcount⟩ := stepFenceAct_exhausted he
      exact ⟨hended, htiles, hcount, hst ▸ hacted⟩
    case stillOpen =>
      rw [stepFenceAct_of_open he hopen] at hacted ⊢
      exact ⟨rfl, rfl, rfl, hacted⟩
    case complete =>
      obtain ⟨hst, hended, htiles, hcount⟩ := stepFenceAct_complete he hnone
      exact ⟨hended, htiles, hcount, _, hacted, hst⟩
  · rw [if_neg hacts]
    have hwaits : startedAs s qp d .stepFence .ok u := by
      rw [← hu, ← hawait, ← hok]
      exact startedAs_of_push hq hi hcls
    exact ⟨u, rfl, congrArg _ hturn, fun _ x _ => hmap.peek hmem x, fun _ => ⟨hstash, hterr, hturn, hwaits⟩,
      fun h => absurd h hacts⟩

end Sys2Proof.Machine
end

section
/-! SUPPORT. What dealing early FIELDS out leaves of the exchanges and of the rest of the state, and what data of members leave (R415, R423,
R426, R445, R461, R462, R479). -/

namespace Sys2Proof.Machine

/-! ### The places of the exchanges -/

/-- The descriptors whose exchanges are held, in the order in which they started. -/
def exchangePlaces (s : State) : List (Fin 64 × W32) := s.red.exchanges.map fun x => (x.qp, x.idx)

theorem sameX_iff {x y : Exchange} : sameX x y = true ↔ (x.qp, x.idx) = (y.qp, y.idx) := by simp [sameX]
theorem sameX_refl (x : Exchange) : sameX x x = true := sameX_iff.mpr rfl
theorem sameX_congr {y z : Exchange} (h : sameX y z = true) (x : Exchange) : sameX x z = sameX x y := by
  rw [Bool.eq_iff_iff, sameX_iff, sameX_iff, sameX_iff.mp h]

theorem mem_setExchange {x z : Exchange} {s : State} : z ∈ (setExchange x s).red.exchanges
    ↔ (z ∈ s.red.exchanges ∧ sameX x z = false) ∨ (z = x ∧ ∃ y ∈ s.red.exchanges, sameX x y = true) := by
  change z ∈ s.red.exchanges.map _ ↔ _
  rw [List.mem_map]
  constructor
  · rintro ⟨y, hy, rfl⟩
    split
    · next h => exact .inr ⟨rfl, y, hy, h⟩
    · next h => exact .inl ⟨hy, by simpa using h⟩
  · rintro (⟨hz, h⟩ | ⟨rfl, y, hy, h⟩)
    · exact ⟨z, hz, by simp [h]⟩
    · exact ⟨y, hy, if_pos h⟩

/-- An exchange put in place of the one of its descriptor has that place. -/
theorem setExchange_places (x : Exchange) (s : State) : exchangePlaces (setExchange x s) = exchangePlaces s := by
  unfold exchangePlaces
  change (s.red.exchanges.map _).map _ = _
  rw [List.map_map]
  refine List.map_congr_left fun y _ => ?_
  dsimp only [Function.comp]
  split
  · next h => exact sameX_iff.mp h
  · rfl

/-! ### Taking FIELDS that came early -/

theorem dropPicked_subset {α : Type} (p : α → Bool) : ∀ (n : Nat) (l : List α), dropPicked p n l ⊆ l
  | 0, l => by simp [dropPicked]
  | _ + 1, [] => List.Subset.refl _
  | n + 1, x :: l => by
    unfold dropPicked
    split
    · exact List.Subset.trans (dropPicked_subset p n l) (List.subset_cons_self x l)
    · exact List.cons_subset_cons x (dropPicked_subset p (n + 1) l)

theorem mem_dropPicked {α : Type} {p : α → Bool} {a : α} (hp : p a = false) : ∀ (n : Nat) {l : List α}, a ∈ l → a ∈ dropPicked p n l
  | 0, _, h => by simpa [dropPicked] using h
  | n + 1, x :: l, h => by
    unfold dropPicked
    rcases List.mem_cons.mp h with rfl | h
    · simp [hp]
    · split
      · exact mem_dropPicked hp n h
      · exact List.mem_cons_of_mem x (mem_dropPicked hp (n + 1) h)

/-- Nothing but the exchanges and the FIELDS kept or missed may have changed, and of those kept none is new. -/
structure LeavesEarly (s t : State) : Prop where
  eq : t = { s with red := { s.red with exchanges := t.red.exchanges, early := t.red.early, missed := t.red.missed } }
  early : t.red.early ⊆ s.red.early

theorem LeavesEarly.refl (s : State) : LeavesEarly s s := ⟨rfl, List.Subset.refl _⟩
theorem LeavesEarly.trans {s t u : State} (a : LeavesEarly s t) (b : LeavesEarly t u) : LeavesEarly s u := by
  refine ⟨b.eq.trans ?_, List.Subset.trans b.early a.early⟩
  rw [a.eq]

/-- An exchange has taken FIELDS: it has more of them, and the others are as they were. -/
structure Takes (x y : XS) : Prop extends LeavesEarly x.2 y.2 where
  exchange : y.1 = { x.1 with peers := y.1.peers }
  peers : x.1.peers ⊆ y.1.peers
  others : y.2.red.exchanges = x.2.red.exchanges

theorem Takes.refl (x : XS) : Takes x x := ⟨LeavesEarly.refl _, rfl, List.Subset.refl _, rfl⟩
theorem Takes.trans {x y z : XS} (a : Takes x y) (b : Takes y z) : Takes x z := by
  refine ⟨a.toLeavesEarly.trans b.toLeavesEarly, b.exchange.trans ?_, List.Subset.trans a.peers b.peers, b.others.trans a.others⟩
  rw [a.exchange]

theorem takeEarly_takes (r : Nat) (x : XS) : Takes x (takeEarly r x) := by
  unfold takeEarly
  extract_lets is mine stale
  split
  · exact Takes.refl x
  · split
    · exact Takes.refl x
    · exact ⟨⟨rfl, dropPicked_subset _ _ _⟩, rfl, List.subset_append_left _ _, rfl⟩

/-- FIELDS that are of an exchange's group and kind, and of a member. -/
def EarlyFields.isFor (e : EarlyFields) (x : Exchange) (r : Nat) : Prop :=
  e.groupId = x.group.id ∧ e.rank = r ∧ fieldsOfKind x.kind e.fields = true

theorem mem_takeEarly {e : EarlyFields} {r : Nat} {x : XS} (h : e ∈ x.2.red.early) (hn : ¬e.isFor x.1 r) :
    e ∈ (takeEarly r x).2.red.early := by
  unfold takeEarly
  extract_lets is mine stale
  have hnot : is e = false := by
    rw [Bool.eq_false_iff]
    exact fun hp => hn (by simpa [is, EarlyFields.isFor, and_assoc] using hp)
  split
  · exact h
  · split
    · exact h
    · exact mem_dropPicked hnot _ h

/-- FIELDS are kept, no others of their group and member are, and no exchange ended here before they came (R415). -/
structure OnlyEarly (e : EarlyFields) (s : State) : Prop where
  mem : e ∈ s.red.early
  only : ∀ g ∈ s.red.early, g.groupId = e.groupId → g.rank = e.rank → g = e
  prompt : e.late = false

/-- An exchange takes them where they are for it and no others are. -/
theorem takeEarly_gives {e : EarlyFields} {x : XS} (h : OnlyEarly e x.2) (hfor : e.isFor x.1 e.rank) :
    (e.rank, e.fields) ∈ (takeEarly e.rank x).1.peers := by
  obtain ⟨hid, -, hkind⟩ := hfor
  unfold takeEarly
  extract_lets is mine stale
  have hall : ∀ g ∈ mine, g = e := by
    intro g hg
    obtain ⟨hmem, his⟩ := List.mem_filter.mp hg
    simp only [is, Bool.and_eq_true, beq_iff_eq] at his
    exact h.only g hmem (his.1.1.trans hid.symm) his.1.2
  have hmem : e ∈ mine := List.mem_filter.mpr ⟨h.mem, by simp [is, hid, hkind]⟩
  obtain ⟨g, l, hl⟩ := List.exists_cons_of_ne_nil (List.ne_nil_of_mem hmem)
  have hg : g = e := hall g (hl ▸ List.mem_cons_self)
  have hstale : stale = 0 := by
    simp [stale, hl, hg, staleFields, h.prompt]
  rw [hstale, hl, hg]
  simp [h.prompt]

theorem foldl_takeEarly_takes (l : List Nat) (x : XS) : Takes x (l.foldl (fun y r => takeEarly r y) x) := by
  induction l generalizing x with
  | nil => exact Takes.refl x
  | cons r l ih => exact (takeEarly_takes r x).trans (ih _)

theorem mem_foldl_takeEarly {e : EarlyFields} {l : List Nat} {x : XS} (h : e ∈ x.2.red.early) (hn : ∀ r ∈ l, ¬e.isFor x.1 r) :
    e ∈ (l.foldl (fun y r => takeEarly r y) x).2.red.early := by
  induction l generalizing x with
  | nil => exact h
  | cons r l ih =>
    refine ih (mem_takeEarly h (hn r List.mem_cons_self)) fun r' hr => ?_
    rw [(takeEarly_takes r x).exchange]
    exact hn r' (List.mem_cons_of_mem r hr)

theorem foldl_takeEarly_gives {e : EarlyFields} {l : List Nat} {x : XS} (h : OnlyEarly e x.2) (hfor : e.isFor x.1 e.rank)
    (hr : e.rank ∈ l) : (e.rank, e.fields) ∈ (l.foldl (fun y r => takeEarly r y) x).1.peers := by
  induction l generalizing x with
  | nil => cases hr
  | cons r l ih =>
    by_cases hq : r = e.rank
    · subst hq
      exact (foldl_takeEarly_takes l _).peers (takeEarly_gives h hfor)
    · have htakes := takeEarly_takes r x
      refine ih ⟨mem_takeEarly h.mem fun hf => hq hf.2.1.symm, fun g hg => h.only g (htakes.early hg), h.prompt⟩ ?_ ?_
      · rw [htakes.exchange]
        exact hfor
      · exact (List.mem_cons.mp hr).resolve_left (Ne.symm hq)

/-! ### Dealing them out -/

/-- One exchange takes the FIELDS that it lacks. -/
def dealTo (x : Exchange) (s : State) : State :=
  if x.stage = 0 then
    let y := x.lacking.foldl (fun y r => takeEarly r y) (x, s)
    setExchange y.1 y.2
  else s

theorem dealFields_cons (x : Exchange) (l : List Exchange) (s : State) : dealFields (x :: l) s
    = if x.kind != .rebuild && x.group.n == 0 then s else dealFields l (dealTo x s) := by
  rw [dealFields, dealTo]
  split
  · rfl
  · split <;> rfl

theorem dealTo_cases (x : Exchange) (s : State) : (x.stage ≠ 0 ∧ dealTo x s = s)
    ∨ (x.stage = 0 ∧ ∃ y, Takes (x, s) y ∧ dealTo x s = setExchange y.1 y.2) := by
  unfold dealTo
  split
  · next h => exact .inr ⟨h, _, foldl_takeEarly_takes _ _, rfl⟩
  · next h => exact .inl ⟨h, rfl⟩

/-- Dealing out changes the exchanges and the FIELDS kept alone, invents none, and leaves every exchange its place. -/
structure Deals (s t : State) : Prop extends LeavesEarly s t where
  places : exchangePlaces t = exchangePlaces s

theorem Deals.refl (s : State) : Deals s s := ⟨LeavesEarly.refl s, rfl⟩
theorem Deals.trans {s t u : State} (a : Deals s t) (b : Deals t u) : Deals s u :=
  ⟨a.toLeavesEarly.trans b.toLeavesEarly, b.places.trans a.places⟩

theorem dealTo_deals (x : Exchange) (s : State) : Deals s (dealTo x s) := by
  rcases dealTo_cases x s with ⟨-, h⟩ | ⟨-, y, ht, h⟩
  · rw [h]; exact Deals.refl s
  · rw [h]
    refine ⟨⟨?_, ht.early⟩, (setExchange_places _ _).trans ?_⟩
    · rw [setExchange, ht.eq]
    · rw [exchangePlaces, ht.others, exchangePlaces]

theorem dealFields_deals (l : List Exchange) (s : State) : Deals s (dealFields l s) := by
  induction l generalizing s with
  | nil => exact Deals.refl s
  | cons x l ih =>
    rw [dealFields_cons]
    split
    · exact Deals.refl s
    · exact (dealTo_deals x s).trans (ih _)

/-- The exchange at a place is, but for the FIELDS it has, `x`. -/
def IsAt (x : Exchange) (l : List Exchange) : Prop := ∀ y ∈ l, sameX x y = true → y = { x with peers := y.peers }

/-- An exchange stays what it is but for the FIELDS it has. -/
theorem isAt_dealFields {x : Exchange} {l : List Exchange} {s : State} (hl : IsAt x l) (hs : IsAt x s.red.exchanges) :
    IsAt x (dealFields l s).red.exchanges := by
  induction l generalizing s with
  | nil => exact hs
  | cons w l ih =>
    rw [dealFields_cons]
    split
    · exact hs
    · refine ih (fun y hy => hl y (List.mem_cons_of_mem w hy)) ?_
      rcases dealTo_cases w s with ⟨-, h⟩ | ⟨-, y, ht, h⟩
      · rwa [h]
      · rw [h]
        intro z hz hsame
        have hy := ht.exchange
        rcases mem_setExchange.mp hz with ⟨hz, -⟩ | ⟨rfl, -⟩
        · exact hs z (ht.others ▸ hz) hsame
        · have hw : sameX x w = true := by
            rw [hy] at hsame
            exact hsame
          rw [hy, hl w List.mem_cons_self hw]

/-! ### FIELDS of a member -/

/-- An exchange lacks these FIELDS (R415, R462). -/
def EarlyFields.wantedBy (e : EarlyFields) (y : Exchange) : Prop := e.isFor y e.rank ∧ y.stage = 0 ∧ e.rank ∈ y.lacking

theorem mem_dealTo {e : EarlyFields} {y : Exchange} {s : State} (h : e ∈ s.red.early) (hn : ¬e.wantedBy y) :
    e ∈ (dealTo y s).red.early := by
  unfold dealTo
  split
  · next hstage =>
    refine mem_foldl_takeEarly (x := (y, s)) h fun r hr hfor => hn ⟨?_, hstage, ?_⟩
    · rwa [hfor.2.1]
    · rwa [hfor.2.1]
  · exact h

/-- FIELDS that no exchange lacks stay kept. -/
theorem mem_dealFields {e : EarlyFields} {l : List Exchange} {s : State} (h : e ∈ s.red.early) (hn : ∀ y ∈ l, ¬e.wantedBy y) :
    e ∈ (dealFields l s).red.early := by
  induction l generalizing s with
  | nil => exact h
  | cons y l ih =>
    rw [dealFields_cons]
    split
    · exact h
    · exact ih (mem_dealTo h (hn y List.mem_cons_self)) fun z hz => hn z (List.mem_cons_of_mem y hz)

/-- An exchange that is of none of some descriptors stays when those are dealt to. -/
theorem exchange_mem_dealFields {z : Exchange} {l : List Exchange} {s : State} (hz : z ∈ s.red.exchanges)
    (hl : ∀ y ∈ l, sameX y z = false) : z ∈ (dealFields l s).red.exchanges := by
  induction l generalizing s with
  | nil => exact hz
  | cons y l ih =>
    rw [dealFields_cons]
    split
    · exact hz
    · refine ih ?_ fun w hw => hl w (List.mem_cons_of_mem y hw)
      rcases dealTo_cases y s with ⟨-, h⟩ | ⟨-, w, ht, h⟩
      · rwa [h]
      · rw [h]
        refine mem_setExchange.mpr (.inl ⟨by rwa [ht.others], ?_⟩)
        rw [ht.exchange]
        exact hl y List.mem_cons_self

theorem dealTo_gives {e : EarlyFields} {y : Exchange} {s : State} (h : OnlyEarly e s) (hw : e.wantedBy y)
    (hy : (y.qp, y.idx) ∈ exchangePlaces s) :
    ∃ z ∈ (dealTo y s).red.exchanges, sameX y z = true ∧ (e.rank, e.fields) ∈ z.peers := by
  obtain ⟨hfor, hstage, hlacks⟩ := hw
  obtain ⟨w, hw, hplace⟩ := List.mem_map.mp hy
  have ht := foldl_takeEarly_takes y.lacking (y, s)
  have hsame (v : Exchange) : sameX (y.lacking.foldl (fun y r => takeEarly r y) (y, s)).1 v = sameX y v := by rw [ht.exchange]; rfl
  refine ⟨(y.lacking.foldl (fun y r => takeEarly r y) (y, s)).1, ?_, ?_, foldl_takeEarly_gives h hfor hlacks⟩
  · rw [dealTo, if_pos hstage]
    refine mem_setExchange.mpr (.inr ⟨rfl, w, ht.others ▸ hw, ?_⟩)
    rw [hsame]
    exact sameX_iff.mpr hplace.symm
  · rw [ht.exchange]
    exact sameX_refl y

/-- Of exchanges whose groups are known, the first that lacks the FIELDS has them. -/
theorem dealFields_gives {e : EarlyFields} {l₁ l₂ : List Exchange} {y : Exchange} {s : State}
    (hknown : ∀ x ∈ l₁ ++ y :: l₂, (x.kind != .rebuild && x.group.n == 0) = false) (h : OnlyEarly e s) (hw : e.wantedBy y)
    (hfirst : ∀ x ∈ l₁, ¬e.wantedBy x) (hy : (y.qp, y.idx) ∈ exchangePlaces s) (halone : ∀ x ∈ l₂, sameX x y = false) :
    ∃ z ∈ (dealFields (l₁ ++ y :: l₂) s).red.exchanges, sameX y z = true ∧ (e.rank, e.fields) ∈ z.peers := by
  induction l₁ generalizing s with
  | nil =>
    obtain ⟨z, hz, hsame, hpeers⟩ := dealTo_gives h hw hy
    refine ⟨z, ?_, hsame, hpeers⟩
    rw [List.nil_append, dealFields_cons, if_neg (by simp [hknown y List.mem_cons_self])]
    exact exchange_mem_dealFields hz fun x hx => (sameX_congr hsame x).trans (halone x hx)
  | cons x l ih =>
    have hdeals := dealTo_deals x s
    rw [List.cons_append, dealFields_cons, if_neg (by simp [hknown x List.mem_cons_self])]
    refine ih (fun v hv => hknown v (List.mem_cons_of_mem x hv)) ?_ (fun v hv => hfirst v (List.mem_cons_of_mem x hv)) ?_
    · exact ⟨mem_dealTo h.mem (hfirst x List.mem_cons_self), fun g hg => h.only g (hdeals.early hg), h.prompt⟩
    · rwa [hdeals.places]

end Sys2Proof.Machine
end

section
/-! SUPPORT. Packets of members: what arrives joins the exchange it is for (R415, R423, R426, R445, R461, R462, R479). -/

namespace Sys2Proof.Machine

/-! ### What a packet's arrival leaves (R571 to R577) -/

/-- Nothing but the links, what has been sent and the free numbers' place may have changed. -/
structure OnlyLinks (s t : State) : Prop where
  eq : t = { s with lk := t.lk, outbox := t.outbox, freeCtr := t.freeCtr }

theorem OnlyLinks.refl (s : State) : OnlyLinks s s := ⟨rfl⟩
theorem OnlyLinks.trans {s t u : State} (a : OnlyLinks s t) (b : OnlyLinks t u) : OnlyLinks s u := by
  refine ⟨b.eq.trans ?_⟩
  rw [a.eq]

section
variable (i : LinkId)

theorem setLink_onlyLinks (l : Link) (s : State) : OnlyLinks s (setLink i l s) := ⟨rfl⟩

theorem ackOf_onlyLinks (s : State) : OnlyLinks s (ackOf i s).2 := by
  unfold ackOf
  split
  · exact OnlyLinks.refl s
  · exact ⟨rfl⟩

theorem emitFlit_onlyLinks (type ch : Nat) (seq : BitVec 12) (bs : List Byte) (s : State) : OnlyLinks s (emitFlit i type ch seq bs s) :=
  (ackOf_onlyLinks i s).trans ⟨rfl⟩

theorem putFlit_onlyLinks (type ch : Nat) (seq : BitVec 12) (bs : List Byte) (s : State) : OnlyLinks s (putFlit i type ch seq bs s) := by
  unfold putFlit
  dsimp only
  split
  · exact ((setLink_onlyLinks i _ s).trans (emitFlit_onlyLinks ..)).trans (emitFlit_onlyLinks ..)
  · exact (setLink_onlyLinks i _ s).trans (emitFlit_onlyLinks ..)

theorem sendFlit_onlyLinks (b : FlitBody) (s : State) : OnlyLinks s (sendFlit i b s) := by
  unfold sendFlit putSequenced
  dsimp only
  split <;> exact (setLink_onlyLinks i _ s).trans (putFlit_onlyLinks ..)

theorem arrived_onlyLinks (pool units : Nat) (s : State) : OnlyLinks s (arrived i pool units s) := by
  have hcredits (u : State) : OnlyLinks u (returnCredits i u) := by
    unfold returnCredits
    dsimp only
    split
    · exact (setLink_onlyLinks i _ u).trans (sendFlit_onlyLinks ..)
    · exact setLink_onlyLinks i _ u
  have hfreed (l : Link) : OnlyLinks s { setLink i l s with freeCtr := s.freeCtr + 1 } := ⟨rfl⟩
  unfold arrived
  dsimp only
  split
  · split
    · exact (hfreed _).trans (hcredits _)
    · exact hfreed _
  · exact OnlyLinks.refl s
end

section
variable {s t : State} (h : OnlyLinks s t)
include h

theorem OnlyLinks.mem : t.mem = s.mem := by rw [h.eq]
theorem OnlyLinks.q : t.q = s.q := by rw [h.eq]
theorem OnlyLinks.red : t.red = s.red := by rw [h.eq]
theorem OnlyLinks.shard : t.shard = s.shard := by rw [h.eq]
end

/-- A member's packet that an avenue brings is taken in a state that differs in the links alone. -/
theorem memberPacket_brings {av : Fin 8} {k : XKind} {x : PeerMsg} {s : State} (take : State → State) (hr : running s = true)
    (hb : x.bytes ≤ 4064) (ha : avenueBrings s av k.lane.toNat = true) :
    ∃ v, OnlyLinks s v ∧ memberPacket av k x take s = .next (pumpAll (take v)) :=
  ⟨_, arrived_onlyLinks _ _ _ s, memberPacket_next take hr hb ha⟩

/-! ### Pieces (R423, R426, R461) -/

theorem takerOf_eq (k : XKind) (x : PeerMsg) (p : Piece) (s : State) : takerOf k x p s = s.red.exchanges.find? (wantsPiece k x p) := rfl

/-- An exchange among those held is replaced by what it has become. -/
theorem replaced_mem {x y : Exchange} {s : State} (hy : y ∈ s.red.exchanges) (hs : sameX x y = true) :
    x ∈ (setExchange x s).red.exchanges := mem_setExchange.mpr (.inr ⟨rfl, y, hy, hs⟩)

theorem setExchange_length (x : Exchange) (s : State) : (setExchange x s).red.exchanges.length = s.red.exchanges.length :=
  List.length_map _

/-- A piece joins the exchange that takes it, in a state that differs from that of its arrival in no queue and no byte. -/
theorem pieceJoins_of_taken {k : XKind} {x : PeerMsg} {p : Piece} {s v u : State} (hv : OnlyLinks s v) (hm : u.mem = v.mem) (hq : u.q = v.q)
    (htaken : ∀ y, takerOf k x p v = some y → u.red.exchanges = (setExchange { y with pieces := y.pieces ++ [p] } v).red.exchanges)
    (hnone : takerOf k x p v = none → u.red.exchanges = v.red.exchanges) : pieceJoins k x p s u := by
  refine ⟨hm.trans hv.mem, hq.trans hv.q, ?_⟩
  rw [takerOf_eq] at htaken hnone
  rw [← hv.red]
  cases hfind : v.red.exchanges.find? (wantsPiece k x p) with
  | none => exact hnone hfind
  | some y =>
    dsimp only
    rw [htaken y hfind]
    exact ⟨replaced_mem (List.mem_of_find?_eq_some hfind) (sameX_refl y), setExchange_length _ _⟩

/-- Data of a REDUCE join it, and their payload is counted (R445). -/
theorem takePiece_joins {x : PeerMsg} {p : Piece} {s v : State} (hv : OnlyLinks s v) :
    (takePiece x p v).red.received = satAdd s.red.received x.bytes ∧ pieceJoins .reduce x p s (takePiece x p v) := by
  have hreceived : v.red.received = s.red.received := congrArg Reduce.received hv.red
  unfold takePiece
  cases h : takerOf .reduce x p v with
  | none =>
    exact ⟨congrArg (satAdd · x.bytes) hreceived,
      pieceJoins_of_taken hv rfl rfl (fun _ hy => by cases h.symm.trans hy) fun _ => rfl⟩
  | some y =>
    refine ⟨congrArg (satAdd · x.bytes) hreceived, pieceJoins_of_taken hv rfl rfl (fun z hz => ?_) fun hn => ?_⟩
    · cases h.symm.trans hz
      rfl
    · cases h.symm.trans hn

/-- Data of a GATHER join it, and are counted where one takes them (R479). -/
theorem takeSlice_joins {x : PeerMsg} {p : Piece} {s v : State} (hv : OnlyLinks s v) :
    pieceJoins .gather x p s (takeSlice x p v) ∧ (takeSlice x p v).shard.gatheredIn
      = if s.red.exchanges.any (wantsPiece .gather x p) then satAdd s.shard.gatheredIn (p.elems.length + p.scales.length)
        else s.shard.gatheredIn := by
  have hany : s.red.exchanges.any (wantsPiece .gather x p) = (takerOf .gather x p v).isSome := by
    rw [takerOf_eq, hv.red, Bool.eq_iff_iff, List.find?_isSome, List.any_eq_true]
  unfold takeSlice
  cases h : takerOf .gather x p v with
  | none =>
    rw [h] at hany
    refine ⟨pieceJoins_of_taken hv rfl rfl (fun _ hy => by cases h.symm.trans hy) fun _ => rfl, ?_⟩
    rw [hany]
    exact congrArg Shard.gatheredIn hv.shard
  | some y =>
    rw [h] at hany
    refine ⟨pieceJoins_of_taken hv rfl rfl (fun z hz => ?_) (fun hn => by cases h.symm.trans hn), ?_⟩
    · cases h.symm.trans hz
      rfl
    · rw [hany, ← hv.shard]
      rfl

/-! ### FIELDS (R415, R462) -/

/-- The FIELDS of a member's packet, which came before no exchange ended without them. -/
def promptFields (x : PeerMsg) (f : PeerFields) : EarlyFields := ⟨x.groupId, x.epoch, x.rank, f, false⟩

theorem wantsFields_iff {x : PeerMsg} {f : PeerFields} {y : Exchange} : wantsFields x f y = true ↔ (promptFields x f).wantedBy y := by
  simp only [wantsFields, EarlyFields.wantedBy, EarlyFields.isFor, promptFields, Bool.and_eq_true, beq_iff_eq, List.contains_iff_mem]
  constructor
  · rintro ⟨⟨⟨hid, hkind⟩, hstage⟩, hlacks⟩
    exact ⟨⟨hid.symm, trivial, hkind⟩, hstage, hlacks⟩
  · rintro ⟨⟨hid, -, hkind⟩, hstage, hlacks⟩
    exact ⟨⟨⟨hid.symm, hkind⟩, hstage⟩, hlacks⟩

/-- FIELDS are dealt out with those that came before. -/
theorem takeFields_deals (x : PeerMsg) (f : PeerFields) (s : State) : ∃ e : EarlyFields,
    takeFields x f s = dealFields s.red.exchanges { s with red := { s.red with early := s.red.early ++ [e] } }
      ∧ (fieldsClear x f s → e = promptFields x f) := by
  refine ⟨_, rfl, fun h => ?_⟩
  have hlate : (s.red.missed.any fun m => m.lacks (promptFields x f)) = false := by
    rw [List.any_eq_false]
    intro m hm hl
    obtain ⟨⟨⟨hkind, hid⟩, hrank⟩, -⟩ :
        ((fieldsOfKind m.kind f = true ∧ m.groupId = x.groupId) ∧ m.rank = x.rank) ∧ m.epoch = x.epoch := by
      simpa [MissedFields.lacks, promptFields] using hl
    exact h.2.1 m hm ⟨hid, hrank, hkind⟩
  rw [promptFields] at hlate ⊢
  rw [hlate]

/-- FIELDS have gone to the first exchange that lacked them, or are kept (R415). -/
structure FieldsJoin (x : PeerMsg) (f : PeerFields) (s u : State) : Prop where
  wanted : ∀ y, s.red.exchanges.find? (wantsFields x f) = some y →
    ∃ z ∈ u.red.exchanges, sameX y z = true ∧ (x.rank, f) ∈ z.peers
  kept : s.red.exchanges.find? (wantsFields x f) = none → promptFields x f ∈ u.red.early

/-- Where no others are of this kind, group and member, an arrival of FIELDS joins them (R415; LOG 68). -/
theorem takeFields_joins {x : PeerMsg} {f : PeerFields} {s : State} (hd : exchangesDistinct s) (hc : fieldsClear x f s) :
    FieldsJoin x f s (takeFields x f s) := by
  obtain ⟨e, hdeals, he⟩ := takeFields_deals x f s
  rw [he hc] at hdeals
  rw [hdeals]
  obtain ⟨hearly, -, hgroups⟩ := hc
  have hmem : promptFields x f ∈ s.red.early ++ [promptFields x f] := List.mem_append_right _ List.mem_cons_self
  refine ⟨fun y hfind => ?_, fun hfind => ?_⟩
  · obtain ⟨hw, l₁, l₂, hsplit, hfirst⟩ := List.find?_eq_some_iff_append.mp hfind
    have hnodup := hd
    rw [exchangesDistinct, hsplit, List.map_append, List.map_cons, List.nodup_append] at hnodup
    have hnot := (List.nodup_cons.mp hnodup.2.1).1
    rw [hsplit]
    refine dealFields_gives (fun v hv => ?_) ⟨hmem, fun g hg hid hrank => ?_, rfl⟩ (wantsFields_iff.mp hw)
      (fun v hv hwants => ?_) ?_ fun v hv => ?_
    · rcases hgroups v (hsplit ▸ hv) with hk | hn
      · simp [hk]
      · simp [hn]
    · rcases List.mem_append.mp hg with hg | hg
      · exact absurd ⟨hid, hrank⟩ (hearly g hg)
      · exact List.mem_singleton.mp hg
    · have := hfirst v hv
      simp [wantsFields_iff.mpr hwants] at this
    · exact List.mem_map.mpr ⟨y, List.mem_of_find?_eq_some hfind, rfl⟩
    · rw [Bool.eq_false_iff]
      exact fun hs => hnot (List.mem_map.mpr ⟨v, hv, sameX_iff.mp hs⟩)
  · refine mem_dealFields hmem fun y hy hw => ?_
    exact List.find?_eq_none.mp hfind y hy (wantsFields_iff.mpr hw)

/-- A packet of FIELDS changes the exchanges and the FIELDS kept alone, beside the count of its bytes where it is of a REDUCE (R445). -/
theorem takeFields_brings {x : PeerMsg} {f : PeerFields} {s w : State} {n : W64} (hm : w.mem = s.mem) (hq : w.q = s.q)
    (hred : w.red = { s.red with received := n }) :
    (takeFields x f w).mem = s.mem ∧ (takeFields x f w).q = s.q ∧ (takeFields x f w).red.received = n
      ∧ (exchangesDistinct s → fieldsClear x f s → FieldsJoin x f s (takeFields x f w)) := by
  obtain ⟨e, he, -⟩ := takeFields_deals x f w
  have hdeals := (dealFields_deals w.red.exchanges { w with red := { w.red with early := w.red.early ++ [e] } }).eq
  rw [← he] at hdeals
  refine ⟨?_, ?_, ?_, fun hd hc => ?_⟩
  · rw [hdeals]; exact hm
  · rw [hdeals]; exact hq
  · rw [hdeals]
    change w.red.received = n
    rw [hred]
  · have hjoins := takeFields_joins (x := x) (f := f) (s := w) (by rwa [exchangesDistinct, hred]) (by rwa [fieldsClear, hred])
    have hsame : w.red.exchanges = s.red.exchanges := by rw [hred]
    exact ⟨fun y hy => hjoins.wanted y (hsame ▸ hy), fun hn => hjoins.kept (hsame ▸ hn)⟩

/-- FIELDS of a REDUCE come on its lane and count, those of a GATHER do neither (R445, R595). -/
theorem exec_fields_brings {av : Fin 8} {x : PeerMsg} {f : PeerFields} {s : State} (hr : running s = true) (hb : x.bytes ≤ 4064)
    (ha : avenueBrings s av (if fieldsOfKind .reduce f then 0 else 2) = true) :
    ∃ w, exec (.fields av x f) s = .next (pumpAll (takeFields x f w)) ∧ w.mem = s.mem ∧ w.q = s.q
      ∧ w.red = { s.red with received := if fieldsOfKind .reduce f then satAdd s.red.received x.bytes else s.red.received } := by
  change ∃ w, execFields av x f s = _ ∧ _
  unfold execFields
  dsimp only
  cases hk : fieldsOfKind .reduce f with
  | true =>
    rw [hk] at ha
    obtain ⟨v, hv, hnext⟩ := memberPacket_brings (k := .reduce) (fun s => takeFields x f (countReceived x.bytes s)) hr hb ha
    exact ⟨countReceived x.bytes v, hnext, hv.mem, hv.q, by rw [← hv.red]; rfl⟩
  | false =>
    rw [hk] at ha
    obtain ⟨v, hv, hnext⟩ := memberPacket_brings (k := .gather) (takeFields x f) hr hb ha
    exact ⟨v, hnext, hv.mem, hv.q, hv.red⟩

/-- Settles O47: each packet's arrival leaves the exchanges alone, and what it brings joins the one that wants it. -/
theorem memberDataJoin : Obligations.MemberDataJoin := by
  intro av x s hr hb
  have hreduce (ha : avenueBrings s av 0 = true) (z : PeerMsg) (p : Piece) : ∃ u, memberPacket av .reduce x (takePiece z p) s
      = .next (pumpAll u) ∧ u.red.received = satAdd s.red.received z.bytes ∧ pieceJoins .reduce z p s u := by
    obtain ⟨v, hv, hnext⟩ := memberPacket_brings (k := .reduce) (takePiece z p) hr hb ha
    exact ⟨_, hnext, takePiece_joins hv⟩
  refine ⟨fun f ha => ?fields, fun ha => ?reduce, fun ha e c => ?gather⟩
  case reduce =>
    exact ⟨fun v => hreduce ha x _, fun v => hreduce ha x _, fun e c => hreduce ha x _, fun n => hreduce ha _ _⟩
  case gather =>
    obtain ⟨v, hv, hnext⟩ := memberPacket_brings (k := .gather) (takeSlice x _) hr hb ha
    exact ⟨_, hnext, takeSlice_joins hv⟩
  case fields =>
    obtain ⟨w, hnext, hm, hq, hred⟩ := exec_fields_brings hr hb ha
    obtain ⟨hmem, hqueue, hcount, hjoin⟩ := takeFields_brings hm hq hred
    refine ⟨_, hnext, hmem, hqueue, hcount, fun hd hc => ?_⟩
    have hjoins := hjoin hd hc
    split
    · next y hy => exact hjoins.wanted y hy
    · next hn => exact fun _ => hjoins.kept hn

end Sys2Proof.Machine
end

section
/-! SUPPORT. What reads and writes leave of the reduction engine's registers and exchanges and of the roundabout's count of mismatches
(R445, R479), and how a stalled exchange ends (R429, R462, R463). -/

namespace Sys2Proof.Machine

/-! ### Work that leaves the exchanges -/

/-- The reduction engine, with every exchange, and the roundabout's mismatches are as they were. -/
structure KeepsMembers (s t : State) : Prop where
  red : t.red = s.red
  mismatches : t.shard.mismatches = s.shard.mismatches

theorem KeepsMembers.refl (s : State) : KeepsMembers s s := ⟨rfl, rfl⟩
theorem KeepsMembers.trans {s t u : State} (a : KeepsMembers s t) (b : KeepsMembers t u) : KeepsMembers s u :=
  ⟨b.red.trans a.red, b.mismatches.trans a.mismatches⟩
theorem KeepsMembers.foldl {α : Type} {f : State → α → State} (h : ∀ s x, KeepsMembers s (f s x)) :
    ∀ (l : List α) (s : State), KeepsMembers s (l.foldl f s)
  | [], s => KeepsMembers.refl s
  | x :: l, s => (h s x).trans (KeepsMembers.foldl h l (f s x))

theorem Sends.keepsMembers {s t : State} (h : Sends s t) : KeepsMembers s t := ⟨by rw [h.eq], by rw [h.eq]⟩

/-- Work of which this holds, whether it ends OK or fails. -/
structure MKeepsMembers {α : Type} (m : M α) : Prop where
  run : ∀ w : Work, KeepsMembers w.s (m.run w).2.s

section
variable {α β : Type}

theorem MKeepsMembers.pure (a : α) : MKeepsMembers (pure a : M α) := ⟨fun w => KeepsMembers.refl w.s⟩
theorem MKeepsMembers.throw (e : Fail) : MKeepsMembers (throw e : M α) := ⟨fun w => KeepsMembers.refl w.s⟩
theorem MKeepsMembers.get : MKeepsMembers (get : M Work) := ⟨fun w => KeepsMembers.refl w.s⟩
theorem MKeepsMembers.getS : MKeepsMembers getS := ⟨fun w => KeepsMembers.refl w.s⟩
theorem MKeepsMembers.modS {f : State → State} (h : ∀ s, KeepsMembers s (f s)) : MKeepsMembers (modS f) := ⟨fun w => h w.s⟩
/-- A change of the work's own fields alone. -/
theorem MKeepsMembers.modify {f : Work → Work} (h : ∀ w, (f w).s = w.s) : MKeepsMembers (modify f : M Unit) :=
  ⟨fun w => (h w).symm ▸ KeepsMembers.refl w.s⟩

theorem MKeepsMembers.bind {m : M α} {f : α → M β} (h : MKeepsMembers m) (k : ∀ a, MKeepsMembers (f a)) : MKeepsMembers (m >>= f) := by
  refine ⟨fun w => ?_⟩
  have hm := h.run w
  rw [M.run_bind]
  generalize m.run w = r at hm
  obtain ⟨_ | a, v⟩ := r
  · exact hm
  · exact hm.trans ((k a).run v)

theorem MKeepsMembers.catches {m : M α} {f : Fail → M α} (h : MKeepsMembers m) (k : ∀ e, MKeepsMembers (f e)) :
    MKeepsMembers (tryCatch m f) := by
  refine ⟨fun w => ?_⟩
  have hm := h.run w
  rw [M.run_tryCatch]
  generalize m.run w = r at hm
  obtain ⟨e | a, v⟩ := r
  · exact hm.trans ((k e).run v)
  · exact hm

theorem MKeepsMembers.ite {c : Prop} [Decidable c] {m n : M α} (h : MKeepsMembers m) (k : MKeepsMembers n) :
    MKeepsMembers (if c then m else n) := by
  split
  · exact h
  · exact k

theorem MKeepsMembers.forM {f : α → M PUnit} (h : ∀ a, MKeepsMembers (f a)) : ∀ l : List α, MKeepsMembers (l.forM f)
  | [] => MKeepsMembers.pure _
  | a :: l => (h a).bind fun _ => MKeepsMembers.forM h l

theorem MKeepsMembers.mapM {f : α → M β} (h : ∀ a, MKeepsMembers (f a)) (l : List α) : MKeepsMembers (l.mapM f) := by
  rw [← List.mapM'_eq_mapM]
  induction l with
  | nil => exact MKeepsMembers.pure _
  | cons a l ih => exact (h a).bind fun _ => ih.bind fun _ => MKeepsMembers.pure _
end

/-! ### Reads -/

theorem countUncorrectable_keepsMembers (n a source : Nat) (s : State) : KeepsMembers s (countUncorrectable n a source s) := by
  refine KeepsMembers.trans ?_ (raiseAlert_sends 4 _).keepsMembers
  exact ⟨rfl, rfl⟩

theorem touch_keepsMembers (a : Nat) : MKeepsMembers (touch a) := by
  unfold touch
  refine MKeepsMembers.get.bind fun w => ?_
  dsimp only
  cases resolve w.s a with
  | unbacked => exact MKeepsMembers.throw _
  | unmapped => exact MKeepsMembers.throw _
  | companion _ =>
    dsimp only
    split
    · exact (MKeepsMembers.pure _).ite (MKeepsMembers.throw _)
    · exact MKeepsMembers.pure _
  | stack n off =>
    refine (MKeepsMembers.throw _).ite ?_
    split
    · exact MKeepsMembers.pure _
    · exact MKeepsMembers.modS fun _ => ⟨rfl, rfl⟩
    · exact (MKeepsMembers.modS (countUncorrectable_keepsMembers _ _ _)).bind fun _ => MKeepsMembers.throw _

theorem needLines_keepsMembers (a len : Nat) : MKeepsMembers (needLines a len) := by
  refine MKeepsMembers.get.bind fun _ => (MKeepsMembers.pure _).ite (MKeepsMembers.bind ?_ fun _ => MKeepsMembers.throw _)
  exact MKeepsMembers.modify fun _ => rfl

theorem fetchBytes_keepsMembers (a len : Nat) : MKeepsMembers (fetchBytes a len) := by
  have htouch : MKeepsMembers (touchRange a len) := MKeepsMembers.get.bind fun _ => (MKeepsMembers.pure _).ite
    ((needLines_keepsMembers a len).bind fun _ => MKeepsMembers.forM (fun _ => touch_keepsMembers _) _)
  exact htouch.bind fun _ => MKeepsMembers.get.bind fun _ => MKeepsMembers.pure _

theorem readBytes_keepsMembers (a len : Nat) : MKeepsMembers (readBytes a len) := by
  refine MKeepsMembers.bind ?_ fun _ => fetchBytes_keepsMembers a len
  exact MKeepsMembers.modify fun w => by split <;> rfl

theorem readSerial_keepsMembers (a len : Nat) : MKeepsMembers (readSerial a len) := by
  refine MKeepsMembers.bind ?_ fun _ => fetchBytes_keepsMembers a len
  exact MKeepsMembers.modify fun _ => rfl

/-! ### Writes -/

theorem markStack_keepsMembers (n : Nat) (s : State) : KeepsMembers s (markStack n s) := by
  unfold markStack
  split <;> exact ⟨rfl, rfl⟩

theorem markRange_keepsMembers (a len : Nat) (s : State) : KeepsMembers s (markRange a len s) := by
  refine KeepsMembers.foldl (fun s l => ?_) _ s
  unfold markLine
  split
  · exact markStack_keepsMembers _ s
  · exact KeepsMembers.refl s

theorem writeCodeword_keepsMembers (source base : Nat) (bs : List Byte) (lo hi : Nat) :
    MKeepsMembers (writeCodeword source base bs lo hi) := by
  have answer {f : State → State} {b : Bool} (h : ∀ s, KeepsMembers s (f s)) : MKeepsMembers (do modS f; return b) :=
    (MKeepsMembers.modS h).bind fun _ => MKeepsMembers.pure b
  unfold writeCodeword
  refine MKeepsMembers.getS.bind fun s => ?_
  split
  · refine MKeepsMembers.bind ((MKeepsMembers.throw _).ite (MKeepsMembers.pure _)) fun _ => ?_
    dsimp only
    split
    · exact answer fun _ => ⟨rfl, rfl⟩
    · split
      · exact answer fun s => countUncorrectable_keepsMembers _ _ _ s
      · exact answer fun _ => ⟨rfl, rfl⟩
      · exact answer fun _ => ⟨rfl, rfl⟩
  · exact answer fun _ => ⟨rfl, rfl⟩
  · exact MKeepsMembers.throw _
  · exact MKeepsMembers.throw _

theorem storeBytes_keepsMembers (a : Nat) (bs : List Byte) : MKeepsMembers (storeBytes a bs) := by
  have hstore : MKeepsMembers (storeFrom 5 a bs) := by
    refine (MKeepsMembers.pure _).ite (MKeepsMembers.bind (MKeepsMembers.mapM (fun i => ?_) _) fun bad => ?_)
    · exact (writeCodeword_keepsMembers _ _ _ _ _).bind fun _ => MKeepsMembers.pure _
    · split
      · exact MKeepsMembers.throw _
      · exact MKeepsMembers.pure _
  refine MKeepsMembers.get.bind fun w => MKeepsMembers.bind (MKeepsMembers.modS fun s => ?_) fun _ => hstore
  refine KeepsMembers.trans ?_ (markRange_keepsMembers _ _ _)
  split <;> exact ⟨rfl, rfl⟩

theorem writeSerial_keepsMembers (a : Nat) (bs : List Byte) : MKeepsMembers (writeSerial a bs) := by
  refine MKeepsMembers.get.bind fun w => MKeepsMembers.ite ?_ (MKeepsMembers.ite ?_ ?_)
  · exact MKeepsMembers.modify fun _ => rfl
  · exact MKeepsMembers.modS fun _ => ⟨rfl, rfl⟩
  · split
    · refine MKeepsMembers.bind ?_ fun _ => MKeepsMembers.throw _
      exact MKeepsMembers.modS fun _ => ⟨rfl, rfl⟩
    · exact (storeBytes_keepsMembers a bs).bind fun _ =>
        (MKeepsMembers.modS fun s => (queueWr_sends _ _ _ s).keepsMembers).ite (MKeepsMembers.pure _)

theorem scramble_keepsMembers (a len : Nat) (s : State) : KeepsMembers s (scramble a len s) := ⟨rfl, rfl⟩
theorem scrambleAll_keepsMembers (l : List (Nat × Nat)) (s : State) : KeepsMembers s (scrambleAll l s) :=
  KeepsMembers.foldl (fun s (r : Nat × Nat) => scramble_keepsMembers r.1 r.2 s) l s

theorem runWork_keepsMembers {α : Type} {m : M α} (h : MKeepsMembers m) (s : State) : KeepsMembers s (runWork m s).2.s := by
  have hrun := h.run (Work.start s.q.nextOrder [] s)
  refine KeepsMembers.trans ?_ (sendQueued_sends s _).keepsMembers
  unfold settleLate
  split
  · exact hrun.trans (KeepsMembers.foldl (fun s (a : MemAccess) => scramble_keepsMembers a.lo a.len s) _ _)
  · exact hrun

theorem writeLate_keepsMembers (a : Nat) (bs : List Byte) (s : State) : KeepsMembers s (writeLate a bs s) := by
  unfold writeLate
  split
  · exact ⟨rfl, rfl⟩
  · exact runWork_keepsMembers (writeSerial_keepsMembers a bs) s

/-! ### What a failed exchange leaves behind (R429, R444, R463, R478) -/

/-- The queues, the exchanges and the counts of mismatches are as they were. -/
structure FailsQuietly (s t : State) : Prop extends KeepsMembers s t where
  q : t.q = s.q

theorem FailsQuietly.refl (s : State) : FailsQuietly s s := ⟨KeepsMembers.refl s, rfl⟩
theorem FailsQuietly.trans {s t u : State} (a : FailsQuietly s t) (b : FailsQuietly t u) : FailsQuietly s u :=
  ⟨a.toKeepsMembers.trans b.toKeepsMembers, b.q.trans a.q⟩

theorem scrambleAll_failsQuietly (l : List (Nat × Nat)) (s : State) : FailsQuietly s (scrambleAll l s) :=
  ⟨scrambleAll_keepsMembers l s, scrambleAll_q l s⟩

theorem failHeader_failsQuietly (hdr : Nat) (step : W32) (s : State) : FailsQuietly s (failHeader hdr step s) := by
  unfold failHeader
  split
  · split
    · exact ⟨⟨rfl, rfl⟩, rfl⟩
    · refine ⟨runWork_keepsMembers ?_ s, runWorkAt_q ?_ _ _ s⟩
      · exact (readSerial_keepsMembers _ _).bind fun _ => writeSerial_keepsMembers _ _
      · exact (readSerial_keepsQueue _ _).bind fun _ => writeSerial_keepsQueue _ _
  · exact FailsQuietly.refl s

theorem spoilSum_failsQuietly (x : Exchange) (s : State) : FailsQuietly s (spoilSum x s) := by
  unfold spoilSum
  dsimp only
  split
  · exact (scrambleAll_failsQuietly _ s).trans (failHeader_failsQuietly _ _ _)
  · exact FailsQuietly.refl s

theorem dropGather_failsQuietly (x : Exchange) (spoils : Bool) (s : State) : FailsQuietly s (dropGather x spoils s) := by
  unfold dropGather
  dsimp only
  split
  · refine FailsQuietly.trans ?_ ⟨writeLate_keepsMembers _ _ _, writeLate_q _ _ _⟩
    split
    · exact scrambleAll_failsQuietly _ s
    · exact FailsQuietly.refl s
  · exact FailsQuietly.refl s

/-- What an exchange that ends with TIMEOUT leaves behind counts nothing more (R429, R463). -/
theorem afterFailure_timeout (x : Exchange) (s : State) : FailsQuietly s (afterFailure x .timeout s) := by
  cases hk : x.kind with
  | reduce => simpa only [afterFailure, hk] using spoilSum_failsQuietly x s
  | gather => simpa only [afterFailure, hk] using dropGather_failsQuietly x true s
  | rebuild => simpa only [afterFailure, hk] using FailsQuietly.refl s

/-- A GATHER that ends with REDUCE_MISMATCH is counted (R462). -/
theorem afterFailure_gatherMismatch {x : Exchange} (hk : x.kind = .gather) (s : State) :
    FailsQuietly { s with shard := { s.shard with mismatches := satInc s.shard.mismatches } } (afterFailure x .reduceMismatch s) := by
  simpa only [afterFailure, hk] using dropGather_failsQuietly x false _

/-! ### Stalls (R429, R463) -/

/-- A stalled exchange has left the others, and the FIELDS that showed it a mismatch are gone (R462). -/
def leaveStalled (x : Exchange) (s : State) : State :=
  dropExchange x { s with red := { s.red with early := s.red.early.filter fun f => !foreignFields s x f } }

/-- What it failed with is done, too (R429, R462, R463). -/
def stalledOut (x : Exchange) (s : State) : State := afterFailure x (stallStatus x s) (leaveStalled x s)

theorem stall_of_entry {x : Exchange} {s : State} {e : InFlight} (h : findInFlight (stalledOut x s) x.qp x.idx = some e) :
    stall x s
      = let y := { exchangeInfo x e with status := stallStatus x s, await := .nothing }
        pumpAll (if writesDone (stalledOut x s) e then finish y (stalledOut x s) else setInFlight y (stalledOut x s)) := by
  unfold stalledOut leaveStalled at h ⊢
  unfold stall
  dsimp only
  split
  · next he =>
    cases h.symm.trans he
    rfl
  · next hn => cases h.symm.trans hn

theorem foreignFields_gather {s : State} {x : Exchange} (h : s.red.early.any (foreignFields s x) = true) : x.kind = .gather := by
  obtain ⟨f, -, hf⟩ := List.any_eq_true.mp h
  simp only [foreignFields, Bool.and_eq_true, beq_iff_eq] at hf
  exact hf.1.1.1.1.1.1

/-- It leaves the other exchanges and every entry as they were, and a mismatch that a GATHER saw is counted (R462). -/
theorem stalledOut_leaves (x : Exchange) (s : State) :
    (stalledOut x s).q = s.q ∧ (stalledOut x s).red.exchanges = s.red.exchanges.filter (fun y => !sameX x y)
      ∧ (stalledOut x s).red.timeouts = s.red.timeouts ∧ (stalledOut x s).shard.mismatches
        = if s.red.early.any (foreignFields s x) = true then satInc s.shard.mismatches else s.shard.mismatches := by
  unfold stalledOut stallStatus
  split
  · next h =>
    have hends := afterFailure_gatherMismatch (foreignFields_gather h) (leaveStalled x s)
    exact ⟨hends.q, by rw [hends.red]; rfl, by rw [hends.red]; rfl, hends.mismatches⟩
  · have hends := afterFailure_timeout x (leaveStalled x s)
    exact ⟨hends.q, by rw [hends.red]; rfl, by rw [hends.red]; rfl, hends.mismatches⟩

theorem findStalled_some {s : State} {k : XKind} {qp : Fin 64} {idx : W32} {x : Exchange} (h : findStalled s k qp idx = some x) :
    x.qp = qp ∧ x.idx = idx := by
  have hx := List.find?_some h
  simp only [Bool.and_eq_true, beq_iff_eq] at hx
  exact ⟨hx.1.1.1.1, hx.1.1.1.2⟩

/-- A stalled exchange ends with the status of its stall, in a state that differs from the one before it only as the stall says. -/
theorem stall_ends {x : Exchange} {s : State} (h : (findInFlight s x.qp x.idx).isSome = true) : ∃ u e,
    stall x s
      = (let y := { exchangeInfo x e with status := stallStatus x s, await := .nothing }
        pumpAll (if writesDone u e then finish y u else setInFlight y u))
    ∧ findInFlight u x.qp x.idx = some e ∧ u.q = s.q ∧ u.red.exchanges = s.red.exchanges.filter (fun y => !sameX x y)
    ∧ u.red.timeouts = s.red.timeouts ∧ u.shard.mismatches
      = if s.red.early.any (foreignFields s x) = true then satInc s.shard.mismatches else s.shard.mismatches := by
  obtain ⟨hq, hrest⟩ := stalledOut_leaves x s
  obtain ⟨e, he⟩ := Option.isSome_iff_exists.mp h
  have hentry : findInFlight (stalledOut x s) x.qp x.idx = some e := by
    rw [findInFlight, hq]
    exact he
  exact ⟨stalledOut x s, e, stall_of_entry hentry, hentry, hq, hrest⟩

theorem exec_reduceStallTimeout {qp : Fin 64} {idx : W32} {s : State} {x : Exchange} (hr : running s = true)
    (h : findStalled s .reduce qp idx = some x) :
    exec (.reduceStallTimeout qp idx) s = .next (stall x { s with red := { s.red with timeouts := satInc s.red.timeouts } }) := by
  change execReduceStallTimeout qp idx s = _
  simp [execReduceStallTimeout, hr, h]

theorem exec_gatherTimeout {qp : Fin 64} {idx : W32} {s : State} {x : Exchange} (hr : running s = true)
    (h : findStalled s .gather qp idx = some x) : exec (.gatherTimeout qp idx) s = .next (stall x s) := by
  change execGatherTimeout qp idx s = _
  simp [execGatherTimeout, hr, h]

/-- Settles O48: either timeout is a stall of the exchange found, a REDUCE's once it is counted. -/
theorem stalledExchangesEnd : Obligations.StalledExchangesEnd := by
  intro qp idx s x hr hentry
  refine ⟨fun h => ?reduce, fun h => ?gather⟩
  case reduce =>
    obtain ⟨rfl, rfl⟩ := findStalled_some h
    obtain ⟨u, e, hstall, he, hq, hx, hn, hm⟩ :=
      stall_ends (x := x) (s := { s with red := { s.red with timeouts := satInc s.red.timeouts } }) hentry
    exact ⟨u, e, (exec_reduceStallTimeout hr h).trans (congrArg Host.Outcome.next hstall), he, congrArg Queues.qps hq, hx, hn, hm⟩
  case gather =>
    obtain ⟨rfl, rfl⟩ := findStalled_some h
    obtain ⟨u, e, hstall, he, hq, hx, hn, hm⟩ := stall_ends hentry
    exact ⟨u, e, (exec_gatherTimeout hr h).trans (congrArg Host.Outcome.next hstall), he, congrArg Queues.qps hq, hx, hn, hm⟩

end Sys2Proof.Machine
end

section
/-! SUPPORT. The start of a descriptor that exchanges: what its first reads find, and its place among the exchanges (R415, R441, R461,
R465). -/

namespace Sys2Proof.Machine

/-! ### What work does whatever its entry waits for -/

/-- Work ends as it would, whatever its entry is to wait for. -/
structure IgnoresAwait {α : Type} (m : M α) : Prop where
  run : ∀ (w : Work) (a : Await), m.run { w with await := a } = ((m.run w).1, { (m.run w).2 with await := a })

section
variable {α β : Type}

theorem IgnoresAwait.pure (a : α) : IgnoresAwait (pure a : M α) := ⟨fun _ _ => rfl⟩
theorem IgnoresAwait.throw (e : Fail) : IgnoresAwait (throw e : M α) := ⟨fun _ _ => rfl⟩
theorem IgnoresAwait.modS (f : State → State) : IgnoresAwait (modS f) := ⟨fun _ _ => rfl⟩
theorem IgnoresAwait.modify {f : Work → Work} (h : ∀ (w : Work) (a : Await), f { w with await := a } = { f w with await := a }) :
    IgnoresAwait (modify f : M Unit) := ⟨fun w a => congrArg (Prod.mk (Except.ok ())) (h w a)⟩

theorem IgnoresAwait.bind {m : M α} {f : α → M β} (h : IgnoresAwait m) (k : ∀ a, IgnoresAwait (f a)) : IgnoresAwait (m >>= f) := by
  refine ⟨fun w a => ?_⟩
  rw [M.run_bind, M.run_bind, h.run]
  generalize m.run w = r
  obtain ⟨_ | x, v⟩ := r
  · rfl
  · exact (k x).run v a

/-- Work that looks at its own fields looks at others than that. -/
theorem IgnoresAwait.get_bind {f : Work → M α} (h : ∀ (w : Work) (a : Await), f { w with await := a } = f w)
    (k : ∀ w, IgnoresAwait (f w)) : IgnoresAwait ((get : M Work) >>= f) := by
  refine ⟨fun w a => ?_⟩
  rw [M.run_bind, M.run_bind]
  change (f { w with await := a }).run { w with await := a } = (((f w).run w).1, { ((f w).run w).2 with await := a })
  rw [h, (k w).run]

theorem IgnoresAwait.catches {m : M α} {f : Fail → M α} (h : IgnoresAwait m) (k : ∀ e, IgnoresAwait (f e)) :
    IgnoresAwait (tryCatch m f) := by
  refine ⟨fun w a => ?_⟩
  rw [M.run_tryCatch, M.run_tryCatch, h.run]
  generalize m.run w = r
  obtain ⟨e | x, v⟩ := r
  · exact (k e).run v a
  · rfl

theorem IgnoresAwait.ite {c : Prop} [Decidable c] {m n : M α} (h : IgnoresAwait m) (k : IgnoresAwait n) :
    IgnoresAwait (if c then m else n) := by
  split
  · exact h
  · exact k

theorem IgnoresAwait.forM {f : α → M PUnit} (h : ∀ a, IgnoresAwait (f a)) : ∀ l : List α, IgnoresAwait (l.forM f)
  | [] => IgnoresAwait.pure _
  | a :: l => (h a).bind fun _ => IgnoresAwait.forM h l
end

theorem touch_ignoresAwait (a : Nat) : IgnoresAwait (touch a) := by
  unfold touch
  refine IgnoresAwait.get_bind (fun _ _ => rfl) fun w => ?_
  dsimp only
  cases resolve w.s a with
  | unbacked => exact IgnoresAwait.throw _
  | unmapped => exact IgnoresAwait.throw _
  | companion _ =>
    dsimp only
    split
    · exact (IgnoresAwait.pure _).ite (IgnoresAwait.throw _)
    · exact IgnoresAwait.pure _
  | stack n off =>
    refine (IgnoresAwait.throw _).ite ?_
    split
    · exact IgnoresAwait.pure _
    · exact IgnoresAwait.modS _
    · exact (IgnoresAwait.modS _).bind fun _ => IgnoresAwait.throw _

theorem readBytes_ignoresAwait (a len : Nat) : IgnoresAwait (readBytes a len) := by
  have hlines : IgnoresAwait (needLines a len) := by
    refine IgnoresAwait.get_bind (fun _ _ => rfl) fun _ => (IgnoresAwait.pure _).ite (IgnoresAwait.bind ?_ fun _ => IgnoresAwait.throw _)
    exact IgnoresAwait.modify fun _ _ => rfl
  have htouch : IgnoresAwait (touchRange a len) := IgnoresAwait.get_bind (fun _ _ => rfl) fun _ => (IgnoresAwait.pure _).ite
    (hlines.bind fun _ => IgnoresAwait.forM (fun _ => touch_ignoresAwait _) _)
  have hfetch : IgnoresAwait (fetchBytes a len) := htouch.bind fun _ => IgnoresAwait.get_bind (fun _ _ => rfl) fun _ => IgnoresAwait.pure _
  refine IgnoresAwait.bind ?_ fun _ => hfetch
  refine IgnoresAwait.modify fun w b => ?_
  change (if w.holds a len then _ else _) = _
  split <;> rfl

/-! ### The reads of a descriptor that exchanges (R415, R441, R465) -/

theorem MOnlyReads.catches {α : Type} {m : M α} {f : Fail → M α} (h : MOnlyReads m) (k : ∀ e, MOnlyReads (f e)) :
    MOnlyReads (tryCatch m f) := by
  refine ⟨fun w => ?_⟩
  have hm := h.run w
  rw [M.run_tryCatch]
  generalize m.run w = r at hm
  obtain ⟨e | a, v⟩ := r
  · exact hm.trans ((k e).run v)
  · exact hm

/-- Work that answers something else where it fails does not fail. -/
theorem tryCatch_answers {α : Type} (m : M α) (f : Fail → α) (w : Work) : ∃ a, ((tryCatch m fun e => pure (f e)).run w).1 = .ok a := by
  rw [M.run_tryCatch]
  rcases m.run w with ⟨e | a, v⟩
  · exact ⟨f e, rfl⟩
  · exact ⟨a, rfl⟩

/-- The group that a descriptor names, before its checks. -/
def exchangeGroup (k : XKind) (d : Desc) : M Group := if k = .rebuild then pure default else peekGroup (groupAddr k d)

/-- What it takes in turn, where that is known. -/
def knownLocks (k : XKind) (d : Desc) : M (Option (List Nat)) := tryCatch (do return some (← exchangeLocks k d)) fun _ => pure none

theorem exchangeBody_eq (k : XKind) (qp : Fin 64) (idx : W32) (d : Desc) : exchangeBody k qp idx d = (do
    setAwait .exchange
    let g ← exchangeGroup k d
    let locks ← knownLocks k d
    modS fun s => enrol (newExchange k qp idx d g locks s) s) := by
  unfold exchangeBody exchangeGroup knownLocks
  split <;> rfl

theorem peekGroup_onlyReads (a : Nat) : MOnlyReads (peekGroup a) :=
  ((readBytes_onlyReads a 16).bind fun _ => MOnlyReads.pure _).catches fun _ => MOnlyReads.pure _
theorem peekGroup_keepsMembers (a : Nat) : MKeepsMembers (peekGroup a) :=
  ((readBytes_keepsMembers a 16).bind fun _ => MKeepsMembers.pure _).catches fun _ => MKeepsMembers.pure _
theorem peekGroup_ignoresAwait (a : Nat) : IgnoresAwait (peekGroup a) :=
  ((readBytes_ignoresAwait a 16).bind fun _ => IgnoresAwait.pure _).catches fun _ => IgnoresAwait.pure _

theorem exchangeGroup_onlyReads (k : XKind) (d : Desc) : MOnlyReads (exchangeGroup k d) := (MOnlyReads.pure _).ite (peekGroup_onlyReads _)
theorem exchangeGroup_keepsMembers (k : XKind) (d : Desc) : MKeepsMembers (exchangeGroup k d) :=
  (MKeepsMembers.pure _).ite (peekGroup_keepsMembers _)
theorem exchangeGroup_answers (k : XKind) (d : Desc) (w : Work) : ∃ g, ((exchangeGroup k d).run w).1 = .ok g := by
  unfold exchangeGroup
  split
  · exact ⟨default, rfl⟩
  · exact tryCatch_answers _ (fun _ => default) w

theorem knownLocks_onlyReads (k : XKind) (d : Desc) : MOnlyReads (knownLocks k d) := by
  refine MOnlyReads.catches (MOnlyReads.bind ?_ fun _ => MOnlyReads.pure _) fun _ => MOnlyReads.pure _
  cases k with
  | reduce =>
    refine (MOnlyReads.pure _).ite (MOnlyReads.ite ?_ (MOnlyReads.pure _))
    exact (needLines_onlyReads _ _).bind fun _ => MOnlyReads.getS.bind fun _ => MOnlyReads.pure _
  | gather => exact MOnlyReads.pure _
  | rebuild => exact MOnlyReads.pure _
theorem knownLocks_keepsMembers (k : XKind) (d : Desc) : MKeepsMembers (knownLocks k d) := by
  refine MKeepsMembers.catches (MKeepsMembers.bind ?_ fun _ => MKeepsMembers.pure _) fun _ => MKeepsMembers.pure _
  cases k with
  | reduce =>
    refine (MKeepsMembers.pure _).ite (MKeepsMembers.ite ?_ (MKeepsMembers.pure _))
    exact (needLines_keepsMembers _ _).bind fun _ => MKeepsMembers.getS.bind fun _ => MKeepsMembers.pure _
  | gather => exact MKeepsMembers.pure _
  | rebuild => exact MKeepsMembers.pure _

/-- Work that answers leaves a state of which what it keeps holds. -/
theorem run_of_answer {α : Type} {m : M α} {w : Work} {a : α} (h : (m.run w).1 = .ok a) (hr : MOnlyReads m) (hk : MKeepsMembers m) :
    ∃ v, m.run w = (.ok a, v) ∧ OnlyReads w v ∧ KeepsMembers w.s v.s :=
  ⟨_, Prod.ext h rfl, hr.run w, hk.run w⟩

/-- A descriptor that exchanges reads what it needs, and takes its place among the exchanges, with the group that it found. -/
theorem exchangeBody_run (k : XKind) (qp : Fin 64) (idx : W32) (d : Desc) (w : Work) : ∃ g locks v,
    (exchangeBody k qp idx d).run w = (.ok (), { v with s := enrol (newExchange k qp idx d g locks v.s) v.s })
      ∧ OnlyReads { w with await := .exchange } v ∧ KeepsMembers w.s v.s
      ∧ ((exchangeGroup k d).run { w with await := .exchange }).1 = .ok g := by
  obtain ⟨g, hg⟩ := exchangeGroup_answers k d { w with await := .exchange }
  obtain ⟨v, hrun, hreads, hkeeps⟩ := run_of_answer hg (exchangeGroup_onlyReads k d) (exchangeGroup_keepsMembers k d)
  obtain ⟨locks, hl⟩ := tryCatch_answers (do return some (← exchangeLocks k d)) (fun _ => none) v
  obtain ⟨x, hrun', hreads', hkeeps'⟩ := run_of_answer (m := knownLocks k d) hl (knownLocks_onlyReads k d) (knownLocks_keepsMembers k d)
  refine ⟨g, locks, x, ?_, hreads.trans hreads', hkeeps.trans hkeeps', hg⟩
  rw [exchangeBody_eq, M.run_bind, show (setAwait .exchange).run w = (.ok (), { w with await := .exchange }) from rfl]
  dsimp only
  rw [M.run_bind, hrun]
  dsimp only
  rw [M.run_bind, hrun']
  rfl

/-! ### What the start leaves of them -/

/-- An entry that waits for its exchange ends with what it read only then (R547). -/
theorem raceOwn_of_exchange {w : Work} {l : List (Nat × Nat)} {e : InFlight} {s : State} (hc : e.cls ≠ clsSample)
    (ha : e.await = .exchange) : ∃ b, raceOwn w l e s = ({ e with racy := b }, s) := by
  have hentry (decides : Bool) : raceEntry e decides (scrambleAll [] s) = ({ e with racy := true }, s) := by
    rw [raceEntry, if_neg (by simp [ha])]
    rfl
  unfold raceOwn
  rw [if_neg hc]
  dsimp only
  split
  · exact ⟨true, hentry _⟩
  · exact ⟨e.racy, rfl⟩

theorem settleLate_of_unsuppressed {α : Type} {r : Except Fail α × Work} (h : r.2.late = none) : settleLate r = r := by
  unfold settleLate
  rw [h]
  cases r.1 <;> rfl

theorem dropSuppressed_of_unsuppressed {d : Desc} {w : Work} (h : w.late = none) (s : State) : dropSuppressed d w s = s := by
  unfold dropSuppressed
  split
  · simp [h]
  · rfl

theorem useLine_keepsMembers (l : Nat) (s : State) : KeepsMembers s (useLine l s) := by
  have hmark : KeepsMembers s (markKey l s) := by
    unfold markKey
    split
    · exact markStack_keepsMembers _ s
    · exact KeepsMembers.refl s
  unfold useLine
  split
  · split
    · exact ⟨rfl, rfl⟩
    · exact hmark.trans ⟨rfl, rfl⟩
  · exact hmark

theorem settleReads_keepsMembers (w : Work) (s : State) : KeepsMembers s (settleReads w s) := by
  have hdemand (l : List MemAccess) (u : State) : KeepsMembers u (demandReads l u) := ⟨rfl, rfl⟩
  have hnote (l : List Nat) : KeepsMembers s (noteRequests l s) := by
    unfold noteRequests
    dsimp only
    split <;> exact ⟨rfl, rfl⟩
  unfold settleReads
  dsimp only
  refine KeepsMembers.trans ?_ (hdemand _ _)
  split
  · exact (hnote _).trans (KeepsMembers.foldl (fun s _ => markRange_keepsMembers _ _ s) _ _)
  · exact (hnote _).trans (KeepsMembers.foldl (fun s _ => useLine_keepsMembers _ s) _ _)

section
variable {qp : Fin 64} {d : Desc} {s : State} {body : M Unit}

theorem openStep_keepsMembers (d : Desc) (s : State) : KeepsMembers s (openStep d s) := by
  unfold openStep
  split <;> exact ⟨rfl, rfl⟩

theorem headBase_keepsMembers (qp : Fin 64) (d : Desc) (s : State) : KeepsMembers s (headBase qp d s) := by
  obtain ⟨x, hx⟩ := headBaseAt_sec (headIdx s qp) d (advanceHead qp 1 s)
  rw [headBase, hx]
  exact ⟨rfl, rfl⟩

/-- The entry of work that writes nothing and is to wait for an exchange does, and memory and the exchanges are as the work left them. -/
theorem settleEntry_of_exchange {old : State} {e : InFlight} {v : Work} (hd : descClass d ≠ clsSample) (hw : v.writes = [])
    (hl : v.late = none) (ha : v.await = .exchange) : ∃ x u, settleEntry old d e (.ok (), v) = (x, u)
      ∧ x.qp = e.qp ∧ x.idx = e.idx ∧ x.cls = descClass d ∧ x.await = .exchange ∧ x.status = .ok
      ∧ u.mem = v.s.mem ∧ u.red = v.s.red := by
  have hmem := (settleReads_keepsSlots v v.s).mem
  have hred := (settleReads_keepsMembers v v.s).red
  unfold settleEntry
  rw [settleWork_of_no_writes hw]
  generalize settleReads v v.s = u at hmem hred
  obtain ⟨b, hrace⟩ := raceOwn_of_exchange (w := v) (l := e.spoiled)
    (e := { workEntry e.qp e.idx d (.ok (), v) with order := v.order }) (s := u) hd ha
  dsimp only
  rw [hrace, dropSuppressed_of_unsuppressed hl]
  exact ⟨_, _, rfl, rfl, rfl, rfl, ha, rfl, hmem, hred⟩

/-- A descriptor whose work writes nothing, ends OK and is to wait for an exchange starts so. -/
theorem startOne_of_exchange {v : Work} (hh : headStatus qp d s = .ok) (hd : descClass d ≠ clsSample)
    (hwork : classWork qp d body s = (.ok (), v)) (hw : v.writes = []) (hl : v.late = none) (ha : v.await = .exchange) :
    startedAs s qp d .exchange .ok (startOne qp d body s) ∧ (startOne qp d body s).mem = v.s.mem
      ∧ (startOne qp d body s).red = v.s.red := by
  obtain ⟨x, u, hsettle, hq, hi, hc, hx, hst, hmem, hred⟩ := settleEntry_of_exchange (old := headBase qp d s)
    (e := heldEntry qp (headIdx s qp) d (openStep d (headBase qp d s))) hd hw hl ha
  rw [startOne_settles hh (by rw [hwork]; rfl), hwork, hsettle]
  refine ⟨?_, hmem, hred⟩
  rw [← hx, ← hst]
  exact startedAs_of_push hq hi hc
end

/-! ### Taking a place among the exchanges -/

/-- An exchange that takes its place is the last, is what it was but for the FIELDS it has, and takes no others' place. -/
theorem enrol_takesPlace {x : Exchange} {s : State} (hnew : ∀ y ∈ s.red.exchanges, sameX x y = false) :
    LeavesEarly s (enrol x s) ∧ exchangePlaces (enrol x s) = exchangePlaces s ++ [(x.qp, x.idx)]
      ∧ ∃ z, (enrol x s).red.exchanges.getLast? = some z ∧ z = { x with peers := z.peers } := by
  have hdeals : Deals { s with red := { s.red with exchanges := s.red.exchanges ++ [x] } } (enrol x s) := dealFields_deals _ _
  have hat : IsAt x (s.red.exchanges ++ [x]) := by
    intro y hy hsame
    rcases List.mem_append.mp hy with hy | hy
    · rw [hnew y hy] at hsame
      cases hsame
    · rw [List.mem_singleton.mp hy]
  have hplaces : exchangePlaces (enrol x s) = exchangePlaces s ++ [(x.qp, x.idx)] := hdeals.places.trans List.map_append
  refine ⟨⟨by rw [hdeals.eq], hdeals.early⟩, hplaces, ?_⟩
  have hlast : (enrol x s).red.exchanges.getLast?.map (fun y => (y.qp, y.idx)) = some (x.qp, x.idx) := by
    rw [← List.getLast?_map]
    exact (congrArg List.getLast? hplaces).trans List.getLast?_concat
  obtain ⟨z, hz, hplace⟩ := Option.map_eq_some_iff.mp hlast
  exact ⟨z, hz, isAt_dealFields (s := { s with red := { s.red with exchanges := s.red.exchanges ++ [x] } }) hat hat z
    (List.mem_of_getLast? hz) (sameX_iff.mpr hplace.symm)⟩

/-- The group with which a descriptor takes its place: what its group record says before any check, none for a REBUILD. -/
theorem exchangeGroup_found {k : XKind} {d : Desc} {h : State} {g : Group}
    (hg : ((exchangeGroup k d).run { Work.start h.q.nextOrder [] h with await := .exchange }).1 = .ok g) :
    g = if k = .rebuild then default else ((runWork (peekGroup (groupAddr k d)) h).1.toOption).getD default := by
  unfold exchangeGroup at hg
  split at hg
  · next hk =>
    rw [if_pos hk]
    exact (Except.ok.inj hg).symm
  · next hk =>
    rw [(peekGroup_ignoresAwait _).run] at hg
    have hlate := ((peekGroup_onlyReads (groupAddr k d)).run (Work.start h.q.nextOrder [] h)).late
    rw [if_neg hk, runWork, runWorkAt, settleLate_of_unsuppressed hlate]
    dsimp only at hg ⊢
    rw [hg]
    rfl

/-- A descriptor that exchanges starts, and then takes its place with the group that it found. -/
theorem startOne_enrols {k : XKind} {qp : Fin 64} {d : Desc} {s h : State} (hh : headStatus qp d s = .ok) (hd : descClass d ≠ clsSample)
    (hopen : openStep d (headResult s qp d).2 = h) : ∃ g locks v,
      g = (if k = .rebuild then default else ((runWork (peekGroup (groupAddr k d)) h).1.toOption).getD default)
      ∧ v.red = s.red ∧ v.mem = s.mem ∧ startedAs s qp d .exchange .ok (startOne qp d (exchangeBody k qp (headIdx s qp) d) s)
      ∧ (startOne qp d (exchangeBody k qp (headIdx s qp) d) s).mem = (enrol (newExchange k qp (headIdx s qp) d g locks v) v).mem
      ∧ (startOne qp d (exchangeBody k qp (headIdx s qp) d) s).red = (enrol (newExchange k qp (headIdx s qp) d g locks v) v).red := by
  have hbase : openStep d (headBase qp d s) = h := (congrArg (fun r => openStep d r.2) headResult_eq).symm.trans hopen
  have hred : h.red = s.red := by
    rw [← hbase]
    exact ((headBase_keepsMembers qp d s).trans (openStep_keepsMembers d _)).red
  have hmem : h.mem = s.mem := by rw [← hbase, openStep_mem, headBase_mem]
  obtain ⟨g, locks, v, hrun, hreads, hkeeps, hg⟩ := exchangeBody_run k qp (headIdx s qp) d (Work.start h.q.nextOrder [] h)
  have hwork : classWork qp d (exchangeBody k qp (headIdx s qp) d) s
      = (.ok (), { v with s := sendQueued h (enrol (newExchange k qp (headIdx s qp) d g locks v.s) v.s) }) := by
    rw [classWork, hopen, runWork, runWorkAt, hrun, settleLate_of_unsuppressed hreads.late]
  obtain ⟨hstarted, htmem, htred⟩ := startOne_of_exchange hh hd hwork hreads.writes hreads.late hreads.await
  have hsent := sendQueued_sends h (enrol (newExchange k qp (headIdx s qp) d g locks v.s) v.s)
  exact ⟨g, locks, v.s, exchangeGroup_found hg, hkeeps.red.trans hred, hreads.slots.mem.trans hmem, hstarted, htmem.trans hsent.mem,
    htred.trans hsent.keepsMembers.red⟩

/-- What the row of a descriptor that exchanges leaves before the exchanges go on (R415, R441, R461, R465). -/
theorem exchangeRow_joins {k : XKind} {c : Instr} {qp : Fin 64} {d : Desc} {s : State} (hc : exec c s = startExchange true k qp d s)
    (hd : descClass d ≠ clsSample) (hp : passesHead qp d s = true)
    (hnew : ∀ x ∈ s.red.exchanges, ¬(x.qp = qp ∧ x.idx = headIdx s qp)) :
    let h := openStep d (headResult s qp d).2
    let g : Group := if k = .rebuild then default else ((runWork (peekGroup (groupAddr k d)) h).1.toOption).getD default
    ∃ u, exec c s = .next (pumpAll u) ∧ startedAs s qp d .exchange .ok u ∧ u.mem = s.mem ∧ (∀ f ∈ u.red.early, f ∈ s.red.early)
      ∧ u.red.exchanges.map (fun x => (x.qp, x.idx)) = s.red.exchanges.map (fun x => (x.qp, x.idx)) ++ [(qp, headIdx s qp)]
      ∧ u.red.exchanges.getLast?.map (fun x => (x.kind, x.desc, x.group, x.prepared, x.begun)) = some (k, d, g, false, false) := by
  intro h g
  obtain ⟨hr, hstart, hh⟩ := passesHead_iff.mp hp
  obtain ⟨g', locks, v, hg, hvred, hvmem, hstarted, hmem, hred⟩ := startOne_enrols (k := k) (h := h) hh hd rfl
  obtain rfl : g' = g := hg
  obtain ⟨hleaves, hplaces, z, hlast, hz⟩ := enrol_takesPlace (x := newExchange k qp (headIdx s qp) d g locks v) (s := v) fun y hy => by
    rw [Bool.eq_false_iff]
    intro hsame
    obtain ⟨hq, hi⟩ := Prod.mk.inj (sameX_iff.mp hsame)
    exact hnew y (hvred ▸ hy) ⟨hq.symm, hi.symm⟩
  refine ⟨startOne qp d (exchangeBody k qp (headIdx s qp) d) s, hc.trans (startExchange_starts hr hstart), hstarted,
    ?mem, ?early, ?places, ?last⟩
  case mem =>
    rw [hmem, hleaves.eq]
    exact hvmem
  case early =>
    rw [hred, ← hvred]
    exact fun f hf => hleaves.early hf
  case places =>
    rw [hred, ← hvred]
    exact hplaces
  case last =>
    rw [hred, hlast, Option.map_some, hz]
    rfl

theorem class_ne_sample {d : Desc} {n : Nat} {b : Bool} (hw : (descClass d == n && b) = true) (hn : n ≠ clsSample) :
    descClass d ≠ clsSample := class_of_row hw ▸ hn

/-- Settles O29: the five rows start in one way, with the kind of each. -/
theorem exchangesBegin : Obligations.ExchangesBegin := by
  intro qp d s hp hnew
  have hjoins {k : XKind} {c : Instr} {isRow : Bool} (hc : exec c s = startExchange isRow k qp d s) (hrow : isRow = true)
      (hd : descClass d ≠ clsSample) := exchangeRow_joins (c := c) (hrow ▸ hc) hd hp hnew
  exact ⟨fun hw => hjoins rfl hw (class_ne_sample hw (by decide)), fun hw => hjoins rfl hw (class_ne_sample hw (by decide)),
    fun hw => hjoins rfl hw (class_ne_sample hw (by decide)), fun hw => hjoins rfl hw (class_ne_sample hw (by decide)),
    fun hw => hjoins rfl hw (class_ne_sample hw (by decide))⟩

end Sys2Proof.Machine
end

section
/-! SUPPORT. What keeps every protected range (R455, R458, R459, R513). -/

namespace Sys2Proof.Machine

/-! ### Entering a turn -/

theorem enterTurn_keepsRanges (t : TurnTrans) (x : Turn) (n : W64) (s : State) : s.prot ⊆ (enterTurn t x n s).prot :=
  (endTransition_calm t .ok { s with turn := { s.turn with
    cur := x, seq := satInc s.turn.seq, lastLength := n, steps := if x = .learn then 0 else s.turn.steps } }).prot

/-- Setting sequences aside and stopping the scheduler are quiet. -/
theorem entryBase_keepsRanges (tr : TurnTrans) (s : State) : s.prot ⊆ (entryBase tr s).prot := by
  unfold entryBase
  refine List.Subset.trans ?_ (leaveGenerate_quiet _).calm.prot
  split
  · exact (settleAll_quiet _ s).calm.prot
  · exact List.Subset.refl _

theorem execTurnEntry_keepsRanges {n : W64} {s t : State} (h : execTurnEntry n s = .next t) : s.prot ⊆ t.prot := by
  have hdo {tr : TurnTrans} {u : State} (htr : s.turn.trans = some tr) (hu : afterAwaited tr s = some u) :
      s.prot ⊆ (doEntry tr n u).prot := by
    obtain ⟨t, hb⟩ := entersFrom_entryBase htr hu
    refine List.Subset.trans ((afterAwaited_calm hu).prot) (List.Subset.trans (entryBase_keepsRanges tr u) ?_)
    rw [doEntry_eq n hb]
    split
    · split
      · exact (endTransition_calm t .versionRetired _).prot
      · exact enterTurn_keepsRanges t .generate n (startGenerate tr.req _ (entryBase tr u))
    · exact enterTurn_keepsRanges t _ n _
    · exact (endTransition_calm t .badTransition _).prot
  unfold execTurnEntry at h
  split at h
  · cases h
  · split at h
    · rename_i tr htr
      split at h
      · rename_i u hu
        split at h <;> cases h
        · exact hdo htr hu
        · exact List.Subset.refl _
      · cases h
        exact List.Subset.refl _
    · cases h
      exact List.Subset.refl _

/-! ### Writes of shares, keys and fuses -/

/-- An object's own rule that leaves the protected ranges as they are makes a request that keeps them. -/
theorem request_keepsRanges {isRow : Bool} {own : Own} {p : Asker} {r : List Byte} {s t : State}
    (ho : ∀ p r s, Gives (fun s t => t.prot = s.prot) s (own p r s)) (h : request isRow own p r s = .next t) : s.prot ⊆ t.prot :=
  request_keeps (R := fun s t => s.prot ⊆ t.prot) (fun _ _ => Calm.prot) (fun _ _ _ => List.Subset.trans)
    (fun p r s => ⟨fun t e => ((ho p r s).of t e).symm ▸ List.Subset.refl _⟩) h

theorem ownShare_prot (p : Path) (r : List Byte) (s : State) : Gives (fun s t => t.prot = s.prot) s (ownShare p r s) := by
  unfold ownShare
  exact freeAnd_gives rfl

theorem setKey_prot (n : Nat) (k : KeySlot) (s : State) : (setKey n k s).prot = s.prot := by
  unfold setKey
  split <;> rfl

theorem ownKey_prot (p : Path) (r : List Byte) (s : State) : Gives (fun s t => t.prot = s.prot) s (ownKey p r s) := by
  unfold ownKey
  dsimp only
  split
  · split
    · exact okIf_gives (setKey_prot _ _ s)
    · exact Gives.error _ _
  · exact okIf_gives (setKey_prot _ _ s)

theorem ownRevoke_prot (p : Path) (r : List Byte) (s : State) : Gives (fun s t => t.prot = s.prot) s (ownRevoke p r s) := by
  unfold ownRevoke
  dsimp only
  split
  · exact Gives.error _ _
  · split
    · exact okIf_gives (setKey_prot _ _ s)
    · exact Gives.error _ _

theorem ownCommit_prot (p : Path) (r : List Byte) (s : State) : Gives (fun s t => t.prot = s.prot) s (ownCommit p r s) := by
  unfold ownCommit
  dsimp only
  split
  · exact Gives.error _ _
  · exact okIf_gives rfl

/-! ### Resets -/

/-- A reset deeper than CORE is in progress. -/
def InDeepReset (t : State) : Prop := ∃ r, t.rst.run = some r ∧ (r.level = .sys ∨ r.level = .po)

/-- The protected ranges are as they were, or a SYS or PO reset has been asserted. -/
def KeepsRangesOrResets (s t : State) : Prop := t.prot = s.prot ∨ InDeepReset t

theorem Asserts.keepsRangesOrResets {l : Level} {causes : List Byte} {s t : State} (h : Asserts l causes s t) :
    KeepsRangesOrResets s t := by
  obtain ⟨⟨hrun, -⟩, hmem⟩ := h
  cases l with
  | core => exact .inl hmem.2
  | sys => exact .inr ⟨_, hrun, .inl rfl⟩
  | po => exact .inr ⟨_, hrun, .inr rfl⟩

theorem raiseSource_keepsRangesOrResets (l : Level) (cause : Byte) (holds : Bool) (s : State) :
    KeepsRangesOrResets s (raiseSource l cause holds s) := (raiseSource_asserts l cause holds s).keepsRangesOrResets

/-- A clock failure asserts SYS, or leaves the reset of a source that is still raised (R685). -/
theorem failClock_keepsRangesOrResets (s : State) : KeepsRangesOrResets s (failClock s) := by
  unfold failClock
  dsimp only
  split
  · exact raiseSource_keepsRangesOrResets .sys 7 false { s with rst := { s.rst with clockGood := false } }
  · exact .inr ⟨_, rfl, .inl rfl⟩

theorem sourceEvent_keepsRangesOrResets {c : Bool} {f : State → State} {s t : State} (hf : ∀ s, KeepsRangesOrResets s (f s))
    (h : sourceEvent c f s = .next t) : KeepsRangesOrResets s t := sourceEvent_keeps (.inl rfl) hf h

theorem execResetBegin_keepsRangesOrResets {s t : State} (h : execResetBegin s = .next t) : KeepsRangesOrResets s t := by
  unfold execResetBegin at h
  split at h
  · exact sourceEvent_keepsRangesOrResets
      (fun s => raiseSource_keepsRangesOrResets _ _ _ { s with rst := { s.rst with pending := none } }) h
  · exact sourceEvent_keepsRangesOrResets (fun _ => .inl rfl) h

theorem execPowerOn_keepsRangesOrResets {s t : State} (h : execPowerOn s = .next t) : KeepsRangesOrResets s t := by
  unfold execPowerOn at h
  split at h <;> cases h
  · exact .inr ⟨_, rfl, .inr rfl⟩
  · exact .inl rfl

theorem execBrownOut_keepsRangesOrResets {s t : State} (h : execBrownOut s = .next t) : KeepsRangesOrResets s t :=
  sourceEvent_keepsRangesOrResets
    (fun s => raiseSource_keepsRangesOrResets .po 2 true { s with rst := { s.rst with pwrGood := false } }) h

/-- A lock-up asserts CORE, and only where no reset is in progress (R139, R513). -/
theorem execLockUp_prot {s t : State} (h : execLockUp s = .next t) : t.prot = s.prot := by
  unfold execLockUp at h
  cases hrun : s.rst.run with
  | some r =>
    rw [hrun] at h
    exact sourceEvent_keeps (R := fun s t => t.prot = s.prot) (c := false) (f := id) rfl (fun _ => rfl) h
  | none =>
    have hcore : (raiseSource .core 8 false s).prot = s.prot := by rw [raiseSource, hrun]; rfl
    unfold sourceEvent at h
    split at h
    · cases h
    · split at h <;> cases h
      · exact hcore
      · rfl

/-- Settles O39: a calm command keeps every range, and of the others only UNPROTECT, now or at its completion, and the deep resets do
not. -/
theorem protectedRangesStay : Obligations.ProtectedRangesStay := by
  intro c s t h x hx
  have stays {u : State} (hu : s.prot ⊆ u.prot) {p : Prop} : x ∈ u.prot ∨ p := .inl (hu hx)
  have resets (hc : c ∈ [Instr.resetBegin, .powerOn, .brownOut, .pinReset, .watchdog, .clockFailure])
      (hk : KeepsRangesOrResets s t) {p q : Prop} : x ∈ t.prot ∨ p ∨ q ∨ (c ∈ _ ∧ InDeepReset t) :=
    hk.imp (fun hp => by rwa [hp]) fun hr => .inr (.inr ⟨hc, hr⟩)
  rcases exec_calm_or_stirs h with hcalm | hst
  · exact stays hcalm.prot
  cases hst with
  | turnEntry n => exact stays (execTurnEntry_keepsRanges h)
  | unprotect qp d => exact .inr (.inl ⟨qp, d, rfl⟩)
  | descriptorComplete qp idx =>
    by_cases hheld : ∃ e d f, findInFlight s qp idx = some e ∧ e.await = .held d f ∧ isShard 4 d = true
    · obtain ⟨e, d, f, hwaited⟩ := hheld
      exact .inr (.inr (.inl ⟨qp, idx, e, d, f, rfl, hwaited⟩))
    · refine stays (execDescriptorComplete_calm qp idx s (fun e d f he ha => Bool.eq_false_iff.mpr fun hd => ?_) h).prot
      exact hheld ⟨e, d, f, he, ha, hd⟩
  | shareWrite p req => exact stays (request_keepsRanges ownShare_prot h)
  | commandKeyWrite p req => exact stays (request_keepsRanges ownKey_prot h)
  | revokeKey p req => exact stays (request_keepsRanges ownRevoke_prot h)
  | commitSecurityVersion p req => exact stays (request_keepsRanges ownCommit_prot h)
  | lockUp => exact .inl (by rwa [execLockUp_prot h])
  | resetBegin => exact resets (by simp) (execResetBegin_keepsRangesOrResets h)
  | powerOn => exact resets (by simp) (execPowerOn_keepsRangesOrResets h)
  | brownOut => exact resets (by simp) (execBrownOut_keepsRangesOrResets h)
  | pinReset => exact resets (by simp) (sourceEvent_keepsRangesOrResets (raiseSource_keepsRangesOrResets .sys 3 false) h)
  | watchdog => exact resets (by simp) (sourceEvent_keepsRangesOrResets (raiseSource_keepsRangesOrResets .sys 4 false) h)
  | clockFailure => exact resets (by simp) (sourceEvent_keepsRangesOrResets failClock_keepsRangesOrResets h)

end Sys2Proof.Machine
end

section
/-! SUPPORT. Work that ends OK, part by part, and the rows of LOAD, PROTECT and UNPROTECT (R452, R457, R458, R474). -/

namespace Sys2Proof.Machine

/-! ### Work that ends OK -/

section
variable {α β : Type} {w v : Work}

theorem M.run_bind_eq_ok {m : M α} {f : α → M β} {b : β} :
    (m >>= f).run w = (.ok b, v) ↔ ∃ a u, m.run w = (.ok a, u) ∧ (f a).run u = (.ok b, v) := by
  rw [M.run_bind]
  rcases m.run w with ⟨e | a, u⟩
  · exact ⟨nofun, fun ⟨_, _, he, _⟩ => nomatch he⟩
  · exact ⟨fun h => ⟨a, u, rfl, h⟩, fun ⟨_, _, he, h⟩ => by cases he; exact h⟩

theorem need_run_eq_ok {c : Bool} {st : Status} {x : Unit} : (need c st).run w = (.ok x, v) ↔ c = true ∧ v = w := by
  cases c with
  | false => exact ⟨nofun, fun h => Bool.noConfusion h.1⟩
  | true => exact ⟨fun h => ⟨rfl, by cases h; rfl⟩, fun h => by rw [h.2]; rfl⟩

theorem needDesc_run_eq_ok {c : Bool} {x : Unit} : (needDesc c).run w = (.ok x, v) ↔ c = true ∧ v = w := need_run_eq_ok

theorem needShardTurn_run_eq_ok {op : Nat} {x : Unit} :
    (needShardTurn op).run w = (.ok x, v) ↔ shardTurn op w.s.turn.cur = true ∧ v = w := need_run_eq_ok

theorem needMapped_run_ok {a len : Nat} {x : Unit} (h : (needMapped a len).run w = (.ok x, v)) : v = w := by
  unfold needMapped at h
  obtain ⟨s, u, hs, h⟩ := M.run_bind_eq_ok.mp h
  cases hs
  split at h <;> cases h
  rfl

theorem needBacked_run_ok {a len : Nat} {x : Unit} (h : (needBacked a len).run w = (.ok x, v)) : v = w := by
  unfold needBacked at h
  obtain ⟨s, u, hs, h⟩ := M.run_bind_eq_ok.mp h
  cases hs
  split at h
  · cases h
    rfl
  · split at h <;> cases h
    rfl

theorem needWritable_run_ok {a len : Nat} {x : Unit} (h : (needWritable a len).run w = (.ok x, v)) : v = w := by
  unfold needWritable at h
  obtain ⟨s, u, hs, h⟩ := M.run_bind_eq_ok.mp h
  cases hs
  split at h
  · cases h
    rfl
  · split at h <;> cases h
    rfl
end

/-! ### What a start leaves of work that touches no memory -/

section
variable {qp : Fin 64} {d : Desc} {body : M Unit} {s : State}

theorem settleLate_of_none {α : Type} {r : Except Fail α × Work} (h : r.2.late = none) : settleLate r = r := by
  unfold settleLate
  rw [h]
  split
  · next hsome => cases hsome
  · rfl

theorem classWork_of_run {x : Except Fail Unit} {w : Work} (h : body.run (workStart qp d s) = (x, w)) (hl : w.late = none) :
    classWork qp d body s = (x, { w with s := sendQueued (openStep d (headBase qp d s)) w.s }) := by
  unfold classWork runWork runWorkAt
  rw [headResult_eq, h, settleLate_of_none hl]

/-- Work that ends OK has suppressed no write, and what it has queued goes out (R456, R576). -/
theorem classWork_eq_ok (h : (classWork qp d body s).1 = .ok ()) : ∃ w, body.run (workStart qp d s) = (.ok (), w)
    ∧ classWork qp d body s = (.ok (), { w with s := sendQueued (openStep d (headBase qp d s)) w.s }) := by
  have hsettled : (settleLate (body.run (workStart qp d s))).1 = .ok () := by
    unfold classWork at h
    rwa [headResult_eq] at h
  generalize hrun : body.run (workStart qp d s) = r at hsettled
  obtain ⟨_ | _, w⟩ := r
  · cases hsettled
  · cases hl : w.late with
    | some f => simp [settleLate, hl] at hsettled
    | none => exact ⟨w, rfl, classWork_of_run hrun hl⟩

theorem workStart_prot : (workStart qp d s).s.prot = s.prot := by
  obtain ⟨x, hx⟩ := headBaseAt_sec (headIdx s qp) d (advanceHead qp 1 s)
  have hopen (u : State) : (openStep d u).prot = u.prot := by
    unfold openStep
    split <;> rfl
  change (openStep d (headBase qp d s)).prot = s.prot
  rw [hopen, headBase, hx]
  rfl

theorem workStart_cur : (workStart qp d s).s.turn.cur = s.turn.cur := by
  obtain ⟨x, hx⟩ := headBaseAt_sec (headIdx s qp) d (advanceHead qp 1 s)
  change (openStep d (headBase qp d s)).turn.cur = s.turn.cur
  rw [(openStep_quiet d _).calm.cur, headBase, hx]
  rfl

theorem workStart_keepsSlots : KeepsSlots s (workStart qp d s).s := (headBase_keepsSlots qp d s).trans (openStep_keepsSlots d _)

/-- Work that changes no more than the state and its bytes of the record, and sends nothing, leaves that state and an entry with its
outcome, which waits for nothing (R340, R544). -/
theorem startOne_of_no_memory {x : Except Fail Unit} {v : State} {l : List Byte} (hh : headStatus qp d s = .ok)
    (hd : descClass d ≠ clsSample) (hn : nextOf d = none) (hx : waitsIn x = false)
    (hrun : body.run (workStart qp d s) = (x, { workStart qp d s with s := v, info := l })) (hlk : v.lk = (workStart qp d s).s.lk) :
    (startOne qp d body s).mem = v.mem ∧ (startOne qp d body s).prot = v.prot
      ∧ startedAs s qp d .nothing (outcomeStatus x) (startOne qp d body s) := by
  have hsent : sendQueued (openStep d (headBase qp d s)) v = v := if_pos (by rw [hlk]; rfl)
  have hwork : classWork qp d body s = (x, { workStart qp d s with s := v, info := l }) := by
    rw [classWork_of_run hrun rfl]
    simp only [hsent]
  rw [startOne_settles hh (by rw [hwork]; exact hx), hwork, settleEntry_of_no_access hd hn rfl rfl rfl]
  refine ⟨rfl, rfl, ?_⟩
  cases x <;> exact startedAs_of_push rfl rfl rfl
end

/-! ### The rows of a SHARD that exchanges nothing -/

section
variable {qp : Fin 64} {d : Desc} {s : State} {op : Nat}

theorem isShard_iff : isShard op d = true ↔ descClass d = clsShard ∧ (shardFields d).op = op := by
  simp [isShard]

/-- Of the SHARDs a GATHER alone marks a pair (R463). -/
theorem nextOf_of_shard (h : isShard op d = true) (hop : op ≠ 1) : nextOf d = none := by
  obtain ⟨hcls, hf⟩ := isShard_iff.mp h
  have hfld : fld d.w2 15 12 ≠ 1 := fun he => hop (hf.symm.trans he)
  simp [nextOf, hcls, hfld, clsShard, clsMove]

theorem shard_plainRow {c : Instr} {body : M Unit} (h : isShard op d = true) (hop : op ≠ 1)
    (hexec : ∀ s, exec c s = startDesc (isShard op d) qp d body s) : PlainRow c qp d body :=
  ⟨nextOf_of_shard h hop, fun s => by rw [hexec, h]⟩

theorem shard_ne_sample (h : isShard op d = true) : descClass d ≠ clsSample := by
  rw [(isShard_iff.mp h).1]
  decide

/-- A PROTECT that ends OK has added its range and done nothing else (R457). -/
theorem protectBody_run_ok {w v : Work} (h : (protectBody d).run w = (.ok (), v)) :
    v = { w with s := addRange (shardFields d).a (shardFields d).len w.s, info := shardInfo (shardFields d).len 0 0 } := by
  obtain ⟨_, w1, hinfo, h1⟩ := M.run_bind_eq_ok.mp h
  obtain ⟨_, w2, hfields, h2⟩ := M.run_bind_eq_ok.mp h1
  obtain ⟨_, w3, hs, h3⟩ := M.run_bind_eq_ok.mp h2
  obtain ⟨_, w4, hrange, h4⟩ := M.run_bind_eq_ok.mp h3
  obtain ⟨_, w5, hturn, h5⟩ := M.run_bind_eq_ok.mp h4
  obtain ⟨_, w6, hbacked, hadd⟩ := M.run_bind_eq_ok.mp h5
  cases hinfo
  cases (needDesc_run_eq_ok.mp hfields).2
  cases hs
  cases (needDesc_run_eq_ok.mp hrange).2
  cases (needShardTurn_run_eq_ok.mp hturn).2
  cases needBacked_run_ok hbacked
  cases hadd
  rfl

/-- An UNPROTECT whose fields and turn are right removes every range where version slot 0 is FREE, and otherwise ends with
VERSION_IN_USE (R458). -/
theorem unprotectBody_run {w : Work} (hf : shardFieldsOk d (shardFields d) = true)
    (ht : shardTurn (shardFields d).op w.s.turn.cur = true) :
    (unprotectBody d).run w = if (w.s.vers[(0 : Fin 4)]).state = .free then (.ok (), { w with s := { w.s with prot := [] } })
      else (.error ⟨.versionInUse, none, false⟩, w) := by
  have hfields : (needDesc (shardFieldsOk d (shardFields d))).run w = (.ok (), w) := needDesc_run_eq_ok.mpr ⟨hf, rfl⟩
  have hturn : (needShardTurn (shardFields d).op).run w = (.ok (), w) := needShardTurn_run_eq_ok.mpr ⟨ht, rfl⟩
  unfold unprotectBody
  rw [M.run_bind, hfields]
  dsimp only
  rw [M.run_bind, hturn]
  dsimp only
  rw [M.run_bind, M.run_getS]
  dsimp only
  rw [M.run_bind]
  by_cases hfree : (w.s.vers[(0 : Fin 4)]).state = .free
  · rw [if_pos hfree, hfree]
    rfl
  · rw [if_neg hfree, beq_false_of_ne hfree]
    rfl
end

/-- Settles O28: LOAD is a plain row; PROTECT and UNPROTECT touch no memory, so that a start leaves what their checks and one change of
the list of ranges do. -/
theorem protectedRangeRows : Obligations.ProtectedRangeRows := by
  intro qp d s
  refine ⟨fun hw hok => (shard_plainRow hw (by decide) fun _ => rfl).completesOk hok, fun hw hok => ?protect,
    fun hw hpass hf ht => ?unprotect⟩
  case protect =>
    have hrow : PlainRow (.protect qp d) qp d (protectBody d) := shard_plainRow hw (by decide) fun _ => rfl
    obtain ⟨hpass, -, hends⟩ := runsOk_iff.mp hok
    obtain ⟨w, hrun, -⟩ := classWork_eq_ok hends
    rw [protectBody_run_ok hrun] at hrun
    obtain ⟨hmem, hprot, -⟩ := startOne_of_no_memory (passesHead_iff.mp hpass).2.2 (shard_ne_sample hw) hrow.unpaired rfl hrun rfl
    refine ⟨_, hrow.exec_starts hpass, ?_, ?_⟩
    · rw [hprot, addRange_prot_eq, workStart_prot]
    · exact hmem.trans workStart_keepsSlots.mem
  case unprotect =>
    have hrow : PlainRow (.unprotect qp d) qp d (unprotectBody d) := shard_plainRow hw (by decide) fun _ => rfl
    have hslots := workStart_keepsSlots (qp := qp) (d := d) (s := s)
    have hrun := unprotectBody_run (w := workStart qp d s) hf (by rwa [workStart_cur, (isShard_iff.mp hw).2])
    have starts {x : Except Fail Unit} {v : State} {l : List Byte} :=
      startOne_of_no_memory (x := x) (v := v) (l := l) (body := unprotectBody d)
      (passesHead_iff.mp hpass).2.2 (shard_ne_sample hw) hrow.unpaired
    rw [hslots.vers] at hrun
    refine ⟨_, hrow.exec_starts hpass, ?_⟩
    by_cases hfree : (s.vers[(0 : Fin 4)]).state = .free
    · rw [if_pos hfree] at hrun ⊢
      obtain ⟨hmem, hprot, hentry⟩ := starts rfl hrun rfl
      exact ⟨hmem.trans hslots.mem, hprot, hentry⟩
    · rw [if_neg hfree] at hrun ⊢
      obtain ⟨hmem, hprot, hentry⟩ := starts rfl hrun rfl
      exact ⟨hmem.trans hslots.mem, hprot.trans workStart_prot, hentry⟩

end Sys2Proof.Machine
end

section
/-! SUPPORT. What a write that ends OK stores, what settling work leaves of memory and of the protected ranges, and the row of ZERO (R321,
R475, R494, R547). -/

namespace Sys2Proof.Machine

/-! ### What a store that ends OK has stored (R494) -/

theorem pokeList_append (s : State) (a : Nat) (bs cs : List Byte) (m : List Host.Cell) :
    pokeList s a (bs ++ cs) m = pokeList s (a + bs.length) cs (pokeList s a bs m) := by
  induction bs generalizing a m with
  | nil => rfl
  | cons b bs ih =>
    rw [List.cons_append, pokeList, ih, pokeList, List.length_cons]
    congr 1
    omega

/-- Memory is as the bytes at an address leave it, and the map is as it was. -/
structure Poked (a : Nat) (bs : List Byte) (s t : State) : Prop extends SameMap s t where
  mem : t.mem = (poke s a bs).mem

theorem Poked.of_sameStore {a : Nat} {s t : State} (h : SameStore s t) : Poked a [] s t := ⟨h.toSameMap, h.mem⟩

theorem Poked.poke {a : Nat} {bs : List Byte} {s t : State} (h : SameMap s t) (hm : t.mem = s.mem) :
    Poked a bs s (poke t a bs) :=
  ⟨h.trans (poke_sameMap t a bs), by
    change pokeList t a bs t.mem = pokeList s a bs s.mem
    rw [pokeList_congr h.locOf, hm]⟩

theorem Poked.append {a : Nat} {bs cs : List Byte} {s t u : State} (h : Poked a bs s t) (k : Poked (a + bs.length) cs t u) :
    Poked a (bs ++ cs) s u := by
  refine ⟨h.toSameMap.trans k.toSameMap, k.mem.trans ?_⟩
  change pokeList t (a + bs.length) cs t.mem = pokeList s a (bs ++ cs) s.mem
  rw [pokeList_append, pokeList_congr h.locOf, h.mem]
  rfl

theorem SameStore.poked {a : Nat} {bs : List Byte} {s t u : State} (h : SameStore s t) (k : Poked a bs t u) : Poked a bs s u :=
  Poked.append (bs := []) (.of_sameStore h) k

theorem Poked.sends {a : Nat} {bs : List Byte} {s t u : State} (h : Poked a bs s t) (k : Sends t u) : Poked a bs s u :=
  ⟨h.toSameMap.trans k.sameMap, k.mem.trans h.mem⟩

theorem Poked.peek {a : Nat} {bs : List Byte} {s t : State} (h : Poked a bs s t) (x : Nat) :
    Machine.peek t x = Machine.peek (Machine.poke s a bs) x :=
  peek_congr (fun y => (h.locOf y).trans (locOf_poke s a bs y).symm) h.mem x

section
variable {source a : Nat} {bs : List Byte} {w v : Work}

theorem modS_answer_run_eq_ok {f : State → State} {b r : Bool} :
    (do modS f; return b : M Bool).run w = (.ok r, v) ↔ b = r ∧ { w with s := f w.s } = v := by
  constructor
  · intro h
    cases h
    exact ⟨rfl, rfl⟩
  · rintro ⟨rfl, rfl⟩
    rfl

/-- The part of a write that falls on one codeword is stored unless it fails. -/
theorem writeCodeword_run_ok {base lo hi : Nat} (h : (writeCodeword source base bs lo hi).run w = (.ok false, v)) :
    ∃ t, v = { w with s := t } ∧ Poked lo ((bs.drop (lo - base)).take (hi - lo)) w.s t := by
  unfold writeCodeword at h
  rw [M.run_bind, M.run_getS] at h
  dsimp only at h
  split at h
  · obtain ⟨_, w1, hreset, h1⟩ := M.run_bind_eq_ok.mp h
    have hw : w1 = w := by
      unfold holdIf at hreset
      split at hreset <;> cases hreset
      rfl
    subst hw
    split at h1
    · obtain ⟨-, rfl⟩ := modS_answer_run_eq_ok.mp h1
      exact ⟨_, rfl, (eccClear_poke w1.s _ lo _).symm ▸ Poked.poke (eccClear_sameMap _ _) rfl⟩
    · split at h1
      · exact absurd (modS_answer_run_eq_ok.mp h1).1 (by decide)
      · obtain ⟨-, rfl⟩ := modS_answer_run_eq_ok.mp h1
        exact ⟨_, rfl, Poked.poke (countCorrected_sameMap _ _ _) rfl⟩
      · obtain ⟨-, rfl⟩ := modS_answer_run_eq_ok.mp h1
        exact ⟨_, rfl, Poked.poke (SameMap.refl _) rfl⟩
  · obtain ⟨-, rfl⟩ := modS_answer_run_eq_ok.mp h
    exact ⟨_, rfl, Poked.poke (SameMap.refl _) rfl⟩
  · cases h
  · cases h

/-- Work for each number of a range in turn, none of which answers a failure, leads from one state of an invariant to the next. -/
theorem mapM_range'_run_ok {f : Nat → M (Option Nat)} {Inv : Nat → Work → Prop} {stop : Nat}
    (step : ∀ i w v, i < stop → Inv i w → (f i).run w = (.ok none, v) → Inv (i + 1) v) (len start : Nat) (hstop : start + len = stop)
    (w v : Work) (l : List (Option Nat)) (hrun : ((List.range' start len).mapM f).run w = (.ok l, v)) (hnone : ∀ r ∈ l, r = none)
    (hw : Inv start w) : Inv stop v := by
  induction len generalizing start w l with
  | zero =>
    cases hrun
    exact hstop ▸ hw
  | succ len ih =>
    rw [List.range'_succ, List.mapM_cons] at hrun
    obtain ⟨r, w1, hfirst, hrest⟩ := M.run_bind_eq_ok.mp hrun
    obtain ⟨l', w2, htail, hend⟩ := M.run_bind_eq_ok.mp hrest
    cases hend
    rw [hnone r List.mem_cons_self] at hfirst
    exact ih (start + 1) (by omega) w1 l' htail (fun r hr => hnone r (List.mem_cons_of_mem _ hr))
      (step start w w1 (by omega) hw hfirst)

/-- The bytes below the codeword i places after the first are stored. -/
def StoredBelow (a : Nat) (bs : List Byte) (w : Work) (i : Nat) (v : Work) : Prop :=
  ∃ t, v = { w with s := t } ∧ Poked a (bs.take ((a / 16 + i) * 16 - a)) w.s t

theorem StoredBelow.next {i : Nat} {u x : Work} (hi : i < (a + bs.length - 1) / 16 - a / 16 + 1) (hbs : 0 < bs.length)
    (h : StoredBelow a bs w i u) (hrun : (storePart source a bs i).run u = (.ok none, x)) : StoredBelow a bs w (i + 1) x := by
  obtain ⟨t, rfl, hstored⟩ := h
  obtain ⟨failed, y, hpart, hanswer⟩ := M.run_bind_eq_ok.mp hrun
  cases failed with
  | true => cases hanswer
  | false =>
    cases hanswer
    obtain ⟨u, rfl, hpoked⟩ := writeCodeword_run_ok hpart
    refine ⟨u, rfl, ?_⟩
    generalize hk : (a / 16 + i) * 16 - a = k at hstored
    have hlen : (bs.take k).length = k := by rw [List.length_take]; omega
    have hlo : max a ((a / 16 + i) * 16) = a + k := by omega
    have htake (n : Nat) (hn : min (k + n) bs.length = min ((a / 16 + (i + 1)) * 16 - a) bs.length) :
        bs.take k ++ (bs.drop k).take n = bs.take ((a / 16 + (i + 1)) * 16 - a) := by
      rw [← List.take_add]
      exact List.take_eq_take_iff.mpr hn
    rw [hlo, Nat.add_sub_cancel_left, ← congrArg (a + ·) hlen] at hpoked
    have happend := hstored.append hpoked
    rwa [hlen, htake _ (by omega)] at happend

/-- A store that ends OK has stored all of its bytes. -/
theorem storeFrom_run_ok (h : (storeFrom source a bs).run w = (.ok (), v)) : ∃ t, v = { w with s := t } ∧ Poked a bs w.s t := by
  rcases Nat.eq_zero_or_pos bs.length with hbs | hbs
  · rw [List.length_eq_zero_iff] at hbs
    subst hbs
    cases h
    exact ⟨w.s, rfl, .of_sameStore (SameStore.refl _)⟩
  · rw [storeFrom_eq source a hbs] at h
    obtain ⟨l, w1, hparts, hend⟩ := M.run_bind_eq_ok.mp h
    have hnone : ∀ r ∈ l, r = none := by
      intro r hr
      by_contra hne
      cases hfind : l.find? Option.isSome with
      | none => exact List.find?_eq_none.mp hfind r hr (Option.isSome_iff_ne_none.mpr hne)
      | some y =>
        obtain ⟨x, rfl⟩ := Option.isSome_iff_exists.mp (List.find?_some hfind)
        rw [hfind] at hend
        cases hend
    have hv : v = w1 := by
      rw [List.find?_eq_none.mpr fun r hr => by rw [hnone r hr]; decide] at hend
      cases hend
      rfl
    have hstart : StoredBelow a bs w 0 w := by
      refine ⟨w.s, rfl, ?_⟩
      rw [show (a / 16 + 0) * 16 - a = 0 by omega]
      exact .of_sameStore (SameStore.refl _)
    obtain ⟨t, ht, hstored⟩ :=
      mapM_range'_run_ok (fun i _ _ hi => StoredBelow.next hi hbs) _ 0 (Nat.zero_add _) w w1 l hparts hnone hstart
    rw [List.take_of_length_le (by omega)] at hstored
    exact ⟨t, hv.trans ht, hstored⟩

theorem storeBytes_run_ok (h : (storeBytes a bs).run w = (.ok (), v)) : ∃ t, v = { w with s := t } ∧ Poked a bs w.s t := by
  obtain ⟨w0, w1, hget, h1⟩ := M.run_bind_eq_ok.mp h
  obtain ⟨_, w2, hmark, h2⟩ := M.run_bind_eq_ok.mp h1
  cases hget
  cases hmark
  obtain ⟨t, rfl, hpoked⟩ := storeFrom_run_ok h2
  refine ⟨t, rfl, SameStore.poked (SameStore.trans ?_ (markRange_sameStore _ _ _)) hpoked⟩
  split
  · exact ⟨sameMap_of_eq rfl rfl rfl rfl rfl rfl, rfl, rfl⟩
  · exact SameStore.refl _

/-- A write that ends OK, with no bytes in a plaza store, has stored its bytes. -/
theorem writeSerial_run_ok (hheld : w.held = []) (hblind : w.blind = false) (h : (writeSerial a bs).run w = (.ok (), v)) :
    ∃ t, v = { w with s := t } ∧ Poked a bs w.s t := by
  have hholds : w.holds a bs.length = false := by simp [Work.holds, hheld]
  unfold writeSerial at h
  obtain ⟨w0, w1, hget, h1⟩ := M.run_bind_eq_ok.mp h
  cases hget
  rw [hholds, hblind] at h1
  simp only [Bool.false_eq_true, if_false] at h1
  split at h1
  · cases h1
  · obtain ⟨_, w2, hstore, h2⟩ := M.run_bind_eq_ok.mp h1
    obtain ⟨t, rfl, hpoked⟩ := storeBytes_run_ok hstore
    split at h2 <;> cases h2
    · exact ⟨_, rfl, hpoked.sends (queueWr_sends none a bs t)⟩
    · exact ⟨t, rfl, hpoked⟩

theorem writeBytes_run_ok (hheld : w.held = []) (hblind : w.blind = false) (h : (writeBytes a bs).run w = (.ok (), v)) :
    ∃ t, v = { w with s := t, writes := ⟨a, bs.length, w.turn, false⟩ :: w.writes } ∧ Poked a bs w.s t := by
  have hholds : w.holds a bs.length = false := by simp [Work.holds, hheld]
  obtain ⟨_, w1, hnote, h1⟩ := M.run_bind_eq_ok.mp h
  have hw : w1 = { w with writes := ⟨a, bs.length, w.turn, false⟩ :: w.writes } := by
    change (Except.ok (), if w.holds a bs.length = true then w else _) = _ at hnote
    rw [hholds] at hnote
    cases hnote
    rfl
  subst hw
  exact writeSerial_run_ok (by exact hheld) (by exact hblind) h1
end


/-! ### Work and the protected ranges -/

/-- Work that leaves a part of the state as it is, whether it ends OK or fails. -/
structure MFixes {α β : Type} (g : State → β) (m : M α) : Prop where
  run : ∀ w : Work, g (m.run w).2.s = g w.s

section
variable {α β γ : Type} {g : State → γ}

theorem MFixes.pure (a : α) : MFixes g (pure a : M α) := ⟨fun _ => rfl⟩
theorem MFixes.throw (e : Fail) : MFixes g (throw e : M α) := ⟨fun _ => rfl⟩
theorem MFixes.get : MFixes g (get : M Work) := ⟨fun _ => rfl⟩
theorem MFixes.getS : MFixes g getS := ⟨fun _ => rfl⟩
theorem MFixes.modS {f : State → State} (h : ∀ s, g (f s) = g s) : MFixes g (modS f) := ⟨fun w => h w.s⟩
/-- A change of the work's own record alone. -/
theorem MFixes.modify {f : Work → Work} (h : ∀ w, (f w).s = w.s) : MFixes g (modify f : M Unit) := ⟨fun w => congrArg g (h w)⟩

theorem MFixes.bind {m : M α} {f : α → M β} (h : MFixes g m) (k : ∀ a, MFixes g (f a)) : MFixes g (m >>= f) := by
  refine ⟨fun w => ?_⟩
  have hm := h.run w
  rw [M.run_bind]
  generalize m.run w = r at hm
  obtain ⟨_ | a, v⟩ := r
  · exact hm
  · exact ((k a).run v).trans hm

theorem MFixes.ite {c : Prop} [Decidable c] {m n : M α} (h : MFixes g m) (k : MFixes g n) : MFixes g (if c then m else n) := by
  split
  · exact h
  · exact k

theorem MFixes.mapM {f : α → M β} (h : ∀ a, MFixes g (f a)) (l : List α) : MFixes g (l.mapM f) := by
  rw [← List.mapM'_eq_mapM]
  induction l with
  | nil => exact MFixes.pure _
  | cons a l ih => exact (h a).bind fun _ => ih.bind fun _ => MFixes.pure _

/-- Folding a change that leaves a part of the state leaves it. -/
theorem foldl_fixes {f : State → α → State} (h : ∀ s x, g (f s x) = g s) (l : List α) (s : State) : g (l.foldl f s) = g s := by
  induction l generalizing s with
  | nil => rfl
  | cons x l ih => rw [List.foldl_cons, ih, h]
end

theorem Sends.prot {s t : State} (h : Sends s t) : t.prot = s.prot := by rw [h.eq]

theorem countUncorrectable_prot (n a source : Nat) (s : State) : (countUncorrectable n a source s).prot = s.prot :=
  (raiseAlert_sends 4 _).prot

theorem markStack_prot (n : Nat) (s : State) : (markStack n s).prot = s.prot := by
  unfold markStack
  split <;> rfl

theorem markRange_prot (a len : Nat) (s : State) : (markRange a len s).prot = s.prot := by
  refine foldl_fixes (fun s l => ?_) _ s
  unfold markLine
  split
  · exact markStack_prot _ s
  · rfl

theorem writeCodeword_fixes_prot (source base : Nat) (bs : List Byte) (lo hi : Nat) :
    MFixes State.prot (writeCodeword source base bs lo hi) := by
  have answer {f : State → State} {b : Bool} (h : ∀ s, (f s).prot = s.prot) : MFixes State.prot (do modS f; return b) :=
    (MFixes.modS h).bind fun _ => MFixes.pure b
  unfold writeCodeword
  refine MFixes.getS.bind fun s => ?_
  split
  · refine MFixes.bind ((MFixes.throw _).ite (MFixes.pure _)) fun _ => ?_
    dsimp only
    split
    · exact answer fun _ => rfl
    · split
      · exact answer fun s => countUncorrectable_prot _ _ _ s
      · exact answer fun _ => rfl
      · exact answer fun _ => rfl
  · exact answer fun _ => rfl
  · exact MFixes.throw _
  · exact MFixes.throw _

theorem storeBytes_fixes_prot (a : Nat) (bs : List Byte) : MFixes State.prot (storeBytes a bs) := by
  have hstore : MFixes State.prot (storeFrom 5 a bs) := by
    refine (MFixes.pure _).ite (MFixes.bind (MFixes.mapM (fun i => ?_) _) fun bad => ?_)
    · exact (writeCodeword_fixes_prot _ _ _ _ _).bind fun _ => MFixes.pure _
    · split
      · exact MFixes.throw _
      · exact MFixes.pure _
  refine MFixes.get.bind fun w => MFixes.bind (MFixes.modS fun s => ?_) fun _ => hstore
  refine (markRange_prot _ _ _).trans ?_
  split <;> rfl

theorem writeSerial_fixes_prot (a : Nat) (bs : List Byte) : MFixes State.prot (writeSerial a bs) := by
  refine MFixes.get.bind fun w => MFixes.ite (MFixes.modify ?_) (MFixes.ite (MFixes.modS ?_) ?_)
  · exact fun _ => rfl
  · exact fun _ => rfl
  split
  · refine MFixes.bind (MFixes.modS ?_) fun _ => MFixes.throw _
    exact fun _ => rfl
  · exact (storeBytes_fixes_prot a bs).bind fun _ => (MFixes.modS fun s => (queueWr_sends _ _ _ s).prot).ite (MFixes.pure _)

theorem writeBytes_fixes_prot (a : Nat) (bs : List Byte) : MFixes State.prot (writeBytes a bs) :=
  MFixes.bind (MFixes.modify fun w => by split <;> rfl) fun _ => writeSerial_fixes_prot a bs

/-! ### Settling work and the protected ranges (R321, R547) -/

theorem scrambleAll_prot (l : List (Nat × Nat)) (s : State) : (scrambleAll l s).prot = s.prot :=
  foldl_fixes (g := State.prot) (f := fun s (r : Nat × Nat) => scramble r.1 r.2 s) (fun _ _ => rfl) l s

theorem scrambleGate_prot (slots : List Nat) (s : State) : (scrambleGate slots s).prot = s.prot :=
  foldl_fixes (fun s n => by split <;> rfl) slots s

theorem runWork_prot {α : Type} {m : M α} (h : MFixes State.prot m) (s : State) : (runWork m s).2.s.prot = s.prot := by
  have hrun := h.run (Work.start s.q.nextOrder [] s)
  refine (sendQueued_sends s _).prot.trans ?_
  unfold settleLate
  split
  · exact (foldl_fixes (g := State.prot) (f := fun s (a : MemAccess) => scramble a.lo a.len s) (fun _ _ => rfl) _ _).trans hrun
  · exact hrun

theorem dropPair_prot (e : InFlight) (s : State) : (dropPair e s).prot = s.prot := by
  have hlate (a : Nat) (bs : List Byte) : (writeLate a bs s).prot = s.prot := by
    unfold writeLate
    split
    · rfl
    · exact runWork_prot (writeSerial_fixes_prot a bs) s
  have hclear (a : Nat) : (clearTag a s).prot = s.prot := by
    unfold clearTag
    split
    · exact hlate _ _
    · rfl
  unfold dropPair
  split
  · split
    · exact hclear _
    · rfl
  · rfl

theorem raceEntry_prot (e : InFlight) (decides : Bool) (s : State) : (raceEntry e decides s).2.prot = s.prot := by
  have hterrace (l : List UnitId) (s : State) : (l.foldl (fun s u => match u with
      | .plaza p => scrambleTerrace p s
      | _ => s) s).prot = s.prot := foldl_fixes (fun s u => by cases u <;> rfl) l s
  unfold raceEntry
  split
  · have hspoiled (u : State) (hu : u.prot = s.prot) : (if (raceInfo e decides s.freeCtr).status = e.status then u
        else dropPair e u).prot = s.prot := by
      split
      · exact hu
      · exact (dropPair_prot e u).trans hu
    refine hspoiled _ ?_
    split
    · exact hterrace _ _
    · exact scrambleGate_prot _ _
  · rfl

theorem raceAll_prot (beside : InFlight → Bool) (writes : List MemAccess) (l : List InFlight) (s : State) :
    (raceAll beside writes l s).2.prot = s.prot := by
  induction l generalizing s with
  | nil => rfl
  | cons e l ih =>
    refine (ih _).trans ?_
    split
    · exact raceEntry_prot _ _ s
    · rfl

theorem spoilRuns_prot (own : Option Nat) (l : List (Nat × Nat)) (s : State) : (spoilRuns own l s).prot = s.prot := by
  unfold spoilRuns
  split
  · rfl
  · refine foldl_fixes (g := State.prot) (fun s r => ?_) _ s
    exact scrambleGate_prot r.slots _

theorem settleReads_prot (w : Work) (s : State) : (settleReads w s).prot = s.prot := by
  have hnote (l : List Nat) : (noteRequests l s).prot = s.prot := by
    unfold noteRequests
    dsimp only
    split <;> rfl
  have huse (l : Nat) (s : State) : (useLine l s).prot = s.prot := by
    have hmark : (markKey l s).prot = s.prot := by
      unfold markKey
      split
      · exact markStack_prot _ s
      · rfl
    unfold useLine
    split
    · split
      · rfl
      · exact hmark
    · exact hmark
  unfold settleReads demandReads
  dsimp only
  split
  · exact (foldl_fixes (fun s _ => markRange_prot _ _ s) _ _).trans (hnote _)
  · exact (foldl_fixes (fun s _ => huse _ s) _ _).trans (hnote _)

theorem settleWork_prot (w : Work) : (settleWork w).prot = w.s.prot := by
  unfold settleWork settleAmong
  refine (settleReads_prot _ _).trans ?_
  refine (raceAll_prot _ _ _ _).trans ((spoilRuns_prot _ _ _).trans ?_)
  exact foldl_fixes (g := State.prot) (fun s e => scrambleAll_prot _ s) _ _


/-! ### Settling a write that touches nothing of the descriptors beside it (R547) -/

section
variable {a n : Nat} {s : State} {w : Work}

theorem rangesMeet_comm (x y : Nat × Nat) : rangesMeet x y = rangesMeet y x := Bool.and_comm _ _

/-- Accesses that reach no byte of a range do not race with one of it. -/
theorem racyReads_of_untouched {l : List MemAccess} (h : ∀ r ∈ l, rangesMeet r.range (a, n) = false) (turn : Nat) (data : Bool) :
    racyReads l [⟨a, n, turn, data⟩] = false := by
  refine Bool.eq_false_iff.mpr fun hany => ?_
  obtain ⟨r, hr, hraces⟩ := List.any_eq_true.mp hany
  have hmeet : rangesMeet ⟨r.lo, r.len⟩ (a, n) = false := h r hr
  simp [MemAccess.races, MemAccess.range, hmeet] at hraces

theorem racyParts_of_untouched {l : List MemAccess} (h : ∀ r ∈ l, rangesMeet r.range (a, n) = false) (turn : Nat) (data : Bool) :
    racyParts [⟨a, n, turn, data⟩] l = [] := by
  have hnone : l.filter (MemAccess.races ⟨a, n, turn, data⟩) = [] := by
    refine List.filter_eq_nil_iff.mpr fun r hr hraces => ?_
    have hmeet : rangesMeet (a, n) ⟨r.lo, r.len⟩ = false := (rangesMeet_comm _ _).trans (h r hr)
    simp [MemAccess.races, MemAccess.range, hmeet] at hraces
  simp [racyParts, hnone]

theorem overlap_of_untouched {e : InFlight} (h : ∀ r ∈ e.reads ++ e.writes, rangesMeet r.range (a, n) = false) (turn : Nat)
    (data : Bool) (s : State) : overlap e [] [⟨a, n, turn, data⟩] s = s := by
  have hreads := racyReads_of_untouched (fun r hr => h r (List.mem_append_left _ hr)) turn data
  have hparts := racyParts_of_untouched (fun r hr => h r (List.mem_append_right _ hr)) turn data
  simp [overlap, racyReads_nil_left, hreads, hparts, scrambleAll]

theorem raceAll_of_no_race {beside : InFlight → Bool} {writes : List MemAccess} {l : List InFlight}
    (h : ∀ e ∈ l, racyReads e.reads writes = false) (s : State) : raceAll beside writes l s = (l, s) := by
  induction l with
  | nil => rfl
  | cons e l ih =>
    have hfirst := h e List.mem_cons_self
    have hrest := ih fun x hx => h x (List.mem_cons_of_mem e hx)
    simp [raceAll, hfirst, hrest]

/-- Spoiling the outputs of running SAMPLEs changes nothing of what the entries in flight have read. -/
theorem spoilRuns_reads (own : Option Nat) (l : List (Nat × Nat)) (s : State) :
    (spoilRuns own l s).q.inflight.map InFlight.reads = s.q.inflight.map InFlight.reads := by
  have hmap (f : InFlight → InFlight) (hf : ∀ e, (f e).reads = e.reads) (l : List InFlight) :
      (l.map f).map InFlight.reads = l.map InFlight.reads := by
    rw [List.map_map]
    exact List.map_congr_left fun e _ => hf e
  unfold spoilRuns
  split
  · rfl
  · refine (hmap _ (fun e => by split <;> rfl) _).trans ?_
    refine foldl_fixes (g := fun s => s.q.inflight.map InFlight.reads) (fun s r => ?_) _ s
    refine (hmap _ (fun e => by split <;> rfl) _).trans ?_
    rw [scrambleGate_q, scramble_q]

theorem settleReads_of_no_reads (hr : w.reads = []) (hs : w.serial = []) (s : State) : settleReads w s = s := by
  unfold settleReads
  simp only [hr, hs, List.append_nil, List.flatMap_nil, noteRequests_nil, List.foldl_nil, cacheReads, List.reverse_nil,
    List.filter_nil, ite_self, demandReads_nil]

/-- Work that has written one range, which nothing in flight has touched, and read nothing is settled by spoiling the outputs of running
SAMPLEs whose gate tables it wrote (R321). -/
theorem settleWork_of_untouched {turn : Nat} {data : Bool} (hr : w.reads = []) (hs : w.serial = [])
    (hw : w.writes = [⟨a, n, turn, data⟩]) (h : untouched w.s a n) :
    SameStore (spoilRuns (some w.order) [(a, n)] w.s) (settleWork w) := by
  have hover (l : List InFlight) (hl : ∀ e ∈ l, e ∈ w.s.q.inflight) :
      l.foldl (fun s e => overlap e [] [⟨a, n, turn, data⟩] s) w.s = w.s := by
    induction l with
    | nil => rfl
    | cons e l ih =>
      rw [List.foldl_cons, overlap_of_untouched (h e (hl e List.mem_cons_self))]
      exact ih fun x hx => hl x (List.mem_cons_of_mem e hx)
  have hrace : ∀ e ∈ (spoilRuns (some w.order) [(a, n)] w.s).q.inflight, racyReads e.reads [⟨a, n, turn, data⟩] = false := by
    intro e he
    have hmem : e.reads ∈ w.s.q.inflight.map InFlight.reads := spoilRuns_reads _ _ _ ▸ List.mem_map_of_mem he
    obtain ⟨x, hx, hreads⟩ := List.mem_map.mp hmem
    exact hreads ▸ racyReads_of_untouched (fun r hr => h x hx r (List.mem_append_left _ hr)) turn data
  unfold settleWork settleAmong
  rw [settleReads_of_no_reads hr hs, hr, hw, hover _ fun e he => (List.mem_filter.mp he).1,
    show [(⟨a, n, turn, data⟩ : MemAccess)].map MemAccess.range = [(a, n)] from rfl, raceAll_of_no_race hrace]
  exact ⟨sameMap_of_eq rfl rfl rfl rfl rfl rfl, rfl, rfl⟩
end

/-! ### What a start leaves of memory -/

section
variable {qp : Fin 64} {d : Desc} {body : M Unit} {s : State}

theorem workStart_sameStore : SameStore s (workStart qp d s).s := by
  obtain ⟨x, hx⟩ := headBaseAt_sec (headIdx s qp) d (advanceHead qp 1 s)
  have hhead : SameStore s (headBase qp d s) := by
    rw [headBase, hx]
    exact ⟨sameMap_of_eq rfl rfl rfl rfl rfl rfl, rfl, rfl⟩
  refine hhead.trans ?_
  change SameStore (headBase qp d s) (openStep d (headBase qp d s))
  unfold openStep
  split
  · exact ⟨sameMap_of_eq rfl rfl rfl rfl rfl rfl, rfl, rfl⟩
  · exact SameStore.refl _

theorem workStart_inflight : (workStart qp d s).s.q.inflight = s.q.inflight := by
  obtain ⟨x, hx⟩ := headBaseAt_sec (headIdx s qp) d (advanceHead qp 1 s)
  change (openStep d (headBase qp d s)).q.inflight = s.q.inflight
  rw [openStep_q, headBase, hx]
  exact advanceHead_inflight qp 1 s

/-- After its work is settled a start that races with nothing changes neither memory nor a protected range. -/
theorem startOne_sameStore (hn : nextOf d = none) (hok : runsOk qp d body s = true) :
    SameStore (settleWork (classWork qp d body s).2) (startOne qp d body s)
      ∧ (startOne qp d body s).prot = (settleWork (classWork qp d body s).2).prot := by
  obtain ⟨hpass, halone, hends⟩ := runsOk_iff.mp hok
  obtain ⟨l, hentry⟩ := settleEntry_of_readsAlone (old := headBase qp d s)
    (e := heldEntry qp (headIdx s qp) d (openStep d (headBase qp d s))) hn rfl halone
  have hpush (e : InFlight) (n : Nat) (u : State) :
      SameStore u (pushInFlight e (ownWrites (headBase qp d s) qp (headIdx s qp) { u with freeCtr := n }))
        ∧ (pushInFlight e (ownWrites (headBase qp d s) qp (headIdx s qp) { u with freeCtr := n })).prot = u.prot :=
    ⟨⟨sameMap_of_eq rfl rfl rfl rfl rfl rfl, rfl, rfl⟩, rfl⟩
  rw [startOne_settles (passesHead_iff.mp hpass).2.2 (by rw [hends]; rfl), hentry]
  exact hpush _ _ _

/-- Work begun in s has stored bytes at an address and read nothing, and neither a protected range nor what is in flight has changed. -/
structure WroteOnly (a : Nat) (bs : List Byte) (s : State) (w : Work) : Prop where
  reads : w.reads = []
  serial : w.serial = []
  writes : w.writes = [⟨a, bs.length, 0, false⟩]
  poked : Poked a bs s w.s
  prot : w.s.prot = s.prot
  inflight : w.s.q.inflight = s.q.inflight

/-- A start of such work leaves its bytes, where nothing in flight has touched them, beside the outputs of running SAMPLEs (R321, R547). -/
theorem WroteOnly.peek_startOne {a x : Nat} {bs : List Byte} (h : WroteOnly a bs s (classWork qp d body s).2) (hn : nextOf d = none)
    (hok : runsOk qp d body s = true) (hlegal : SharesLegal s) (huntouched : untouched s a bs.length) (hx : outsideRuns s x) :
    peek (startOne qp d body s) x = peek (poke s a bs) x := by
  have hbeside : untouched (classWork qp d body s).2.s a bs.length := by
    rw [untouched, h.inflight]
    exact huntouched
  have hsettled := (settleWork_of_untouched h.reads h.serial h.writes hbeside).trans (startOne_sameStore hn hok).1
  have hout : outsideRuns (classWork qp d body s).2.s x := by
    rw [outsideRuns, h.poked.runs]
    exact hx
  calc peek (startOne qp d body s) x = peek (spoilRuns _ _ (classWork qp d body s).2.s) x := hsettled.toSameMap.peek hsettled.mem x
    _ = peek (classWork qp d body s).2.s x := peek_spoilRuns (h.poked.placesApart (placesApart_of_legal hlegal)) hout
    _ = peek (poke s a bs) x := h.poked.peek x
end

/-! ### ZERO (R475) -/

section
variable {qp : Fin 64} {d : Desc} {s : State}

theorem peek_poke_zeros {a n x : Nat} {s : State} (hapart : PlacesApart s) (hm : MemoryCanonical s) (h1 : a ≤ x) (h2 : x < a + n) :
    peek (poke s a (List.replicate n 0)) x = 0 := by
  obtain ⟨i, rfl⟩ := Nat.exists_eq_add_of_le h1
  cases hl : locOf s (a + i) with
  | none =>
    unfold peek
    rw [locOf_poke, hl]
  | some l =>
    rw [peek_poke_same hapart hm (by rw [List.length_replicate]; omega) hl]
    exact List.getElem_replicate _

/-- A ZERO that ends OK lies in the stack region and has stored its zeros. -/
theorem zeroBody_run_ok {w v : Work} (hheld : w.held = []) (hblind : w.blind = false) (h : (zeroBody d).run w = (.ok (), v)) :
    let f := shardFields d
    inStackRegion f.a f.len = true
      ∧ ∃ t, v = { w with s := t, info := shardInfo f.len 0 0, writes := ⟨f.a, f.len, w.turn, false⟩ :: w.writes }
      ∧ Poked f.a (List.replicate f.len 0) w.s t ∧ t.prot = w.s.prot ∧ t.q = w.s.q := by
  obtain ⟨_, w1, hinfo, h1⟩ := M.run_bind_eq_ok.mp h
  obtain ⟨_, w2, hfields, h2⟩ := M.run_bind_eq_ok.mp h1
  obtain ⟨_, w3, hmapped, h3⟩ := M.run_bind_eq_ok.mp h2
  obtain ⟨_, w4, hregion, h4⟩ := M.run_bind_eq_ok.mp h3
  obtain ⟨_, w5, hturn, h5⟩ := M.run_bind_eq_ok.mp h4
  obtain ⟨_, w6, hbacked, h6⟩ := M.run_bind_eq_ok.mp h5
  obtain ⟨_, w7, hwritable, hwrite⟩ := M.run_bind_eq_ok.mp h6
  cases hinfo
  cases (needDesc_run_eq_ok.mp hfields).2
  cases needMapped_run_ok hmapped
  obtain ⟨hin, hw4⟩ := needDesc_run_eq_ok.mp hregion
  cases hw4
  cases (needShardTurn_run_eq_ok.mp hturn).2
  cases needBacked_run_ok hbacked
  cases needWritable_run_ok hwritable
  obtain ⟨t, hv, hpoked⟩ := writeBytes_run_ok (by exact hheld) (by exact hblind) hwrite
  have hprot := (writeBytes_fixes_prot (shardFields d).a (List.replicate (shardFields d).len 0)).run
    { w with info := shardInfo (shardFields d).len 0 0 }
  have hq := ((writeBytes_keepsQueue (shardFields d).a (List.replicate (shardFields d).len 0)).run
    { w with info := shardInfo (shardFields d).len 0 0 }).q
  rw [hwrite] at hprot hq
  subst hv
  rw [List.length_replicate]
  exact ⟨hin, t, rfl, hpoked, hprot, hq⟩

/-- What the work of a ZERO that runs has done. -/
theorem zero_wroteOnly (hok : runsOk qp d (zeroBody d) s = true) :
    let f := shardFields d
    let w := (classWork qp d (zeroBody d) s).2
    inStackRegion f.a f.len = true ∧ w.info = shardInfo f.len 0 0 ∧ WroteOnly f.a (List.replicate f.len 0) s w := by
  obtain ⟨v, hrun, hwork⟩ := classWork_eq_ok (runsOk_iff.mp hok).2.2
  obtain ⟨hin, t, rfl, hpoked, hprot, hq⟩ := zeroBody_run_ok rfl rfl hrun
  have hsent := sendQueued_sends (openStep d (headBase qp d s)) t
  dsimp only
  rw [hwork]
  refine ⟨hin, rfl, rfl, rfl, ?_, (workStart_sameStore.poked hpoked).sends hsent, ?_, ?_⟩
  · rw [List.length_replicate]
    rfl
  · exact hsent.prot.trans (hprot.trans workStart_prot)
  · exact (congrArg Queues.inflight (hsent.q.trans hq)).trans workStart_inflight

theorem needMapped_run_of_some {a len x : Nat} {w : Work} (h : firstUnmapped w.s a len = some x) :
    (needMapped a len).run w = (.error ⟨.badDescriptor, some x, false⟩, w) := by
  unfold needMapped
  rw [M.run_bind, M.run_getS]
  dsimp only
  rw [h]
  rfl

theorem needMapped_run_of_none {a len : Nat} {w : Work} (h : firstUnmapped w.s a len = none) :
    (needMapped a len).run w = (.ok (), w) := by
  unfold needMapped
  rw [M.run_bind, M.run_getS]
  dsimp only
  rw [h]
  rfl

/-- One whose region does not lie in the stack region ends with BAD_DESCRIPTOR, if not for its other fields then for that, and has written
nothing. -/
theorem zeroBody_run_of_outside (h : inStackRegion (shardFields d).a (shardFields d).len = false) (w : Work) :
    ∃ f : Fail, f.status = .badDescriptor ∧ f.waits = false
      ∧ (zeroBody d).run w = (.error f, { w with info := shardInfo (shardFields d).len 0 0 }) := by
  unfold zeroBody
  rw [M.run_bind, show (setInfo (shardInfo (shardFields d).len 0 0)).run w
    = (.ok (), { w with info := shardInfo (shardFields d).len 0 0 }) from rfl]
  dsimp only
  generalize { w with info := shardInfo (shardFields d).len 0 0 } = u
  by_cases hf : shardFieldsOk d (shardFields d) = true
  · rw [M.run_bind, needDesc_run_eq_ok (x := ()) |>.mpr ⟨hf, rfl⟩]
    dsimp only
    cases hm : firstUnmapped u.s (shardFields d).a (shardFields d).len with
    | some x => exact ⟨_, rfl, rfl, M.run_bind_of_error (needMapped_run_of_some hm)⟩
    | none =>
      rw [M.run_bind, needMapped_run_of_none hm]
      exact ⟨badFields, rfl, rfl, M.run_bind_of_error (needDesc_run_of_false h)⟩
  · exact ⟨badFields, rfl, rfl, M.run_bind_of_error (needDesc_run_of_false (Bool.eq_false_iff.mpr hf))⟩
end

/-- Settles O25: the work of a ZERO that ends OK has stored its zeros, and what comes after spoils no more than outputs of running SAMPLEs;
one outside the stack region fails before it writes. -/
theorem zeroWritesItsRegion : Obligations.ZeroWritesItsRegion := by
  intro qp d s hw f
  have hrow : PlainRow (.zero qp d) qp d (zeroBody d) := shard_plainRow hw (by decide) fun _ => rfl
  refine ⟨fun hok => ?runs, fun hpass hout => ?refused⟩
  case runs =>
    obtain ⟨hpass, halone, hends⟩ := runsOk_iff.mp hok
    obtain ⟨hin, hinfo, hwrote⟩ := zero_wroteOnly hok
    obtain ⟨-, o, l, hnew⟩ := startOne_of_readsAlone (passesHead_iff.mp hpass).2.2 hrow.unpaired (by rw [hends]; rfl) halone
    refine ⟨_, hrow.exec_starts hpass, startedOk_of_runsOk hrow.unpaired hok, ?info, ?ranges, by simpa [inStackRegion] using hin,
      fun hlegal huntouched => ?memory⟩
    case info =>
      rw [hnew, ← hinfo]
      rfl
    case ranges => rw [(startOne_sameStore hrow.unpaired hok).2, settleWork_prot, hwrote.prot]
    case memory =>
      have hapart := placesApart_of_legal hlegal
      have hleaves {x : Nat} := hwrote.peek_startOne (x := x) hrow.unpaired hok hlegal (by rwa [List.length_replicate])
      refine ⟨fun hm hruns x h1 h2 => ?_, fun x hx hout => ?_⟩
      · rw [hleaves (outsideRuns_of_noRunAt hruns h1 h2), peek_poke_zeros hapart hm h1 h2]
      · rw [hleaves hout, peek_poke_apart hapart (by rwa [List.length_replicate])]
  case refused =>
    obtain ⟨e, hst, hwaits, hrun⟩ := zeroBody_run_of_outside hout (workStart qp d s)
    obtain ⟨hmem, -, hentry⟩ := startOne_of_no_memory (passesHead_iff.mp hpass).2.2 (shard_ne_sample hw) hrow.unpaired
      (by exact hwaits) hrun rfl
    refine ⟨_, hrow.exec_starts hpass, hmem.trans workStart_keepsSlots.mem, ?_⟩
    rw [outcomeStatus, hst] at hentry
    exact hentry

end Sys2Proof.Machine
end
